-- ==== Sys2Proof/Word.lean ====
section
/-!
DEFINITION. Words of the machine: 64-bit registers and addresses, bytes, and the register numbers of the five files
of R33. Numbers of the two large register kinds are `Fin` types, so a register outside its file cannot be written down.
-/
namespace Sys2Proof

/-- A general register, an address, a system register (R132). -/
abbrev Word := BitVec 64

/-- One byte of memory (R4). -/
abbrev Byte := BitVec 8

/-- General registers g0 to g31 (R33). -/
abbrev G := Fin 32

/-- Vector registers v0 to v15 (R33). -/
abbrev V := Fin 16

/-- Predicate registers p0 to p7 (R33). -/
abbrev P := Fin 8

/-- Segment registers s0 to s7 (R33). -/
abbrev S := Fin 8

/-- Channel registers c0 to c7 (R33). -/
abbrev C := Fin 8

/-- Lexicon family registers hf0 to hf3 (R280). -/
abbrev HF := Fin 4

/-- Lexicon table registers lt0 to lt7 (R280). -/
abbrev LT := Fin 8

end Sys2Proof
end

