-- ==== Sys2Proof/Syntax.lean ====
section
/-!
DEFINITION. The steps of the CI6400-W as syntax: one constructor of `Instr` for each row of spec/opcode_table.json. First come
the encoded instructions and the pair, in the table's order, with the operands of R31 to R37 and of the engine chapters. Then
come the events of "What each step holds" (95): they have no operand fields, and what one acts on (a core and slot, a
message, a die, a port, a value) stands in `State.ev` when it happens.
-/
namespace Sys2Proof

/-- Width codes of the scalar side (R36, Table 5). -/
inductive Width where
  | w64 | w32 | w16 | w8
deriving DecidableEq, Repr

/-- Type codes of the vector side (R36, Table 5). -/
inductive VType where
  | f32 | f16 | b16 | l6 | i8 | i16 | i32 | i64
deriving DecidableEq, Repr

/-- Compare conditions (R37, Table 7). -/
inductive Cond where
  | eq | ne | lt | ge | ltu | geu | tz | tnz
deriving DecidableEq, Repr

/-- Floating-point compare conditions (R191, Table 6). -/
inductive FCond where
  | eq | ne | lt | ge | le | gt | uo | ord
deriving DecidableEq, Repr

/-- Orderings of memory operations (R37, Table 7). -/
inductive MemOrd where
  | plain | acq | rel | ar
deriving DecidableEq, Repr

/-- Scopes (R37, Table 7; R110). -/
inductive Scope where
  | grp | core | clu | die | dev | sys | dur
deriving DecidableEq, Repr

/-- Access paths (R23; codes of R37, Table 7). -/
inductive Path where
  | t | c | g | m | l | n | p
deriving DecidableEq, Repr

/-- Work levels named by WAITC and CANCEL (R347). -/
inductive Level where
  | launch | graph | phase | job
deriving DecidableEq, Repr

/-- The two Yedan link ports (R21). -/
inductive Port where
  | A | B
deriving DecidableEq, Repr

/-- An immediate: imm24 of an S64 word or pair half, or imm56 of an L96 word (R32). -/
inductive Imm where
  | i24 (v : BitVec 24)
  | i56 (v : BitVec 56)
deriving DecidableEq, Repr

/-- A displacement: 19 bits in imm24, or 51 bits in an L96 word (R32, R37). -/
inductive Disp where
  | d19 (v : BitVec 19)
  | d51 (v : BitVec 51)
deriving DecidableEq, Repr

/-- The memory layout of imm24 (R37, Table 6) and of the L96 immediate (R32, Table 3). -/
structure Mem where
  ord : MemOrd
  scope : Scope
  disp : Disp
deriving DecidableEq, Repr

/-- The steps of the machine, one constructor per row of spec/opcode_table.json. -/
inductive Instr where
  /-- ADD (R154). -/
  | add (w : Width) (d a b : G)
  /-- ADD_IMM (R153). -/
  | addImm (w : Width) (d a : G) (imm : Imm)
  /-- SUB (R154). -/
  | sub (w : Width) (d a b : G)
  /-- SUB_IMM (R153). -/
  | subImm (w : Width) (d a : G) (imm : Imm)
  /-- MUL (R154). -/
  | mul (w : Width) (d a b : G)
  /-- MUL_IMM (R153). -/
  | mulImm (w : Width) (d a : G) (imm : Imm)
  /-- MULH (R154). -/
  | mulh (w : Width) (d a b : G)
  /-- MULH_IMM (R153). -/
  | mulhImm (w : Width) (d a : G) (imm : Imm)
  /-- MULHU (R154). -/
  | mulhu (w : Width) (d a b : G)
  /-- MULHU_IMM (R153). -/
  | mulhuImm (w : Width) (d a : G) (imm : Imm)
  /-- DIV (R155). -/
  | div (w : Width) (d a b : G)
  /-- DIV_IMM (R153). -/
  | divImm (w : Width) (d a : G) (imm : Imm)
  /-- DIVU (R155). -/
  | divu (w : Width) (d a b : G)
  /-- DIVU_IMM (R153). -/
  | divuImm (w : Width) (d a : G) (imm : Imm)
  /-- REM (R155). -/
  | rem (w : Width) (d a b : G)
  /-- REM_IMM (R153). -/
  | remImm (w : Width) (d a : G) (imm : Imm)
  /-- REMU (R155). -/
  | remu (w : Width) (d a b : G)
  /-- REMU_IMM (R153). -/
  | remuImm (w : Width) (d a : G) (imm : Imm)
  /-- AND (R154). -/
  | and (w : Width) (d a b : G)
  /-- AND_IMM (R153). -/
  | andImm (w : Width) (d a : G) (imm : Imm)
  /-- OR (R154). -/
  | or (w : Width) (d a b : G)
  /-- OR_IMM (R153). -/
  | orImm (w : Width) (d a : G) (imm : Imm)
  /-- XOR (R154). -/
  | xor (w : Width) (d a b : G)
  /-- XOR_IMM (R153). -/
  | xorImm (w : Width) (d a : G) (imm : Imm)
  /-- ANDN (R154). -/
  | andn (w : Width) (d a b : G)
  /-- ANDN_IMM (R153). -/
  | andnImm (w : Width) (d a : G) (imm : Imm)
  /-- ORN (R154). -/
  | orn (w : Width) (d a b : G)
  /-- ORN_IMM (R153). -/
  | ornImm (w : Width) (d a : G) (imm : Imm)
  /-- SHL (R154). -/
  | shl (w : Width) (d a b : G)
  /-- SHL_IMM (R153). -/
  | shlImm (w : Width) (d a : G) (imm : Imm)
  /-- SHR (R154). -/
  | shr (w : Width) (d a b : G)
  /-- SHR_IMM (R153). -/
  | shrImm (w : Width) (d a : G) (imm : Imm)
  /-- SAR (R154). -/
  | sar (w : Width) (d a b : G)
  /-- SAR_IMM (R153). -/
  | sarImm (w : Width) (d a : G) (imm : Imm)
  /-- ROL (R154). -/
  | rol (w : Width) (d a b : G)
  /-- ROL_IMM (R153). -/
  | rolImm (w : Width) (d a : G) (imm : Imm)
  /-- ROR (R154). -/
  | ror (w : Width) (d a b : G)
  /-- ROR_IMM (R153). -/
  | rorImm (w : Width) (d a : G) (imm : Imm)
  /-- CLZ (R154). -/
  | clz (w : Width) (d a : G)
  /-- CTZ (R154). -/
  | ctz (w : Width) (d a : G)
  /-- POPC (R154). -/
  | popc (w : Width) (d a : G)
  /-- MIN (R154). -/
  | min (w : Width) (d a b : G)
  /-- MIN_IMM (R153). -/
  | minImm (w : Width) (d a : G) (imm : Imm)
  /-- MINU (R154). -/
  | minu (w : Width) (d a b : G)
  /-- MINU_IMM (R153). -/
  | minuImm (w : Width) (d a : G) (imm : Imm)
  /-- MAX (R154). -/
  | max (w : Width) (d a b : G)
  /-- MAX_IMM (R153). -/
  | maxImm (w : Width) (d a : G) (imm : Imm)
  /-- MAXU (R154). -/
  | maxu (w : Width) (d a b : G)
  /-- MAXU_IMM (R153). -/
  | maxuImm (w : Width) (d a : G) (imm : Imm)
  /-- BFX (R156). -/
  | bfx (w : Width) (d a b c : G)
  /-- BFI (R156). -/
  | bfi (w : Width) (d a b c : G)
  /-- SEL (R154). -/
  | sel (w : Width) (d a b c : G)
  /-- SEL_IMM (R153). -/
  | selImm (w : Width) (d a c : G) (imm : Imm)
  /-- LI (R154). -/
  | li (d : G) (imm : Imm)
  /-- MOV (R154). -/
  | mov (w : Width) (d a : G)
  /-- CMP (R157). -/
  | cmp (cond : Cond) (skip : Fin 4) (a b : G)
  /-- CMPI (R157). -/
  | cmpi (cond : Cond) (skip : Fin 4) (a : G) (imm : Imm)
  /-- B (R158). -/
  | b (off : Imm)
  /-- BL (R158). -/
  | bl (d : G) (off : Imm)
  /-- BI (R159). -/
  | bi (a : G)
  /-- BLI (R159). -/
  | bli (d a : G)
  /-- NOP (R160). -/
  | nop
  /-- EXIT (R161). -/
  | exit
  /-- LD (R162). -/
  | ld (w : Width) (sg : S) (d a : G) (m : Mem)
  /-- ST (R162). -/
  | st (w : Width) (sg : S) (d a : G) (m : Mem)
  /-- LDX (R162). -/
  | ldx (w : Width) (sg : S) (d a b : G) (m : Mem)
  /-- STX (R162). -/
  | stx (w : Width) (sg : S) (d a b : G) (m : Mem)
  /-- AADD (R165). -/
  | aadd (w : Width) (sg : S) (d a b : G) (m : Mem)
  /-- AAND (R165). -/
  | aand (w : Width) (sg : S) (d a b : G) (m : Mem)
  /-- AOR (R165). -/
  | aor (w : Width) (sg : S) (d a b : G) (m : Mem)
  /-- AXOR (R165). -/
  | axor (w : Width) (sg : S) (d a b : G) (m : Mem)
  /-- AMIN (R165). -/
  | amin (w : Width) (sg : S) (d a b : G) (m : Mem)
  /-- AMAX (R165). -/
  | amax (w : Width) (sg : S) (d a b : G) (m : Mem)
  /-- ASWP (R165). -/
  | aswp (w : Width) (sg : S) (d a b : G) (m : Mem)
  /-- ACAS (R166). -/
  | acas (w : Width) (sg : S) (d a b c : G) (m : Mem)
  /-- FENCE (R118). -/
  | fence (sc : Scope)
  /-- FENCEX (R119). -/
  | fencex (sc : Scope) (p1 p2 : Path)
  /-- SEGLD_NARROW (R169). -/
  | segldNarrow (d : S) (a b : G) (c : S)
  /-- SEGLD_ABS (R169). -/
  | segldAbs (d : S) (a b : G)
  /-- SEGRD (R170). -/
  | segrd (d : G) (a : S) (half : Bool)
  /-- SYSRD (R171). -/
  | sysrd (d : G) (num : BitVec 12)
  /-- SYSWR (R171). -/
  | syswr (num : BitVec 12) (a : G)
  /-- TRAP (R172). -/
  | trap (code : BitVec 8)
  /-- RTE (R173). -/
  | rte
  /-- YIELD (R174). -/
  | yield
  /-- SLEEP (R175). -/
  | sleep (a : G)
  /-- WAKE (R176). -/
  | wake (d a : G)
  /-- IFLUSH (R180). -/
  | iflush
  /-- CTXSV (R177). -/
  | ctxsv (d a : G)
  /-- CTXLD (R177). -/
  | ctxld (d a : G)
  /-- IDRD (R178). -/
  | idrd (d : G) (sel : BitVec 8)
  /-- CLKRD (R179). -/
  | clkrd (d : G)
  /-- PAIR (R43). -/
  | pair (x y : Instr)
  /-- VFADD (R187). -/
  | vfadd (ty : VType) (rm : Fin 8) (p : P) (d a b : V)
  /-- VFSUB (R187). -/
  | vfsub (ty : VType) (rm : Fin 8) (p : P) (d a b : V)
  /-- VFMUL (R187). -/
  | vfmul (ty : VType) (rm : Fin 8) (p : P) (d a b : V)
  /-- VFMA (R187). -/
  | vfma (ty : VType) (rm : Fin 8) (p : P) (d a b c : V)
  /-- VFMS (R187). -/
  | vfms (ty : VType) (rm : Fin 8) (p : P) (d a b c : V)
  /-- VFNMA (R187). -/
  | vfnma (ty : VType) (rm : Fin 8) (p : P) (d a b c : V)
  /-- VFDIV (R187). -/
  | vfdiv (ty : VType) (rm : Fin 8) (p : P) (d a b : V)
  /-- VFSQRT (R187). -/
  | vfsqrt (ty : VType) (rm : Fin 8) (p : P) (d a : V)
  /-- VFMIN (R188). -/
  | vfmin (ty : VType) (p : P) (d a b : V)
  /-- VFMAX (R188). -/
  | vfmax (ty : VType) (p : P) (d a b : V)
  /-- VFABS (R188). -/
  | vfabs (ty : VType) (p : P) (d a : V)
  /-- VFNEG (R188). -/
  | vfneg (ty : VType) (p : P) (d a : V)
  /-- VFCMP (R191). -/
  | vfcmp (ty : VType) (cond : FCond) (p d : P) (a b : V)
  /-- VFEXP2 (R189). -/
  | vfexp2 (ty : VType) (p : P) (d a : V)
  /-- VFLOG2 (R189). -/
  | vflog2 (ty : VType) (p : P) (d a : V)
  /-- VFSIN (R190). -/
  | vfsin (ty : VType) (p : P) (d a : V)
  /-- VFCOS (R190). -/
  | vfcos (ty : VType) (p : P) (d a : V)
  /-- VFTANH (R189). -/
  | vftanh (ty : VType) (p : P) (d a : V)
  /-- VFRCP (R188). -/
  | vfrcp (ty : VType) (rm : Fin 8) (p : P) (d a : V)
  /-- VFRSQ (R188). -/
  | vfrsq (ty : VType) (rm : Fin 8) (p : P) (d a : V)
  /-- VADD (R192). -/
  | vadd (ty : VType) (p : P) (d a b : V)
  /-- VSUB (R192). -/
  | vsub (ty : VType) (p : P) (d a b : V)
  /-- VMUL (R192). -/
  | vmul (ty : VType) (p : P) (d a b : V)
  /-- VMULH (R192). -/
  | vmulh (ty : VType) (p : P) (d a b : V)
  /-- VMULHU (R192). -/
  | vmulhu (ty : VType) (p : P) (d a b : V)
  /-- VAND (R192). -/
  | vand (ty : VType) (p : P) (d a b : V)
  /-- VOR (R192). -/
  | vor (ty : VType) (p : P) (d a b : V)
  /-- VXOR (R192). -/
  | vxor (ty : VType) (p : P) (d a b : V)
  /-- VSHL (R192). -/
  | vshl (ty : VType) (p : P) (d a b : V)
  /-- VSHR (R192). -/
  | vshr (ty : VType) (p : P) (d a b : V)
  /-- VSAR (R192). -/
  | vsar (ty : VType) (p : P) (d a b : V)
  /-- VMIN (R192). -/
  | vmin (ty : VType) (p : P) (d a b : V)
  /-- VMINU (R192). -/
  | vminu (ty : VType) (p : P) (d a b : V)
  /-- VMAX (R192). -/
  | vmax (ty : VType) (p : P) (d a b : V)
  /-- VMAXU (R192). -/
  | vmaxu (ty : VType) (p : P) (d a b : V)
  /-- VABS (R192). -/
  | vabs (ty : VType) (p : P) (d a : V)
  /-- VCMP (R191). -/
  | vcmp (ty : VType) (cond : Cond) (p d : P) (a b : V)
  /-- VADDS (R192). -/
  | vadds (ty : VType) (p : P) (d a b : V)
  /-- VADDSU (R192). -/
  | vaddsu (ty : VType) (p : P) (d a b : V)
  /-- VSUBS (R192). -/
  | vsubs (ty : VType) (p : P) (d a b : V)
  /-- VSUBSU (R192). -/
  | vsubsu (ty : VType) (p : P) (d a b : V)
  /-- VCVT (R193). -/
  | vcvt (ty src : VType) (toU fromU : Bool) (part rm : Fin 8) (p : P) (d a : V)
  /-- VQLNS (R194). -/
  | vqlns (part : Fin 8) (p : P) (d a : V) (b : G)
  /-- VDQLNS (R195). -/
  | vdqlns (part rm : Fin 8) (p : P) (d a : V) (b : G)
  /-- VBMAX (R196). -/
  | vbmax (ty : VType) (p : P) (d : G) (a : V)
  /-- VWHILE (R197). -/
  | vwhile (ty : VType) (d : P) (a b : G)
  /-- PAND (R198). -/
  | pand (p d a b : P)
  /-- POR (R198). -/
  | por (p d a b : P)
  /-- PXOR (R198). -/
  | pxor (p d a b : P)
  /-- PNOT (R198). -/
  | pnot (p d a : P)
  /-- PCNT (R199). -/
  | pcnt (ty : VType) (p : P) (d : G) (a : P)
  /-- VQLEN (R200). -/
  | vqlen (ty : VType) (d : G)
  /-- VMOV (R201). -/
  | vmov (ty : VType) (p : P) (d a : V)
  /-- VDUP (R201). -/
  | vdup (ty : VType) (p : P) (d : V) (a : G)
  /-- VEXT (R201). -/
  | vext (ty : VType) (d : G) (a : V) (b : G)
  /-- VPERM (R201). -/
  | vperm (ty : VType) (p : P) (d a b : V)
  /-- VSLIDE (R201). -/
  | vslide (ty : VType) (p : P) (d a : V) (b : G)
  /-- VCOMPRESS (R202). -/
  | vcompress (ty : VType) (p : P) (d a : V)
  /-- VNZX (R203). -/
  | vnzx (ty : VType) (part : Fin 8) (p : P) (d a : V) (b c : G)
  /-- VSEL (R201). -/
  | vsel (ty : VType) (p : P) (d a b : V) (c : P)
  /-- VRADD (R204). -/
  | vradd (ty : VType) (rm : Fin 8) (p : P) (d : G) (a : V)
  /-- VRADDO (R204). -/
  | vraddo (ty : VType) (rm : Fin 8) (p : P) (d : G) (a : V) (b : G)
  /-- VRMIN (R204). -/
  | vrmin (ty : VType) (p : P) (d : G) (a : V)
  /-- VRMINU (R204). -/
  | vrminu (ty : VType) (p : P) (d : G) (a : V)
  /-- VRMAX (R204). -/
  | vrmax (ty : VType) (p : P) (d : G) (a : V)
  /-- VRMAXU (R204). -/
  | vrmaxu (ty : VType) (p : P) (d : G) (a : V)
  /-- VLD (R205). -/
  | vld (ty : VType) (p : P) (sg : S) (d : V) (a : G) (m : Mem)
  /-- VST (R205). -/
  | vst (ty : VType) (p : P) (sg : S) (d : V) (a : G) (m : Mem)
  /-- VLDG (R205). -/
  | vldg (ty : VType) (p : P) (sg : S) (d : V) (a : G) (b : V) (m : Mem)
  /-- VSTS (R205). -/
  | vsts (ty : VType) (p : P) (sg : S) (d : V) (a : G) (b : V) (m : Mem)
  /-- VLDT (R206). -/
  | vldt (sg : S) (d : V) (a b : G) (m : Mem)
  /-- VSTT (R206). -/
  | vstt (sg : S) (d : V) (a b : G) (m : Mem)
  /-- CPQ (R235). -/
  | cpq (a : G)
  /-- CPQN (R235). -/
  | cpqn (d a : G)
  /-- CCINIT (R236). -/
  | ccinit (map : Bool) (sg : S) (a : G) (m : Mem)
  /-- CCEXP (R236). -/
  | ccexp (sg : S) (d a b : G) (m : Mem)
  /-- CCARR (R236). -/
  | ccarr (sg : S) (a b c : G) (m : Mem)
  /-- CCWAIT (R236). -/
  | ccwait (sg : S) (a b : G) (m : Mem)
  /-- CCTEST (R236). -/
  | cctest (sg : S) (d a b : G) (m : Mem)
  /-- CMWAIT (R236). -/
  | cmwait (sg : S) (a b c : G) (m : Mem)
  /-- CMTEST (R236). -/
  | cmtest (sg : S) (d a b c : G) (m : Mem)
  /-- LDE (R237). -/
  | lde (sg : S) (d a : G) (m : Mem)
  /-- LDC (R237). -/
  | ldc (sg : S) (d a : G) (m : Mem)
  /-- STF (R237). -/
  | stf (sg : S) (d a : G) (m : Mem)
  /-- FEW_EMPTY (R237). -/
  | fewEmpty (sg : S) (a : G) (m : Mem)
  /-- FEW_FULL (R237). -/
  | fewFull (sg : S) (a : G) (m : Mem)
  /-- MLDW (R251). -/
  | mldw (ty : VType) (west comp : Bool) (sg : S) (d a b c : G)
  /-- MSWAP (R252). -/
  | mswap
  /-- MSTRM (R253). -/
  | mstrm (ty : VType) (tr : Bool) (sg : S) (d a b c : G)
  /-- MDRAIN (R254). -/
  | mdrain (ty : VType) (cols : BitVec 7) (clr : Bool) (sg : S) (d a b c : G)
  /-- MTILE (R260). -/
  | mtile (sg : S) (a : G) (m : Mem)
  /-- MQW (R255). -/
  | mqw (d : G) (sel : Fin 4)
  /-- MCLR (R256). -/
  | mclr (a b : G) (shadow : Bool)
  /-- LXFAM (R281). -/
  | lxfam (d : HF) (a b : G)
  /-- LXTAB (R282). -/
  | lxtab (d : LT) (sg : S) (a b : G) (init : Bool)
  /-- LXINS (R283). -/
  | lxins (d : G) (sg : S) (a b : G) (c : HF)
  /-- LXDEL (R283). -/
  | lxdel (d : G) (sg : S) (a b : G) (c : HF)
  /-- LXPRB (R284). -/
  | lxprb (d a : G)
  /-- LXRH_START (R286). -/
  | lxrhStart (fo fn : HF) (sg : S) (a b : G)
  /-- LXRH_STEP (R287). -/
  | lxrhStep (d : G) (count : BitVec 7)
  /-- LXST (R288). -/
  | lxst (d : G) (sel idx : Fin 8)
  /-- SEND (R309). -/
  | send (ch : C) (a : G) (sg : S) (last : Bool)
  /-- RECV (R310). -/
  | recv (d : G) (ch : C)
  /-- CHST (R311). -/
  | chst (d : G) (ch : C)
  /-- RECAST (R312). -/
  | recast (a b : G) (sg : S)
  /-- NRED (R313). -/
  | nred (ty : VType) (op tree : Fin 4) (sg : S) (a b c : G)
  /-- NBMAX (R314). -/
  | nbmax (d a : G) (sg : S) (tree : Fin 4)
  /-- NBAR (R314). -/
  | nbar (sg : S) (tree : Fin 4)
  /-- WIN_WRITE (R315). -/
  | winWrite (idx : Fin 4) (a : G)
  /-- WIN_READ (R315). -/
  | winRead (d : G) (idx : Fin 4)
  /-- SPAWN (R349). -/
  | spawn (d a b c : G)
  /-- JOIN (R350). -/
  | join (d a : G)
  /-- CLEND (R350). -/
  | clend (a : G)
  /-- LAUNCH (R351). -/
  | launch (sg : S) (d a : G) (m : Mem)
  /-- WAITC_WAIT (R352). -/
  | waitcWait (level : Level) (d a : G)
  /-- WAITC_TEST (R352). -/
  | waitcTest (level : Level) (d a : G)
  /-- CANCEL (R353). -/
  | cancel (level : Level) (d a : G)
  /-- DQPUSH (R355). -/
  | dqpush (d a b : G)
  /-- DQPOP (R356). -/
  | dqpop (d c : G)
  /-- DQSTEAL (R357). -/
  | dqsteal (d a : G)
  /-- DQCNT (R358). -/
  | dqcnt (d : G) (clr : Bool)
  /-- TKREQ (R368). -/
  | tkreq (d a : G) (wait all : Bool)
  /-- TKLEND_LEND (R370). -/
  | tklendLend (d a b : G)
  /-- TKLEND_RECALL (R370). -/
  | tklendRecall (d a b : G)
  /-- TKRET (R369). -/
  | tkret (d a : G)
  /-- TKQ (R372). -/
  | tkq (d : G) (sel : Fin 4)
  /-- ECSET (R373). -/
  | ecset (d a : G) (cls : Fin 8)
  /-- PBAR (R391). -/
  | pbar (d : G) (sg : S)
  /-- PSEQ (R393). -/
  | pseq (d : G)
  /-- PLOSS (R394). -/
  | ploss (d : G) (sel : Fin 4)
  /-- SKIP_ANNUL (R45). -/
  | skipAnnul
  /-- FENCE_PROBE (R118). -/
  | fenceProbe
  /-- FENCE_ECHO (R118). -/
  | fenceEcho
  /-- SLEEP_TIMEOUT (R175). -/
  | sleepTimeout
  /-- FETCH_BLOCK (R147). -/
  | fetchBlock
  /-- CHECKER_RETRY (R151). -/
  | checkerRetry
  /-- KNOWN_ANSWER_TEST (R128). -/
  | knownAnswerTest
  /-- TCONT_ACCESS (R97). -/
  | tcontAccess
  /-- ASYNC_TRAP_TAKEN (R142). -/
  | asyncTrapTaken
  /-- STOP (R144). -/
  | stop
  /-- REMOTE_ACCESS (R303). -/
  | remoteAccess
  /-- REMOTE_REPLY (R130). -/
  | remoteReply
  /-- POSTED_WRITE_ACK (R131). -/
  | postedWriteAck
  /-- WAKE_MESSAGE (R105). -/
  | wakeMessage
  /-- COMBINE_WINDOW_EXPIRY (R316). -/
  | combineWindowExpiry
  /-- COPY_REQUEST_START (R209). -/
  | copyRequestStart
  /-- COPY (R215). -/
  | copy
  /-- GATHER (R216). -/
  | gather
  /-- SCATTER (R217). -/
  | scatter
  /-- CONVERT (R219). -/
  | convert
  /-- FILL (R220). -/
  | fill
  /-- CONCORD_INIT (R224). -/
  | concordInit
  /-- CONCORD_ARRIVAL (R224). -/
  | concordArrival
  /-- CONCORD_EXPECTATION (R224). -/
  | concordExpectation
  /-- WAITER_RESEND (R233). -/
  | waiterResend
  /-- WAITER_CANCEL (R234). -/
  | waiterCancel
  /-- MATRIX_DISPATCH (R244). -/
  | matrixDispatch
  /-- MTILE_CHUNK_RESUME (R260). -/
  | mtileChunkResume
  /-- LEXICON_DISPATCH (R278). -/
  | lexiconDispatch
  /-- PACKET_WORD_ARRIVAL (R296). -/
  | packetWordArrival
  /-- CHANNEL_STALL_TIMEOUT (R298). -/
  | channelStallTimeout
  /-- RECAST_MESSAGE (R300). -/
  | recastMessage
  /-- RECAST_ADOPT (R300). -/
  | recastAdopt
  /-- TREE_PARTIAL (R305). -/
  | treePartial
  /-- TREE_RESULT (R305). -/
  | treeResult
  /-- STEAL_ARRIVAL (R336). -/
  | stealArrival
  /-- STEAL_REPLY (R357). -/
  | stealReply
  /-- JOIN_AT_HOME (R350). -/
  | joinAtHome
  /-- CANCEL_AT_HOME (R333). -/
  | cancelAtHome
  /-- CLAUSE_START (R321). -/
  | clauseStart
  /-- LAUNCH_ELIGIBLE (R331). -/
  | launchEligible
  /-- DISTRIBUTOR_REQUEST (R339). -/
  | distributorRequest
  /-- RANGE_HANDOUT (R339). -/
  | rangeHandout
  /-- GENERATION_SWEEP (R341). -/
  | generationSweep
  /-- BROKER_CLASS_UPDATE (R366). -/
  | brokerClassUpdate
  /-- HOLDING_CHANGE (R247). -/
  | holdingChange
  /-- REVOCATION_NOTICE_EXPIRY (R371). -/
  | revocationNoticeExpiry
  /-- LOAN_MESSAGE (R370). -/
  | loanMessage
  /-- RECALL_RETURN (R370). -/
  | recallReturn
  /-- POOL_WRITE (R360). -/
  | poolWrite
  /-- POWER_CONTROL_WRITE (R375). -/
  | powerControlWrite
  /-- IDLE_HOLD_EXPIRY (R376). -/
  | idleHoldExpiry
  /-- POWER_STATE_EXIT (R376). -/
  | powerStateExit
  /-- PERSIST_ACCEPT (R378). -/
  | persistAccept
  /-- SEQ_INCREMENT (R387). -/
  | seqIncrement
  /-- INTERRUPTION (R383). -/
  | interruption
  /-- POWER_UP (R389). -/
  | powerUp
  /-- BOOT (R407). -/
  | boot
  /-- DEVICE_RESET (R410). -/
  | deviceReset
  /-- TAG (R399). -/
  | tag
  /-- TBINV (R399). -/
  | tbinv
  /-- SAVEAREA (R399). -/
  | savearea
  /-- JOBCTX (R400). -/
  | jobctx
  /-- ENGSV (R399). -/
  | engsv
  /-- ENGLD (R399). -/
  | engld
  /-- SLOT_END (R399). -/
  | slotEnd
  /-- SLOT_RESTORE (R399). -/
  | slotRestore
  /-- SLOT_RESTART (R404). -/
  | slotRestart
  /-- FENCE_COMMAND (R399). -/
  | fenceCommand
  /-- HOME (R399). -/
  | home
  /-- SHUTDOWN (R412). -/
  | shutdown
  /-- TIMER (R399). -/
  | timer
  /-- TIMER_EXPIRY (R399). -/
  | timerExpiry
  /-- SERVICE (R411). -/
  | service
  /-- START (R399). -/
  | start
  /-- COMMAND_UNASSIGNED (R399). -/
  | commandUnassigned
  /-- SCRUB (R401). -/
  | scrub
  /-- HOST_ACCESS (R419). -/
  | hostAccess
  /-- SEMAPHORE_CLAIM (R415). -/
  | semaphoreClaim
  /-- SEMAPHORE_RELEASE (R415). -/
  | semaphoreRelease
  /-- LINK_DOWN_TIMEOUT (R415). -/
  | linkDownTimeout
  /-- ATTEST_GO (R417). -/
  | attestGo
  /-- ATTEST_REPORT_READY (R417). -/
  | attestReportReady
  /-- REGISTER_WRITE (R87). -/
  | registerWrite
  /-- ILLEGAL_ENCODING (R49). -/
  | illegalEncoding
  /-- ISSUE_CREDIT_START (R247). -/
  | issueCreditStart
  /-- MEMORY_ERROR (R100). -/
  | memoryError
  /-- MEDIA_WRITE (R382). -/
  | mediaWrite
  /-- LINK_DOWN (R415). -/
  | linkDown
  /-- LINK_UP (R415). -/
  | linkUp
deriving DecidableEq, Repr

end Sys2Proof
end

