-- ==== Sys2Proof/WellFormed.lean ====
section
/-!
DEFINITION. Which terms of `Instr` are instructions of the part: the code checks of steps 9 to 11 of Table 11 (R49) that the
types of Syntax.lean do not already make impossible. `Instr.codesOk` holds the checks of step 9, `Instr.skipOk` those of step
10, `Instr.pairOk` those of steps 7 and 11 of a pair (R42); `Instr.wf` is all of them. Events have no encoding and no check.
-/
namespace Sys2Proof

/-- Scalar integer and atomic widths: codes 0b00 and 0b01 only (R36). -/
def Width.isInt : Width → Bool
  | .w64 => true
  | .w32 => true
  | _ => false

/-- Floating-point types of the vector side (R185). -/
def VType.isFp : VType → Bool
  | .f32 => true
  | .f16 => true
  | .b16 => true
  | _ => false

/-- Integer types of the vector side (R185). -/
def VType.isInt : VType → Bool
  | .i8 => true
  | .i16 => true
  | .i32 => true
  | .i64 => true
  | _ => false

/-- Every type except .l6 (R185). -/
def VType.notL6 (t : VType) : Bool := t != .l6

/-- Element width in bits; an .l6 element is an 8-bit lane (R181). -/
def VType.bits : VType → Nat
  | .f32 => 32
  | .f16 => 16
  | .b16 => 16
  | .l6 => 8
  | .i8 => 8
  | .i16 => 16
  | .i32 => 32
  | .i64 => 64

/-- Rounding codes 5 to 7 are refused (R39). -/
def rmOk (rm : Fin 8) : Bool := rm.val ≤ 4

/-- Plain ordering needs scope code 0 (R38). -/
def Mem.scopeOk (m : Mem) : Bool := m.ord != .plain || m.scope == .grp

/-- The displacement is one of imm24 (no L96 form, R32). -/
def Disp.short : Disp → Bool
  | .d19 _ => true
  | .d51 _ => false

/-- The immediate is one of imm24. -/
def Imm.short : Imm → Bool
  | .i24 _ => true
  | .i56 _ => false

/-- Loads accept plain and .acq (R162, R205, R237). -/
def Mem.loadOk (m : Mem) : Bool := m.scopeOk && (m.ord == .plain || m.ord == .acq)

/-- Stores accept plain and .rel (R162, R205, R236, R237). -/
def Mem.storeOk (m : Mem) : Bool := m.scopeOk && (m.ord == .plain || m.ord == .rel)

/-- Plain ordering only, scope 0 (R236, R248, R347). -/
def Mem.plainOk (m : Mem) : Bool := m.scopeOk && m.ord == .plain

/-- The checks of VCVT (R193): the part lies in the narrow side, types differ, unsigned bits only on integers, no rounding
between integers. -/
def vcvtOk (ty src : VType) (toU fromU : Bool) (part rm : Fin 8) : Bool :=
  ty.notL6 && src.notL6 && rmOk rm
    && part.val < max ty.bits src.bits / min ty.bits src.bits
    && !(ty == src && toU == fromU)
    && (!fromU || src.isInt) && (!toU || ty.isInt)
    && (!(ty.isInt && src.isInt) || rm == 0)

/-- LXST: selector 7 is refused, and the index lies in the range of its selector (R280, R288). -/
def lxstOk (sel idx : Fin 8) : Bool :=
  if sel.val ≤ 2 then idx == 0
  else if sel.val ≤ 4 then idx.val ≤ 3
  else sel.val ≤ 6

/-- The code checks of step 9 of Table 11 (R49) for one operation. -/
def Instr.codesOk : Instr → Bool
  | .add w _ _ _ | .sub w _ _ _ | .mul w _ _ _ | .mulh w _ _ _ | .mulhu w _ _ _ | .div w _ _ _ | .divu w _ _ _
  | .rem w _ _ _ | .remu w _ _ _ | .and w _ _ _ | .or w _ _ _ | .xor w _ _ _ | .andn w _ _ _ | .orn w _ _ _
  | .shl w _ _ _ | .shr w _ _ _ | .sar w _ _ _ | .rol w _ _ _ | .ror w _ _ _ | .min w _ _ _ | .minu w _ _ _
  | .max w _ _ _ | .maxu w _ _ _
  | .addImm w _ _ _ | .subImm w _ _ _ | .mulImm w _ _ _ | .mulhImm w _ _ _ | .mulhuImm w _ _ _ | .divImm w _ _ _
  | .divuImm w _ _ _ | .remImm w _ _ _ | .remuImm w _ _ _ | .andImm w _ _ _ | .orImm w _ _ _ | .xorImm w _ _ _
  | .andnImm w _ _ _ | .ornImm w _ _ _ | .shlImm w _ _ _ | .shrImm w _ _ _ | .sarImm w _ _ _ | .rolImm w _ _ _
  | .rorImm w _ _ _ | .minImm w _ _ _ | .minuImm w _ _ _ | .maxImm w _ _ _ | .maxuImm w _ _ _
  | .clz w _ _ | .ctz w _ _ | .popc w _ _ | .bfx w _ _ _ _ | .bfi w _ _ _ _ | .sel w _ _ _ _ | .selImm w _ _ _ _
  | .mov w _ _ => w.isInt
  | .ld _ _ _ _ m | .ldx _ _ _ _ _ m => m.loadOk
  | .st _ _ _ _ m | .stx _ _ _ _ _ m => m.storeOk
  | .aadd w _ _ _ _ m | .aand w _ _ _ _ m | .aor w _ _ _ _ m | .axor w _ _ _ _ m | .amin w _ _ _ _ m
  | .amax w _ _ _ _ m | .aswp w _ _ _ _ m | .acas w _ _ _ _ _ m => w.isInt && m.scopeOk && m.disp.short
  | .fencex _ p1 p2 => p1 != p2
  | .sysrd _ n | .syswr n _ => n.toNat ≤ 9
  | .idrd _ sl => sl.toNat ≤ 4
  | .vfadd t rm _ _ _ _ | .vfsub t rm _ _ _ _ | .vfmul t rm _ _ _ _ | .vfdiv t rm _ _ _ _
  | .vfma t rm _ _ _ _ _ | .vfms t rm _ _ _ _ _ | .vfnma t rm _ _ _ _ _
  | .vfsqrt t rm _ _ _ | .vfrcp t rm _ _ _ | .vfrsq t rm _ _ _ => t.isFp && rmOk rm
  | .vfmin t _ _ _ _ | .vfmax t _ _ _ _ | .vfabs t _ _ _ | .vfneg t _ _ _ | .vfcmp t _ _ _ _ _
  | .vfexp2 t _ _ _ | .vflog2 t _ _ _ | .vfsin t _ _ _ | .vfcos t _ _ _ | .vftanh t _ _ _ | .vbmax t _ _ _ => t.isFp
  | .vadd t _ _ _ _ | .vsub t _ _ _ _ | .vmul t _ _ _ _ | .vmulh t _ _ _ _ | .vmulhu t _ _ _ _ | .vand t _ _ _ _
  | .vor t _ _ _ _ | .vxor t _ _ _ _ | .vshl t _ _ _ _ | .vshr t _ _ _ _ | .vsar t _ _ _ _ | .vmin t _ _ _ _
  | .vminu t _ _ _ _ | .vmax t _ _ _ _ | .vmaxu t _ _ _ _ | .vabs t _ _ _ | .vcmp t _ _ _ _ _ | .vadds t _ _ _ _
  | .vaddsu t _ _ _ _ | .vsubs t _ _ _ _ | .vsubsu t _ _ _ _ | .vperm t _ _ _ _ => t.isInt
  | .vcvt t src toU fromU part rm _ _ _ => vcvtOk t src toU fromU part rm
  | .vqlns part _ _ _ _ => part.val ≤ 3
  | .vdqlns part rm _ _ _ _ => part.val ≤ 3 && rmOk rm
  | .vwhile t _ _ _ | .pcnt t _ _ _ | .vqlen t _ | .vmov t _ _ _ | .vdup t _ _ _ | .vext t _ _ _ | .vslide t _ _ _ _
  | .vcompress t _ _ _ | .vsel t _ _ _ _ _ | .vrmin t _ _ _ | .vrminu t _ _ _ | .vrmax t _ _ _
  | .vrmaxu t _ _ _ => t.notL6
  | .vradd t rm _ _ _ => t.notL6 && rmOk rm && (t.isFp || rm == 0)
  | .vraddo t rm _ _ _ _ => t.isFp && rmOk rm
  | .vnzx t part _ _ _ _ _ => t.notL6 && part.val < Nat.max 1 (32 / t.bits)
  | .vld t _ _ _ _ m => t.notL6 && m.loadOk
  | .vst t _ _ _ _ m => t.notL6 && m.storeOk
  | .vldg t _ _ _ _ _ m => t.notL6 && m.loadOk && m.disp.short
  | .vsts t _ _ _ _ _ m => t.notL6 && m.storeOk && m.disp.short
  | .vldt _ _ _ _ m => m.loadOk && m.disp.short
  | .vstt _ _ _ _ m => m.storeOk && m.disp.short
  | .cpq a => a.val % 4 == 0 && a.val != 0
  | .cpqn _ a => a.val % 4 == 0 && a.val != 0
  | .ccinit _ _ _ m | .ccexp _ _ _ _ m | .ccwait _ _ _ m | .cctest _ _ _ _ m | .cmwait _ _ _ _ m
  | .cmtest _ _ _ _ _ m | .fewEmpty _ _ m | .fewFull _ _ m | .mtile _ _ m | .launch _ _ _ m => m.plainOk && m.disp.short
  | .ccarr _ _ _ _ m | .stf _ _ _ m => m.storeOk && m.disp.short
  | .lde _ _ _ m | .ldc _ _ _ m => m.loadOk && m.disp.short
  | .mldw t _ _ _ _ _ _ _ => t == .f16 || t == .l6
  | .mstrm t _ _ _ _ _ _ => t == .f16 || t == .l6
  | .mdrain t cols _ _ _ _ _ _ => t.isFp && 1 ≤ cols.toNat && cols.toNat ≤ 80
  | .lxprb _ a => a.val == 8 || a.val == 16 || a.val == 24
  | .lxrhStep _ n => 1 ≤ n.toNat && n.toNat ≤ 64
  | .lxst _ sl idx => lxstOk sl idx
  | .nred t op _ _ _ _ _ => (t == .f32 || t == .i32 || t == .i64) && (op.val != 3 || t == .f32)
  | .dqpop d c => d != c || d == 0
  | .tkreq _ _ wait all => !(wait && all)
  | .tkq _ sl => sl.val ≤ 2
  | .ploss _ sl => sl.val ≤ 1
  | _ => true

/-- CMP and CMPI require a skip count of 1 to 3 (R44, step 10 of Table 11). -/
def Instr.skipOk : Instr → Bool
  | .cmp _ sk _ _ => sk != 0
  | .cmpi _ sk _ _ => sk != 0
  | _ => true

/-- The file and number of a register that an instruction writes, for the pair rule of R42. -/
inductive RegName where
  | g (n : G) | v (n : V) | p (n : P)
deriving DecidableEq, Repr

/-- Destination registers of the operations that may stand in a pair (R42; R208 adds those of VLDT and VNZX). -/
def Instr.dests : Instr → List RegName
  | .add _ d _ _ | .sub _ d _ _ | .mul _ d _ _ | .mulh _ d _ _ | .mulhu _ d _ _ | .div _ d _ _ | .divu _ d _ _
  | .rem _ d _ _ | .remu _ d _ _ | .and _ d _ _ | .or _ d _ _ | .xor _ d _ _ | .andn _ d _ _ | .orn _ d _ _
  | .shl _ d _ _ | .shr _ d _ _ | .sar _ d _ _ | .rol _ d _ _ | .ror _ d _ _ | .min _ d _ _ | .minu _ d _ _
  | .max _ d _ _ | .maxu _ d _ _
  | .addImm _ d _ _ | .subImm _ d _ _ | .mulImm _ d _ _ | .mulhImm _ d _ _ | .mulhuImm _ d _ _ | .divImm _ d _ _
  | .divuImm _ d _ _ | .remImm _ d _ _ | .remuImm _ d _ _ | .andImm _ d _ _ | .orImm _ d _ _ | .xorImm _ d _ _
  | .andnImm _ d _ _ | .ornImm _ d _ _ | .shlImm _ d _ _ | .shrImm _ d _ _ | .sarImm _ d _ _ | .rolImm _ d _ _
  | .rorImm _ d _ _ | .minImm _ d _ _ | .minuImm _ d _ _ | .maxImm _ d _ _ | .maxuImm _ d _ _
  | .clz _ d _ | .ctz _ d _ | .popc _ d _ | .bfx _ d _ _ _ | .bfi _ d _ _ _ | .sel _ d _ _ _ | .selImm _ d _ _ _
  | .mov _ d _ | .li d _ | .bl d _ | .bli d _ | .ld _ _ d _ _ | .ldx _ _ d _ _ _
  | .aadd _ _ d _ _ _ | .aand _ _ d _ _ _ | .aor _ _ d _ _ _ | .axor _ _ d _ _ _ | .amin _ _ d _ _ _
  | .amax _ _ d _ _ _ | .aswp _ _ d _ _ _ | .acas _ _ d _ _ _ _ => [.g d]
  | .vfadd _ _ _ d _ _ | .vfsub _ _ _ d _ _ | .vfmul _ _ _ d _ _ | .vfdiv _ _ _ d _ _
  | .vfma _ _ _ d _ _ _ | .vfms _ _ _ d _ _ _ | .vfnma _ _ _ d _ _ _
  | .vfsqrt _ _ _ d _ | .vfrcp _ _ _ d _ | .vfrsq _ _ _ d _
  | .vfmin _ _ d _ _ | .vfmax _ _ d _ _ | .vfabs _ _ d _ | .vfneg _ _ d _
  | .vfexp2 _ _ d _ | .vflog2 _ _ d _ | .vfsin _ _ d _ | .vfcos _ _ d _ | .vftanh _ _ d _
  | .vadd _ _ d _ _ | .vsub _ _ d _ _ | .vmul _ _ d _ _ | .vmulh _ _ d _ _ | .vmulhu _ _ d _ _ | .vand _ _ d _ _
  | .vor _ _ d _ _ | .vxor _ _ d _ _ | .vshl _ _ d _ _ | .vshr _ _ d _ _ | .vsar _ _ d _ _ | .vmin _ _ d _ _
  | .vminu _ _ d _ _ | .vmax _ _ d _ _ | .vmaxu _ _ d _ _ | .vabs _ _ d _ | .vadds _ _ d _ _ | .vaddsu _ _ d _ _
  | .vsubs _ _ d _ _ | .vsubsu _ _ d _ _ | .vperm _ _ d _ _
  | .vcvt _ _ _ _ _ _ _ d _ | .vqlns _ _ d _ _ | .vdqlns _ _ _ d _ _
  | .vmov _ _ d _ | .vdup _ _ d _ | .vslide _ _ d _ _ | .vcompress _ _ d _ | .vsel _ _ d _ _ _
  | .vld _ _ _ d _ _ | .vldg _ _ _ d _ _ _ => [.v d]
  | .vldt _ d _ g2 _ => [.v d, .g g2]
  | .vnzx _ _ _ d _ _ c => [.v d, .g c]
  | .vfcmp _ _ _ d _ _ | .vcmp _ _ _ d _ _ | .vwhile _ d _ _ | .pand _ d _ _ | .por _ d _ _ | .pxor _ d _ _
  | .pnot _ d _ => [.p d]
  | .vbmax _ _ d _ | .pcnt _ _ d _ | .vqlen _ d | .vext _ d _ _ | .vradd _ _ _ d _ | .vraddo _ _ _ d _ _
  | .vrmin _ _ d _ | .vrminu _ _ d _ | .vrmax _ _ d _ | .vrmaxu _ _ d _ => [.g d]
  | _ => []

/-- The memory-accessing groups of R42: scalar memory, atomics, fences and vector memory. -/
def Instr.accessesMemory : Instr → Bool
  | .ld .. | .st .. | .ldx .. | .stx .. | .aadd .. | .aand .. | .aor .. | .axor .. | .amin .. | .amax .. | .aswp ..
  | .acas .. | .fence .. | .fencex .. | .vld .. | .vst .. | .vldg .. | .vsts .. | .vldt .. | .vstt .. => true
  | _ => false

/-- Scalar-side operations of the range 0x00 to 0x8F, the ones a scalar half may be (R42). -/
def Instr.scalarHalf : Instr → Bool
  | .add .. | .sub .. | .mul .. | .mulh .. | .mulhu .. | .div .. | .divu .. | .rem .. | .remu .. | .and .. | .or ..
  | .xor .. | .andn .. | .orn .. | .shl .. | .shr .. | .sar .. | .rol .. | .ror .. | .min .. | .minu .. | .max ..
  | .maxu .. | .addImm .. | .subImm .. | .mulImm .. | .mulhImm .. | .mulhuImm .. | .divImm .. | .divuImm ..
  | .remImm .. | .remuImm .. | .andImm .. | .orImm .. | .xorImm .. | .andnImm .. | .ornImm .. | .shlImm ..
  | .shrImm .. | .sarImm .. | .rolImm .. | .rorImm .. | .minImm .. | .minuImm .. | .maxImm .. | .maxuImm ..
  | .clz .. | .ctz .. | .popc .. | .bfx .. | .bfi .. | .sel .. | .selImm .. | .li .. | .mov .. | .cmp .. | .cmpi ..
  | .b .. | .bl .. | .bi .. | .bli .. | .nop | .exit | .ld .. | .st .. | .ldx .. | .stx .. | .aadd .. | .aand ..
  | .aor .. | .axor .. | .amin .. | .amax .. | .aswp .. | .acas .. | .fence .. | .fencex .. => true
  | _ => false

/-- Vector-side operations (R47). -/
def Instr.vectorSide : Instr → Bool
  | .vfadd .. | .vfsub .. | .vfmul .. | .vfma .. | .vfms .. | .vfnma .. | .vfdiv .. | .vfsqrt .. | .vfmin .. | .vfmax ..
  | .vfabs .. | .vfneg .. | .vfcmp .. | .vfexp2 .. | .vflog2 .. | .vfsin .. | .vfcos .. | .vftanh .. | .vfrcp ..
  | .vfrsq .. | .vadd .. | .vsub .. | .vmul .. | .vmulh .. | .vmulhu .. | .vand .. | .vor .. | .vxor .. | .vshl ..
  | .vshr .. | .vsar .. | .vmin .. | .vminu .. | .vmax .. | .vmaxu .. | .vabs .. | .vcmp .. | .vadds .. | .vaddsu ..
  | .vsubs .. | .vsubsu .. | .vcvt .. | .vqlns .. | .vdqlns .. | .vbmax .. | .vwhile .. | .pand .. | .por .. | .pxor ..
  | .pnot .. | .pcnt .. | .vqlen .. | .vmov .. | .vdup .. | .vext .. | .vperm .. | .vslide .. | .vcompress .. | .vnzx ..
  | .vsel .. | .vradd .. | .vraddo .. | .vrmin .. | .vrminu .. | .vrmax .. | .vrmaxu .. | .vld .. | .vst .. | .vldg ..
  | .vsts .. | .vldt .. | .vstt .. => true
  | _ => false

/-- The operation takes imm56 or a 51-bit displacement, so it stands in an L96 word (R32). -/
def Instr.long : Instr → Bool
  | .addImm _ _ _ i | .subImm _ _ _ i | .mulImm _ _ _ i | .mulhImm _ _ _ i | .mulhuImm _ _ _ i | .divImm _ _ _ i
  | .divuImm _ _ _ i | .remImm _ _ _ i | .remuImm _ _ _ i | .andImm _ _ _ i | .orImm _ _ _ i | .xorImm _ _ _ i
  | .andnImm _ _ _ i | .ornImm _ _ _ i | .shlImm _ _ _ i | .shrImm _ _ _ i | .sarImm _ _ _ i | .rolImm _ _ _ i
  | .rorImm _ _ _ i | .minImm _ _ _ i | .minuImm _ _ _ i | .maxImm _ _ _ i | .maxuImm _ _ _ i | .selImm _ _ _ _ i
  | .li _ i | .cmpi _ _ _ i | .b i | .bl _ i => !i.short
  | .ld _ _ _ _ m | .st _ _ _ _ m | .ldx _ _ _ _ _ m | .stx _ _ _ _ _ m
  | .vld _ _ _ _ _ m | .vst _ _ _ _ _ m => !m.disp.short
  | _ => false

/-- No two halves name one destination register of one file, even g0 or p0 (R42). -/
def destsDisjoint (x y : Instr) : Bool := x.dests.all fun r => !y.dests.contains r

/-- The rules of a pair (R40, R42): a scalar half of 0x00 to 0x8F, a vector half, neither an L96 form, no common
destination, not both accessing memory. -/
def pairOk (x y : Instr) : Bool :=
  x.scalarHalf && y.vectorSide && !x.long && !y.long && destsDisjoint x y && !(x.accessesMemory && y.accessesMemory)

/-- Well-formed terms: those that stand for an instruction of the part, or for an event. -/
def Instr.wf : Instr → Bool
  | .pair x y => pairOk x y && x.codesOk && y.codesOk && x.skipOk && y.skipOk
  | i => i.codesOk && i.skipOk

end Sys2Proof
end

