-- ==== Sys2Proof/Decode.lean ====
section
/-!
DEFINITION. From the bits of an instruction word to the instruction, with the decode checks of Table 11 (R49), and back.
`Fields` are the fields of Table 2 (R31) as numbers; `Instr.fields` writes an instruction's fields from the encoding tables
of the spec, `buildOp` reads an instruction from fields. A reserved bit is a bit that the instruction read does not write
back (R34), so the reserved check compares the two. `decodeWord` is total: every bit pattern is an instruction, a filler, a
word that leaves its fetch block, or is stopped with the detail code of one step of Table 11.
-/
namespace Sys2Proof

/-- The fields of one operation (R31, Table 2); `imm` is imm24, or imm56 when `l96` holds (R32). -/
structure Fields where
  l96 : Bool := false
  unit : Nat := 0
  op : Nat := 0
  d : Nat := 0
  a : Nat := 0
  b : Nat := 0
  c : Nat := 0
  seg : Nat := 0
  skip : Nat := 0
  minor : Nat := 0
  imm : Nat := 0
deriving DecidableEq, Repr

/-- Scalar width codes (R36, Table 5). -/
def wcode : Width → Nat
  | .w64 => 0 | .w32 => 1 | .w16 => 2 | .w8 => 3

/-- The width that minor[1:0] names. -/
def wOf (m : Nat) : Width :=
  match m % 4 with
  | 0 => .w64 | 1 => .w32 | 2 => .w16 | _ => .w8

/-- Vector type codes (R36, Table 5). -/
def tcode : VType → Nat
  | .f32 => 0 | .f16 => 1 | .b16 => 2 | .l6 => 3 | .i8 => 4 | .i16 => 5 | .i32 => 6 | .i64 => 7

/-- The type a code names; 0x8 to 0xF are reserved. -/
def tyOf : Nat → Option VType
  | 0 => some .f32 | 1 => some .f16 | 2 => some .b16 | 3 => some .l6
  | 4 => some .i8 | 5 => some .i16 | 6 => some .i32 | 7 => some .i64 | _ => none

/-- Compare condition codes (R37, Table 7). -/
def ccode : Cond → Nat
  | .eq => 0 | .ne => 1 | .lt => 2 | .ge => 3 | .ltu => 4 | .geu => 5 | .tz => 6 | .tnz => 7

/-- The condition a code names; 8 to 15 are refused (R38). -/
def condOf : Nat → Option Cond
  | 0 => some .eq | 1 => some .ne | 2 => some .lt | 3 => some .ge
  | 4 => some .ltu | 5 => some .geu | 6 => some .tz | 7 => some .tnz | _ => none

/-- VFCMP condition codes (R191, Table 6). -/
def fcode : FCond → Nat
  | .eq => 0 | .ne => 1 | .lt => 2 | .ge => 3 | .le => 4 | .gt => 5 | .uo => 6 | .ord => 7

/-- The VFCMP condition a code names; 8 to 15 are refused (R191). -/
def fcondOf : Nat → Option FCond
  | 0 => some .eq | 1 => some .ne | 2 => some .lt | 3 => some .ge
  | 4 => some .le | 5 => some .gt | 6 => some .uo | 7 => some .ord | _ => none

/-- Scope codes (R37, Table 7). -/
def scode : Scope → Nat
  | .grp => 0 | .core => 1 | .clu => 2 | .die => 3 | .dev => 4 | .sys => 5 | .dur => 6

/-- The scope a code names; 7 is refused (R38). -/
def scopeOf : Nat → Option Scope
  | 0 => some .grp | 1 => some .core | 2 => some .clu | 3 => some .die
  | 4 => some .dev | 5 => some .sys | 6 => some .dur | _ => none

/-- Path codes (R37, Table 7). -/
def pcode : Path → Nat
  | .t => 0 | .c => 1 | .g => 2 | .m => 3 | .l => 4 | .n => 5 | .p => 6

/-- The path a code names; 7 is refused (R38). -/
def pathOf : Nat → Option Path
  | 0 => some .t | 1 => some .c | 2 => some .g | 3 => some .m
  | 4 => some .l | 5 => some .n | 6 => some .p | _ => none

/-- Ordering codes (R37, Table 7). -/
def ocode : MemOrd → Nat
  | .plain => 0 | .acq => 1 | .rel => 2 | .ar => 3

/-- The ordering that two bits name. -/
def ordOf (n : Nat) : MemOrd :=
  match n % 4 with
  | 0 => .plain | 1 => .acq | 2 => .rel | _ => .ar

/-- Level codes (R347). -/
def lcode : Level → Nat
  | .launch => 0 | .graph => 1 | .phase => 2 | .job => 3

/-- The level that minor[1:0] names. -/
def levelOf (n : Nat) : Level :=
  match n % 4 with
  | 0 => .launch | 1 => .graph | 2 => .phase | _ => .job

/-- A one-bit field. -/
def bit (b : Bool) : Nat := if b then 1 else 0

/-- The bits of an immediate. -/
def Imm.bits : Imm → Nat
  | .i24 v => v.toNat
  | .i56 v => v.toNat

/-- The immediate of an operation: imm56 in an L96 word, imm24 elsewhere (R32). -/
def immOf (f : Fields) : Imm := if f.l96 then .i56 (BitVec.ofNat 56 f.imm) else .i24 (BitVec.ofNat 24 f.imm)

/-- The bits of the memory layout: R37 Table 6 in imm24, R32 Table 3 in imm56. -/
def Mem.bits (m : Mem) : Nat :=
  match m.disp with
  | .d19 v => v.toNat + 2 ^ 19 * scode m.scope + 2 ^ 22 * ocode m.ord
  | .d51 v => v.toNat + 2 ^ 51 * scode m.scope + 2 ^ 54 * ocode m.ord

/-- The memory layout of an operation; scope code 7 is refused (R38). -/
def memOf (f : Fields) : Option Mem :=
  if f.l96 then
    (scopeOf (f.imm / 2 ^ 51 % 8)).bind fun s => some ⟨ordOf (f.imm / 2 ^ 54), s, .d51 (BitVec.ofNat 51 f.imm)⟩
  else
    (scopeOf (f.imm / 2 ^ 19 % 8)).bind fun s => some ⟨ordOf (f.imm / 2 ^ 22), s, .d19 (BitVec.ofNat 19 f.imm)⟩

/-- The fields of an encoded instruction, from the encoding tables of its chapter; none for a pair or an event. -/
def Instr.fields : Instr → Option Fields
  | .add w_ d_ a_ b_ => some { op := 0x01, d := d_.val, a := a_.val, b := b_.val, minor := wcode w_ }
  | .addImm w_ d_ a_ imm_ => some { l96 := !imm_.short, op := 0x01, d := d_.val, a := a_.val, minor := wcode w_ + 8, imm := imm_.bits }
  | .sub w_ d_ a_ b_ => some { op := 0x02, d := d_.val, a := a_.val, b := b_.val, minor := wcode w_ }
  | .subImm w_ d_ a_ imm_ => some { l96 := !imm_.short, op := 0x02, d := d_.val, a := a_.val, minor := wcode w_ + 8, imm := imm_.bits }
  | .mul w_ d_ a_ b_ => some { op := 0x03, d := d_.val, a := a_.val, b := b_.val, minor := wcode w_ }
  | .mulImm w_ d_ a_ imm_ => some { l96 := !imm_.short, op := 0x03, d := d_.val, a := a_.val, minor := wcode w_ + 8, imm := imm_.bits }
  | .mulh w_ d_ a_ b_ => some { op := 0x04, d := d_.val, a := a_.val, b := b_.val, minor := wcode w_ }
  | .mulhImm w_ d_ a_ imm_ => some { l96 := !imm_.short, op := 0x04, d := d_.val, a := a_.val, minor := wcode w_ + 8, imm := imm_.bits }
  | .mulhu w_ d_ a_ b_ => some { op := 0x04, d := d_.val, a := a_.val, b := b_.val, minor := wcode w_ + 4 }
  | .mulhuImm w_ d_ a_ imm_ => some { l96 := !imm_.short, op := 0x04, d := d_.val, a := a_.val, minor := wcode w_ + 12, imm := imm_.bits }
  | .div w_ d_ a_ b_ => some { op := 0x05, d := d_.val, a := a_.val, b := b_.val, minor := wcode w_ }
  | .divImm w_ d_ a_ imm_ => some { l96 := !imm_.short, op := 0x05, d := d_.val, a := a_.val, minor := wcode w_ + 8, imm := imm_.bits }
  | .divu w_ d_ a_ b_ => some { op := 0x05, d := d_.val, a := a_.val, b := b_.val, minor := wcode w_ + 4 }
  | .divuImm w_ d_ a_ imm_ => some { l96 := !imm_.short, op := 0x05, d := d_.val, a := a_.val, minor := wcode w_ + 12, imm := imm_.bits }
  | .rem w_ d_ a_ b_ => some { op := 0x06, d := d_.val, a := a_.val, b := b_.val, minor := wcode w_ }
  | .remImm w_ d_ a_ imm_ => some { l96 := !imm_.short, op := 0x06, d := d_.val, a := a_.val, minor := wcode w_ + 8, imm := imm_.bits }
  | .remu w_ d_ a_ b_ => some { op := 0x06, d := d_.val, a := a_.val, b := b_.val, minor := wcode w_ + 4 }
  | .remuImm w_ d_ a_ imm_ => some { l96 := !imm_.short, op := 0x06, d := d_.val, a := a_.val, minor := wcode w_ + 12, imm := imm_.bits }
  | .and w_ d_ a_ b_ => some { op := 0x07, d := d_.val, a := a_.val, b := b_.val, minor := wcode w_ }
  | .andImm w_ d_ a_ imm_ => some { l96 := !imm_.short, op := 0x07, d := d_.val, a := a_.val, minor := wcode w_ + 8, imm := imm_.bits }
  | .or w_ d_ a_ b_ => some { op := 0x08, d := d_.val, a := a_.val, b := b_.val, minor := wcode w_ }
  | .orImm w_ d_ a_ imm_ => some { l96 := !imm_.short, op := 0x08, d := d_.val, a := a_.val, minor := wcode w_ + 8, imm := imm_.bits }
  | .xor w_ d_ a_ b_ => some { op := 0x09, d := d_.val, a := a_.val, b := b_.val, minor := wcode w_ }
  | .xorImm w_ d_ a_ imm_ => some { l96 := !imm_.short, op := 0x09, d := d_.val, a := a_.val, minor := wcode w_ + 8, imm := imm_.bits }
  | .andn w_ d_ a_ b_ => some { op := 0x0A, d := d_.val, a := a_.val, b := b_.val, minor := wcode w_ }
  | .andnImm w_ d_ a_ imm_ => some { l96 := !imm_.short, op := 0x0A, d := d_.val, a := a_.val, minor := wcode w_ + 8, imm := imm_.bits }
  | .orn w_ d_ a_ b_ => some { op := 0x0B, d := d_.val, a := a_.val, b := b_.val, minor := wcode w_ }
  | .ornImm w_ d_ a_ imm_ => some { l96 := !imm_.short, op := 0x0B, d := d_.val, a := a_.val, minor := wcode w_ + 8, imm := imm_.bits }
  | .shl w_ d_ a_ b_ => some { op := 0x0C, d := d_.val, a := a_.val, b := b_.val, minor := wcode w_ }
  | .shlImm w_ d_ a_ imm_ => some { l96 := !imm_.short, op := 0x0C, d := d_.val, a := a_.val, minor := wcode w_ + 8, imm := imm_.bits }
  | .shr w_ d_ a_ b_ => some { op := 0x0D, d := d_.val, a := a_.val, b := b_.val, minor := wcode w_ }
  | .shrImm w_ d_ a_ imm_ => some { l96 := !imm_.short, op := 0x0D, d := d_.val, a := a_.val, minor := wcode w_ + 8, imm := imm_.bits }
  | .sar w_ d_ a_ b_ => some { op := 0x0E, d := d_.val, a := a_.val, b := b_.val, minor := wcode w_ }
  | .sarImm w_ d_ a_ imm_ => some { l96 := !imm_.short, op := 0x0E, d := d_.val, a := a_.val, minor := wcode w_ + 8, imm := imm_.bits }
  | .rol w_ d_ a_ b_ => some { op := 0x0F, d := d_.val, a := a_.val, b := b_.val, minor := wcode w_ }
  | .rolImm w_ d_ a_ imm_ => some { l96 := !imm_.short, op := 0x0F, d := d_.val, a := a_.val, minor := wcode w_ + 8, imm := imm_.bits }
  | .ror w_ d_ a_ b_ => some { op := 0x10, d := d_.val, a := a_.val, b := b_.val, minor := wcode w_ }
  | .rorImm w_ d_ a_ imm_ => some { l96 := !imm_.short, op := 0x10, d := d_.val, a := a_.val, minor := wcode w_ + 8, imm := imm_.bits }
  | .clz w_ d_ a_ => some { op := 0x11, d := d_.val, a := a_.val, minor := wcode w_ }
  | .ctz w_ d_ a_ => some { op := 0x12, d := d_.val, a := a_.val, minor := wcode w_ }
  | .popc w_ d_ a_ => some { op := 0x13, d := d_.val, a := a_.val, minor := wcode w_ }
  | .min w_ d_ a_ b_ => some { op := 0x14, d := d_.val, a := a_.val, b := b_.val, minor := wcode w_ }
  | .minImm w_ d_ a_ imm_ => some { l96 := !imm_.short, op := 0x14, d := d_.val, a := a_.val, minor := wcode w_ + 8, imm := imm_.bits }
  | .minu w_ d_ a_ b_ => some { op := 0x14, d := d_.val, a := a_.val, b := b_.val, minor := wcode w_ + 4 }
  | .minuImm w_ d_ a_ imm_ => some { l96 := !imm_.short, op := 0x14, d := d_.val, a := a_.val, minor := wcode w_ + 12, imm := imm_.bits }
  | .max w_ d_ a_ b_ => some { op := 0x15, d := d_.val, a := a_.val, b := b_.val, minor := wcode w_ }
  | .maxImm w_ d_ a_ imm_ => some { l96 := !imm_.short, op := 0x15, d := d_.val, a := a_.val, minor := wcode w_ + 8, imm := imm_.bits }
  | .maxu w_ d_ a_ b_ => some { op := 0x15, d := d_.val, a := a_.val, b := b_.val, minor := wcode w_ + 4 }
  | .maxuImm w_ d_ a_ imm_ => some { l96 := !imm_.short, op := 0x15, d := d_.val, a := a_.val, minor := wcode w_ + 12, imm := imm_.bits }
  | .bfx w_ d_ a_ b_ c_ => some { op := 0x16, d := d_.val, a := a_.val, b := b_.val, c := c_.val, minor := wcode w_ }
  | .bfi w_ d_ a_ b_ c_ => some { op := 0x17, d := d_.val, a := a_.val, b := b_.val, c := c_.val, minor := wcode w_ }
  | .sel w_ d_ a_ b_ c_ => some { op := 0x18, d := d_.val, a := a_.val, b := b_.val, c := c_.val, minor := wcode w_ }
  | .selImm w_ d_ a_ c_ imm_ => some { l96 := !imm_.short, op := 0x18, d := d_.val, a := a_.val, c := c_.val, minor := wcode w_ + 8, imm := imm_.bits }
  | .li d_ imm_ => some { l96 := !imm_.short, op := 0x19, d := d_.val, imm := imm_.bits }
  | .mov w_ d_ a_ => some { op := 0x1A, d := d_.val, a := a_.val, minor := wcode w_ }
  | .cmp cond_ skip_ a_ b_ => some { op := 0x40, a := a_.val, b := b_.val, skip := skip_.val, minor := ccode cond_ }
  | .cmpi cond_ skip_ a_ imm_ => some { l96 := !imm_.short, op := 0x41, a := a_.val, skip := skip_.val, minor := ccode cond_, imm := imm_.bits }
  | .b off_ => some { l96 := !off_.short, op := 0x50, imm := off_.bits }
  | .bl d_ off_ => some { l96 := !off_.short, op := 0x51, d := d_.val, imm := off_.bits }
  | .bi a_ => some { op := 0x52, a := a_.val }
  | .bli d_ a_ => some { op := 0x53, d := d_.val, a := a_.val }
  | .nop => some { op := 0x54 }
  | .exit => some { op := 0x55 }
  | .ld w_ sg_ d_ a_ m_ => some { l96 := !m_.disp.short, op := 0x60, d := d_.val, a := a_.val, seg := sg_.val, minor := wcode w_, imm := m_.bits }
  | .st w_ sg_ d_ a_ m_ => some { l96 := !m_.disp.short, op := 0x61, d := d_.val, a := a_.val, seg := sg_.val, minor := wcode w_, imm := m_.bits }
  | .ldx w_ sg_ d_ a_ b_ m_ => some { l96 := !m_.disp.short, op := 0x62, d := d_.val, a := a_.val, b := b_.val, seg := sg_.val, minor := wcode w_, imm := m_.bits }
  | .stx w_ sg_ d_ a_ b_ m_ => some { l96 := !m_.disp.short, op := 0x63, d := d_.val, a := a_.val, b := b_.val, seg := sg_.val, minor := wcode w_, imm := m_.bits }
  | .aadd w_ sg_ d_ a_ b_ m_ => some { l96 := !m_.disp.short, op := 0x80, d := d_.val, a := a_.val, b := b_.val, seg := sg_.val, minor := wcode w_, imm := m_.bits }
  | .aand w_ sg_ d_ a_ b_ m_ => some { l96 := !m_.disp.short, op := 0x81, d := d_.val, a := a_.val, b := b_.val, seg := sg_.val, minor := wcode w_, imm := m_.bits }
  | .aor w_ sg_ d_ a_ b_ m_ => some { l96 := !m_.disp.short, op := 0x82, d := d_.val, a := a_.val, b := b_.val, seg := sg_.val, minor := wcode w_, imm := m_.bits }
  | .axor w_ sg_ d_ a_ b_ m_ => some { l96 := !m_.disp.short, op := 0x83, d := d_.val, a := a_.val, b := b_.val, seg := sg_.val, minor := wcode w_, imm := m_.bits }
  | .amin w_ sg_ d_ a_ b_ m_ => some { l96 := !m_.disp.short, op := 0x84, d := d_.val, a := a_.val, b := b_.val, seg := sg_.val, minor := wcode w_, imm := m_.bits }
  | .amax w_ sg_ d_ a_ b_ m_ => some { l96 := !m_.disp.short, op := 0x85, d := d_.val, a := a_.val, b := b_.val, seg := sg_.val, minor := wcode w_, imm := m_.bits }
  | .aswp w_ sg_ d_ a_ b_ m_ => some { l96 := !m_.disp.short, op := 0x86, d := d_.val, a := a_.val, b := b_.val, seg := sg_.val, minor := wcode w_, imm := m_.bits }
  | .acas w_ sg_ d_ a_ b_ c_ m_ => some { l96 := !m_.disp.short, op := 0x87, d := d_.val, a := a_.val, b := b_.val, c := c_.val, seg := sg_.val, minor := wcode w_, imm := m_.bits }
  | .fence sc_ => some { op := 0x88, imm := scode sc_ * 2 ^ 19 }
  | .fencex sc_ p1_ p2_ => some { op := 0x89, imm := pcode p1_ + 8 * pcode p2_ + scode sc_ * 2 ^ 19 }
  | .segldNarrow d_ a_ b_ c_ => some { op := 0xF0, d := d_.val, a := a_.val, b := b_.val, c := c_.val }
  | .segldAbs d_ a_ b_ => some { op := 0xF0, d := d_.val, a := a_.val, b := b_.val, minor := 1 }
  | .segrd d_ a_ half_ => some { op := 0xF1, d := d_.val, a := a_.val, minor := bit half_ }
  | .sysrd d_ num_ => some { op := 0xF2, d := d_.val, imm := num_.toNat }
  | .syswr num_ a_ => some { op := 0xF3, a := a_.val, imm := num_.toNat }
  | .trap code_ => some { op := 0xF4, imm := code_.toNat }
  | .rte => some { op := 0xF5 }
  | .yield => some { op := 0xF6 }
  | .sleep a_ => some { op := 0xF7, a := a_.val }
  | .wake d_ a_ => some { op := 0xF8, d := d_.val, a := a_.val }
  | .iflush => some { op := 0xF9 }
  | .ctxsv d_ a_ => some { op := 0xFA, d := d_.val, a := a_.val }
  | .ctxld d_ a_ => some { op := 0xFB, d := d_.val, a := a_.val }
  | .idrd d_ sel_ => some { op := 0xFC, d := d_.val, imm := sel_.toNat }
  | .clkrd d_ => some { op := 0xFD, d := d_.val }
  | .vfadd ty_ rm_ p_ d_ a_ b_ => some { unit := 1, op := 0x00, d := d_.val, a := a_.val, b := b_.val, seg := p_.val, minor := tcode ty_, imm := rm_.val }
  | .vfsub ty_ rm_ p_ d_ a_ b_ => some { unit := 1, op := 0x01, d := d_.val, a := a_.val, b := b_.val, seg := p_.val, minor := tcode ty_, imm := rm_.val }
  | .vfmul ty_ rm_ p_ d_ a_ b_ => some { unit := 1, op := 0x02, d := d_.val, a := a_.val, b := b_.val, seg := p_.val, minor := tcode ty_, imm := rm_.val }
  | .vfma ty_ rm_ p_ d_ a_ b_ c_ => some { unit := 1, op := 0x03, d := d_.val, a := a_.val, b := b_.val, c := c_.val, seg := p_.val, minor := tcode ty_, imm := rm_.val }
  | .vfms ty_ rm_ p_ d_ a_ b_ c_ => some { unit := 1, op := 0x04, d := d_.val, a := a_.val, b := b_.val, c := c_.val, seg := p_.val, minor := tcode ty_, imm := rm_.val }
  | .vfnma ty_ rm_ p_ d_ a_ b_ c_ => some { unit := 1, op := 0x05, d := d_.val, a := a_.val, b := b_.val, c := c_.val, seg := p_.val, minor := tcode ty_, imm := rm_.val }
  | .vfdiv ty_ rm_ p_ d_ a_ b_ => some { unit := 1, op := 0x06, d := d_.val, a := a_.val, b := b_.val, seg := p_.val, minor := tcode ty_, imm := rm_.val }
  | .vfsqrt ty_ rm_ p_ d_ a_ => some { unit := 1, op := 0x07, d := d_.val, a := a_.val, seg := p_.val, minor := tcode ty_, imm := rm_.val }
  | .vfmin ty_ p_ d_ a_ b_ => some { unit := 1, op := 0x08, d := d_.val, a := a_.val, b := b_.val, seg := p_.val, minor := tcode ty_ }
  | .vfmax ty_ p_ d_ a_ b_ => some { unit := 1, op := 0x09, d := d_.val, a := a_.val, b := b_.val, seg := p_.val, minor := tcode ty_ }
  | .vfabs ty_ p_ d_ a_ => some { unit := 1, op := 0x0A, d := d_.val, a := a_.val, seg := p_.val, minor := tcode ty_ }
  | .vfneg ty_ p_ d_ a_ => some { unit := 1, op := 0x0B, d := d_.val, a := a_.val, seg := p_.val, minor := tcode ty_ }
  | .vfcmp ty_ cond_ p_ d_ a_ b_ => some { unit := 1, op := 0x0C, d := d_.val, a := a_.val, b := b_.val, seg := p_.val, minor := tcode ty_, imm := 16 * fcode cond_ }
  | .vfexp2 ty_ p_ d_ a_ => some { unit := 1, op := 0x0D, d := d_.val, a := a_.val, seg := p_.val, minor := tcode ty_ }
  | .vflog2 ty_ p_ d_ a_ => some { unit := 1, op := 0x0E, d := d_.val, a := a_.val, seg := p_.val, minor := tcode ty_ }
  | .vfsin ty_ p_ d_ a_ => some { unit := 1, op := 0x0F, d := d_.val, a := a_.val, seg := p_.val, minor := tcode ty_ }
  | .vfcos ty_ p_ d_ a_ => some { unit := 1, op := 0x10, d := d_.val, a := a_.val, seg := p_.val, minor := tcode ty_ }
  | .vftanh ty_ p_ d_ a_ => some { unit := 1, op := 0x11, d := d_.val, a := a_.val, seg := p_.val, minor := tcode ty_ }
  | .vfrcp ty_ rm_ p_ d_ a_ => some { unit := 1, op := 0x12, d := d_.val, a := a_.val, seg := p_.val, minor := tcode ty_, imm := rm_.val }
  | .vfrsq ty_ rm_ p_ d_ a_ => some { unit := 1, op := 0x13, d := d_.val, a := a_.val, seg := p_.val, minor := tcode ty_, imm := rm_.val }
  | .vadd ty_ p_ d_ a_ b_ => some { unit := 1, op := 0x40, d := d_.val, a := a_.val, b := b_.val, seg := p_.val, minor := tcode ty_ }
  | .vsub ty_ p_ d_ a_ b_ => some { unit := 1, op := 0x41, d := d_.val, a := a_.val, b := b_.val, seg := p_.val, minor := tcode ty_ }
  | .vmul ty_ p_ d_ a_ b_ => some { unit := 1, op := 0x42, d := d_.val, a := a_.val, b := b_.val, seg := p_.val, minor := tcode ty_ }
  | .vmulh ty_ p_ d_ a_ b_ => some { unit := 1, op := 0x43, d := d_.val, a := a_.val, b := b_.val, seg := p_.val, minor := tcode ty_ }
  | .vmulhu ty_ p_ d_ a_ b_ => some { unit := 1, op := 0x43, d := d_.val, a := a_.val, b := b_.val, seg := p_.val, minor := tcode ty_, imm := 8 }
  | .vand ty_ p_ d_ a_ b_ => some { unit := 1, op := 0x44, d := d_.val, a := a_.val, b := b_.val, seg := p_.val, minor := tcode ty_ }
  | .vor ty_ p_ d_ a_ b_ => some { unit := 1, op := 0x45, d := d_.val, a := a_.val, b := b_.val, seg := p_.val, minor := tcode ty_ }
  | .vxor ty_ p_ d_ a_ b_ => some { unit := 1, op := 0x46, d := d_.val, a := a_.val, b := b_.val, seg := p_.val, minor := tcode ty_ }
  | .vshl ty_ p_ d_ a_ b_ => some { unit := 1, op := 0x47, d := d_.val, a := a_.val, b := b_.val, seg := p_.val, minor := tcode ty_ }
  | .vshr ty_ p_ d_ a_ b_ => some { unit := 1, op := 0x48, d := d_.val, a := a_.val, b := b_.val, seg := p_.val, minor := tcode ty_ }
  | .vsar ty_ p_ d_ a_ b_ => some { unit := 1, op := 0x49, d := d_.val, a := a_.val, b := b_.val, seg := p_.val, minor := tcode ty_ }
  | .vmin ty_ p_ d_ a_ b_ => some { unit := 1, op := 0x4A, d := d_.val, a := a_.val, b := b_.val, seg := p_.val, minor := tcode ty_ }
  | .vminu ty_ p_ d_ a_ b_ => some { unit := 1, op := 0x4A, d := d_.val, a := a_.val, b := b_.val, seg := p_.val, minor := tcode ty_, imm := 8 }
  | .vmax ty_ p_ d_ a_ b_ => some { unit := 1, op := 0x4B, d := d_.val, a := a_.val, b := b_.val, seg := p_.val, minor := tcode ty_ }
  | .vmaxu ty_ p_ d_ a_ b_ => some { unit := 1, op := 0x4B, d := d_.val, a := a_.val, b := b_.val, seg := p_.val, minor := tcode ty_, imm := 8 }
  | .vabs ty_ p_ d_ a_ => some { unit := 1, op := 0x4C, d := d_.val, a := a_.val, seg := p_.val, minor := tcode ty_ }
  | .vcmp ty_ cond_ p_ d_ a_ b_ => some { unit := 1, op := 0x4D, d := d_.val, a := a_.val, b := b_.val, seg := p_.val, minor := tcode ty_, imm := 16 * ccode cond_ }
  | .vadds ty_ p_ d_ a_ b_ => some { unit := 1, op := 0x4E, d := d_.val, a := a_.val, b := b_.val, seg := p_.val, minor := tcode ty_ }
  | .vaddsu ty_ p_ d_ a_ b_ => some { unit := 1, op := 0x4E, d := d_.val, a := a_.val, b := b_.val, seg := p_.val, minor := tcode ty_, imm := 8 }
  | .vsubs ty_ p_ d_ a_ b_ => some { unit := 1, op := 0x4F, d := d_.val, a := a_.val, b := b_.val, seg := p_.val, minor := tcode ty_ }
  | .vsubsu ty_ p_ d_ a_ b_ => some { unit := 1, op := 0x4F, d := d_.val, a := a_.val, b := b_.val, seg := p_.val, minor := tcode ty_, imm := 8 }
  | .vcvt ty_ src_ toU_ fromU_ part_ rm_ p_ d_ a_ => some { unit := 1, op := 0x60, d := d_.val, a := a_.val, seg := p_.val, minor := tcode ty_, imm := rm_.val + 16 * tcode src_ + 256 * bit fromU_ + 512 * bit toU_ + 1024 * part_.val }
  | .vqlns part_ p_ d_ a_ b_ => some { unit := 1, op := 0x61, d := d_.val, a := a_.val, b := b_.val, seg := p_.val, minor := 3, imm := 1024 * part_.val }
  | .vdqlns part_ rm_ p_ d_ a_ b_ => some { unit := 1, op := 0x62, d := d_.val, a := a_.val, b := b_.val, seg := p_.val, imm := rm_.val + 1024 * part_.val }
  | .vbmax ty_ p_ d_ a_ => some { unit := 1, op := 0x63, d := d_.val, a := a_.val, seg := p_.val, minor := tcode ty_ }
  | .vwhile ty_ d_ a_ b_ => some { unit := 1, op := 0x70, d := d_.val, a := a_.val, b := b_.val, minor := tcode ty_ }
  | .pand p_ d_ a_ b_ => some { unit := 1, op := 0x71, d := d_.val, a := a_.val, b := b_.val, seg := p_.val }
  | .por p_ d_ a_ b_ => some { unit := 1, op := 0x72, d := d_.val, a := a_.val, b := b_.val, seg := p_.val }
  | .pxor p_ d_ a_ b_ => some { unit := 1, op := 0x73, d := d_.val, a := a_.val, b := b_.val, seg := p_.val }
  | .pnot p_ d_ a_ => some { unit := 1, op := 0x74, d := d_.val, a := a_.val, seg := p_.val }
  | .pcnt ty_ p_ d_ a_ => some { unit := 1, op := 0x75, d := d_.val, a := a_.val, seg := p_.val, minor := tcode ty_ }
  | .vqlen ty_ d_ => some { unit := 1, op := 0x76, d := d_.val, minor := tcode ty_ }
  | .vmov ty_ p_ d_ a_ => some { unit := 1, op := 0x80, d := d_.val, a := a_.val, seg := p_.val, minor := tcode ty_ }
  | .vdup ty_ p_ d_ a_ => some { unit := 1, op := 0x81, d := d_.val, a := a_.val, seg := p_.val, minor := tcode ty_ }
  | .vext ty_ d_ a_ b_ => some { unit := 1, op := 0x82, d := d_.val, a := a_.val, b := b_.val, minor := tcode ty_ }
  | .vperm ty_ p_ d_ a_ b_ => some { unit := 1, op := 0x83, d := d_.val, a := a_.val, b := b_.val, seg := p_.val, minor := tcode ty_ }
  | .vslide ty_ p_ d_ a_ b_ => some { unit := 1, op := 0x84, d := d_.val, a := a_.val, b := b_.val, seg := p_.val, minor := tcode ty_ }
  | .vcompress ty_ p_ d_ a_ => some { unit := 1, op := 0x85, d := d_.val, a := a_.val, seg := p_.val, minor := tcode ty_ }
  | .vnzx ty_ part_ p_ d_ a_ b_ c_ => some { unit := 1, op := 0x86, d := d_.val, a := a_.val, b := b_.val, c := c_.val, seg := p_.val, minor := tcode ty_, imm := 1024 * part_.val }
  | .vsel ty_ p_ d_ a_ b_ c_ => some { unit := 1, op := 0x87, d := d_.val, a := a_.val, b := b_.val, c := c_.val, seg := p_.val, minor := tcode ty_ }
  | .vradd ty_ rm_ p_ d_ a_ => some { unit := 1, op := 0xA0, d := d_.val, a := a_.val, seg := p_.val, minor := tcode ty_, imm := rm_.val }
  | .vraddo ty_ rm_ p_ d_ a_ b_ => some { unit := 1, op := 0xA1, d := d_.val, a := a_.val, b := b_.val, seg := p_.val, minor := tcode ty_, imm := rm_.val }
  | .vrmin ty_ p_ d_ a_ => some { unit := 1, op := 0xA2, d := d_.val, a := a_.val, seg := p_.val, minor := tcode ty_ }
  | .vrminu ty_ p_ d_ a_ => some { unit := 1, op := 0xA2, d := d_.val, a := a_.val, seg := p_.val, minor := tcode ty_, imm := 8 }
  | .vrmax ty_ p_ d_ a_ => some { unit := 1, op := 0xA3, d := d_.val, a := a_.val, seg := p_.val, minor := tcode ty_ }
  | .vrmaxu ty_ p_ d_ a_ => some { unit := 1, op := 0xA3, d := d_.val, a := a_.val, seg := p_.val, minor := tcode ty_, imm := 8 }
  | .vld ty_ p_ sg_ d_ a_ m_ => some { l96 := !m_.disp.short, unit := 1, op := 0xB0, d := d_.val, a := a_.val, c := p_.val, seg := sg_.val, minor := tcode ty_, imm := m_.bits }
  | .vst ty_ p_ sg_ d_ a_ m_ => some { l96 := !m_.disp.short, unit := 1, op := 0xB1, d := d_.val, a := a_.val, c := p_.val, seg := sg_.val, minor := tcode ty_, imm := m_.bits }
  | .vldg ty_ p_ sg_ d_ a_ b_ m_ => some { l96 := !m_.disp.short, unit := 1, op := 0xB2, d := d_.val, a := a_.val, b := b_.val, c := p_.val, seg := sg_.val, minor := tcode ty_, imm := m_.bits }
  | .vsts ty_ p_ sg_ d_ a_ b_ m_ => some { l96 := !m_.disp.short, unit := 1, op := 0xB3, d := d_.val, a := a_.val, b := b_.val, c := p_.val, seg := sg_.val, minor := tcode ty_, imm := m_.bits }
  | .vldt sg_ d_ a_ b_ m_ => some { l96 := !m_.disp.short, unit := 1, op := 0xB4, d := d_.val, a := a_.val, b := b_.val, seg := sg_.val, minor := 3, imm := m_.bits }
  | .vstt sg_ d_ a_ b_ m_ => some { l96 := !m_.disp.short, unit := 1, op := 0xB5, d := d_.val, a := a_.val, b := b_.val, seg := sg_.val, minor := 3, imm := m_.bits }
  | .cpq a_ => some { op := 0x90, a := a_.val }
  | .cpqn d_ a_ => some { op := 0x91, d := d_.val, a := a_.val }
  | .ccinit map_ sg_ a_ m_ => some { l96 := !m_.disp.short, op := 0x92, a := a_.val, seg := sg_.val, minor := bit map_, imm := m_.bits }
  | .ccexp sg_ d_ a_ b_ m_ => some { l96 := !m_.disp.short, op := 0x93, d := d_.val, a := a_.val, b := b_.val, seg := sg_.val, imm := m_.bits }
  | .ccarr sg_ a_ b_ c_ m_ => some { l96 := !m_.disp.short, op := 0x94, a := a_.val, b := b_.val, c := c_.val, seg := sg_.val, imm := m_.bits }
  | .ccwait sg_ a_ b_ m_ => some { l96 := !m_.disp.short, op := 0x95, a := a_.val, b := b_.val, seg := sg_.val, imm := m_.bits }
  | .cctest sg_ d_ a_ b_ m_ => some { l96 := !m_.disp.short, op := 0x96, d := d_.val, a := a_.val, b := b_.val, seg := sg_.val, imm := m_.bits }
  | .cmwait sg_ a_ b_ c_ m_ => some { l96 := !m_.disp.short, op := 0x97, a := a_.val, b := b_.val, c := c_.val, seg := sg_.val, imm := m_.bits }
  | .cmtest sg_ d_ a_ b_ c_ m_ => some { l96 := !m_.disp.short, op := 0x98, d := d_.val, a := a_.val, b := b_.val, c := c_.val, seg := sg_.val, imm := m_.bits }
  | .lde sg_ d_ a_ m_ => some { l96 := !m_.disp.short, op := 0x99, d := d_.val, a := a_.val, seg := sg_.val, imm := m_.bits }
  | .ldc sg_ d_ a_ m_ => some { l96 := !m_.disp.short, op := 0x9A, d := d_.val, a := a_.val, seg := sg_.val, imm := m_.bits }
  | .stf sg_ d_ a_ m_ => some { l96 := !m_.disp.short, op := 0x9B, d := d_.val, a := a_.val, seg := sg_.val, imm := m_.bits }
  | .fewEmpty sg_ a_ m_ => some { l96 := !m_.disp.short, op := 0x9C, a := a_.val, seg := sg_.val, imm := m_.bits }
  | .fewFull sg_ a_ m_ => some { l96 := !m_.disp.short, op := 0x9C, a := a_.val, seg := sg_.val, minor := 1, imm := m_.bits }
  | .mldw ty_ west_ comp_ sg_ d_ a_ b_ c_ => some { op := 0xA0, d := d_.val, a := a_.val, b := b_.val, c := c_.val, seg := sg_.val, minor := tcode ty_, imm := bit west_ + 2 * bit comp_ }
  | .mswap => some { op := 0xA1 }
  | .mstrm ty_ tr_ sg_ d_ a_ b_ c_ => some { op := 0xA2, d := d_.val, a := a_.val, b := b_.val, c := c_.val, seg := sg_.val, minor := tcode ty_, imm := bit tr_ }
  | .mdrain ty_ cols_ clr_ sg_ d_ a_ b_ c_ => some { op := 0xA3, d := d_.val, a := a_.val, b := b_.val, c := c_.val, seg := sg_.val, minor := tcode ty_, imm := cols_.toNat + 128 * bit clr_ }
  | .mtile sg_ a_ m_ => some { l96 := !m_.disp.short, op := 0xA4, a := a_.val, seg := sg_.val, imm := m_.bits }
  | .mqw d_ sel_ => some { op := 0xA5, d := d_.val, imm := sel_.val }
  | .mclr a_ b_ shadow_ => some { op := 0xA6, a := a_.val, b := b_.val, minor := bit shadow_ }
  | .lxfam d_ a_ b_ => some { op := 0xB0, d := d_.val, a := a_.val, b := b_.val }
  | .lxtab d_ sg_ a_ b_ init_ => some { op := 0xB1, d := d_.val, a := a_.val, b := b_.val, seg := sg_.val, minor := bit init_ }
  | .lxins d_ sg_ a_ b_ c_ => some { op := 0xB2, d := d_.val, a := a_.val, b := b_.val, c := c_.val, seg := sg_.val }
  | .lxdel d_ sg_ a_ b_ c_ => some { op := 0xB3, d := d_.val, a := a_.val, b := b_.val, c := c_.val, seg := sg_.val }
  | .lxprb d_ a_ => some { op := 0xB4, d := d_.val, a := a_.val }
  | .lxrhStart fo_ fn_ sg_ a_ b_ => some { op := 0xB5, a := a_.val, b := b_.val, seg := sg_.val, imm := fo_.val + 4 * fn_.val }
  | .lxrhStep d_ count_ => some { op := 0xB5, d := d_.val, minor := 1, imm := count_.toNat }
  | .lxst d_ sel_ idx_ => some { op := 0xB6, d := d_.val, imm := sel_.val + 8 * idx_.val }
  | .send ch_ a_ sg_ last_ => some { op := 0xC0, d := ch_.val, a := a_.val, seg := sg_.val, minor := bit last_ }
  | .recv d_ ch_ => some { op := 0xC1, d := d_.val, a := ch_.val }
  | .chst d_ ch_ => some { op := 0xC2, d := d_.val, a := ch_.val }
  | .recast a_ b_ sg_ => some { op := 0xC3, a := a_.val, b := b_.val, seg := sg_.val }
  | .nred ty_ op_ tree_ sg_ a_ b_ c_ => some { op := 0xC4, a := a_.val, b := b_.val, c := c_.val, seg := sg_.val, minor := tcode ty_, imm := op_.val + 4 * tree_.val }
  | .nbmax d_ a_ sg_ tree_ => some { op := 0xC5, d := d_.val, a := a_.val, seg := sg_.val, imm := 4 * tree_.val }
  | .nbar sg_ tree_ => some { op := 0xC6, seg := sg_.val, imm := 4 * tree_.val }
  | .winWrite idx_ a_ => some { op := 0xC7, a := a_.val, imm := idx_.val }
  | .winRead d_ idx_ => some { op := 0xC7, d := d_.val, minor := 1, imm := idx_.val }
  | .spawn d_ a_ b_ c_ => some { op := 0xD0, d := d_.val, a := a_.val, b := b_.val, c := c_.val }
  | .join d_ a_ => some { op := 0xD1, d := d_.val, a := a_.val }
  | .clend a_ => some { op := 0xD2, a := a_.val }
  | .launch sg_ d_ a_ m_ => some { l96 := !m_.disp.short, op := 0xD3, d := d_.val, a := a_.val, seg := sg_.val, imm := m_.bits }
  | .waitcWait level_ d_ a_ => some { op := 0xD4, d := d_.val, a := a_.val, minor := lcode level_ }
  | .waitcTest level_ d_ a_ => some { op := 0xD4, d := d_.val, a := a_.val, minor := lcode level_ + 4 }
  | .cancel level_ d_ a_ => some { op := 0xD5, d := d_.val, a := a_.val, minor := lcode level_ }
  | .dqpush d_ a_ b_ => some { op := 0xD6, d := d_.val, a := a_.val, b := b_.val }
  | .dqpop d_ c_ => some { op := 0xD7, d := d_.val, c := c_.val }
  | .dqsteal d_ a_ => some { op := 0xD8, d := d_.val, a := a_.val }
  | .dqcnt d_ clr_ => some { op := 0xD9, d := d_.val, minor := bit clr_ }
  | .tkreq d_ a_ wait_ all_ => some { op := 0xE0, d := d_.val, a := a_.val, minor := bit wait_ + 2 * bit all_ }
  | .tklendLend d_ a_ b_ => some { op := 0xE1, d := d_.val, a := a_.val, b := b_.val }
  | .tklendRecall d_ a_ b_ => some { op := 0xE1, d := d_.val, a := a_.val, b := b_.val, minor := 1 }
  | .tkret d_ a_ => some { op := 0xE2, d := d_.val, a := a_.val }
  | .tkq d_ sel_ => some { op := 0xE3, d := d_.val, imm := sel_.val }
  | .ecset d_ a_ cls_ => some { op := 0xE4, d := d_.val, a := a_.val, minor := cls_.val }
  | .pbar d_ sg_ => some { op := 0xE8, d := d_.val, seg := sg_.val, imm := 6 * 2 ^ 19 }
  | .pseq d_ => some { op := 0xE9, d := d_.val }
  | .ploss d_ sel_ => some { op := 0xEA, d := d_.val, imm := sel_.val }
  | _ => none

/-- The scalar-side instruction that the fields name (R46 and the engine chapters); none when a code is refused. -/
def buildScalar (f : Fields) : Option Instr :=
  match f.op with
  | 0x01 => if f.minor / 4 = 2 then some (.addImm (wOf f.minor) (Fin.ofNat 32 f.d) (Fin.ofNat 32 f.a) (immOf f)) else some (.add (wOf f.minor) (Fin.ofNat 32 f.d) (Fin.ofNat 32 f.a) (Fin.ofNat 32 f.b))
  | 0x02 => if f.minor / 4 = 2 then some (.subImm (wOf f.minor) (Fin.ofNat 32 f.d) (Fin.ofNat 32 f.a) (immOf f)) else some (.sub (wOf f.minor) (Fin.ofNat 32 f.d) (Fin.ofNat 32 f.a) (Fin.ofNat 32 f.b))
  | 0x03 => if f.minor / 4 = 2 then some (.mulImm (wOf f.minor) (Fin.ofNat 32 f.d) (Fin.ofNat 32 f.a) (immOf f)) else some (.mul (wOf f.minor) (Fin.ofNat 32 f.d) (Fin.ofNat 32 f.a) (Fin.ofNat 32 f.b))
  | 0x04 => if f.minor / 4 = 1 then some (.mulhu (wOf f.minor) (Fin.ofNat 32 f.d) (Fin.ofNat 32 f.a) (Fin.ofNat 32 f.b)) else if f.minor / 4 = 2 then some (.mulhImm (wOf f.minor) (Fin.ofNat 32 f.d) (Fin.ofNat 32 f.a) (immOf f)) else if f.minor / 4 = 3 then some (.mulhuImm (wOf f.minor) (Fin.ofNat 32 f.d) (Fin.ofNat 32 f.a) (immOf f)) else some (.mulh (wOf f.minor) (Fin.ofNat 32 f.d) (Fin.ofNat 32 f.a) (Fin.ofNat 32 f.b))
  | 0x05 => if f.minor / 4 = 1 then some (.divu (wOf f.minor) (Fin.ofNat 32 f.d) (Fin.ofNat 32 f.a) (Fin.ofNat 32 f.b)) else if f.minor / 4 = 2 then some (.divImm (wOf f.minor) (Fin.ofNat 32 f.d) (Fin.ofNat 32 f.a) (immOf f)) else if f.minor / 4 = 3 then some (.divuImm (wOf f.minor) (Fin.ofNat 32 f.d) (Fin.ofNat 32 f.a) (immOf f)) else some (.div (wOf f.minor) (Fin.ofNat 32 f.d) (Fin.ofNat 32 f.a) (Fin.ofNat 32 f.b))
  | 0x06 => if f.minor / 4 = 1 then some (.remu (wOf f.minor) (Fin.ofNat 32 f.d) (Fin.ofNat 32 f.a) (Fin.ofNat 32 f.b)) else if f.minor / 4 = 2 then some (.remImm (wOf f.minor) (Fin.ofNat 32 f.d) (Fin.ofNat 32 f.a) (immOf f)) else if f.minor / 4 = 3 then some (.remuImm (wOf f.minor) (Fin.ofNat 32 f.d) (Fin.ofNat 32 f.a) (immOf f)) else some (.rem (wOf f.minor) (Fin.ofNat 32 f.d) (Fin.ofNat 32 f.a) (Fin.ofNat 32 f.b))
  | 0x07 => if f.minor / 4 = 2 then some (.andImm (wOf f.minor) (Fin.ofNat 32 f.d) (Fin.ofNat 32 f.a) (immOf f)) else some (.and (wOf f.minor) (Fin.ofNat 32 f.d) (Fin.ofNat 32 f.a) (Fin.ofNat 32 f.b))
  | 0x08 => if f.minor / 4 = 2 then some (.orImm (wOf f.minor) (Fin.ofNat 32 f.d) (Fin.ofNat 32 f.a) (immOf f)) else some (.or (wOf f.minor) (Fin.ofNat 32 f.d) (Fin.ofNat 32 f.a) (Fin.ofNat 32 f.b))
  | 0x09 => if f.minor / 4 = 2 then some (.xorImm (wOf f.minor) (Fin.ofNat 32 f.d) (Fin.ofNat 32 f.a) (immOf f)) else some (.xor (wOf f.minor) (Fin.ofNat 32 f.d) (Fin.ofNat 32 f.a) (Fin.ofNat 32 f.b))
  | 0x0A => if f.minor / 4 = 2 then some (.andnImm (wOf f.minor) (Fin.ofNat 32 f.d) (Fin.ofNat 32 f.a) (immOf f)) else some (.andn (wOf f.minor) (Fin.ofNat 32 f.d) (Fin.ofNat 32 f.a) (Fin.ofNat 32 f.b))
  | 0x0B => if f.minor / 4 = 2 then some (.ornImm (wOf f.minor) (Fin.ofNat 32 f.d) (Fin.ofNat 32 f.a) (immOf f)) else some (.orn (wOf f.minor) (Fin.ofNat 32 f.d) (Fin.ofNat 32 f.a) (Fin.ofNat 32 f.b))
  | 0x0C => if f.minor / 4 = 2 then some (.shlImm (wOf f.minor) (Fin.ofNat 32 f.d) (Fin.ofNat 32 f.a) (immOf f)) else some (.shl (wOf f.minor) (Fin.ofNat 32 f.d) (Fin.ofNat 32 f.a) (Fin.ofNat 32 f.b))
  | 0x0D => if f.minor / 4 = 2 then some (.shrImm (wOf f.minor) (Fin.ofNat 32 f.d) (Fin.ofNat 32 f.a) (immOf f)) else some (.shr (wOf f.minor) (Fin.ofNat 32 f.d) (Fin.ofNat 32 f.a) (Fin.ofNat 32 f.b))
  | 0x0E => if f.minor / 4 = 2 then some (.sarImm (wOf f.minor) (Fin.ofNat 32 f.d) (Fin.ofNat 32 f.a) (immOf f)) else some (.sar (wOf f.minor) (Fin.ofNat 32 f.d) (Fin.ofNat 32 f.a) (Fin.ofNat 32 f.b))
  | 0x0F => if f.minor / 4 = 2 then some (.rolImm (wOf f.minor) (Fin.ofNat 32 f.d) (Fin.ofNat 32 f.a) (immOf f)) else some (.rol (wOf f.minor) (Fin.ofNat 32 f.d) (Fin.ofNat 32 f.a) (Fin.ofNat 32 f.b))
  | 0x10 => if f.minor / 4 = 2 then some (.rorImm (wOf f.minor) (Fin.ofNat 32 f.d) (Fin.ofNat 32 f.a) (immOf f)) else some (.ror (wOf f.minor) (Fin.ofNat 32 f.d) (Fin.ofNat 32 f.a) (Fin.ofNat 32 f.b))
  | 0x11 => some (.clz (wOf f.minor) (Fin.ofNat 32 f.d) (Fin.ofNat 32 f.a))
  | 0x12 => some (.ctz (wOf f.minor) (Fin.ofNat 32 f.d) (Fin.ofNat 32 f.a))
  | 0x13 => some (.popc (wOf f.minor) (Fin.ofNat 32 f.d) (Fin.ofNat 32 f.a))
  | 0x14 => if f.minor / 4 = 1 then some (.minu (wOf f.minor) (Fin.ofNat 32 f.d) (Fin.ofNat 32 f.a) (Fin.ofNat 32 f.b)) else if f.minor / 4 = 2 then some (.minImm (wOf f.minor) (Fin.ofNat 32 f.d) (Fin.ofNat 32 f.a) (immOf f)) else if f.minor / 4 = 3 then some (.minuImm (wOf f.minor) (Fin.ofNat 32 f.d) (Fin.ofNat 32 f.a) (immOf f)) else some (.min (wOf f.minor) (Fin.ofNat 32 f.d) (Fin.ofNat 32 f.a) (Fin.ofNat 32 f.b))
  | 0x15 => if f.minor / 4 = 1 then some (.maxu (wOf f.minor) (Fin.ofNat 32 f.d) (Fin.ofNat 32 f.a) (Fin.ofNat 32 f.b)) else if f.minor / 4 = 2 then some (.maxImm (wOf f.minor) (Fin.ofNat 32 f.d) (Fin.ofNat 32 f.a) (immOf f)) else if f.minor / 4 = 3 then some (.maxuImm (wOf f.minor) (Fin.ofNat 32 f.d) (Fin.ofNat 32 f.a) (immOf f)) else some (.max (wOf f.minor) (Fin.ofNat 32 f.d) (Fin.ofNat 32 f.a) (Fin.ofNat 32 f.b))
  | 0x16 => some (.bfx (wOf f.minor) (Fin.ofNat 32 f.d) (Fin.ofNat 32 f.a) (Fin.ofNat 32 f.b) (Fin.ofNat 32 f.c))
  | 0x17 => some (.bfi (wOf f.minor) (Fin.ofNat 32 f.d) (Fin.ofNat 32 f.a) (Fin.ofNat 32 f.b) (Fin.ofNat 32 f.c))
  | 0x18 => if f.minor / 4 = 2 then some (.selImm (wOf f.minor) (Fin.ofNat 32 f.d) (Fin.ofNat 32 f.a) (Fin.ofNat 32 f.c) (immOf f)) else some (.sel (wOf f.minor) (Fin.ofNat 32 f.d) (Fin.ofNat 32 f.a) (Fin.ofNat 32 f.b) (Fin.ofNat 32 f.c))
  | 0x19 => some (.li (Fin.ofNat 32 f.d) (immOf f))
  | 0x1A => some (.mov (wOf f.minor) (Fin.ofNat 32 f.d) (Fin.ofNat 32 f.a))
  | 0x40 => (condOf f.minor).bind fun cond_ => some (.cmp cond_ (Fin.ofNat 4 f.skip) (Fin.ofNat 32 f.a) (Fin.ofNat 32 f.b))
  | 0x41 => (condOf f.minor).bind fun cond_ => some (.cmpi cond_ (Fin.ofNat 4 f.skip) (Fin.ofNat 32 f.a) (immOf f))
  | 0x50 => some (.b (immOf f))
  | 0x51 => some (.bl (Fin.ofNat 32 f.d) (immOf f))
  | 0x52 => some (.bi (Fin.ofNat 32 f.a))
  | 0x53 => some (.bli (Fin.ofNat 32 f.d) (Fin.ofNat 32 f.a))
  | 0x54 => some .nop
  | 0x55 => some .exit
  | 0x60 => (memOf f).bind fun m_ => some (.ld (wOf f.minor) (Fin.ofNat 8 f.seg) (Fin.ofNat 32 f.d) (Fin.ofNat 32 f.a) m_)
  | 0x61 => (memOf f).bind fun m_ => some (.st (wOf f.minor) (Fin.ofNat 8 f.seg) (Fin.ofNat 32 f.d) (Fin.ofNat 32 f.a) m_)
  | 0x62 => (memOf f).bind fun m_ => some (.ldx (wOf f.minor) (Fin.ofNat 8 f.seg) (Fin.ofNat 32 f.d) (Fin.ofNat 32 f.a) (Fin.ofNat 32 f.b) m_)
  | 0x63 => (memOf f).bind fun m_ => some (.stx (wOf f.minor) (Fin.ofNat 8 f.seg) (Fin.ofNat 32 f.d) (Fin.ofNat 32 f.a) (Fin.ofNat 32 f.b) m_)
  | 0x80 => (memOf f).bind fun m_ => some (.aadd (wOf f.minor) (Fin.ofNat 8 f.seg) (Fin.ofNat 32 f.d) (Fin.ofNat 32 f.a) (Fin.ofNat 32 f.b) m_)
  | 0x81 => (memOf f).bind fun m_ => some (.aand (wOf f.minor) (Fin.ofNat 8 f.seg) (Fin.ofNat 32 f.d) (Fin.ofNat 32 f.a) (Fin.ofNat 32 f.b) m_)
  | 0x82 => (memOf f).bind fun m_ => some (.aor (wOf f.minor) (Fin.ofNat 8 f.seg) (Fin.ofNat 32 f.d) (Fin.ofNat 32 f.a) (Fin.ofNat 32 f.b) m_)
  | 0x83 => (memOf f).bind fun m_ => some (.axor (wOf f.minor) (Fin.ofNat 8 f.seg) (Fin.ofNat 32 f.d) (Fin.ofNat 32 f.a) (Fin.ofNat 32 f.b) m_)
  | 0x84 => (memOf f).bind fun m_ => some (.amin (wOf f.minor) (Fin.ofNat 8 f.seg) (Fin.ofNat 32 f.d) (Fin.ofNat 32 f.a) (Fin.ofNat 32 f.b) m_)
  | 0x85 => (memOf f).bind fun m_ => some (.amax (wOf f.minor) (Fin.ofNat 8 f.seg) (Fin.ofNat 32 f.d) (Fin.ofNat 32 f.a) (Fin.ofNat 32 f.b) m_)
  | 0x86 => (memOf f).bind fun m_ => some (.aswp (wOf f.minor) (Fin.ofNat 8 f.seg) (Fin.ofNat 32 f.d) (Fin.ofNat 32 f.a) (Fin.ofNat 32 f.b) m_)
  | 0x87 => (memOf f).bind fun m_ => some (.acas (wOf f.minor) (Fin.ofNat 8 f.seg) (Fin.ofNat 32 f.d) (Fin.ofNat 32 f.a) (Fin.ofNat 32 f.b) (Fin.ofNat 32 f.c) m_)
  | 0x88 => (scopeOf (f.imm / 2 ^ 19)).bind fun sc_ => some (.fence sc_)
  | 0x89 => (scopeOf (f.imm / 2 ^ 19)).bind fun sc_ => (pathOf (f.imm % 8)).bind fun p1_ => (pathOf (f.imm / 8 % 8)).bind fun p2_ => some (.fencex sc_ p1_ p2_)
  | 0x90 => some (.cpq (Fin.ofNat 32 f.a))
  | 0x91 => some (.cpqn (Fin.ofNat 32 f.d) (Fin.ofNat 32 f.a))
  | 0x92 => (memOf f).bind fun m_ => some (.ccinit ((f.minor) % 2 == 1) (Fin.ofNat 8 f.seg) (Fin.ofNat 32 f.a) m_)
  | 0x93 => (memOf f).bind fun m_ => some (.ccexp (Fin.ofNat 8 f.seg) (Fin.ofNat 32 f.d) (Fin.ofNat 32 f.a) (Fin.ofNat 32 f.b) m_)
  | 0x94 => (memOf f).bind fun m_ => some (.ccarr (Fin.ofNat 8 f.seg) (Fin.ofNat 32 f.a) (Fin.ofNat 32 f.b) (Fin.ofNat 32 f.c) m_)
  | 0x95 => (memOf f).bind fun m_ => some (.ccwait (Fin.ofNat 8 f.seg) (Fin.ofNat 32 f.a) (Fin.ofNat 32 f.b) m_)
  | 0x96 => (memOf f).bind fun m_ => some (.cctest (Fin.ofNat 8 f.seg) (Fin.ofNat 32 f.d) (Fin.ofNat 32 f.a) (Fin.ofNat 32 f.b) m_)
  | 0x97 => (memOf f).bind fun m_ => some (.cmwait (Fin.ofNat 8 f.seg) (Fin.ofNat 32 f.a) (Fin.ofNat 32 f.b) (Fin.ofNat 32 f.c) m_)
  | 0x98 => (memOf f).bind fun m_ => some (.cmtest (Fin.ofNat 8 f.seg) (Fin.ofNat 32 f.d) (Fin.ofNat 32 f.a) (Fin.ofNat 32 f.b) (Fin.ofNat 32 f.c) m_)
  | 0x99 => (memOf f).bind fun m_ => some (.lde (Fin.ofNat 8 f.seg) (Fin.ofNat 32 f.d) (Fin.ofNat 32 f.a) m_)
  | 0x9A => (memOf f).bind fun m_ => some (.ldc (Fin.ofNat 8 f.seg) (Fin.ofNat 32 f.d) (Fin.ofNat 32 f.a) m_)
  | 0x9B => (memOf f).bind fun m_ => some (.stf (Fin.ofNat 8 f.seg) (Fin.ofNat 32 f.d) (Fin.ofNat 32 f.a) m_)
  | 0x9C => if f.minor = 1 then (memOf f).bind fun m_ => some (.fewFull (Fin.ofNat 8 f.seg) (Fin.ofNat 32 f.a) m_) else (memOf f).bind fun m_ => some (.fewEmpty (Fin.ofNat 8 f.seg) (Fin.ofNat 32 f.a) m_)
  | 0xA0 => (tyOf f.minor).bind fun ty_ => some (.mldw ty_ ((f.imm) % 2 == 1) ((f.imm / 2) % 2 == 1) (Fin.ofNat 8 f.seg) (Fin.ofNat 32 f.d) (Fin.ofNat 32 f.a) (Fin.ofNat 32 f.b) (Fin.ofNat 32 f.c))
  | 0xA1 => some .mswap
  | 0xA2 => (tyOf f.minor).bind fun ty_ => some (.mstrm ty_ ((f.imm) % 2 == 1) (Fin.ofNat 8 f.seg) (Fin.ofNat 32 f.d) (Fin.ofNat 32 f.a) (Fin.ofNat 32 f.b) (Fin.ofNat 32 f.c))
  | 0xA3 => (tyOf f.minor).bind fun ty_ => some (.mdrain ty_ (BitVec.ofNat 7 (f.imm)) ((f.imm / 128) % 2 == 1) (Fin.ofNat 8 f.seg) (Fin.ofNat 32 f.d) (Fin.ofNat 32 f.a) (Fin.ofNat 32 f.b) (Fin.ofNat 32 f.c))
  | 0xA4 => (memOf f).bind fun m_ => some (.mtile (Fin.ofNat 8 f.seg) (Fin.ofNat 32 f.a) m_)
  | 0xA5 => some (.mqw (Fin.ofNat 32 f.d) (Fin.ofNat 4 (f.imm)))
  | 0xA6 => some (.mclr (Fin.ofNat 32 f.a) (Fin.ofNat 32 f.b) ((f.minor) % 2 == 1))
  | 0xB0 => some (.lxfam (Fin.ofNat 4 f.d) (Fin.ofNat 32 f.a) (Fin.ofNat 32 f.b))
  | 0xB1 => some (.lxtab (Fin.ofNat 8 f.d) (Fin.ofNat 8 f.seg) (Fin.ofNat 32 f.a) (Fin.ofNat 32 f.b) ((f.minor) % 2 == 1))
  | 0xB2 => some (.lxins (Fin.ofNat 32 f.d) (Fin.ofNat 8 f.seg) (Fin.ofNat 32 f.a) (Fin.ofNat 32 f.b) (Fin.ofNat 4 f.c))
  | 0xB3 => some (.lxdel (Fin.ofNat 32 f.d) (Fin.ofNat 8 f.seg) (Fin.ofNat 32 f.a) (Fin.ofNat 32 f.b) (Fin.ofNat 4 f.c))
  | 0xB4 => some (.lxprb (Fin.ofNat 32 f.d) (Fin.ofNat 32 f.a))
  | 0xB5 => if f.minor = 1 then some (.lxrhStep (Fin.ofNat 32 f.d) (BitVec.ofNat 7 (f.imm))) else some (.lxrhStart (Fin.ofNat 4 (f.imm)) (Fin.ofNat 4 (f.imm / 4)) (Fin.ofNat 8 f.seg) (Fin.ofNat 32 f.a) (Fin.ofNat 32 f.b))
  | 0xB6 => some (.lxst (Fin.ofNat 32 f.d) (Fin.ofNat 8 (f.imm)) (Fin.ofNat 8 (f.imm / 8)))
  | 0xC0 => some (.send (Fin.ofNat 8 f.d) (Fin.ofNat 32 f.a) (Fin.ofNat 8 f.seg) ((f.minor) % 2 == 1))
  | 0xC1 => some (.recv (Fin.ofNat 32 f.d) (Fin.ofNat 8 f.a))
  | 0xC2 => some (.chst (Fin.ofNat 32 f.d) (Fin.ofNat 8 f.a))
  | 0xC3 => some (.recast (Fin.ofNat 32 f.a) (Fin.ofNat 32 f.b) (Fin.ofNat 8 f.seg))
  | 0xC4 => (tyOf f.minor).bind fun ty_ => some (.nred ty_ (Fin.ofNat 4 (f.imm)) (Fin.ofNat 4 (f.imm / 4)) (Fin.ofNat 8 f.seg) (Fin.ofNat 32 f.a) (Fin.ofNat 32 f.b) (Fin.ofNat 32 f.c))
  | 0xC5 => some (.nbmax (Fin.ofNat 32 f.d) (Fin.ofNat 32 f.a) (Fin.ofNat 8 f.seg) (Fin.ofNat 4 (f.imm / 4)))
  | 0xC6 => some (.nbar (Fin.ofNat 8 f.seg) (Fin.ofNat 4 (f.imm / 4)))
  | 0xC7 => if f.minor = 1 then some (.winRead (Fin.ofNat 32 f.d) (Fin.ofNat 4 (f.imm))) else some (.winWrite (Fin.ofNat 4 (f.imm)) (Fin.ofNat 32 f.a))
  | 0xD0 => some (.spawn (Fin.ofNat 32 f.d) (Fin.ofNat 32 f.a) (Fin.ofNat 32 f.b) (Fin.ofNat 32 f.c))
  | 0xD1 => some (.join (Fin.ofNat 32 f.d) (Fin.ofNat 32 f.a))
  | 0xD2 => some (.clend (Fin.ofNat 32 f.a))
  | 0xD3 => (memOf f).bind fun m_ => some (.launch (Fin.ofNat 8 f.seg) (Fin.ofNat 32 f.d) (Fin.ofNat 32 f.a) m_)
  | 0xD4 => if f.minor / 4 % 2 = 1 then some (.waitcTest (levelOf f.minor) (Fin.ofNat 32 f.d) (Fin.ofNat 32 f.a)) else some (.waitcWait (levelOf f.minor) (Fin.ofNat 32 f.d) (Fin.ofNat 32 f.a))
  | 0xD5 => some (.cancel (levelOf f.minor) (Fin.ofNat 32 f.d) (Fin.ofNat 32 f.a))
  | 0xD6 => some (.dqpush (Fin.ofNat 32 f.d) (Fin.ofNat 32 f.a) (Fin.ofNat 32 f.b))
  | 0xD7 => some (.dqpop (Fin.ofNat 32 f.d) (Fin.ofNat 32 f.c))
  | 0xD8 => some (.dqsteal (Fin.ofNat 32 f.d) (Fin.ofNat 32 f.a))
  | 0xD9 => some (.dqcnt (Fin.ofNat 32 f.d) ((f.minor) % 2 == 1))
  | 0xE0 => some (.tkreq (Fin.ofNat 32 f.d) (Fin.ofNat 32 f.a) ((f.minor) % 2 == 1) ((f.minor / 2) % 2 == 1))
  | 0xE1 => if f.minor = 1 then some (.tklendRecall (Fin.ofNat 32 f.d) (Fin.ofNat 32 f.a) (Fin.ofNat 32 f.b)) else some (.tklendLend (Fin.ofNat 32 f.d) (Fin.ofNat 32 f.a) (Fin.ofNat 32 f.b))
  | 0xE2 => some (.tkret (Fin.ofNat 32 f.d) (Fin.ofNat 32 f.a))
  | 0xE3 => some (.tkq (Fin.ofNat 32 f.d) (Fin.ofNat 4 (f.imm)))
  | 0xE4 => some (.ecset (Fin.ofNat 32 f.d) (Fin.ofNat 32 f.a) (Fin.ofNat 8 (f.minor)))
  | 0xE8 => some (.pbar (Fin.ofNat 32 f.d) (Fin.ofNat 8 f.seg))
  | 0xE9 => some (.pseq (Fin.ofNat 32 f.d))
  | 0xEA => some (.ploss (Fin.ofNat 32 f.d) (Fin.ofNat 4 (f.imm)))
  | 0xF0 => if f.minor = 1 then some (.segldAbs (Fin.ofNat 8 f.d) (Fin.ofNat 32 f.a) (Fin.ofNat 32 f.b)) else some (.segldNarrow (Fin.ofNat 8 f.d) (Fin.ofNat 32 f.a) (Fin.ofNat 32 f.b) (Fin.ofNat 8 f.c))
  | 0xF1 => some (.segrd (Fin.ofNat 32 f.d) (Fin.ofNat 8 f.a) ((f.minor) % 2 == 1))
  | 0xF2 => some (.sysrd (Fin.ofNat 32 f.d) (BitVec.ofNat 12 (f.imm)))
  | 0xF3 => some (.syswr (BitVec.ofNat 12 (f.imm)) (Fin.ofNat 32 f.a))
  | 0xF4 => some (.trap (BitVec.ofNat 8 (f.imm)))
  | 0xF5 => some .rte
  | 0xF6 => some .yield
  | 0xF7 => some (.sleep (Fin.ofNat 32 f.a))
  | 0xF8 => some (.wake (Fin.ofNat 32 f.d) (Fin.ofNat 32 f.a))
  | 0xF9 => some .iflush
  | 0xFA => some (.ctxsv (Fin.ofNat 32 f.d) (Fin.ofNat 32 f.a))
  | 0xFB => some (.ctxld (Fin.ofNat 32 f.d) (Fin.ofNat 32 f.a))
  | 0xFC => some (.idrd (Fin.ofNat 32 f.d) (BitVec.ofNat 8 (f.imm)))
  | 0xFD => some (.clkrd (Fin.ofNat 32 f.d))
  | _ => none

/-- The vector-side instruction that the fields name (R47, "The vector engine"); none when a code is refused. -/
def buildVector (f : Fields) : Option Instr :=
  match f.op with
  | 0x00 => (tyOf f.minor).bind fun ty_ => some (.vfadd ty_ (Fin.ofNat 8 (f.imm)) (Fin.ofNat 8 f.seg) (Fin.ofNat 16 f.d) (Fin.ofNat 16 f.a) (Fin.ofNat 16 f.b))
  | 0x01 => (tyOf f.minor).bind fun ty_ => some (.vfsub ty_ (Fin.ofNat 8 (f.imm)) (Fin.ofNat 8 f.seg) (Fin.ofNat 16 f.d) (Fin.ofNat 16 f.a) (Fin.ofNat 16 f.b))
  | 0x02 => (tyOf f.minor).bind fun ty_ => some (.vfmul ty_ (Fin.ofNat 8 (f.imm)) (Fin.ofNat 8 f.seg) (Fin.ofNat 16 f.d) (Fin.ofNat 16 f.a) (Fin.ofNat 16 f.b))
  | 0x03 => (tyOf f.minor).bind fun ty_ => some (.vfma ty_ (Fin.ofNat 8 (f.imm)) (Fin.ofNat 8 f.seg) (Fin.ofNat 16 f.d) (Fin.ofNat 16 f.a) (Fin.ofNat 16 f.b) (Fin.ofNat 16 f.c))
  | 0x04 => (tyOf f.minor).bind fun ty_ => some (.vfms ty_ (Fin.ofNat 8 (f.imm)) (Fin.ofNat 8 f.seg) (Fin.ofNat 16 f.d) (Fin.ofNat 16 f.a) (Fin.ofNat 16 f.b) (Fin.ofNat 16 f.c))
  | 0x05 => (tyOf f.minor).bind fun ty_ => some (.vfnma ty_ (Fin.ofNat 8 (f.imm)) (Fin.ofNat 8 f.seg) (Fin.ofNat 16 f.d) (Fin.ofNat 16 f.a) (Fin.ofNat 16 f.b) (Fin.ofNat 16 f.c))
  | 0x06 => (tyOf f.minor).bind fun ty_ => some (.vfdiv ty_ (Fin.ofNat 8 (f.imm)) (Fin.ofNat 8 f.seg) (Fin.ofNat 16 f.d) (Fin.ofNat 16 f.a) (Fin.ofNat 16 f.b))
  | 0x07 => (tyOf f.minor).bind fun ty_ => some (.vfsqrt ty_ (Fin.ofNat 8 (f.imm)) (Fin.ofNat 8 f.seg) (Fin.ofNat 16 f.d) (Fin.ofNat 16 f.a))
  | 0x08 => (tyOf f.minor).bind fun ty_ => some (.vfmin ty_ (Fin.ofNat 8 f.seg) (Fin.ofNat 16 f.d) (Fin.ofNat 16 f.a) (Fin.ofNat 16 f.b))
  | 0x09 => (tyOf f.minor).bind fun ty_ => some (.vfmax ty_ (Fin.ofNat 8 f.seg) (Fin.ofNat 16 f.d) (Fin.ofNat 16 f.a) (Fin.ofNat 16 f.b))
  | 0x0A => (tyOf f.minor).bind fun ty_ => some (.vfabs ty_ (Fin.ofNat 8 f.seg) (Fin.ofNat 16 f.d) (Fin.ofNat 16 f.a))
  | 0x0B => (tyOf f.minor).bind fun ty_ => some (.vfneg ty_ (Fin.ofNat 8 f.seg) (Fin.ofNat 16 f.d) (Fin.ofNat 16 f.a))
  | 0x0C => (tyOf f.minor).bind fun ty_ => (fcondOf (f.imm / 16 % 16)).bind fun cond_ => some (.vfcmp ty_ cond_ (Fin.ofNat 8 f.seg) (Fin.ofNat 8 f.d) (Fin.ofNat 16 f.a) (Fin.ofNat 16 f.b))
  | 0x0D => (tyOf f.minor).bind fun ty_ => some (.vfexp2 ty_ (Fin.ofNat 8 f.seg) (Fin.ofNat 16 f.d) (Fin.ofNat 16 f.a))
  | 0x0E => (tyOf f.minor).bind fun ty_ => some (.vflog2 ty_ (Fin.ofNat 8 f.seg) (Fin.ofNat 16 f.d) (Fin.ofNat 16 f.a))
  | 0x0F => (tyOf f.minor).bind fun ty_ => some (.vfsin ty_ (Fin.ofNat 8 f.seg) (Fin.ofNat 16 f.d) (Fin.ofNat 16 f.a))
  | 0x10 => (tyOf f.minor).bind fun ty_ => some (.vfcos ty_ (Fin.ofNat 8 f.seg) (Fin.ofNat 16 f.d) (Fin.ofNat 16 f.a))
  | 0x11 => (tyOf f.minor).bind fun ty_ => some (.vftanh ty_ (Fin.ofNat 8 f.seg) (Fin.ofNat 16 f.d) (Fin.ofNat 16 f.a))
  | 0x12 => (tyOf f.minor).bind fun ty_ => some (.vfrcp ty_ (Fin.ofNat 8 (f.imm)) (Fin.ofNat 8 f.seg) (Fin.ofNat 16 f.d) (Fin.ofNat 16 f.a))
  | 0x13 => (tyOf f.minor).bind fun ty_ => some (.vfrsq ty_ (Fin.ofNat 8 (f.imm)) (Fin.ofNat 8 f.seg) (Fin.ofNat 16 f.d) (Fin.ofNat 16 f.a))
  | 0x40 => (tyOf f.minor).bind fun ty_ => some (.vadd ty_ (Fin.ofNat 8 f.seg) (Fin.ofNat 16 f.d) (Fin.ofNat 16 f.a) (Fin.ofNat 16 f.b))
  | 0x41 => (tyOf f.minor).bind fun ty_ => some (.vsub ty_ (Fin.ofNat 8 f.seg) (Fin.ofNat 16 f.d) (Fin.ofNat 16 f.a) (Fin.ofNat 16 f.b))
  | 0x42 => (tyOf f.minor).bind fun ty_ => some (.vmul ty_ (Fin.ofNat 8 f.seg) (Fin.ofNat 16 f.d) (Fin.ofNat 16 f.a) (Fin.ofNat 16 f.b))
  | 0x43 => if f.imm / 8 % 2 = 1 then (tyOf f.minor).bind fun ty_ => some (.vmulhu ty_ (Fin.ofNat 8 f.seg) (Fin.ofNat 16 f.d) (Fin.ofNat 16 f.a) (Fin.ofNat 16 f.b)) else (tyOf f.minor).bind fun ty_ => some (.vmulh ty_ (Fin.ofNat 8 f.seg) (Fin.ofNat 16 f.d) (Fin.ofNat 16 f.a) (Fin.ofNat 16 f.b))
  | 0x44 => (tyOf f.minor).bind fun ty_ => some (.vand ty_ (Fin.ofNat 8 f.seg) (Fin.ofNat 16 f.d) (Fin.ofNat 16 f.a) (Fin.ofNat 16 f.b))
  | 0x45 => (tyOf f.minor).bind fun ty_ => some (.vor ty_ (Fin.ofNat 8 f.seg) (Fin.ofNat 16 f.d) (Fin.ofNat 16 f.a) (Fin.ofNat 16 f.b))
  | 0x46 => (tyOf f.minor).bind fun ty_ => some (.vxor ty_ (Fin.ofNat 8 f.seg) (Fin.ofNat 16 f.d) (Fin.ofNat 16 f.a) (Fin.ofNat 16 f.b))
  | 0x47 => (tyOf f.minor).bind fun ty_ => some (.vshl ty_ (Fin.ofNat 8 f.seg) (Fin.ofNat 16 f.d) (Fin.ofNat 16 f.a) (Fin.ofNat 16 f.b))
  | 0x48 => (tyOf f.minor).bind fun ty_ => some (.vshr ty_ (Fin.ofNat 8 f.seg) (Fin.ofNat 16 f.d) (Fin.ofNat 16 f.a) (Fin.ofNat 16 f.b))
  | 0x49 => (tyOf f.minor).bind fun ty_ => some (.vsar ty_ (Fin.ofNat 8 f.seg) (Fin.ofNat 16 f.d) (Fin.ofNat 16 f.a) (Fin.ofNat 16 f.b))
  | 0x4A => if f.imm / 8 % 2 = 1 then (tyOf f.minor).bind fun ty_ => some (.vminu ty_ (Fin.ofNat 8 f.seg) (Fin.ofNat 16 f.d) (Fin.ofNat 16 f.a) (Fin.ofNat 16 f.b)) else (tyOf f.minor).bind fun ty_ => some (.vmin ty_ (Fin.ofNat 8 f.seg) (Fin.ofNat 16 f.d) (Fin.ofNat 16 f.a) (Fin.ofNat 16 f.b))
  | 0x4B => if f.imm / 8 % 2 = 1 then (tyOf f.minor).bind fun ty_ => some (.vmaxu ty_ (Fin.ofNat 8 f.seg) (Fin.ofNat 16 f.d) (Fin.ofNat 16 f.a) (Fin.ofNat 16 f.b)) else (tyOf f.minor).bind fun ty_ => some (.vmax ty_ (Fin.ofNat 8 f.seg) (Fin.ofNat 16 f.d) (Fin.ofNat 16 f.a) (Fin.ofNat 16 f.b))
  | 0x4C => (tyOf f.minor).bind fun ty_ => some (.vabs ty_ (Fin.ofNat 8 f.seg) (Fin.ofNat 16 f.d) (Fin.ofNat 16 f.a))
  | 0x4D => (tyOf f.minor).bind fun ty_ => (condOf (f.imm / 16 % 16)).bind fun cond_ => some (.vcmp ty_ cond_ (Fin.ofNat 8 f.seg) (Fin.ofNat 8 f.d) (Fin.ofNat 16 f.a) (Fin.ofNat 16 f.b))
  | 0x4E => if f.imm / 8 % 2 = 1 then (tyOf f.minor).bind fun ty_ => some (.vaddsu ty_ (Fin.ofNat 8 f.seg) (Fin.ofNat 16 f.d) (Fin.ofNat 16 f.a) (Fin.ofNat 16 f.b)) else (tyOf f.minor).bind fun ty_ => some (.vadds ty_ (Fin.ofNat 8 f.seg) (Fin.ofNat 16 f.d) (Fin.ofNat 16 f.a) (Fin.ofNat 16 f.b))
  | 0x4F => if f.imm / 8 % 2 = 1 then (tyOf f.minor).bind fun ty_ => some (.vsubsu ty_ (Fin.ofNat 8 f.seg) (Fin.ofNat 16 f.d) (Fin.ofNat 16 f.a) (Fin.ofNat 16 f.b)) else (tyOf f.minor).bind fun ty_ => some (.vsubs ty_ (Fin.ofNat 8 f.seg) (Fin.ofNat 16 f.d) (Fin.ofNat 16 f.a) (Fin.ofNat 16 f.b))
  | 0x60 => (tyOf f.minor).bind fun ty_ => (tyOf (f.imm / 16 % 16)).bind fun src_ => some (.vcvt ty_ src_ ((f.imm / 512) % 2 == 1) ((f.imm / 256) % 2 == 1) (Fin.ofNat 8 (f.imm / 1024)) (Fin.ofNat 8 (f.imm)) (Fin.ofNat 8 f.seg) (Fin.ofNat 16 f.d) (Fin.ofNat 16 f.a))
  | 0x61 => some (.vqlns (Fin.ofNat 8 (f.imm / 1024)) (Fin.ofNat 8 f.seg) (Fin.ofNat 16 f.d) (Fin.ofNat 16 f.a) (Fin.ofNat 32 f.b))
  | 0x62 => some (.vdqlns (Fin.ofNat 8 (f.imm / 1024)) (Fin.ofNat 8 (f.imm)) (Fin.ofNat 8 f.seg) (Fin.ofNat 16 f.d) (Fin.ofNat 16 f.a) (Fin.ofNat 32 f.b))
  | 0x63 => (tyOf f.minor).bind fun ty_ => some (.vbmax ty_ (Fin.ofNat 8 f.seg) (Fin.ofNat 32 f.d) (Fin.ofNat 16 f.a))
  | 0x70 => (tyOf f.minor).bind fun ty_ => some (.vwhile ty_ (Fin.ofNat 8 f.d) (Fin.ofNat 32 f.a) (Fin.ofNat 32 f.b))
  | 0x71 => some (.pand (Fin.ofNat 8 f.seg) (Fin.ofNat 8 f.d) (Fin.ofNat 8 f.a) (Fin.ofNat 8 f.b))
  | 0x72 => some (.por (Fin.ofNat 8 f.seg) (Fin.ofNat 8 f.d) (Fin.ofNat 8 f.a) (Fin.ofNat 8 f.b))
  | 0x73 => some (.pxor (Fin.ofNat 8 f.seg) (Fin.ofNat 8 f.d) (Fin.ofNat 8 f.a) (Fin.ofNat 8 f.b))
  | 0x74 => some (.pnot (Fin.ofNat 8 f.seg) (Fin.ofNat 8 f.d) (Fin.ofNat 8 f.a))
  | 0x75 => (tyOf f.minor).bind fun ty_ => some (.pcnt ty_ (Fin.ofNat 8 f.seg) (Fin.ofNat 32 f.d) (Fin.ofNat 8 f.a))
  | 0x76 => (tyOf f.minor).bind fun ty_ => some (.vqlen ty_ (Fin.ofNat 32 f.d))
  | 0x80 => (tyOf f.minor).bind fun ty_ => some (.vmov ty_ (Fin.ofNat 8 f.seg) (Fin.ofNat 16 f.d) (Fin.ofNat 16 f.a))
  | 0x81 => (tyOf f.minor).bind fun ty_ => some (.vdup ty_ (Fin.ofNat 8 f.seg) (Fin.ofNat 16 f.d) (Fin.ofNat 32 f.a))
  | 0x82 => (tyOf f.minor).bind fun ty_ => some (.vext ty_ (Fin.ofNat 32 f.d) (Fin.ofNat 16 f.a) (Fin.ofNat 32 f.b))
  | 0x83 => (tyOf f.minor).bind fun ty_ => some (.vperm ty_ (Fin.ofNat 8 f.seg) (Fin.ofNat 16 f.d) (Fin.ofNat 16 f.a) (Fin.ofNat 16 f.b))
  | 0x84 => (tyOf f.minor).bind fun ty_ => some (.vslide ty_ (Fin.ofNat 8 f.seg) (Fin.ofNat 16 f.d) (Fin.ofNat 16 f.a) (Fin.ofNat 32 f.b))
  | 0x85 => (tyOf f.minor).bind fun ty_ => some (.vcompress ty_ (Fin.ofNat 8 f.seg) (Fin.ofNat 16 f.d) (Fin.ofNat 16 f.a))
  | 0x86 => (tyOf f.minor).bind fun ty_ => some (.vnzx ty_ (Fin.ofNat 8 (f.imm / 1024)) (Fin.ofNat 8 f.seg) (Fin.ofNat 16 f.d) (Fin.ofNat 16 f.a) (Fin.ofNat 32 f.b) (Fin.ofNat 32 f.c))
  | 0x87 => (tyOf f.minor).bind fun ty_ => some (.vsel ty_ (Fin.ofNat 8 f.seg) (Fin.ofNat 16 f.d) (Fin.ofNat 16 f.a) (Fin.ofNat 16 f.b) (Fin.ofNat 8 f.c))
  | 0xA0 => (tyOf f.minor).bind fun ty_ => some (.vradd ty_ (Fin.ofNat 8 (f.imm)) (Fin.ofNat 8 f.seg) (Fin.ofNat 32 f.d) (Fin.ofNat 16 f.a))
  | 0xA1 => (tyOf f.minor).bind fun ty_ => some (.vraddo ty_ (Fin.ofNat 8 (f.imm)) (Fin.ofNat 8 f.seg) (Fin.ofNat 32 f.d) (Fin.ofNat 16 f.a) (Fin.ofNat 32 f.b))
  | 0xA2 => if f.imm / 8 % 2 = 1 then (tyOf f.minor).bind fun ty_ => some (.vrminu ty_ (Fin.ofNat 8 f.seg) (Fin.ofNat 32 f.d) (Fin.ofNat 16 f.a)) else (tyOf f.minor).bind fun ty_ => some (.vrmin ty_ (Fin.ofNat 8 f.seg) (Fin.ofNat 32 f.d) (Fin.ofNat 16 f.a))
  | 0xA3 => if f.imm / 8 % 2 = 1 then (tyOf f.minor).bind fun ty_ => some (.vrmaxu ty_ (Fin.ofNat 8 f.seg) (Fin.ofNat 32 f.d) (Fin.ofNat 16 f.a)) else (tyOf f.minor).bind fun ty_ => some (.vrmax ty_ (Fin.ofNat 8 f.seg) (Fin.ofNat 32 f.d) (Fin.ofNat 16 f.a))
  | 0xB0 => (tyOf f.minor).bind fun ty_ => (memOf f).bind fun m_ => some (.vld ty_ (Fin.ofNat 8 f.c) (Fin.ofNat 8 f.seg) (Fin.ofNat 16 f.d) (Fin.ofNat 32 f.a) m_)
  | 0xB1 => (tyOf f.minor).bind fun ty_ => (memOf f).bind fun m_ => some (.vst ty_ (Fin.ofNat 8 f.c) (Fin.ofNat 8 f.seg) (Fin.ofNat 16 f.d) (Fin.ofNat 32 f.a) m_)
  | 0xB2 => (tyOf f.minor).bind fun ty_ => (memOf f).bind fun m_ => some (.vldg ty_ (Fin.ofNat 8 f.c) (Fin.ofNat 8 f.seg) (Fin.ofNat 16 f.d) (Fin.ofNat 32 f.a) (Fin.ofNat 16 f.b) m_)
  | 0xB3 => (tyOf f.minor).bind fun ty_ => (memOf f).bind fun m_ => some (.vsts ty_ (Fin.ofNat 8 f.c) (Fin.ofNat 8 f.seg) (Fin.ofNat 16 f.d) (Fin.ofNat 32 f.a) (Fin.ofNat 16 f.b) m_)
  | 0xB4 => (memOf f).bind fun m_ => some (.vldt (Fin.ofNat 8 f.seg) (Fin.ofNat 16 f.d) (Fin.ofNat 32 f.a) (Fin.ofNat 32 f.b) m_)
  | 0xB5 => (memOf f).bind fun m_ => some (.vstt (Fin.ofNat 8 f.seg) (Fin.ofNat 16 f.d) (Fin.ofNat 32 f.a) (Fin.ofNat 32 f.b) m_)
  | _ => none

/-- The instruction that the fields name. -/
def buildOp (f : Fields) : Option Instr := if f.unit = 0 then buildScalar f else buildVector f

/-- Opcodes assigned in the map that the unit bit selects (R46, R47; step 5). -/
def opAssigned (unit op : Nat) : Bool :=
  if unit = 0 then
    (0x01 ≤ op && op ≤ 0x1A) || (0x40 ≤ op && op ≤ 0x41) || (0x50 ≤ op && op ≤ 0x55) || (0x60 ≤ op && op ≤ 0x63)
      || (0x80 ≤ op && op ≤ 0x89) || (0x90 ≤ op && op ≤ 0x9C) || (0xA0 ≤ op && op ≤ 0xA6) || (0xB0 ≤ op && op ≤ 0xB6)
      || (0xC0 ≤ op && op ≤ 0xC7) || (0xD0 ≤ op && op ≤ 0xD9) || (0xE0 ≤ op && op ≤ 0xE4) || (0xE8 ≤ op && op ≤ 0xEA)
      || (0xF0 ≤ op && op ≤ 0xFD)
  else
    op ≤ 0x13 || (0x40 ≤ op && op ≤ 0x4F) || (0x60 ≤ op && op ≤ 0x63) || (0x70 ≤ op && op ≤ 0x76)
      || (0x80 ≤ op && op ≤ 0x87) || (0xA0 ≤ op && op ≤ 0xA3) || (0xB0 ≤ op && op ≤ 0xB5)

/-- The engines of the issuing tile that an opcode may need (R48). -/
structure Engines where
  matrix : Bool
  lexicon : Bool
deriving DecidableEq, Repr

/-- The opcode's engine is present in the tile (R48; step 6). -/
def enginePresent (e : Engines) (unit op : Nat) : Bool :=
  if unit = 0 && 0xA0 ≤ op && op ≤ 0xA6 then e.matrix
  else if unit = 0 && 0xB0 ≤ op && op ≤ 0xB6 then e.lexicon
  else true

/-- Integer opcodes that have an immediate form (R46). -/
def hasImmForm (op : Nat) : Bool := (0x01 ≤ op && op ≤ 0x10) || op == 0x14 || op == 0x15 || op == 0x18

/-- Operations with an L96 form (R32, Table 3; step 7). -/
def longFormOk (f : Fields) : Bool :=
  if f.unit = 0 then
    (hasImmForm f.op && f.minor / 8 == 1) || f.op == 0x19 || f.op == 0x41 || f.op == 0x50 || f.op == 0x51
      || (0x60 ≤ f.op && f.op ≤ 0x63)
  else f.op == 0xB0 || f.op == 0xB1

/-- Register file sizes for the fields d, a, b, c of an operation (R33; 32 where the field names a g register or is unused). -/
def fileSizes (f : Fields) : Nat × Nat × Nat × Nat :=
  if f.unit = 0 then
    match f.op with
    | 0xB0 => (4, 32, 32, 32)
    | 0xB1 => (8, 32, 32, 32)
    | 0xB2 => (32, 32, 32, 4)
    | 0xB3 => (32, 32, 32, 4)
    | 0xC0 => (8, 32, 32, 32)
    | 0xC1 => (32, 8, 32, 32)
    | 0xC2 => (32, 8, 32, 32)
    | 0xF0 => (8, 32, 32, if f.minor = 0 then 8 else 32)
    | 0xF1 => (32, 8, 32, 32)
    | _ => (32, 32, 32, 32)
  else
    if [0x00, 0x01, 0x02, 0x06, 0x08, 0x09, 0x40, 0x41, 0x42, 0x43, 0x44, 0x45, 0x46, 0x47, 0x48, 0x49, 0x4A, 0x4B, 0x4E, 0x4F, 0x83].contains f.op then (16, 16, 16, 32) else
    if [0x03, 0x04, 0x05].contains f.op then (16, 16, 16, 16) else
    if [0x07, 0x0A, 0x0B, 0x0D, 0x0E, 0x0F, 0x10, 0x11, 0x12, 0x13, 0x4C, 0x60, 0x61, 0x62, 0x80, 0x84, 0x85, 0x86].contains f.op then (16, 16, 32, 32) else
    if [0x0C, 0x4D].contains f.op then (8, 16, 16, 32) else
    if [0x63, 0x82, 0xA0, 0xA1, 0xA2, 0xA3].contains f.op then (32, 16, 32, 32) else
    if [0x70].contains f.op then (8, 32, 32, 32) else
    if [0x71, 0x72, 0x73].contains f.op then (8, 8, 8, 32) else
    if [0x74].contains f.op then (8, 8, 32, 32) else
    if [0x75].contains f.op then (32, 8, 32, 32) else
    if [0x81, 0xB4, 0xB5].contains f.op then (16, 32, 32, 32) else
    if [0x87].contains f.op then (16, 16, 16, 8) else
    if [0xB0, 0xB1].contains f.op then (16, 32, 32, 8) else
    if [0xB2, 0xB3].contains f.op then (16, 32, 16, 8) else
    (32, 32, 32, 32)

/-- Register fields within their files (R33; step 8). -/
def regsOk (f : Fields) : Bool :=
  f.d < (fileSizes f).1 && f.a < (fileSizes f).2.1 && f.b < (fileSizes f).2.2.1 && f.c < (fileSizes f).2.2.2

/-- The outcome of decoding one operation: an instruction, or the step of Table 11 that stops it. -/
inductive OpRes where
  | instr (i : Instr)
  | stop (step : Nat)
deriving DecidableEq, Repr

/-- Steps 5 to 10 of Table 11 for one operation (R49). Reserved bits are those the instruction read does not set (R34). -/
def decodeOp (e : Engines) (f : Fields) : OpRes :=
  if !opAssigned f.unit f.op then .stop 5
  else if !enginePresent e f.unit f.op then .stop 6
  else if f.l96 && !longFormOk f then .stop 7
  else if !regsOk f then .stop 8
  else
    match buildOp f with
    | none => .stop 9
    | some i =>
      if !i.codesOk || (i.fields.map fun g => { g with skip := 0 }) != some { f with skip := 0 } then .stop 9
      else if !i.skipOk || i.fields != some f then .stop 10
      else .instr i

/-- The fields below the length code of a 64-bit operation (R31, Table 2). -/
def unpack (w : Nat) : Fields :=
  { unit := w / 2 ^ 2 % 2, op := w / 2 ^ 3 % 256, d := w / 2 ^ 11 % 32, a := w / 2 ^ 16 % 32, b := w / 2 ^ 21 % 32,
    c := w / 2 ^ 26 % 32, seg := w / 2 ^ 31 % 8, skip := w / 2 ^ 34 % 4, minor := w / 2 ^ 36 % 16,
    imm := w / 2 ^ 40 % 2 ^ 24 }

/-- The fields of an L96 word: imm56 in bits [95:40] (R32). -/
def unpackLong (w : Nat) : Fields := { unpack w with l96 := true, imm := w / 2 ^ 40 % 2 ^ 56 }

/-- The bits of an operation's fields, with a length code. -/
def pack (len : Nat) (f : Fields) : Nat :=
  len + 2 ^ 2 * f.unit + 2 ^ 3 * f.op + 2 ^ 11 * f.d + 2 ^ 16 * f.a + 2 ^ 21 * f.b + 2 ^ 26 * f.c + 2 ^ 31 * f.seg
    + 2 ^ 34 * f.skip + 2 ^ 36 * f.minor + 2 ^ 40 * f.imm

/-- The detail code of each step of Table 11. -/
def stepDetail : Nat → Nat
  | 2 => 0x01 | 3 => 0x02 | 4 => 0x04 | 5 => 0x03 | 6 => 0x05 | 7 => 0x06 | 8 => 0x07 | 9 => 0x08 | 10 => 0x09
  | _ => 0x0A

/-- What the bits at the program counter are (R28 to R30, R49). -/
inductive Decoded where
  | instr (i : Instr) (bytes : Nat)   -- an instruction and its length
  | filler                            -- a block-end filler (R29)
  | boundary                          -- the word would leave its fetch block (R30)
  | illegal (detail : Nat)            -- stopped, with the detail code of Table 11
deriving DecidableEq, Repr

/-- The step at which a half stops, or 12 when it passes. -/
def OpRes.stepNo : OpRes → Nat
  | .instr _ => 12
  | .stop n => n

/-- A P128 word (R40, R42): bits [127:0] of `w`. A scalar half from 0x90 up fails step 7. -/
def decodePair (e : Engines) (w : Nat) : Decoded :=
  if !(w / 4 % 2 == 0 && w / 2 ^ 64 % 4 == 0 && w / 2 ^ 66 % 2 == 1) then .illegal (stepDetail 3)
  else
    let fs := unpack (w % 2 ^ 64)
    let fv := unpack (w / 2 ^ 64)
    let rs := decodeOp e fs
    let rv := decodeOp e fv
    let s := if opAssigned 0 fs.op && enginePresent e 0 fs.op && 0x90 ≤ fs.op then min rs.stepNo 7 else rs.stepNo
    let m := min s rv.stepNo
    if m < 12 then .illegal (stepDetail m)
    else
      match rs, rv with
      | .instr x, .instr y => if pairOk x y then .instr (.pair x y) 16 else .illegal (stepDetail 11)
      | _, _ => .illegal (stepDetail 11)

/-- The steps of Table 11 for the word in the low bits of `w`, of which `avail` bytes lie in the fetch block (R30, R49). -/
def decodeWord (e : Engines) (avail w : Nat) : Decoded :=
  match w % 4 with
  | 0 =>
    if avail < 8 then .boundary
    else if w % 2 ^ 64 = 0 then .illegal (stepDetail 4)
    else
      match decodeOp e (unpack w) with
      | .instr i => .instr i 8
      | .stop n => .illegal (stepDetail n)
  | 1 =>
    if avail < 12 then .boundary
    else
      match decodeOp e (unpackLong w) with
      | .instr i => .instr i 12
      | .stop n => .illegal (stepDetail n)
  | 2 => if avail < 16 then .boundary else decodePair e w
  | _ => if w % 2 ^ 32 = 3 then .filler else .illegal (stepDetail 2)

/-- The length in bytes that the length code gives a word (R28); 4 for code 0b11. -/
def wordLength (w : Nat) : Nat :=
  match w % 4 with
  | 0 => 8 | 1 => 12 | 2 => 16 | _ => 4

/-- The bits of an instruction, and its length in bytes: S64, L96 or P128 (R28, R31, R32, R40); none for an event. -/
def encode : Instr → Option (Nat × Nat)
  | .pair x y =>
    match x.fields, y.fields with
    | some fx, some fy => some (pack 2 fx + 2 ^ 64 * pack 0 fy, 16)
    | _, _ => none
  | i => i.fields.map fun f => if f.l96 then (pack 1 f, 12) else (pack 0 f, 8)

/-- A tile with every engine, so that every opcode of the maps is an instruction of it (a sparse tile, R11). -/
def allEngines : Engines := ⟨true, true⟩

/-- The instruction that the decoder reads from a word of the opcode table laid out as spec/opcode_table.json numbers it:
bit 0 the least significant bit of the first word; every bit above `nbits` is 0. The whole word lies in its block. -/
def decodeTableWord (nbits w : Nat) : Option Instr :=
  match decodeWord allEngines 32 (w % 2 ^ nbits) with
  | .instr i _ => some i
  | _ => none

end Sys2Proof
end

