-- ==== Sys2Proof/Machine/Fp.lean ====
section
/-!
DEFINITION. Floating point as R56 and R57 give it: the three binary formats, exact values of operands, and ONE rounding function
from exact values with its flags; the arithmetic of R187 and R188, comparisons of R191 and conversions of R62 over it. Values
are natural-number bit patterns; flags are the bits [7:0] of the arithmetic field of R58.
-/
namespace Sys2Proof.Machine

/-- The flag bits of the arithmetic field (R58, Table 2). -/
abbrev Fl := BitVec 8

/-- nv, invalid operation. -/
def Fl.nv : Fl := 0x01
/-- dz, division by zero. -/
def Fl.dz : Fl := 0x02
/-- of, overflow. -/
def Fl.of : Fl := 0x04
/-- uf, underflow. -/
def Fl.uf : Fl := 0x08
/-- nx, inexact. -/
def Fl.nx : Fl := 0x10
/-- range, beyond the reduction limit of VFSIN and VFCOS. -/
def Fl.range : Fl := 0x20
/-- nal, a NaL code consumed or produced. -/
def Fl.nal : Fl := 0x40
/-- sat, a saturating form clamped. -/
def Fl.sat : Fl := 0x80

/-- The flag when a condition holds. -/
def Fl.when (c : Bool) (f : Fl) : Fl := if c then f else 0

/-- A binary format: exponent and fraction widths (R56, Table 1). -/
structure Fmt where
  ebits : Nat
  fbits : Nat
deriving DecidableEq, Repr

/-- FP32. -/
def fp32 : Fmt := ⟨8, 23⟩
/-- FP16. -/
def fp16 : Fmt := ⟨5, 10⟩
/-- BF16. -/
def bf16 : Fmt := ⟨8, 7⟩

/-- Exponent bias; also the largest exponent of a finite value. -/
def Fmt.bias (f : Fmt) : Nat := 2 ^ (f.ebits - 1) - 1
/-- Bits of the format. -/
def Fmt.width (f : Fmt) : Nat := f.ebits + f.fbits + 1
/-- The sign bit. -/
def Fmt.signBit (f : Fmt) : Nat := 2 ^ (f.ebits + f.fbits)
/-- +∞. -/
def Fmt.posInf (f : Fmt) : Nat := (2 ^ f.ebits - 1) * 2 ^ f.fbits
/-- The default NaN (Table 1). -/
def Fmt.defNaN (f : Fmt) : Nat := f.posInf + 2 ^ (f.fbits - 1)
/-- The largest finite value. -/
def Fmt.maxFin (f : Fmt) : Nat := f.posInf - 1
/-- ±∞. -/
def Fmt.inf (f : Fmt) (neg : Bool) : Nat := if neg then f.signBit + f.posInf else f.posInf
/-- ±0. -/
def Fmt.zero (f : Fmt) (neg : Bool) : Nat := if neg then f.signBit else 0

/-- A decoded operand: a finite value is (−1)^neg × m × 2^e. -/
inductive FVal where
  | nan (signalling : Bool)
  | inf (neg : Bool)
  | fin (neg : Bool) (m : Nat) (e : Int)
deriving DecidableEq, Repr

/-- The value of a bit pattern (R56); a NaN whose most significant fraction bit is 0 is signalling (R57). -/
def Fmt.dec (f : Fmt) (b : Nat) : FVal :=
  let neg := b / f.signBit % 2 == 1
  let ex := b / 2 ^ f.fbits % 2 ^ f.ebits
  let fr := b % 2 ^ f.fbits
  if ex = 2 ^ f.ebits - 1 then
    if fr = 0 then .inf neg else .nan (fr < 2 ^ (f.fbits - 1))
  else if ex = 0 then .fin neg fr (1 - (f.bias : Int) - f.fbits)
  else .fin neg (2 ^ f.fbits + fr) ((ex : Int) - f.bias - f.fbits)

/-- The operand is a NaN. -/
def FVal.isNaN : FVal → Bool
  | .nan _ => true
  | _ => false

/-- The operand is a signalling NaN. -/
def FVal.isSig : FVal → Bool
  | .nan s => s
  | _ => false

/-- Rounding directions (R58, R61). -/
inductive RMode where
  | rne | rtz | rup | rdn
deriving DecidableEq, Repr

/-- The direction that rnd_mode holds (Table 2). -/
def RMode.ofBits (n : Nat) : RMode :=
  match n with
  | 0 => .rne
  | 1 => .rtz
  | 2 => .rup
  | _ => .rdn

/-- The direction of an instruction's rounding field, given rnd_mode (R39, R61). -/
def RMode.ofField (rm : Fin 8) (rndMode : Nat) : RMode :=
  match rm.val with
  | 0 => RMode.ofBits rndMode
  | 1 => .rne
  | 2 => .rtz
  | 3 => .rup
  | _ => .rdn

/-- Number of significant bits. -/
def bitLen (n : Nat) : Nat := if n = 0 then 0 else Nat.log2 n + 1

/-- Whether a truncated magnitude is raised by one unit: `rem` out of 2^sh with more below when `sticky`. -/
def roundUp (rm : RMode) (neg odd : Bool) (rem sh : Nat) (sticky : Bool) : Bool :=
  let inexact := rem != 0 || sticky
  match rm with
  | .rtz => false
  | .rup => inexact && !neg
  | .rdn => inexact && neg
  | .rne =>
    if sh = 0 then false
    else
      let half := 2 ^ (sh - 1)
      rem > half || (rem == half && (sticky || odd))

/-- The magnitude m × 2^e as a multiple of 2^q, rounded: the multiple, and whether it was inexact. -/
def roundTo (rm : RMode) (neg : Bool) (m : Nat) (e : Int) (sticky : Bool) (q : Int) : Nat × Bool :=
  if q ≤ e then (m * 2 ^ (e - q).toNat, sticky)
  else
    let sh := (q - e).toNat
    let sig := m / 2 ^ sh
    let rem := m % 2 ^ sh
    (if roundUp rm neg (sig % 2 == 1) rem sh sticky then sig + 1 else sig, rem != 0 || sticky)

/-- The overflow result of a direction (IEEE 754-2019, R57). -/
def overflowBits (f : Fmt) (rm : RMode) (neg : Bool) : Nat :=
  let big := match rm with
    | .rne => true
    | .rtz => false
    | .rup => !neg
    | .rdn => neg
  (if neg then f.signBit else 0) + (if big then f.posInf else f.maxFin)

/-- ROUNDING (R57, R61): the exact nonzero magnitude m × 2^e (a little above it when `sticky`) in a format, with of, uf and nx.
Tininess is detected after rounding. A `sticky` magnitude carries at least two bits below the result's last place. -/
def roundPack (f : Fmt) (rm : RMode) (neg : Bool) (m : Nat) (e : Int) (sticky : Bool) : Nat × Fl :=
  let p : Int := f.fbits + 1
  let emin : Int := 1 - f.bias
  let top : Int := e + bitLen m - 1
  let free := roundTo rm neg m e sticky (top - (p - 1))
  let tiny : Bool := top < emin && !(top = emin - 1 && free.1 == 2 ^ (f.fbits + 1))
  let q := max (top - (p - 1)) (emin - (p - 1))
  let r := roundTo rm neg m e sticky q
  let sig := r.1
  let (sig, q) := if sig = 2 ^ (f.fbits + 1) then (2 ^ f.fbits, q + 1) else (sig, q)
  let sgn := if neg then f.signBit else 0
  if sig < 2 ^ f.fbits then
    (sgn + sig, Fl.when r.2 Fl.nx ||| Fl.when (r.2 && tiny) Fl.uf)
  else if q + (p - 1) > f.bias then (overflowBits f rm neg, Fl.of ||| Fl.nx)
  else
    (sgn + (q + (p - 1) + f.bias).toNat * 2 ^ f.fbits + (sig - 2 ^ f.fbits),
      Fl.when r.2 Fl.nx ||| Fl.when (r.2 && tiny) Fl.uf)

/-- The default NaN, with nv when an operand signals or the operation is invalid (R57). -/
def nanResult (f : Fmt) (invalid : Bool) : Nat × Fl := (f.defNaN, Fl.when invalid Fl.nv)

/-- The exact signed value v × 2^e rounded; `zneg` is the sign of an exact zero. -/
def roundInt (f : Fmt) (rm : RMode) (v : Int) (e : Int) (zneg : Bool) : Nat × Fl :=
  if v = 0 then (f.zero zneg, 0) else roundPack f rm (v < 0) v.natAbs e false

/-- The signed integer of a finite operand at a smaller exponent. -/
def alignTo (neg : Bool) (m : Nat) (e q : Int) : Int :=
  let v : Int := m * 2 ^ (e - q).toNat
  if neg then -v else v

/-- The sign of an exact zero sum (IEEE 754-2019): that of both operands when they agree, else minus only toward −∞. -/
def zeroSumSign (rm : RMode) (x y : Bool) : Bool := if x == y then x else rm == .rdn

/-- x + y over decoded operands. -/
def addVal (f : Fmt) (rm : RMode) (x y : FVal) : Nat × Fl :=
  match x, y with
  | .nan s, y => nanResult f (s || y.isSig)
  | x, .nan s => nanResult f (s || x.isSig)
  | .inf a, .inf b => if a == b then (f.inf a, 0) else nanResult f true
  | .inf a, .fin .. => (f.inf a, 0)
  | .fin .., .inf b => (f.inf b, 0)
  | .fin a m e, .fin b n g =>
    let q := min e g
    roundInt f rm (alignTo a m e q + alignTo b n g q) q (zeroSumSign rm a b)

/-- −x on a decoded operand. -/
def FVal.negate : FVal → FVal
  | .nan s => .nan s
  | .inf a => .inf !a
  | .fin a m e => .fin (!a) m e

/-- The exact product of two operands; none when it is invalid (∞ × 0). A NaN operand gives a quiet NaN here. -/
def mulVal (x y : FVal) : Option FVal :=
  match x, y with
  | .nan _, _ => some (.nan false)
  | _, .nan _ => some (.nan false)
  | .inf a, .inf b => some (.inf (a != b))
  | .inf a, .fin b n _ => if n = 0 then none else some (.inf (a != b))
  | .fin a m _, .inf b => if m = 0 then none else some (.inf (a != b))
  | .fin a m e, .fin b n g => some (.fin (a != b) (m * n) (e + g))

/-- VFADD (R187). -/
def fpAdd (f : Fmt) (rm : RMode) (a b : Nat) : Nat × Fl := addVal f rm (f.dec a) (f.dec b)

/-- VFSUB (R187). -/
def fpSub (f : Fmt) (rm : RMode) (a b : Nat) : Nat × Fl := addVal f rm (f.dec a) (f.dec b).negate

/-- VFMUL (R187). -/
def fpMul (f : Fmt) (rm : RMode) (a b : Nat) : Nat × Fl :=
  let x := f.dec a
  let y := f.dec b
  if x.isNaN || y.isNaN then nanResult f (x.isSig || y.isSig)
  else
    match mulVal x y with
    | none => nanResult f true
    | some (.inf s) => (f.inf s, 0)
    | some (.fin s m e) => roundInt f rm (alignTo s m e e) e s
    | some (.nan _) => nanResult f false

/-- (±a) × b + (±c) with one rounding (R187, R188): ∞ × 0 sets nv even when c is a quiet NaN. -/
def fpFma (f : Fmt) (rm : RMode) (negProd negC : Bool) (a b c : Nat) : Nat × Fl :=
  let x := f.dec a
  let y := f.dec b
  let z0 := f.dec c
  let x := if negProd then x.negate else x
  let z := if negC then z0.negate else z0
  let sig := x.isSig || y.isSig || z.isSig
  match mulVal x y with
  | none => nanResult f true
  | some pr =>
    if pr.isNaN || z.isNaN then nanResult f sig
    else addVal f rm pr z

/-- Quotient of two positive magnitudes with enough bits for one rounding, and whether more lies below. -/
def divBits (f : Fmt) (m n : Nat) : Nat × Nat × Bool :=
  let k := bitLen n + 2 * f.fbits + 8
  let q := m * 2 ^ k / n
  (q, k, m * 2 ^ k % n != 0)

/-- VFDIV (R187). -/
def fpDiv (f : Fmt) (rm : RMode) (a b : Nat) : Nat × Fl :=
  let x := f.dec a
  let y := f.dec b
  match x, y with
  | .nan s, y => nanResult f (s || y.isSig)
  | x, .nan s => nanResult f (s || x.isSig)
  | .inf _, .inf _ => nanResult f true
  | .inf s, .fin t _ _ => (f.inf (s != t), 0)
  | .fin s _ _, .inf t => (f.zero (s != t), 0)
  | .fin s m e, .fin t n g =>
    if n = 0 then
      if m = 0 then nanResult f true else (f.inf (s != t), Fl.dz)
    else if m = 0 then (f.zero (s != t), 0)
    else
      let r := divBits f m n
      roundPack f rm (s != t) r.1 (e - g - r.2.1) r.2.2

/-- VFSQRT (R187). -/
def fpSqrt (f : Fmt) (rm : RMode) (a : Nat) : Nat × Fl :=
  match f.dec a with
  | .nan s => nanResult f s
  | .inf s => if s then nanResult f true else (f.posInf, 0)
  | .fin s m e =>
    if m = 0 then (f.zero s, 0)
    else if s then nanResult f true
    else
      let k := 2 * f.fbits + 8
      let odd : Nat := if e % 2 = 0 then 0 else 1
      let n := m * 2 ^ (2 * k + odd)
      let r := Nat.sqrt n
      roundPack f rm false r ((e - odd) / 2 - k) (r * r != n)

/-- VFRCP (R188). -/
def fpRcp (f : Fmt) (rm : RMode) (a : Nat) : Nat × Fl :=
  match f.dec a with
  | .nan s => nanResult f s
  | .inf s => (f.zero s, 0)
  | .fin s m e =>
    if m = 0 then (f.inf s, Fl.dz)
    else
      let r := divBits f 1 m
      roundPack f rm s r.1 (-e - r.2.1) r.2.2

/-- VFRSQ (R188): 1 / √a, correctly rounded. -/
def fpRsq (f : Fmt) (rm : RMode) (a : Nat) : Nat × Fl :=
  match f.dec a with
  | .nan s => nanResult f s
  | .inf s => if s then nanResult f true else (f.zero false, 0)
  | .fin s m e =>
    if m = 0 then (f.inf s, Fl.dz)
    else if s then nanResult f true
    else
      -- 1 / √(n × 2^(2h)) = √(2^(2k) / n) × 2^(−h − k)
      let odd : Nat := if e % 2 = 0 then 0 else 1
      let n := m * 2 ^ odd
      let h := (e - odd) / 2
      let k := bitLen n + 2 * f.fbits + 8
      let q := 2 ^ (2 * k) / n
      let r := Nat.sqrt q
      roundPack f rm false r (-h - k) (r * r * n != 2 ^ (2 * k))

/-- Order of two finite or infinite values: −0 equals +0. -/
def valLt (x y : FVal) : Bool :=
  match x, y with
  | .inf a, .inf b => a && !b
  | .inf a, _ => a
  | _, .inf b => !b
  | .fin a m e, .fin b n g =>
    let q := min e g
    alignTo a m e q < alignTo b n g q
  | _, _ => false

/-- Equality of two values, −0 = +0 (R191). -/
def valEq (x y : FVal) : Bool := !x.isNaN && !y.isNaN && !valLt x y && !valLt y x

/-- minimumNumber and maximumNumber with −0 below +0 (R188). -/
def fpMinMax (f : Fmt) (isMax : Bool) (a b : Nat) : Nat × Fl :=
  let x := f.dec a
  let y := f.dec b
  let fl := Fl.when (x.isSig || y.isSig) Fl.nv
  if x.isNaN && y.isNaN then (f.defNaN, fl)
  else if x.isNaN then (b, fl)
  else if y.isNaN then (a, fl)
  else
    let aNeg := a / f.signBit % 2 == 1
    let bNeg := b / f.signBit % 2 == 1
    let less := valLt x y || (valEq x y && aNeg && !bNeg)
    (if less != isMax then a else b, fl)

/-- VFABS (R188). -/
def fpAbs (f : Fmt) (a : Nat) : Nat × Fl := (a % f.signBit, 0)

/-- VFNEG (R188). -/
def fpNeg (f : Fmt) (a : Nat) : Nat × Fl := (if a / f.signBit % 2 == 1 then a % f.signBit else a % f.signBit + f.signBit, 0)

/-- VFCMP (R191, Table 6): codes 0 eq, 1 ne, 2 lt, 3 ge, 4 le, 5 gt, 6 uo, 7 ord. -/
def fpCmp (f : Fmt) (code : Nat) (a b : Nat) : Bool × Fl :=
  let x := f.dec a
  let y := f.dec b
  let un := x.isNaN || y.isNaN
  let quietInvalid := code = 2 || code = 3 || code = 4 || code = 5
  let fl := Fl.when (x.isSig || y.isSig || (un && quietInvalid)) Fl.nv
  let r := match code with
    | 0 => !un && valEq x y
    | 1 => un || !valEq x y
    | 2 => !un && valLt x y
    | 3 => !un && !valLt x y
    | 4 => !un && !valLt y x
    | 5 => !un && valLt y x
    | 6 => un
    | _ => !un
  (r, fl)

/-- FP to FP (R62): exact, then rounded once. -/
def fpToFp (src dst : Fmt) (rm : RMode) (a : Nat) : Nat × Fl :=
  match src.dec a with
  | .nan s => nanResult dst s
  | .inf s => (dst.inf s, 0)
  | .fin s m e => if m = 0 then (dst.zero s, 0) else roundPack dst rm s m e false

/-- FP to an n-bit integer pattern (R62). -/
def fpToInt (src : Fmt) (rm : RMode) (n : Nat) (unsigned : Bool) (a : Nat) : Nat × Fl :=
  let lo : Int := if unsigned then 0 else -(2 ^ (n - 1) : Nat)
  let hi : Int := if unsigned then (2 ^ n : Nat) - 1 else (2 ^ (n - 1) : Nat) - 1
  let pat (v : Int) : Nat := (v % (2 ^ n : Nat)).toNat
  match src.dec a with
  | .nan _ => (0, Fl.nv)
  | .inf s => (pat (if s then lo else hi), Fl.nv)
  | .fin s m e =>
    let r := roundTo rm s m e false 0
    let v : Int := if s then -(r.1 : Int) else r.1
    if v < lo then (pat lo, Fl.nv)
    else if v > hi then (pat hi, Fl.nv)
    else (pat v, Fl.when r.2 Fl.nx)

/-- Integer to FP (R62); zero gives +0. -/
def intToFp (dst : Fmt) (rm : RMode) (v : Int) : Nat × Fl := roundInt dst rm v 0 false

end Sys2Proof.Machine
end

