-- ==== Sys2Proof/Machine/Lns.lean ====
section
/-!
DEFINITION. LNS6 (R63 to R69): codes, the linearisation table, products, quantisation, dequantisation and the scale rule; the
pattern ROM (R72) and the decode of typed blocks (R70 to R74); and the pass sums of the matrix engine (R77, R78).
-/
namespace Sys2Proof.Machine

/-- The linearisation table T (R64, Table 4). -/
def lnsT (k : Nat) : Nat := [0x800000, 0x9837F0, 0xB504F3, 0xD744FD].getD k 0

/-- The quantisation thresholds M (R66, Table 5). -/
def lnsM : List Nat := [0x8B95C2, 0xA5FED7, 0xC5672B, 0xEAC0C7]

/-- NaL, not a log value (R63). -/
def nalCode : Nat := 0b100000

/-- Sign of a code. -/
def lnsNeg (c : Nat) : Bool := c / 32 % 2 == 1

/-- Quarter-log e = c[4:0] − 16 (R63). -/
def lnsE (c : Nat) : Int := (c % 32 : Nat) - 16

/-- E and m of R67 for a magnitude n × 2^g: floor(log2), and the significand as an integer in [2^23, 2^24); `exact` tells
whether m holds the whole magnitude, which it does for every FP32 value. -/
def sig23 (n : Nat) (g : Int) : Int × Nat :=
  let top : Int := g + bitLen n - 1
  let sh : Int := g + 23 - top
  (top, if 0 ≤ sh then n * 2 ^ sh.toNat else n / 2 ^ (-sh).toNat)

/-- Number of thresholds that m reaches (R66). -/
def quarterOf (m : Nat) : Nat := (lnsM.filter fun t => t ≤ m).length

/-- quant_l6 (R67): one FP32 element under the block scale σ, as a six-bit code with its flags. -/
def quantL6 (x : Nat) (scale : Int) : Nat × Fl :=
  match fp32.dec x with
  | .nan _ => (nalCode, Fl.nv ||| Fl.nal)
  | .inf _ => (nalCode, Fl.nv ||| Fl.nal)
  | .fin neg n g =>
    if n = 0 then (0, 0)
    else
      let em := sig23 n (g - scale)
      let k := quarterOf em.2
      let e : Int := 4 * em.1 + k
      let sgn := if neg then 32 else 0
      if e > 15 then (sgn + 31, Fl.sat ||| Fl.nx)
      else if e < -15 then (0, Fl.uf ||| Fl.nx)
      else (sgn + (e + 16).toNat, Fl.when (k != 0 || em.2 != 2 ^ 23) Fl.nx)

/-- dequant_l6 (R68). -/
def dequantL6 (rm : RMode) (c : Nat) (scale : Int) : Nat × Fl :=
  if c = nalCode then (fp32.defNaN, Fl.nal)
  else if c = 0 then (0, 0)
  else
    let e := lnsE c
    roundPack fp32 rm (lnsNeg c) (lnsT (e % 4).toNat) (e / 4 + scale - 23) false

/-- scale_of for a finite nonzero magnitude n × 2^g (R69). -/
def scaleOfFin (n : Nat) (g : Int) : Int :=
  let em := sig23 n g
  let s := em.1 - 3 + (if (lnsM.getD 3 0) ≤ em.2 then 1 else 0)
  min (max s (-127)) 127

/-- scale_of (R69) of the magnitudes of a list of elements; NaNs do not enter. -/
def scaleOf (f : Fmt) (xs : List Nat) : Int :=
  let vals := (xs.map f.dec).filter fun v => !v.isNaN
  let best := vals.foldl (fun acc v =>
    let v := match v with
      | .fin _ m e => .fin false m e
      | .inf _ => .inf false
      | .nan s => .nan s
    if valLt acc v then v else acc) (.fin false 0 0)
  match best with
  | .inf _ => 127
  | .fin _ m e => if m = 0 then 0 else scaleOfFin m e
  | .nan _ => 0

/-- Number of one bits of the low 8 bits. -/
def popc8 (n : Nat) : Nat := ((List.range 8).filter fun i => n / 2 ^ i % 2 == 1).length

/-- The pattern ROM in its order: by size, then by mask value (R72). -/
def patternRom : List Nat :=
  (List.range 5).flatMap fun size => (List.range 256).filter fun m => popc8 m == size

/-- mask_of (R72); none for the invalid codes 163 to 255. -/
def maskOf (code : Nat) : Option Nat := patternRom[code]?

/-- A line's 64 bytes as one number, byte 0 lowest (R4). -/
abbrev LineBits := Nat

/-- Byte i of a line. -/
def lineByte (l : LineBits) (i : Nat) : Nat := l / 2 ^ (8 * i) % 256

/-- The format byte of a typed line (R70). -/
def lineFormat (l : LineBits) : Nat := lineByte l 0

/-- The scale byte of a typed line as a signed number (R70). -/
def lineScale (l : LineBits) : Int := if lineByte l 1 < 128 then lineByte l 1 else (lineByte l 1 : Int) - 256

/-- Element j of an LNS6 dense block (R71). -/
def lineElem (l : LineBits) (j : Nat) : Nat := l / 2 ^ (16 + 6 * j) % 64

/-- The data fault of a typed decode (R74): the first condition that holds, in the order 0x01, 0x02, 0x08, 0x03, 0x05, 0x06,
0x04; `only` names the one format that the line's place accepts, if it accepts only one. -/
def typedFault (typed : Bool) (only : Option Nat) (l : LineBits) : Option Nat :=
  let f := lineFormat l
  if !typed then some 0x01
  else if f != 0x01 && f != 0x03 then some 0x02
  else if only.any fun o => o != f then some 0x08
  else if lineByte l 1 = 0x80 then some 0x03
  else if f == 0x01 && (lineByte l 62 != 0 || lineByte l 63 != 0) then some 0x05
  else if f == 0x03 && lineByte l 1 != 0 then some 0x06
  else if f == 0x03 && (List.range 62).any fun g => lineByte l (2 + g) ≥ 163 then some 0x04
  else none

/-- A typed LNS6 dense line from 80 codes and a scale (R71). -/
def mkDense (scale : Int) (elem : Nat → Nat) : LineBits :=
  0x01 + 2 ^ 8 * (scale % 256).toNat
    + (List.range 80).foldl (fun acc j => acc + elem j % 64 * 2 ^ (16 + 6 * j)) 0

/-- Masks of a pattern block's 62 groups (R72). -/
def patternMasks (l : LineBits) : List Nat := (List.range 62).map fun g => (maskOf (lineByte l (2 + g))).getD 0

/-- n of R73: the set positions of a pattern block. -/
def patternCount (l : LineBits) : Nat := ((patternMasks l).map popc8).foldl (· + ·) 0

/-- The set positions of a pattern block, ascending, out of 496 (R72, R73). -/
def patternPositions (l : LineBits) : List Nat :=
  (List.range 62).flatMap fun g =>
    ((List.range 8).filter fun j => ((maskOf (lineByte l (2 + g))).getD 0) / 2 ^ j % 2 == 1).map fun j => 8 * g + j

/-- One LNS6 product of R65 in units of 2^−31 before the block scales (R77); none for NaL. -/
def lnsTerm (a b : Nat) : Option Int :=
  if a = nalCode || b = nalCode then none
  else if a = 0 || b = 0 then some 0
  else
    let e := lnsE a + lnsE b
    let t : Int := lnsT (e % 4).toNat * 2 ^ (e / 4 + 8).toNat
    some (if lnsNeg a != lnsNeg b then -t else t)

/-- One LNS6 pass over a column (R77): the FP32 pass result and the condition bits of_ uf nx nal in the flag places. -/
def lnsPass (scale : Int) (pairs : List (Nat × Nat)) : Nat × Fl :=
  let terms := pairs.map fun p => lnsTerm p.1 p.2
  if terms.any Option.isNone then (fp32.defNaN, Fl.nal)
  else
    let sum := (terms.map (Option.getD · 0)).foldl (· + ·) 0
    roundInt fp32 .rne sum (scale - 31) false

/-- One FP16 pass over a column (R78): products exact, summed exactly, rounded once to FP32. -/
def fp16Pass (pairs : List (Nat × Nat)) : Nat × Fl :=
  let prods := pairs.map fun p => mulVal (fp16.dec p.1) (fp16.dec p.2)
  let bad := prods.any fun p => match p with
    | none => true
    | some v => v.isNaN
  let pinf := prods.any fun p => p == some (.inf false)
  let ninf := prods.any fun p => p == some (.inf true)
  if bad || (pinf && ninf) then (fp32.defNaN, Fl.nv)
  else if pinf then (fp32.inf false, 0)
  else if ninf then (fp32.inf true, 0)
  else
    -- every product of finite FP16 operands is a multiple of 2^−48
    let sum := prods.foldl (fun acc p => match p with
      | some (.fin s m e) => acc + alignTo s m e (-48)
      | _ => acc) (0 : Int)
    roundInt fp32 .rne sum (-48) false

end Sys2Proof.Machine
end

