-- ==== Sys2Proof/Config.lean ====
section
/-!
DEFINITION. What is fixed for the CI6400-W: the numbering and kinds of tiles (R9 to R11), the figures per kind (R25, R181), the
places of the rim stacks (R14, R85, R86), and the free values: opaque constants without a body for what the spec leaves open.
Each free value has its entry in the assumption log.
-/
namespace Sys2Proof.Config

/-- Free value (log 5): extra clk that the n-th thing sent over the networks takes beyond the first (R20, R366). -/
opaque latency : Nat → Nat

/-- Free value (log 6): the n-th choice among outcomes that a rule allows (R2). -/
opaque choice : Nat → Nat

/-- Free value (log 7): the lead of a die's clock counter over the slowest one; used modulo 33 (R179). -/
opaque skew : Nat → Nat

/-- Free value (log 8): the stepping field of IDRD selector 4 and of the capability list (R178, R416). -/
opaque stepping : BitVec 8

/-- Free value (log 9): the n-th value that the spec does not state (a measurement, a signature word). -/
opaque freeWord : Nat → BitVec 64

/-- Free value (log 97): of two top-k pairs of one id with scores +0 and −0, whether the one of score +0 comes first (R307). -/
opaque plusZeroFirst : Bool

/-- Free value (log 13): register offset, in 8-byte units, of a capability entry or payload (R416). -/
opaque capPlace : Nat → Nat

/-- Free value (log 13): version of a capability entry (R416). -/
opaque capVersion : Nat → BitVec 8

/-- Free value (log 13): payload length in bytes of an entry whose layout the spec does not state. -/
opaque capLength : Nat → Nat

/-- Free value (log 13): a word of such a payload, from the entry, the word's number and what the payload is to tell. -/
opaque capWord : Nat → Nat → List Nat → BitVec 64

/-- Free value (log 78): the job whose table a handle on a supervisor core names, where several have such an entry. -/
opaque handleJob : BitVec 64 → Nat

/-- Free value (log 9): word i of the SHA3-512 digest of the firmware image, the fuse map or the field log (R417), from which it is and what
it holds. -/
opaque digest : Nat → List Nat → Nat → BitVec 64

/-- Tiles of the wafer (R9, R10): source numbers 0 to 12,287 (R325). -/
def tiles : Nat := 12288

/-- The four kinds of R11. -/
inductive Kind where
  | dense | sparse | attention | vector
deriving DecidableEq, Repr

/-- Source number of a tile: 192 × die + 96 × cluster + tile (R325). -/
def snOf (die cluster tile : Nat) : Nat := 192 * die + 96 * cluster + tile

/-- Die of a tile (R9). -/
def dieOf (sn : Nat) : Nat := sn / 192

/-- Cluster of a tile within its die (R10). -/
def clusterOf (sn : Nat) : Nat := sn / 96 % 2

/-- Tile number within its cluster (R10). -/
def tileOf (sn : Nat) : Nat := sn % 96

/-- Cluster index 2 × die + cluster (R103). -/
def cluOf (sn : Nat) : Nat := sn / 96

/-- The kind of a tile, by its column (R11, Table 1). -/
def kindOf (sn : Nat) : Kind :=
  let col := sn % 96 % 12
  if col ≤ 4 then .dense else if col ≤ 7 then .sparse else if col ≤ 9 then .attention else .vector

/-- A core number: tiles first, then one supervisor core per die (log 10). -/
def supCore (die : Nat) : Nat := tiles + die

/-- The core is a tile's. -/
def isTile (cid : Nat) : Bool := cid < tiles

/-- Die of any core. -/
def coreDie (cid : Nat) : Nat := if cid < tiles then cid / 192 else cid - tiles

/-- Cluster index whose memory port a core uses; a supervisor core uses cluster 0's of its die. -/
def coreClu (cid : Nat) : Nat := if cid < tiles then cid / 96 else 2 * (cid - tiles)

/-- The tile has a matrix array (R11). -/
def hasMatrix (cid : Nat) : Bool := cid < tiles && kindOf cid != .vector

/-- The tile has a lexicon engine (R11). -/
def hasLexicon (cid : Nat) : Bool := cid < tiles && kindOf cid == .sparse

/-- Vector width w in bits (R181, R397). -/
def vecBits (cid : Nat) : Nat := if cid < tiles && kindOf cid == .vector then 2048 else 1024

/-- Full-rate holding F (R25): 64 tokens dense, 32 sparse or attention, none vector. -/
def fullRate (cid : Nat) : Nat :=
  if cid < tiles then
    match kindOf cid with
    | .dense => 64 | .sparse => 32 | .attention => 32 | .vector => 0
  else 0

/-- Space 0x0 base of a tile: die in bits [31:26], cluster in bit 25, tile in bits [24:18] (R81, R178). -/
def tileBase (sn : Nat) : Nat := dieOf sn * 2 ^ 26 + clusterOf sn * 2 ^ 25 + tileOf sn * 2 ^ 18

/-- Row and column of a die (R9). -/
def dieRow (die : Nat) : Nat := die / 8

/-- Column of a die (R9). -/
def dieCol (die : Nat) : Nat := die % 8

/-- Die that holds the controller of an HBM4E stack (R14, R85). -/
def hbmDie (stack : Nat) : Nat :=
  if stack < 16 then 8 * (stack / 2)
  else if stack < 32 then 8 * ((stack - 16) / 2) + 7
  else if stack < 40 then stack - 32
  else 56 + (stack - 40)

/-- Die that holds the controller of a non-volatile stack (R86). -/
def nvDie (stack : Nat) : Nat := [3, 4, 24, 31, 32, 39, 59, 60].getD stack 3

/-- The neighbours of a die in the order north, east, south, west; a die at an edge has none there (R9, R370). -/
def neighbour (die dir : Nat) : Option Nat :=
  match dir with
  | 0 => if dieRow die = 0 then none else some (die - 8)
  | 1 => if dieCol die = 7 then none else some (die + 1)
  | 2 => if dieRow die = 7 then none else some (die + 8)
  | _ => if dieCol die = 0 then none else some (die - 1)

/-- Two GiB-free constants of R15: bytes of one HBM4E stack and of one non-volatile stack. -/
def hbmStack : Nat := 48 * 2 ^ 30

/-- Bytes of one non-volatile stack (R15). -/
def nvStack : Nat := 512 * 2 ^ 30

/-- Die of Yedan port A (R21). -/
def portADie : Nat := 3

/-- Die of Yedan port B (R21). -/
def portBDie : Nat := 60

end Sys2Proof.Config
end

