-- ==== Sys2Proof/Machine/SMap.lean ====
section
/-!
DEFINITION. Sparse maps from natural numbers, in one canonical form: a list of pairs with strictly rising keys in which no value
equals what an unlisted key reads as. Memory (R81), line metadata (R98), cores, dies and jobs are held in such maps, so that
equal contents are equal data.
-/
namespace Sys2Proof.Machine

/-- A sparse map. -/
abbrev SMap (α : Type) := List (Nat × α)

/-- The value listed at a key. -/
def SMap.find? {α : Type} : SMap α → Nat → Option α
  | [], _ => none
  | (k, v) :: t, q => if q = k then some v else SMap.find? t q

/-- The value at a key; `d` where nothing is listed. -/
def SMap.get {α : Type} (d : α) (m : SMap α) (q : Nat) : α := (SMap.find? m q).getD d

/-- Insertion in key order, with replacement. -/
def SMap.insert {α : Type} (q : Nat) (x : α) : SMap α → SMap α
  | [] => [(q, x)]
  | (k, v) :: t => if q < k then (q, x) :: (k, v) :: t else if q = k then (q, x) :: t else (k, v) :: SMap.insert q x t

/-- Removal of a key. -/
def SMap.erase {α : Type} (q : Nat) : SMap α → SMap α
  | [] => []
  | (k, v) :: t => if q = k then SMap.erase q t else (k, v) :: SMap.erase q t

/-- Writing a value at a key; the value `d` that an unlisted key reads as removes the entry. -/
def SMap.set {α : Type} [DecidableEq α] (d : α) (m : SMap α) (q : Nat) (x : α) : SMap α :=
  if x = d then SMap.erase q m else SMap.insert q x m

/-- Keys rise strictly from `lo`, and no value is `d`. -/
def SMap.wfFrom {α : Type} [DecidableEq α] (d : α) : Nat → SMap α → Bool
  | _, [] => true
  | lo, (k, v) :: t => lo ≤ k && v ≠ d && SMap.wfFrom d (k + 1) t

/-- The canonical form. -/
def SMap.wf {α : Type} [DecidableEq α] (d : α) (m : SMap α) : Bool := SMap.wfFrom d 0 m

end Sys2Proof.Machine
end

