-- ==== Sys2Proof/Machine/State.lean ====
section
/-!
DEFINITION. The state of the machine as plain data: everything the spec gives the CI6400-W, and the model's own schedule (log 4).
INVENTORY.md lists each piece with its rule. The file ends with `State.reset`, the faults and the refusals.
-/
namespace Sys2Proof.Machine

/-! ## Memory -/

/-- Line metadata (R98, Table 7), with the errors that its check bits show and the poison of R402. Bit j of `single` and `double` is for
the 8-byte word j, bit 8 for the metadata. -/
structure LineMeta where
  typed : Bool := false
  fe : BitVec 8 := 0xFF
  tag : BitVec 8 := 0x00
  single : BitVec 9 := 0      -- single-bit errors, which an access corrects (R100)
  double : BitVec 9 := 0      -- errors that SEC-DED cannot correct
  poisoned : Bool := false
  wiped : Option (BitVec 64) := none  -- after a TAG of a poisoned line: the bytes that the supervisor core has written since (R402)
deriving DecidableEq, Repr

/-- A translation held at a cluster's port (R106). -/
structure TlbEntry where
  clu : Nat          -- cluster index 0 to 127
  job : Nat          -- owner tag of the job
  space : Nat        -- 1, 2 or 3
  page : Nat         -- virtual offset of the page
  size : Nat         -- 64 KiB or 2 MiB
  frame : Nat        -- physical offset of the page
  write : Bool
  dirty : Bool
deriving DecidableEq, Repr

/-! ## Accesses under way -/

/-- One single-copy-atomic unit of an access (R94): element index, virtual address, physical cell, bytes. -/
structure AUnit where
  idx : Nat
  va : Word
  cell : Nat
  n : Nat
deriving DecidableEq, Repr

/-- The atomics of R165, Table 12. -/
inductive AtomicOp where
  | add | and | or | xor | min | max | swp | cas
deriving DecidableEq, Repr

/-- What an access does at its home. Data of stores are numbers, unit by unit. -/
inductive AccOp where
  | load                                        -- LD, LDX, VLD, VLDG
  | store (data : List (Nat × Nat))             -- ST, STX, VST, VSTS: by element index
  | tload                                       -- VLDT: a line with its typed bit
  | tstore (line : Nat)                         -- VSTT
  | atomic (op : AtomicOp) (y cmp : Nat)        -- R165
  | lde | ldc                                   -- R237
  | stf (x : Nat)                               -- R237
  | few (full : Bool)                           -- R237
  | ccinit (map : Bool)                         -- R236
  | ccexp (bytes : Nat)                         -- R236
  | ccarr (bytes chunks status : Nat)           -- R236; status: the err and cvt bits [62:57] that a request ORs in (R223)
  | cctest (phase : Nat)                        -- R236
  | ccwait (phase : Nat)                        -- R236
  | cmtest (phase mask : Nat)                   -- R236
  | cmwait (phase mask : Nat)                   -- R236
  | recast (role : Nat)                         -- R312
  | fetch                                       -- an instruction fetch block (R147)
  | loadRec                                     -- MTILE's shape record, which needs the write right too (R259)
  | check (reads writes : Bool)                 -- the target checks alone, for a pair whose other half has a later fault (R139)
deriving DecidableEq, Repr

/-- An exception to be taken, with its place in the order of R139. -/
structure Trap where
  rank : Nat
  cause : Nat
  detail : Nat
  addr : Word
deriving DecidableEq, Repr

/-- What the issuing thread does with an access's results. -/
inductive Done where
  | none                                        -- nothing is written
  | g (d : G) (bits : Nat)                      -- g[d] := sext(result, bits)
  | gz (d : G)                                  -- g[d] := result
  | lanes (d : V) (e : Nat)                     -- lane idx of v[d] := result, width e
  | typed (d : V) (b : G)                       -- VLDT
  | stash                                       -- kept for the rest of the instruction that reads it (R259, R351)
  | fault (t : Trap)                            -- the pair's own later fault (R139)
deriving DecidableEq, Repr

/-- A failure reported by a home for one unit: element index, cause, detail, address. -/
structure Refusal1 where
  idx : Nat
  cause : Nat
  detail : Nat
  addr : Word
deriving DecidableEq, Repr

/-- An access that a thread has issued to other homes than its own tile. -/
structure Access where
  core : Nat
  slot : Nat
  job : Nat                       -- owner tag; 0 for a supervisor core
  op : AccOp
  done : Done
  posted : Bool
  ord : Bool := false             -- a release or acquire ordering, which no router combines (R120)
  counted : Bool                  -- it is one of the thread's posted writes (R131)
  engine : Option Nat := none     -- an engine's access: the serial of the clause that requested it (R211)
  gather : Bool := false          -- an arrival of a gather request, which is on path G (R229)
  held : Option AUnit := none     -- the unit that waits at its home (R230, R233)
  addr : Word := 0                -- address of the first unit, for a data fault of its results
  parts : List (Nat × List AUnit) -- units not yet performed, by home
  waiting : List Nat              -- homes whose answer has not returned
  results : List (Nat × Nat)      -- element index and value
  refusals : List Refusal1
deriving DecidableEq, Repr

/-- What an instruction asks of memory, before any check: the segment's value, and for each active element its index and offset. -/
structure MemAsk where
  op : AccOp
  done : Done
  sg : BitVec 128
  elems : List (Nat × Int)
  n : Nat                         -- bytes of an element
  al : Nat                        -- its alignment
  reg : Bool                      -- a scalar load or store, which may reach space 0x7
  posted : Bool                   -- a store: posted when it leaves the tile
  ord : Bool := false             -- a release or acquire ordering
deriving DecidableEq, Repr

/-- An access whose checks at the issuing core are done: its units are resolved. -/
structure MemReq where
  op : AccOp
  done : Done
  units : List AUnit
  posted : Bool
  ord : Bool := false
deriving DecidableEq, Repr

/-! ## Threads -/

/-- A 32-byte fetch block in an instruction buffer (R147): its address and its bytes as a number, byte 0 lowest. -/
structure Block where
  addr : Word
  bits : Nat
deriving DecidableEq, Repr

/-- An asynchronous report (R142). -/
structure Report where
  seq : Nat                       -- program order of the write or request that raised it
  cause : Nat
  detail : Nat
  addr : Word
deriving DecidableEq, Repr

/-- A register write, kept for a pair whose other half may still fail (R43). -/
inductive RegWrite where
  | g (d : G) (x : Word)
  | v (d : V) (x : BitVec 2048)
  | p (d : P) (x : BitVec 256)
  | flags (x : Word)
  | stash (x : Nat)
  | unstash (l : List Nat)
deriving DecidableEq, Repr

/-- Where a thread goes when its instruction has completed. -/
inductive Ctl where
  | go (pc : Word)       -- the next word, or a branch target
  | exit                 -- the scalar half was an EXIT (R43)
  | rerun (i : Instr)    -- the instruction goes on with what it has read
deriving DecidableEq, Repr

/-- What follows the FENCE part of an instruction (R118). -/
inductive Cont where
  | go (c : Ctl)       -- FENCE and FENCEX themselves
  | rerun (i : Instr)  -- an instruction that acts as a FENCE first: a release access, EXIT, SPAWN and others
deriving DecidableEq, Repr

/-- A copy engine request (R212, R213), with the copies of its segments taken at the push (R214). -/
structure CopyReq where
  id : Nat
  core : Nat
  slot : Nat
  uid : Nat                 -- the clause that pushed it (R211)
  job : Nat
  op : Nat                  -- 0 copy, 1 gather, 2 scatter, 3 convert, 4 fill
  src : BitVec 128
  dst : BitVec 128
  idx : BitVec 128
  cseg : BitVec 128
  esize : Nat
  stype : Nat
  dtype : Nat
  rm : Nat                  -- rounding code 1 to 4, resolved at the push
  cc : Bool
  fe : Bool
  count : Nat
  w1 : Word
  w2 : Word
  w3 : Word
  due : Nat := 0            -- clk in or after which it is carried out, once started
  blocked : Option Word := none  -- it waits for the wake message of a page fault at this address (R222)
  lostAt : Word := 0        -- the address whose page the supervisor software did not provide (R222)
  status : Nat := 0         -- a wake status other than 0x00 that has arrived (R222)
  ending : Bool := false    -- nothing is left but its last arrival, whose concord's page it waits for (R222)
  todo : Option (List Nat) := none  -- the units still to be made, once it has begun
  got : List (Nat × Nat) := []  -- index elements read and not yet used: number and value (R216)
  flags : BitVec 8 := 0     -- flags of the conversions made (R219)
  overAt : Option (Nat × Word) := none  -- the lowest element beyond a limit, and the address it would have had (R216, R217)
  chunks : Nat := 0         -- chunk bits already set; for a scatter those its elements map to (R228)
  sent : Nat := 0           -- bytes in the arrival parts sent so far (R229)
  fail : Option (Nat × Nat × Word) := none  -- it is abandoned: cause, detail, address (R222)
  dropped : Bool := false   -- a cancel or a containment has ended it, and it only reports to its concord (R334)
deriving DecidableEq, Repr

/-! ## Engines of a tile -/

/-- Mode of a plane (R242, Table 2), coded as in the status word (R243). -/
inductive PlaneMode where
  | empty | l6 | l6c | f16
deriving DecidableEq, Repr

/-- A plane of the matrix engine (R242): codes by 80 × row + logical column, and scales by column. Codes not listed are zero. -/
structure Plane where
  mode : PlaneMode := .empty
  codes : SMap Nat := []
  scales : SMap Int := []
deriving DecidableEq, Repr

/-- A matrix instruction with its operands as read at issue (R248). -/
inductive MxOp where
  | mldw (f16 west comp : Bool) (first base count stride : Nat) (sg : BitVec 128)
  | mswap
  | mstrm (f16 tr : Bool) (first base count stride : Nat) (sg : BitVec 128)
  | mdrain (ty : VType) (cols : Nat) (clr : Bool) (first base count stride : Nat) (sg : BitVec 128)
  | mclr (first count : Nat) (shadow : Bool)
  | mtile (r : Nat) (k : Nat) (at_ : Word) (segs : Vector (BitVec 128) 8)  -- its record, its row count, the record's address
deriving DecidableEq, Repr

/-- A matrix instruction in the engine's order (R244). -/
structure MxJob where
  id : Nat
  slot : Nat
  job : Nat
  op : MxOp
deriving DecidableEq, Repr

/-- What one pass streams: its elements by covered row (or live column), and its block scale (R245). -/
structure Activation where
  xs : List Nat
  scale : Int
deriving DecidableEq, Repr

/-- Where the executing matrix instruction stands. -/
inductive MxStage where
  | start
  | vector (i : Nat) (xs : List Activation)  -- MSTRM: the next vector; once it is read, the passes still to be made
  | tile (j p : Nat)                   -- MTILE at boundary(j, p) (R260)
  | work (j p : Nat)                   -- MTILE past that boundary: it loads round p, or drains panel j after its last round
  | round (j p : Nat) (vs : List (List Activation)) (paid : Nat)  -- MTILE in a round: vectors read, and passes started
  | save (j p : Nat) (valid : Bool) (t : Option Trap)  -- MTILE writing its progress fields (R261)
  -- elements of a drain still to be written: row, column, address, cell; and the trap of a translation after them (R254, R260)
  | drain (j p : Nat) (left : List (Nat × Nat × Word × Nat)) (t : Option Trap)
deriving DecidableEq, Repr

/-- The executing matrix instruction; `blocked` is the address of a page fault it waits on. -/
structure MxRun where
  job : MxJob
  stage : MxStage := .start
  blocked : Option Word := none
deriving DecidableEq, Repr

/-- A lexicon instruction with its operands as read at issue (R280). -/
inductive LxOp where
  | fam (d : Nat) (seed cfg : Word)
  | tab (d : Nat) (at_ cfg : Word) (init : Bool)
  | ins (d : G) (f : Nat) (key : Word) (row : Nat)
  | del (d : G) (f : Nat) (key : Word) (row : Nat)
  | prb (d : G) (f cap : Nat) (key list count : Word) (gather : Option CopyReq)
  | rhStart (fo fn : Nat) (base : Word) (off stride : Nat) (limit rights : Nat)
  | rhStep (d : G) (count : Nat)
deriving DecidableEq, Repr

/-- A lexicon instruction in the engine's order (R278). -/
structure LxJob where
  id : Nat
  slot : Nat
  job : Nat
  op : LxOp
deriving DecidableEq, Repr

/-- The executing lexicon instruction: the steps whose credit it has taken (R279), the page fault it waits on, and the links that other
engines have made meanwhile, as the cell of the block that holds a link and the pool block linked (R292). -/
structure LxRun where
  job : LxJob
  paid : Nat := 0
  blocked : Option Word := none
  rivals : List (Nat × Nat) := []
deriving DecidableEq, Repr

/-- An active rehash (R264, R286). -/
structure Rehash where
  fo : Nat
  fn : Nat
  cursor : Nat
  base : Word               -- key base address
  off : Nat                 -- its offset in the key segment, for the limit check of R286
  stride : Nat
  limit : Nat
  rights : Nat
deriving DecidableEq, Repr

/-! ## The network engine -/

/-- A packet held in a queue of a receiving core (R296): the slot and in channel, the sender, and where it stands. -/
structure Pkt where
  id : Nat
  slot : Nat
  ch : Nat
  job : Nat                 -- job of the sender (R299)
  words : List Word         -- received words, while it is in a hardware entry
  count : Nat               -- words received
  read : Nat                -- words that RECV has taken
  ended : Bool              -- its last word has arrived
  overAt : Option Nat         -- the overflow entry that holds it; none for a hardware entry
  src : Nat := 0            -- the core that sent it
  err : Bool := false       -- an error message from a contained sender (R403)
deriving DecidableEq, Repr

/-- A contribution to a tree operation, or a partial result (R305). -/
structure TreeVal where
  kind : Nat                -- 0 NRED, 1 NBMAX, 2 NBAR
  ty : VType
  op : Nat
  vals : List Nat
deriving DecidableEq, Repr

/-- Where a member's result goes. -/
inductive TreeDest where
  | none                    -- NBAR
  | g (d : G)               -- NBMAX
  | mem (a : Word) (es : Nat)  -- NRED: the address of its first element, and the element size
deriving DecidableEq, Repr

/-- A tree operation outstanding at a core: the thread that issued it, what it contributes (none until its FENCE part is over), where the
result goes, whether its partial result has been sent, and whether its thread has trapped out of it already. -/
structure TreeOp where
  slot : Nat
  val : Option TreeVal
  dest : TreeDest
  sent : Bool
  ended : Bool := false
deriving DecidableEq, Repr

/-- A core's registers and operations of one tree (R293, R305). -/
structure Tree where
  cfg : Word := 0
  parent : Word := 0
  kids : SMap Word := []
  no : Nat := 0                             -- operations of the tree that have ended at this core
  wait : List TreeOp := []                  -- outstanding ones, in issue order
  got : List (Nat × Nat × TreeVal) := []    -- partial results of children: operation, child slot
  fails : List (Nat × Nat × Nat) := []      -- operations that failed: cause and detail
deriving DecidableEq, Repr

/-- Why a thread is out of the rotation, with its row of Table 2 of R129 and what releases it. -/
inductive Park where
  | remote (acc : Nat) (undo : List RegWrite) (c : Ctl)   -- rows 1, 2, 3, 23: the replies of an access
  | matrix (id : Nat)                                     -- row 4: a matrix instruction, until it completes
  | lexicon (id : Nat)                                    -- row 4: a lexicon instruction
  | pageFault (addr : Word)                               -- row 5
  | postedFault (ask : MemAsk) (failed : List Refusal1) (addr : Word)  -- R131: a posted write held at the cluster port
  | send (ch : Nat) (word : Word) (last : Bool)           -- rows 6 and 7: 16 words of the channel are unaccepted
  | recv (d : G) (ch : Nat)                               -- row 14
  | tree (t : Nat)                                        -- row 22
  | treeWrite (a : Word) (es : Nat) (vals : List Nat)     -- row 22: a page fault in the write of a result
  | fence (scope : Scope) (pending : List (Nat × Path)) (clears : Bool) (c : Cont)  -- row 8: the probes not yet echoed
  | tcont                                                 -- row 9
  | posted (r : MemReq) (c : Ctl) (failed : List Refusal1)  -- row 10: the 17th posted write, with elements already refused (R207)
  | sleep (deadline : Option Nat)                         -- row 11
  | ctxsv (target : Nat) (d : G)                          -- row 12
  | fifo (r : CopyReq)                                    -- row 13: a CPQ with a full command FIFO (R210)
  | exitDrain                                             -- EXIT waits for its posted writes (R161)
  | reply (id row : Nat) (d : Option G) (c : Ctl)         -- rows 17, 18, 20, 21: a message and its reply
  | waitc (level unit : Nat) (d : G)                      -- row 15
  | steal (id : Nat) (d : G)                              -- row 16
  | tokens (d : G)                                        -- row 19: TKREQ with wait = 1, after its reply
  | escalated                                             -- R141: stopping at once at a trapping word
  | stopping (row : Nat)                                  -- an abandoned park (its row) until the stop is taken (R144)
deriving DecidableEq, Repr

/-- Slot states (R122, Table 1). -/
inductive SlotState where
  | free
  | ready
  | parked (p : Park)
  | stopped
deriving DecidableEq, Repr

/-- Who asked for a stop (R144). -/
inductive StopReq where
  | ctxsv (slot : Nat)      -- the core's thread that waits in CTXSV
  | scheduler               -- a preemption or a cancel
  | supervisor              -- the supervisor software
  | escalation              -- R141
deriving DecidableEq, Repr

/-- The copy of a clause's record that the scheduler keeps for an occupied slot (R404, R318). -/
structure Occ where
  job : Nat                 -- owner tag 0x01 to 0xFE; 0 for supervisor software
  uid : Nat := 0            -- serial number of this occupancy: the model's own name for "the clause that pushed" (R211)
  code : Word := 0
  frame : Word := 0
  segs : List (BitVec 128) := []
  cls : Nat := 0
  prio : Nat := 0
  launch : Nat := 0         -- launch entry number
  index : Option Nat := none -- launch index; none for a spawned clause
  range : Nat := 0          -- distributed range it came from
  gen : Nat := 0
  phase : Nat := 0
deriving DecidableEq, Repr

/-- Bank accesses of a thread's latest memory instruction in its tile's slice (R95 to R97): the clk in which its T-issue accesses are made,
their banks, and the banks of the T-cont accesses still to be served, one entry each. The units of a vector load or store that wait for those
are in `left`, with what is done with them. -/
structure BankUse where
  clk : Nat := 0
  issue : List Nat := []
  cont : List Nat := []
  left : List AUnit := []
  op : AccOp := .load
  done : Done := .none
deriving DecidableEq, Repr

/-- A thread slot (R132, Table 3), with what the issue rules keep for it (R123 to R127). -/
structure Slot where
  g : Vector Word 32 := Vector.replicate 32 0
  v : Vector (BitVec 2048) 16 := Vector.replicate 16 0
  p : Vector (BitVec 256) 8 := Vector.replicate 8 0
  s : Vector (BitVec 128) 8 := Vector.replicate 8 0
  c : Vector (BitVec 128) 8 := Vector.replicate 8 0
  pc : Word := 0
  npc : Word := 0                     -- address of the word after the one being executed
  flags : Word := 0
  trapPc : Word := 0
  trapFlags : Word := 0
  trapCause : Word := 0
  trapAddr : Word := 0
  hbase : Word := 0
  stallTimeout : BitVec 32 := 0x10000
  touched : BitVec 64 := 0
  wakePend : Bool := false
  issueCount : Word := 0
  st : SlotState := .free
  homeHold : Bool := false
  last : Int := -8                    -- clk of the last issue (R127)
  dist : Nat := 8                     -- issue distance of the last instruction (R123)
  banks : BankUse := { }              -- bank accesses of the latest memory instruction (R96, R97)
  posted : Nat := 0                   -- posted writes not yet acknowledged (R131)
  reports : List Report := []         -- pending asynchronous reports (R142)
  buf : List Block := []              -- instruction buffer (R147)
  want : Option Word := none          -- the block that the thread waits for, its fetch being under way
  pre : Option Word := none           -- the block after it, to be fetched (R147)
  halves : List (Word × Nat) := []    -- 16-byte halves of blocks being fetched that have been read (R148), by address
  flushed : Nat := 0                  -- number of the first access after the latest IFLUSH, whose fetches follow the earlier ones (R149)
  retry : Bool := false               -- checker retry pending (R151)
  stopReq : Option StopReq := none
  wakeStatus : Option Nat := none     -- wake status kept over a stop (Table 8)
  wakeAddr : Word := 0                -- the address whose page it concerns (R137)
  wakePc : Word := 0                  -- the instruction that it concerns, and whether it stands in handler mode (R146)
  wakeMode : Bool := false
  abandoned : Nat := 0                -- row of Table 2 of the abandoned park (Table 8)
  occ : Option Occ := none
  pktIds : SMap Nat := []             -- serials of the open packets, by out channel (the model's own, R295)
  stash : List Nat := []              -- what the present instruction has read so far (R259, R351)
  parkClk : Nat := 0                  -- clk at which the park began (R298)
  explicit : Nat := 0                 -- explicit level (R363)
deriving DecidableEq, Repr

/-! ## The clause scheduler -/

/-- A clause record (R318): what the clause starts with, its join counter, its placement word (R349), the die that holds it. -/
structure CRec where
  serial : Nat
  occ : Occ
  join : Nat
  control : Word
  die : Nat
  queued : Bool := false
deriving DecidableEq, Repr

/-- A distributed range that is in force (R339, R341): the indices of it that have ended, and how many clauses that its clauses
spawned have not. -/
structure DRange where
  die : Nat
  first : Nat
  last : Nat
  gen : Nat
  ended : List Nat := []
  extra : Nat := 0
deriving DecidableEq, Repr

/-- A launch entry (R319, R351). -/
structure Launch where
  serial : Nat
  desc : Nat                          -- its descriptor (R328), as a number
  segs : List (BitVec 128)            -- s0 to s7 of the issuer (R323)
  phase : Nat
  die : Nat                           -- die of the issuer
  core : Nat                          -- core of the issuer
  counter : Nat                       -- R329
  counted : Bool := true              -- it stands in the counters of its graph, phase and job (R329, R331)
  eligible : Bool := false
  cancelled : Bool := false
  next : Nat := 0                     -- next index to be placed; in mode 3 the master's counter (R338)
  back : List (Nat × Nat) := []       -- indices to be handed out again, as first and last (R340)
  ranges : SMap (Option DRange) := [] -- ranges in force, by number
  nextRange : Nat := 1
  gen : Nat := 0                      -- generation counter (R341)
  dirty : List (Nat × List Nat) := [] -- generations not yet swept, with the dies still to acknowledge
  held : List DRange := []            -- ranges that wait for a swept generation
  asking : List Nat := []             -- dies whose distributor has asked
  lost : Bool := false                -- no die of its mask is live (R340)
  opening : Option Nat := none        -- the slot of its LAUNCH, while that is in its FENCE part (R351)
deriving DecidableEq, Repr

/-- What waits in a ready queue (R325). -/
inductive QItem where
  | record (num serial : Nat)                       -- a clause record, by its number and serial
  | range (launch first last range gen : Nat)       -- launch indices; range 0 outside mode 3
  | again (o : Occ)                                 -- a restarted clause (R404)
deriving DecidableEq, Repr

/-- An entry of a ready queue with its keys (R325). -/
structure QEntry where
  job : Nat
  item : QItem
  prio : Nat
  clk : Nat
  src : Nat
  phase : Nat
deriving DecidableEq, Repr

/-- A phrase with the job of the thread that pushed it (R335). -/
structure Phrase where
  job : Nat
  w0 : Word
  w1 : Word
deriving DecidableEq, Repr

/-- A cancel under way (R333, R353): its unit, the dies still to acknowledge, what it has removed, and the thread that waits. -/
structure CancelOp where
  id : Nat
  job : Nat
  level : Nat
  unit : Nat
  waiting : List Nat
  count : Nat
  core : Nat
  slot : Nat
deriving DecidableEq, Repr

/-! ## The power broker -/

/-- A notice of revocation (R371): the amount, the clk in which it leaves the holding, and its place in the order of giving. -/
structure Notice where
  amount : Nat
  due : Nat
  no : Nat
deriving DecidableEq, Repr

/-- Loans with one neighbour (R360, R370). -/
structure Loan where
  lent : Nat := 0
  borrowed : Nat := 0
  recalling : Nat := 0
deriving DecidableEq, Repr

/-- A recall that has reached the borrower and is to be given back (R370): the lender's direction, the request, the tokens, and the clk in
which they go back at the latest. -/
structure Recall where
  dir : Nat
  id : Nat
  n : Nat
  due : Nat
deriving DecidableEq, Repr

/-- A core: a tile's or a supervisor core. -/
structure Core where
  slots : Vector Slot 16 := Vector.replicate 16 { }
  chkCount : Word := 0                -- checker mismatches corrected (R136, R151)
  copyFifo : List CopyReq := []       -- copy command FIFO, 16 entries (R209)
  copyBusy : List CopyReq := []       -- requests in progress, at most 4 (R209)
  mxActive : Plane := { }             -- R242
  mxShadow : Plane := { }
  acc : SMap Nat := []                -- accumulators, FP32 patterns by 80 × row + column (R242)
  mxSticky : BitVec 4 := 0            -- status bits [3:0] (R243)
  mxQueue : List MxJob := []          -- instructions that wait (R244)
  mxRun : Option MxRun := none        -- the executing one
  debt : Nat := 0                     -- F − c: what the issue credit lacks of F (R247)
  extra : Nat := 0                    -- h − 1: the holding above the floor, as the tile sees it (R247, R361)
  hf : Vector (BitVec 128) 4 := Vector.replicate 4 0  -- family registers (R264)
  lt : Vector (BitVec 128) 8 := Vector.replicate 8 0  -- table registers (R264)
  rh : Option Rehash := none          -- the rehash record (R264)
  lxSticky : BitVec 5 := 0            -- status bits [4:0] (R288)
  lxQueue : List LxJob := []          -- instructions that wait (R278)
  lxRun : Option LxRun := none        -- the executing one
  role : Nat := 0                     -- R293
  pend : Option Nat := none           -- pending role (R293, R300)
  ovf : Word := 0x800000000003E000    -- overflow extension: enabled, base 0x3_E000 (R293)
  roleTab : SMap Word := []           -- role table entries by 8 × role + channel (R293)
  trees : Vector Tree 4 := Vector.replicate 4 { }  -- R293, R304
  pkts : List Pkt := []               -- packets held, oldest first (R296)
  win : Vector Word 4 := #v[0xE001000000, 0, 0, 0]  -- window registers (R302): win0 all rights over 4,096 lines
  ready : List QEntry := []           -- ready queue, in ready order (R325)
  deque : List Phrase := []           -- phrases of every job, top first (R335)
  robbed : List Nat := []             -- jobs whose robbed bit is set (R337)
  steals : List (Nat × Nat) := []     -- reserved phrase entries, by request (R357)
  grant : Nat := 0                    -- h − 1, as the broker holds it (R361)
  short : Nat := 0                    -- queued shortfall (R364)
  queuedAt : Option Nat := none       -- clk of its entry in the shortfall queue (R364)
  grantAt : Nat := 0                  -- clk of its latest grant (R371)
  notices : List Notice := []         -- oldest first (R371)
deriving DecidableEq, Repr

/-! ## Jobs and dies -/

/-- A job context record (R400, Table 4), as JOBCTX bound it. -/
structure JobCtx where
  addr : Nat                          -- linear HBM physical address of the record
  hbase : Word
  plimit : Nat
  zoneCtl : Bool
  pbase : Nat
  root1 : Nat
  root2 : Nat
  root3 : Nat
  ctab : Nat
  sched : Nat
  alloc : Option (List Nat)           -- the allocation's source numbers; none for every tile
deriving DecidableEq, Repr

/-- A job's owner tag and what the machine keeps for it. -/
structure Job where
  ctx : Option JobCtx := none
  openPhase : Nat := 0                     -- R331
  recs : SMap (Option CRec) := []          -- clause table (R319)
  recSerial : SMap Nat := []               -- last serial of each record (R320)
  launches : SMap (Option Launch) := []    -- launch table (R319)
  launchSerial : SMap Nat := []            -- last serial of each launch entry
  cancelledGraphs : List Nat := []         -- cancelled bits (R333)
  cancelledPhases : List Nat := []
  cancelled : Bool := false
deriving DecidableEq, Repr

/-- A die. -/
structure Die where
  lead : Nat := 0                     -- lead of its clock counter over the slowest one, 0 to 32 (R121, R179)
  fenced : Bool := false              -- fenced off (R399)
  pool : Nat := 4800                  -- R360, Table 2
  loans : Vector Loan 4 := Vector.replicate 4 { }  -- north, east, south, west
  returning : List Recall := []       -- recalls of what it has borrowed, oldest first
  op : Vector Word 3 := Vector.replicate 3 0  -- op0 to op2 of the command block (R398)
  cmd : Option (Nat × Vector Word 3) := none  -- the command being carried out, with its operands (R398)
  lost : Bool := false                -- cstat, R398, Table 2
  result : Nat := 0
  timer : Option Nat := none          -- clk of expiry (R399)
  corrections : Nat := 0              -- single-bit errors corrected since the last report (R100, R413)
deriving DecidableEq, Repr

/-! ## The schedule -/

/-- What an event acts on; each event's meaning says which parts it uses. -/
structure EvArg where
  core : Nat := 0
  slot : Nat := 0
  id : Nat := 0
  addr : Word := 0
  value : Word := 0
  size : Nat := 0
  port : Port := .A
  flag : Bool := false
  more : Bool := false
deriving DecidableEq, Repr

/-- One move of the schedule: an issue position of a core, a position offered as a spare, or an event. -/
inductive Turn where
  | position (core : Nat)
  | spare (core : Nat)
  | contain (core cause : Nat)        -- containment of a core (R403), with its cause code (R413)
  | resume (core slot : Nat) (i : Instr)  -- a thread's instruction goes on after a part of it is done
  | settle                              -- the conditions that are evaluated at the end of a clk
  | close                               -- launches and clause starts, after them
  | event (i : Instr) (a : EvArg)
deriving DecidableEq, Repr

/-- What a message carries. -/
inductive MsgBody where
  | access (acc home : Nat)           -- a part of an access on its way to a home
  | reply (acc home : Nat)            -- its answer
  | probe (core slot die : Nat) (path : Path)   -- a fence's probe (R118, R119)
  | echo (core slot die : Nat) (path : Path)    -- its echo
  | fetch (core slot : Nat) (addr : Word)   -- a 16-byte half of a fetch block on its way to its home (R148)
  | word (core slot ch : Nat) (dst dslot dch : Nat) (job uid pkt : Nat) (data : Word) (first last : Bool)  -- a channel word (R296)
  | treePart (src dst tree no : Nat) (v : TreeVal)        -- a partial result on its way to the parent (R305)
  | treeDown (dst tree no : Nat) (v : TreeVal)            -- the final result on its way down
  | treeFail (dst tree no cause detail : Nat)             -- a failure
  | resend (acc home : Nat)           -- a waiter that its home refused (R233)
  | cancelWaiter (acc home : Nat)     -- the cancellation of a held LDE or LDC (R234)
  | done (core slot id : Nat) (value : Word)            -- the reply to a scheduler, broker or persistence request
  | failed (core slot id cause detail : Nat)            -- its failure
  | join (core slot id job num serial : Nat) (own : Option (Nat × Nat × Nat)) (spawn : Bool)
      -- a JOIN, CLEND or accepted SPAWN on its way to the record's home; `own`: the sender's launch, range and generation (R341)
  | cancel (id die : Nat)                               -- a cancel on its way to a die (R353)
  | steal (id core slot job victim f : Nat)             -- R357
  | stolen (id core slot job victim : Nat) (ps : List Phrase)
  | distRequest (job launch serial die tile : Nat)      -- a distributor asks the master (R339)
  | distRange (job launch serial die tile range : Nat)  -- a range on its way to the distributor
  | sweep (job launch serial gen die : Nat)             -- R341
  | classUpdate (core t : Nat)                          -- a tile's target on its way to the broker (R366)
  | holding (core : Nat)                                -- a change of h on its way to the tile (R366)
  | loan (src dst n id : Nat) (back : Bool)           -- a lend or a recall on its way to the neighbour's broker (R370)
  | returned (src dst n id : Nat)                       -- recalled tokens on their way back
  | seq (core slot id tag kind : Nat)                   -- to the sequence home: 0 PBAR, 1 PSEQ, 2 and 3 PLOSS (R387)
deriving DecidableEq, Repr

/-- A message under way: it is delivered in or after its due clk. -/
structure Msg where
  id : Nat
  due : Nat
  body : MsgBody
deriving DecidableEq, Repr

/-- The running thread of a step. -/
structure Cur where
  core : Nat := 0
  slot : Nat := 0
deriving DecidableEq, Repr

/-! ## Hosts, boot and power -/

/-- The register set of a Yedan port (R414, R415). -/
structure PortState where
  tag : BitVec 8 := 0
  downAt : Option Int := none         -- clk in which its link went down, before 0 where the count has started again since (R415)
deriving DecidableEq, Repr

/-- An access of a host (R419). -/
structure HostAsk where
  id : Nat
  port : Port
  write : Bool
  addr : Word
  size : Nat
  data : Nat
deriving DecidableEq, Repr

/-- What a host access that a port has accepted waits for. -/
inductive HostWait where
  | exit          -- the exit from a lower power state (R376)
  | way           -- it is on its way to a tile (R13, R419)
  | room          -- room in an acceptance queue (R382)
  | page          -- the answer of the supervisor software to a page fault (R419)
deriving DecidableEq, Repr

/-- The completion of a host access: its data, or cause and detail of a refusal (R419). -/
structure HostAnswer where
  id : Nat
  port : Port
  data : Nat
  refusal : Option (Nat × Nat)
deriving DecidableEq, Repr

/-- An entry of the field retirement log (R408): the tile, the column or 0xFF, the cause and the boot count. -/
structure LogEntry where
  tile : Nat
  column : Nat
  cause : Nat
  boot : Nat
deriving DecidableEq, Repr

/-- What the body of a service command names (R411). -/
structure ServiceBody where
  device : Word
  boot : Nat
  entry : LogEntry
deriving DecidableEq, Repr

/-- The device's state in boot control (R406). -/
inductive BootState where
  | booting | ready | hold
deriving DecidableEq, Repr

/-- Physical facts that a boot finds out (R407): they are the outside's, and no rule changes them. -/
structure Facts where
  eccBad : List Nat := []             -- step 1: dies whose boot ROM finds the fuse map's ECC wrong
  signatureOk : Bool := true          -- step 2
  pathless : List Nat := []           -- step 3: dies without a working path to die 0
  linksDown : Nat := 0                -- links that fail their test
  faulty : List (Nat × Nat) := []     -- step 4: tiles and columns (0xFF: the whole tile) that fail their tests
  stacksDown : List Nat := []         -- homes of stacks whose controllers cannot be brought up
  supervisorsBad : List Nat := []     -- dies whose supervisor core fails its own test
deriving DecidableEq, Repr

/-- The matrix and lexicon state of a tile, as ENGSV saves it (R399). -/
structure EngImage where
  mxActive : Plane := { }
  mxShadow : Plane := { }
  acc : SMap Nat := []
  mxSticky : BitVec 4 := 0
  hf : Vector (BitVec 128) 4 := Vector.replicate 4 0
  lt : Vector (BitVec 128) 8 := Vector.replicate 8 0
  rh : Option Rehash := none
  lxSticky : BitVec 5 := 0
deriving DecidableEq, Repr, Inhabited

end Sys2Proof.Machine

/-- Free value (log 15): the engine state that ENGLD reads from words that are not an image of ENGSV (R399). -/
opaque Sys2Proof.Config.engineState : List Sys2Proof.Word → Sys2Proof.Machine.EngImage

/-- Free value (log 14): the body of a service command whose signature is right, from its words (R411); none where the signature is wrong. -/
opaque Sys2Proof.Config.serviceBody : List Sys2Proof.Word → Option Sys2Proof.Machine.ServiceBody

namespace Sys2Proof.Machine

/-- A report to a die's supervisor core (R105, R141). -/
structure SupReport where
  die : Nat
  core : Nat
  slot : Nat
  cause : Nat
  detail : Nat
  addr : Word
  request : Option (Nat × Word) := none
    -- for a copy request: its job and the address of its concord (R211); for unended indices: their job and launch (R340)
deriving DecidableEq, Repr

/-- THE STATE OF THE MACHINE. -/
structure State where
  clk : Nat := 0
  phase : Nat := 0
  agenda : List Turn := []
  cur : Cur := { }
  ev : EvArg := { }
  draws : Nat := 0                    -- free values drawn so far
  inputs : List (Instr × EvArg) := [] -- what the outside does next
  mem : SMap (BitVec 8) := []
  lines : SMap LineMeta := []
  cores : SMap Core := []
  dies : SMap Die := []
  jobs : SMap Job := []
  tlb : List TlbEntry := []
  accesses : SMap (Option Access) := []
  nextAcc : Nat := 1
  msgs : List Msg := []
  nextMsg : Nat := 1
  waiters : List (Nat × Nat) := []    -- held LDE, LDC, CCWAIT, CMWAIT: home and access, in arrival order (R233)
  nextReq : Nat := 1                  -- next request number
  refusedPkts : List Nat := []        -- packets refused at their target, whose later words are dropped (R299)
  nvq : SMap (List (Nat × Nat × LineMeta)) := []  -- acceptance queues: granule, what it held before, its line's metadata (R382)
  saveAreas : SMap Nat := []          -- context save areas set by SAVEAREA, by 16 × core + slot (R143)
  images : SMap (SMap Word) := []     -- saved contexts in the layout of Table 8, by the place of their area (R143)
  reports : List SupReport := []      -- reports that the supervisor software has not yet taken
  dead : List Nat := []               -- every dead tile: fuse map, field log, contained in this boot (R13)
  deadCols : List (Nat × Nat) := []   -- retired physical columns, as tile and column (R241)
  hshare : Nat := 8                   -- H in force (R85)
  ring : SMap Word := []              -- event ring, words 0 to 511 (R413)
  ringCount : Word := 0               -- its write count (R413)
  cancels : List CancelOp := []       -- cancels under way
  dseq : SMap Word := []              -- persist sequence numbers by tag (R387)
  lseq : SMap Word := []              -- R388
  lword : SMap Word := []             -- loss words (R388, Table 2)
  seqDie : Nat := 3                   -- die of the sequence home (R387, R399)
  orderly : Bool := false             -- orderly mark (R412)
  drained : Option (Nat × Bool) := none  -- an interruption not yet recorded: its drained bits, and whether it was abrupt (R389)
  supply : Bool := true
  closed : Bool := false              -- clause starts have stopped (R412)
  bootState : BootState := .ready     -- R406
  bootFull : Bool := true             -- R406
  bootShare : Nat := 8                -- hshare of boot control (R406)
  bootCount : Nat := 0
  fieldLog : List LogEntry := []      -- R408
  pending : List (Nat × Nat) := []    -- pending list: tiles, each with the cause code of its containment (R409)
  fuseDead : List Nat := []           -- tiles the fuse map records dead (R407)
  fuseCols : List (Nat × Nat) := []   -- columns the fuse map records retired (R241)
  logFull : Bool := false             -- R408
  census : List Nat := []             -- tiles dead at the last boot, as its census shows them (R407, R418)
  linksRetired : Nat := 0             -- links retired at the last boot (R407, R416)
  failures : List (Nat × Nat) := []   -- tiles and columns that failed the tests of the last boot (R407, R416)
  stacksDown : List Nat := []         -- homes of stacks that were not brought up (R407, R418)
  eccFailed : List Nat := []          -- dies that failed step 1 of the last boot (R407, R416)
  supFailed : List Nat := []          -- dies whose supervisor core failed its test at the last boot
  signatureFailed : Bool := false     -- step 2 of the last boot failed
  pathFailed : List Nat := []         -- dies that step 3 of the last boot found without a path
  facts : Facts := { }                -- what the last boot found, and the next one finds unless `laterFacts` says otherwise
  laterFacts : List Facts := []       -- what the boots to come find, the next one first: the outside's (R409)
  engImages : List (Nat × List Word × EngImage) := []  -- ENGSV's images: address, the words it wrote, what they stand for (R399)
  powerState : Nat := 0               -- R375, Table 6
  deepOk : Bool := false              -- R375, Table 7
  idleHold : Nat := 10
  latTol : Nat := 0
  idleFrom : Nat := 0                 -- clk from which the device has been idle (R376)
  exitAt : Option Nat := none         -- clk in which an exit from a lower state is complete
  portA : PortState := { }
  portB : PortState := { }
  owner : Option Port := none         -- ownership semaphore (R415)
  lastLoser : Option Port := none     -- the port that lost the last tie (R415)
  hostHeld : List (HostAsk × HostWait) := []  -- host accesses accepted and not yet completed (R376, R419)
  hostOut : List HostAnswer := []     -- completions, oldest first
  nextHost : Nat := 1
  nonce : Vector Word 8 := Vector.replicate 8 0  -- R417
  attesting : Option Port := none     -- a report is in progress for this port
  attest : List Word := []            -- attestation payload of the last report
deriving DecidableEq, Repr

/-- What can stop the model. -/
inductive Fault where
  /-- The supply is off and the outside brings it back no more: raised by `step`. Safe: the part does nothing then. -/
  | powerOff
deriving DecidableEq, Repr

/-- Refusals. -/
inductive Refusal where
  /-- An instruction whose meaning is not written: raised by `exec`. Safe: nothing is claimed of it. -/
  | notModelled (mnemonic : String)
deriving DecidableEq, Repr

/-- The answer of a step. -/
abbrev Out := Host.Outcome State Fault Refusal

/-- The machine right after device reset: the steps of R407 are its next move. -/
def State.reset : State := { bootState := .booting, agenda := [.event .boot { }] }

end Sys2Proof.Machine
end

