-- ==== Sys2Proof/Machine/Flags.lean ====
section
/-!
DEFINITION. The flags word (R133, Table 4; R58, Table 2): reading its fields, setting sticky bits, the pending skip count and the
mode bit. Every flag computation of the scalar side is a call of `orArith`; the flag values themselves come from the operations.
-/
namespace Sys2Proof.Machine

/-- hmode: handler mode (bit 19). -/
def hmode (f : Word) : Bool := f.getLsbD 19

/-- skip_pend (bits [17:16]). -/
def skipPend (f : Word) : Nat := (f.extractLsb' 16 2).toNat

/-- The arithmetic field (bits [15:0]). -/
def arith (f : Word) : BitVec 16 := f.extractLsb' 0 16

/-- rnd_mode (bits [9:8], R58). -/
def rndMode (f : Word) : Nat := (f.extractLsb' 8 2).toNat

/-- Sets sticky bits of the arithmetic field: arithmetic never clears one (R58). -/
def orArith (f : Word) (x : Fl) : Word := f ||| x.zeroExtend 64

/-- Writes skip_pend. -/
def withSkip (f : Word) (n : Nat) : Word := (f &&& ~~~(0x30000 : Word)) ||| ((BitVec.ofNat 64 (n % 4)) <<< 16)

/-- Writes hmode. -/
def withHmode (f : Word) (h : Bool) : Word :=
  if h then f ||| (0x80000 : Word) else f &&& ~~~(0x80000 : Word)

/-- A write of the flags word by the thread: the RW fields only (R133, R171); bits [15:10] are reserved. -/
def writeFlags (f x : Word) : Word := (f &&& ~~~(0x3FF : Word)) ||| (x &&& (0x3FF : Word))

/-- The bits of the flags word that hold a field; the others are RSV and read zero (R6, R133). -/
def flagsMask : Word := 0xB03FF

end Sys2Proof.Machine
end

