-- ==== Sys2Proof/Machine/Operands.lean ====
section
/-!
DEFINITION. Operand forms: widths, immediates (R32, R153), displacements (R37), signed readings, general registers with g0 (R132),
predicates with p0 (R132, R182), and the lanes of vector registers (R181).
-/
namespace Sys2Proof
open Machine

/-- Bits of a scalar width (R36). -/
def Width.bits : Width → Nat
  | .w64 => 64
  | .w32 => 32
  | .w16 => 16
  | .w8 => 8

/-- Bytes of a scalar width (R162). -/
def Width.bytes (w : Width) : Nat := w.bits / 8

/-- The sign-extended immediate (R153). -/
def Imm.val : Imm → Int
  | .i24 v => v.toInt
  | .i56 v => v.toInt

/-- The sign-extended displacement (R37, R32). -/
def Disp.val : Disp → Int
  | .d19 v => v.toInt
  | .d51 v => v.toInt

/-- Bytes of an element (R181). -/
def VType.bytes (t : VType) : Nat := t.bits / 8

end Sys2Proof

namespace Sys2Proof.Machine

/-- The two's-complement reading of the low n bits of x (sext of R7). -/
def sextN (n x : Nat) : Int := if x % 2 ^ n < 2 ^ (n - 1) then (x % 2 ^ n : Nat) else (x % 2 ^ n : Nat) - (2 ^ n : Nat)

/-- The e-bit pattern of an integer. -/
def patN (e : Nat) (v : Int) : Nat := (v % (2 ^ e : Nat)).toNat

/-- An integer as a 64-bit word, modulo 2^64. -/
def ofInt (v : Int) : Word := BitVec.ofInt 64 v

/-- An integer result narrowed to W bits and sign-extended to 64 (R153). -/
def narrow (w : Nat) (v : Int) : Word := ofInt (sextN w (v % (2 ^ w : Nat)).toNat)

/-- General register read: g0 reads 0 (R132). -/
def Slot.rg (t : Slot) (r : G) : Word := if r = 0 then 0 else t.g[r]

/-- General register write: g0 ignores writes (R33, R132). -/
def Slot.wg (t : Slot) (r : G) (x : Word) : Slot := if r = 0 then t else { t with g := t.g.set r x }

/-- All-true predicate of a w-bit engine: one bit per 8-bit lane (R182). -/
def allTrue (w : Nat) : BitVec 256 := BitVec.ofNat 256 (2 ^ (w / 8) - 1)

/-- Predicate register read: p0 reads as all ones (R132, R182). -/
def Slot.rp (t : Slot) (w : Nat) (r : P) : BitVec 256 := if r = 0 then allTrue w else t.p[r]

/-- Predicate register write: p0 ignores writes (R33, R132). -/
def Slot.wp (t : Slot) (r : P) (x : BitVec 256) : Slot := if r = 0 then t else { t with p := t.p.set r x }

/-- Vector register read. -/
def Slot.rv (t : Slot) (r : V) : BitVec 2048 := t.v[r]

/-- Vector register write. -/
def Slot.wv (t : Slot) (r : V) (x : BitVec 2048) : Slot := { t with v := t.v.set r x }

/-- Element j of width e of a vector register (R181). -/
def lane (x : BitVec 2048) (e j : Nat) : Nat := x.toNat / 2 ^ (e * j) % 2 ^ e

/-- Element j of width e is active: bit j × (e/8) of the predicate (R182). -/
def active (p : BitVec 256) (e j : Nat) : Bool := p.getLsbD (j * (e / 8))

/-- A vector register from its elements of width e: element j is `f j`, for j below n; the bits above are 0. -/
def mkLanes (e n : Nat) (f : Nat → Nat) : BitVec 2048 :=
  BitVec.ofNat 2048 ((List.range n).foldr (fun j acc => acc * 2 ^ e + f j % 2 ^ e) 0)

/-- A predicate from its elements of width e: all e/8 bits of element j are its result (R182). -/
def mkPred (e n : Nat) (f : Nat → Bool) : BitVec 256 :=
  BitVec.ofNat 256 ((List.range n).foldr (fun j acc => acc * 2 ^ (e / 8) + if f j then 2 ^ (e / 8) - 1 else 0) 0)

/-- A 128-bit segment register's fields (R89, Table 3): base. -/
def segBase (s : BitVec 128) : Nat := s.toNat % 2 ^ 64
/-- limit. -/
def segLimit (s : BitVec 128) : Nat := s.toNat / 2 ^ 64 % 2 ^ 48
/-- The six rights: read 1, write 2, execute 4, atomic 8, send 16, persist 32. -/
def segRights (s : BitVec 128) : Nat := s.toNat / 2 ^ 112 % 64
/-- A segment register from its fields. -/
def mkSeg (base limit rights : Nat) : BitVec 128 :=
  BitVec.ofNat 128 (base % 2 ^ 64 + limit % 2 ^ 48 * 2 ^ 64 + rights % 64 * 2 ^ 112)

/-- The register that 128 bits of a segment image make: reserved bits and bits [5:0] of the base hold zero (R89). -/
def segReg (x : BitVec 128) : BitVec 128 := mkSeg (segBase x / 64 * 64) (segLimit x) (segRights x)

/-- Rights (R89, R91). -/
def rRead : Nat := 1
/-- write. -/
def rWrite : Nat := 2
/-- execute. -/
def rExec : Nat := 4
/-- atomic. -/
def rAtomic : Nat := 8
/-- send. -/
def rSend : Nat := 16
/-- persist. -/
def rPersist : Nat := 32

/-- The rights of `need` that `have_` lacks (R90): some are absent. -/
def lacks (need have_ : Nat) : Bool := (need &&& have_) != need

end Sys2Proof.Machine
end

