-- ==== Sys2Proof/Machine/Ops.lean ====
section
/-!
DEFINITION. The named operations over cores, slots, registers and memory; messages and free values; and TAKING A TRAP (R140, R141)
with the return from it (R173).
-/
namespace Sys2Proof.Machine

/-! ## Cores and slots -/

/-- Slot k of a core. -/
def Core.slot (c : Core) (k : Nat) : Slot := (c.slots[k]?).getD { }

/-- The core with slot k replaced. -/
def Core.setSlot (c : Core) (k : Nat) (t : Slot) : Core := { c with slots := c.slots.setIfInBounds k t }

/-- A core. -/
def State.core (s : State) (cid : Nat) : Core := SMap.get { } s.cores cid

/-- The state with a core replaced. -/
def State.setCore (s : State) (cid : Nat) (c : Core) : State := { s with cores := SMap.set { } s.cores cid c }

/-- The state with a core changed. -/
def State.modCore (s : State) (cid : Nat) (f : Core → Core) : State := s.setCore cid (f (s.core cid))

/-- A thread slot. -/
def State.slot (s : State) (cid k : Nat) : Slot := (s.core cid).slot k

/-- The state with a slot replaced. -/
def State.setSlot (s : State) (cid k : Nat) (t : Slot) : State := s.modCore cid (·.setSlot k t)

/-- The state with a slot changed. -/
def State.modSlot (s : State) (cid k : Nat) (f : Slot → Slot) : State := s.setSlot cid k (f (s.slot cid k))

/-- The slot of the running thread. -/
def State.me (s : State) : Slot := s.slot s.cur.core s.cur.slot

/-- The state with the running thread's slot replaced. -/
def State.setMe (s : State) (t : Slot) : State := s.setSlot s.cur.core s.cur.slot t

/-- The state with the running thread's slot changed. -/
def State.modMe (s : State) (f : Slot → Slot) : State := s.setMe (f s.me)

/-- A die. -/
def State.die (s : State) (d : Nat) : Die := SMap.get { } s.dies d

/-- The state with a die changed. -/
def State.modDie (s : State) (d : Nat) (f : Die → Die) : State :=
  { s with dies := SMap.set { } s.dies d (f (s.die d)) }

/-- What the machine keeps for an owner tag. -/
def State.job (s : State) (tag : Nat) : Job := SMap.get { } s.jobs tag

/-- The state with a job changed. -/
def State.modJob (s : State) (tag : Nat) (f : Job → Job) : State :=
  { s with jobs := SMap.set { } s.jobs tag (f (s.job tag)) }

/-- Owner tag of a slot's thread; 0 for supervisor software (R99, R397). -/
def Slot.tag (t : Slot) : Nat := (t.occ.map (·.job)).getD 0

/-- The thread runs on a supervisor core, so its accesses are made for no job (R397). -/
def isSup (cid : Nat) : Bool := !Config.isTile cid

/-- A tile is dead (R13). -/
def State.isDead (s : State) (sn : Nat) : Bool := s.dead.contains sn

/-- The kept wake status, at the instruction whose reissue it concerns (R146). -/
def Slot.wakeDue (t : Slot) : Option Nat := if t.pc = t.wakePc && hmode t.flags == t.wakeMode then t.wakeStatus else none

/-- The thread issued its word and goes on at the next one. -/
def Slot.advance (t : Slot) : Slot := { t with pc := t.npc }

/-! ## Free values and messages -/

/-- A free number of clk that a message takes (log 5). -/
def State.drawLatency (s : State) : Nat × State := (Config.latency s.draws, { s with draws := s.draws + 1 })

/-- A free choice among n outcomes (R2, log 6). -/
def State.drawChoice (s : State) (n : Nat) : Nat × State := (Config.choice s.draws % n, { s with draws := s.draws + 1 })

/-- A free word (log 9). -/
def State.drawWord (s : State) : Word × State := (Config.freeWord s.draws, { s with draws := s.draws + 1 })

/-- Sends a message: it is delivered in some later clk. -/
def State.send (s : State) (b : MsgBody) : State :=
  let r := s.drawLatency
  { r.2 with msgs := r.2.msgs ++ [⟨s.nextMsg, s.clk + 1 + r.1, b⟩], nextMsg := s.nextMsg + 1 }

/-- Sends a message that is delivered in a given clk. -/
def State.sendAt (s : State) (due : Nat) (b : MsgBody) : State :=
  { s with msgs := s.msgs ++ [⟨s.nextMsg, due, b⟩], nextMsg := s.nextMsg + 1 }

/-- A message that has been taken goes on under its number, for a later delivery. -/
def State.sendAgain (s : State) (id : Nat) (b : MsgBody) : State :=
  let r := s.drawLatency
  { r.2 with msgs := r.2.msgs ++ [⟨id, s.clk + 1 + r.1, b⟩] }

/-- Sends a message after n clk. -/
def State.sendAfter (s : State) (n : Nat) (b : MsgBody) : State :=
  let r := s.drawLatency
  r.2.sendAt (s.clk + n + 1 + r.1) b

/-- Sends a message between a tile and its broker, which takes at most 64 clk (R366). -/
def State.sendSoon (s : State) (b : MsgBody) : State :=
  let r := s.drawLatency
  r.2.sendAt (s.clk + 1 + r.1 % 64) b

/-! ## Targets (R362, R363) -/

/-- Sixteenths of F that a class demands (Table 3). -/
def classShare (cls : Nat) : Nat := [0, 1, 2, 4, 6, 8, 12, 16].getD cls 0

/-- demand(class) of a tile. -/
def demand (cid cls : Nat) : Nat := Config.fullRate cid * classShare cls / 16

/-- A slot counts for its tile's target: ready or parked. -/
def Slot.counts (t : Slot) : Bool := t.st != .free && t.st != .stopped

/-- What a slot asks of its tile's holding. -/
def Slot.asks (t : Slot) (cid : Nat) : Nat := if t.counts then max (demand cid ((t.occ.map (·.cls)).getD 0)) t.explicit else 0

/-- The target t of a tile; 0 for a vector tile. -/
def State.target (s : State) (cid : Nat) : Nat :=
  if Config.hasMatrix cid then ((s.core cid).slots.toList.map fun t => t.asks cid).foldl max 1 else 0

/-- The tile's target may have changed: its broker is told (R363, R366). -/
def State.tellBroker (s : State) (cid : Nat) : State :=
  if Config.hasMatrix cid then s.sendSoon (.classUpdate cid (s.target cid)) else s

/-! ## Messages taken, moves and reports -/

/-- Takes a message out of the network: what it carries, and the state without it. -/
def State.takeMsg (s : State) (id : Nat) : Option MsgBody × State :=
  ((s.msgs.find? fun m => m.id == id).map (·.body), { s with msgs := s.msgs.filter fun m => m.id != id })

/-- Puts a move at the front of the schedule: it is the next one made. -/
def State.push (s : State) (t : Turn) : State := { s with agenda := t :: s.agenda }

/-- A report to a die's supervisor core. -/
def State.report (s : State) (r : SupReport) : State := { s with reports := s.reports ++ [r] }

/-- Tile base of a core, 0 for a supervisor core (R413). -/
def coreBase (cid : Nat) : Nat := if Config.isTile cid then Config.tileBase cid else 0

/-- An entry of die 0's event ring (R413): code, die, tile base (0 for none) and word 1. -/
def State.event (s : State) (code die base : Nat) (word1 : Word) : State :=
  let c := s.ringCount.toNat % 256
  let w0 : Word := BitVec.ofNat 64 (code * 2 ^ 56 + die % 64 * 2 ^ 40 + base % 2 ^ 32)
  { s with
    ring := SMap.set 0 (SMap.set 0 s.ring (2 * c) w0) (2 * c + 1) word1
    ringCount := s.ringCount + 1 }

/-! ## Memory -/

/-- Cells of linear HBM: physical offset P of space 0x1. -/
def linCell (p : Nat) : Nat := 2 ^ 60 + p
/-- Cells of hashed HBM: physical offset P of space 0x2. -/
def hashCell (p : Nat) : Nat := 2 * 2 ^ 60 + p
/-- Cells of the non-volatile tier: physical offset P of space 0x3. -/
def nvCell (p : Nat) : Nat := 3 * 2 ^ 60 + p
/-- Cells of a supervisor core's own SRAM (R397). -/
def supCell (die off : Nat) : Nat := 14 * 2 ^ 60 + die * 2 ^ 18 + off
/-- Registers of space 0x7 (R87). -/
def regCell (die off : Nat) : Nat := 7 * 2 ^ 60 + die * 2 ^ 26 + off
/-- Cells of a tile's SRAM: its space 0x0 address (R81, R83). -/
def sramCell (sn off : Nat) : Nat := Config.tileBase sn + off
/-- The tile of an SRAM cell. -/
def cellTile (a : Nat) : Nat := Config.snOf (a / 2 ^ 26 % 64) (a / 2 ^ 25 % 2) (a / 2 ^ 18 % 128)

/-- The canonical form of the bytes of memory: addresses strictly rising, and no byte listed that an unlisted address reads as. -/
def Memory.wf (m : SMap (BitVec 8)) : Bool := SMap.wf 0 m

/-- The canonical form of memory and of the metadata of its lines. -/
abbrev State.MemoryForm (s : State) : Prop := Memory.wf s.mem = true ∧ SMap.wf { } s.lines = true

/-- One byte. Memory that nothing has written reads 0 (log 2). -/
def State.byte (s : State) (a : Nat) : BitVec 8 := SMap.get 0 s.mem a

/-- Writes one byte. -/
def State.setByte (s : State) (a : Nat) (x : BitVec 8) : State := { s with mem := SMap.set 0 s.mem a x }

/-- n bytes from a cell on, little-endian (R4). -/
def State.readN (s : State) (a : Nat) : Nat → Nat
  | 0 => 0
  | n + 1 => (s.byte a).toNat + 256 * s.readN (a + 1) n

/-- Writes n bytes, little-endian (R4). -/
def State.writeN (s : State) (a : Nat) : Nat → Nat → State
  | 0, _ => s
  | n + 1, x => (s.setByte a (BitVec.ofNat 8 x)).writeN (a + 1) n (x / 256)

/-- Metadata of the line that holds a cell (R98). -/
def State.line (s : State) (a : Nat) : LineMeta := SMap.get { } s.lines (a / 64)

/-- Changes a line's metadata. -/
def State.modLine (s : State) (a : Nat) (f : LineMeta → LineMeta) : State :=
  { s with lines := SMap.set { } s.lines (a / 64) (f (s.line a)) }

/-- The 8-byte words of a line that hold bytes off to off + n − 1, as a mask. -/
def wordsHit (off n : Nat) : BitVec 9 := BitVec.ofNat 9 (2 ^ ((off + n + 7) / 8) - 2 ^ (off / 8))

/-- The words of which every byte lies in off to off + n − 1. -/
def wordsWhole (off n : Nat) : BitVec 9 := BitVec.ofNat 9 (2 ^ ((off + n) / 8) - 2 ^ min ((off + 7) / 8) ((off + n) / 8))

/-- No error stands in the line's check bits. -/
def LineMeta.sound (m : LineMeta) : Bool := m.single == 0 && m.double == 0

/-- After a TAG of a poisoned line, a write of bytes of it; the write that completes the line clears the poison (R402). -/
def LineMeta.wipe (m : LineMeta) (off n : Nat) : LineMeta :=
  match m.wiped with
  | none => m
  | some w =>
    let w := w ||| BitVec.ofNat 64 ((2 ^ n - 1) * 2 ^ off)
    if w = BitVec.allOnes 64 then { m with wiped := none, poisoned := false, single := 0, double := 0 } else { m with wiped := some w }

/-- A write of bytes of a line: whole words get new check bits (R98, log 23). -/
def LineMeta.written (m : LineMeta) (off n : Nat) : LineMeta :=
  let m := m.wipe off n
  { m with single := m.single &&& ~~~wordsWhole off n, double := m.double &&& ~~~wordsWhole off n }

/-- A plain write of n bytes within one line: it clears the line's typed bit (R76). -/
def State.writePlain (s : State) (a n x : Nat) : State :=
  (s.writeN a n x).modLine a fun m => { m.written (a % 64) n with typed := false }

/-- A typed write of a whole line: data and typed bit together (R76). -/
def State.writeTyped (s : State) (a x : Nat) : State := (s.writeN a 64 x).modLine a fun m => { m.written 0 64 with typed := true }

/-- Bytes of the linear region of one HBM stack (R85). -/
def State.linPerStack (s : State) : Nat := Config.hbmStack - s.hshare * 2 ^ 30

/-- Size of the linear region (R85). -/
def State.linSize (s : State) : Nat := 48 * s.linPerStack

/-- Size of the hashed region (R85). -/
def State.hashSize (s : State) : Nat := 48 * (s.hshare * 2 ^ 30)

/-- Size of the non-volatile tier (R86). -/
def nvSize : Nat := 8 * Config.nvStack

/-- Stack of a linear physical offset (R85). -/
def State.linStack (s : State) (p : Nat) : Nat := p / s.linPerStack

/-- Stack of a hashed physical offset (R85). -/
def hashStack (p : Nat) : Nat :=
  let line := p / 64
  let row := line / 48
  let f := (Nat.xor (Nat.xor row (row / 2 ^ 6)) (row / 2 ^ 12)) % 48
  (line % 48 + f) % 48

/-- The home of a cell: a tile, a supervisor core, an HBM stack (20,000 on), a non-volatile stack (30,000 on), or the registers of
a die (40,000 on). -/
def State.homeOf (s : State) (a : Nat) : Nat :=
  match a / 2 ^ 60 with
  | 0 => cellTile a
  | 1 => 20000 + s.linStack (a % 2 ^ 60)
  | 2 => 20000 + hashStack (a % 2 ^ 60)
  | 3 => 30000 + a % 2 ^ 60 / Config.nvStack
  | 7 => 40000 + a / 2 ^ 26 % 64
  | _ => Config.supCore (a / 2 ^ 18 % 64)

/-- Die of a home (R14, R118). -/
def homeDie (h : Nat) : Nat :=
  if h < 20000 then Config.coreDie h
  else if h < 30000 then Config.hbmDie (h - 20000)
  else if h < 40000 then Config.nvDie (h - 30000)
  else h - 40000

/-- The home is the core's own SRAM (R83). -/
def isLocal (cid h : Nat) : Bool := h == cid

/-! ## Traps -/

/-- The trap_cause word (R137, Table 6). -/
def causeWord (async : Bool) (cause detail : Nat) : Word :=
  BitVec.ofNat 64 ((if async then 2 ^ 16 else 0) + cause % 256 * 2 ^ 8 + detail % 256)

/-- Records a trap in the slot (R140). -/
def Slot.recordTrap (t : Slot) (cause detail : Nat) (addr resume : Word) (async : Bool) : Slot :=
  { t with trapPc := resume, trapFlags := t.flags, trapCause := causeWord async cause detail, trapAddr := addr }

/-- ESCALATION (R141): the trap state describes the trap that escalated, with trap_pc at the trapping word; the thread stops as
R144 gives, and the die's supervisor core and the event ring (R413, code 0x04) receive the report. -/
def State.escalate (s : State) (cid k cause detail : Nat) (addr : Word) (async : Bool) : State :=
  let t := s.slot cid k
  let t' := { t.recordTrap cause detail addr t.pc async with st := .parked .escalated, stopReq := some .escalation }
  let s := s.setSlot cid k t'
  let s := s.report ⟨Config.coreDie cid, cid, k, cause, detail, addr, none⟩
  s.event 0x04 (Config.coreDie cid) (coreBase cid)
    (BitVec.ofNat 64 (t.tag * 2 ^ 40 + k * 2 ^ 32) ||| causeWord async cause detail)

/-- TAKING A TRAP (R140): a thread in handler mode or without a handler escalates; else the trap state is saved, handler mode
set, the pending skip count cleared, and the thread goes on at hbase + 32 × cause. -/
def State.trapEnter (s : State) (cid k cause detail : Nat) (addr resume : Word) (async : Bool) : State :=
  let t := s.slot cid k
  if hmode t.flags || t.hbase == 0 then s.escalate cid k cause detail addr async
  else
    let t' := t.recordTrap cause detail addr resume async
    s.setSlot cid k { t' with
      flags := withSkip (withHmode t.flags true) 0
      pc := t.hbase + BitVec.ofNat 64 (32 * cause)
      st := .ready }

/-- The running thread's trap, at its own word. -/
def State.trapMe (s : State) (t : Trap) : State :=
  s.trapEnter s.cur.core s.cur.slot t.cause t.detail t.addr s.me.pc false

/-- RETURN FROM A TRAP (R173): pc and every field of flags come from the trap state. -/
def Slot.trapReturn (t : Slot) : Slot := { t with pc := t.trapPc, flags := t.trapFlags &&& flagsMask }

/-- The trap causes of R138, Table 7. -/
def cFetchBoundary : Nat := 0x01
/-- illegal-instruction trap -/
def cIllegal : Nat := 0x02
/-- privilege trap -/
def cPrivilege : Nat := 0x03
/-- segment fault -/
def cSegment : Nat := 0x04
/-- alignment fault -/
def cAlign : Nat := 0x05
/-- address fault -/
def cAddress : Nat := 0x06
/-- owner fault -/
def cOwner : Nat := 0x07
/-- refused access -/
def cRefused : Nat := 0x08
/-- page fault -/
def cPage : Nat := 0x09
/-- data fault -/
def cData : Nat := 0x0A
/-- contained error -/
def cContained : Nat := 0x0B
/-- concord-overflow trap -/
def cConcord : Nat := 0x0C
/-- channel-stall trap -/
def cStall : Nat := 0x0D
/-- shape fault -/
def cShape : Nat := 0x0E
/-- engine fault -/
def cEngine : Nat := 0x0F
/-- software trap -/
def cSoftware : Nat := 0x10

end Sys2Proof.Machine
end

