-- ==== Sys2Proof/Machine/Mem.lean ====
section
/-!
DEFINITION. One memory access from the issuing core's side: the segment and space checks of R90 in their order, translation by
the tables (R101 to R106), the target checks of R99, R100 and R107, and what an access does to its cell.
-/
namespace Sys2Proof.Machine

/-- The kind of an access for rights, tags and windows (R91, R99, R303). -/
inductive AKind where
  | read | write | rmw
deriving DecidableEq, Repr

/-- The access writes. -/
def AKind.writes : AKind → Bool
  | .read => false
  | .write => true
  | .rmw => true

/-- Rights needed (R91, Table 4), with the persist right when the address lies in space 0x3. -/
def AKind.rights (k : AKind) (space : Nat) : Nat :=
  match k with
  | .read => rRead
  | .write => rWrite + if space = 3 then rPersist else 0
  | .rmw => rRead + rWrite + rAtomic + if space = 3 then rPersist else 0

/-- Space of an address (R81). -/
def spaceOf (a : Word) : Nat := a.toNat / 2 ^ 60

/-- A checked address: a cell, or an offset of a translated space. -/
inductive Place where
  | cell (a : Nat)
  | virt (space off : Nat)
deriving DecidableEq, Repr

/-- The agent that an access is made for: a core, a slot of it and the owner tag of its job (R99, R108). An engine keeps the agent of
the thread that requested it (R119). -/
structure Agent where
  core : Nat
  slot : Nat
  job : Nat
  lost : Option Word := none  -- an address whose page the supervisor software does not provide (R289)
deriving DecidableEq, Repr

/-- The agent of a thread. -/
def State.agent (s : State) (cid k : Nat) : Agent := { core := cid, slot := k, job := (s.slot cid k).tag }

/-- The number of a space 0x0 address that names a live tile, or the detail of its address fault (R81, R82). -/
def State.sramPlace (s : State) (a : Nat) : Except Nat Nat :=
  if a / 2 ^ 32 % 2 ^ 28 != 0 then .error 0x02
  else if a / 2 ^ 18 % 128 ≥ 96 then .error 0x03
  else if s.isDead (cellTile a) then .error 0x04
  else .ok a

/-- check_space (R81, R82, R84, R397): where an address of an agent leads, or the detail of its address fault. -/
def State.checkSpace (s : State) (ag : Agent) (a : Word) : Except Nat Place :=
  let n := a.toNat
  let off := n % 2 ^ 60
  match spaceOf a with
  | 0 => (s.sramPlace n).map .cell
  | 1 =>
    if off ≥ 2 ^ 48 then .error 0x02
    else if isSup ag.core then (if off < s.linSize then .ok (.cell (linCell off)) else .error 0x02)
    else
      match (s.job ag.job).ctx with
      | some c => if c.pbase ≤ off && off < c.pbase + 196608 * c.plimit then .error 0x05 else .ok (.virt 1 off)
      | none => .ok (.virt 1 off)
  | 2 =>
    if off ≥ 2 ^ 48 then .error 0x02
    else if isSup ag.core then (if off < s.hashSize then .ok (.cell (hashCell off)) else .error 0x02)
    else .ok (.virt 2 off)
  | 3 =>
    if off ≥ 2 ^ 48 then .error 0x02
    else if isSup ag.core then (if off < nvSize then .ok (.cell (nvCell off)) else .error 0x02)
    else .ok (.virt 3 off)
  | 7 => if off ≥ 2 ^ 32 then .error 0x02 else .ok (.cell (regCell (off / 2 ^ 26) (off % 2 ^ 26)))
  | 14 =>
    if off ≥ 2 ^ 18 then .error 0x02
    else if isSup ag.core then .ok (.cell (supCell (Config.coreDie ag.core) off))
    else .ok (.cell (sramCell ag.core off))
  | 15 =>
    if isSup ag.core then .error 0x01
    else
      match (s.job ag.job).ctx with
      | some c => if off < c.plimit then .ok (.virt 1 (c.pbase + (16 * ag.core + ag.slot) * c.plimit + off)) else .error 0x05
      | none => .error 0x05
  | _ => .error 0x01

/-- seg_addr (R90) up to the alignment step: the address, or cause and detail of the first failing check. `reg` tells whether the
access may go to space 0x7: a scalar access of 8 bytes (R87). -/
def segAddr (sg : BitVec 128) (off : Int) (n al : Nat) (need : Nat → Nat) (reg : Bool) : Except (Nat × Nat) Word :=
  let a : Word := ofInt (segBase sg + off)
  if off < 0 || off + n > segLimit sg then .error (cSegment, 0x11)
  else if lacks (need (spaceOf a)) (segRights sg) then .error (cSegment, 0x12)
  else if spaceOf a != segBase sg / 2 ^ 60 then .error (cSegment, 0x13)
  else if a.toNat % al != 0 || (spaceOf a == 7 && !(reg && n == 8)) then .error (cAlign, 0x21)
  else .ok a

/-! ## Errors (R98, R100, R403) -/

/-- An access of a kind to n bytes of a line meets an uncorrectable error (R100, R402): in a word it reads, or writes in part, or in the
metadata; a write of a whole word gives the word new check bits and reads nothing of it (log 23). -/
def State.badBytes (s : State) (a n : Nat) (k : AKind) : Bool :=
  let m := s.line a
  let off := a % 64
  let hit := if k == .write then wordsHit off n &&& ~~~wordsWhole off n else wordsHit off n
  m.poisoned || m.double &&& (hit ||| 0x100) != 0

/-- What follows from consuming an uncorrectable error in a line (R403): the tile that holds it is contained; a line of HBM or of
the non-volatile tier is poisoned and reported (R413, code 0x08). -/
def State.consumeError (s : State) (a : Nat) : State :=
  match a / 2 ^ 60 with
  | 0 => s.push (.contain (cellTile a) 0x04)
  | 14 => s.push (.contain (Config.supCore (a / 2 ^ 18 % 64)) 0x04)
  | sp =>
    (s.modLine a fun m => { m with poisoned := true }).event 0x08 (homeDie (s.homeOf a)) 0
      (BitVec.ofNat 64 (sp * 2 ^ 60 + a % 2 ^ 60 / 64 * 64))

/-- Corrections are counted by the line's die (R100); a count that passes 2^16 is reported (R413, code 0x03). -/
def State.countCorrections (s : State) (die k : Nat) : State :=
  let n := (s.die die).corrections + k
  if n > 2 ^ 16 then (s.modDie die fun d => { d with corrections := 0 }).event 0x03 die 0 (BitVec.ofNat 64 n)
  else s.modDie die fun d => { d with corrections := n }

/-- Number of bits set. -/
def bitCount (x : BitVec 9) : Nat := ((List.range 9).filter fun i => x.getLsbD i).length

/-- Single-bit errors in the words that an access of n bytes meets, and in the metadata, are corrected and counted (R100). -/
def State.correctBytes (s : State) (a n : Nat) : State :=
  let x := (s.line a).single &&& (wordsHit (a % 64) n ||| 0x100)
  if x == 0 then s
  else (s.modLine a fun m => { m with single := m.single &&& ~~~x }).countCorrections (homeDie (s.homeOf a)) (bitCount x)

/-- A range of bytes cut at the ends of lines: start and size of each piece. -/
def linePieces (a n : Nat) : List (Nat × Nat) :=
  (List.range ((a % 64 + n + 63) / 64)).map fun i =>
    let lo := max a ((a / 64 + i) * 64)
    (lo, min (a + n) ((a / 64 + i + 1) * 64) - lo)

/-- A read of a range of cells by the device's own logic: an uncorrectable error leaves it without a value (R100). -/
def State.ownRead (s : State) (a n : Nat) : State × Option Nat :=
  match (linePieces a n).find? fun p => s.badBytes p.1 p.2 .read with
  | some p => (s.consumeError p.1, none)
  | none => ((linePieces a n).foldl (fun s p => s.correctBytes p.1 p.2) s, some (s.readN a n))

/-! ## Translation -/

/-- A translation found by the walk: physical offset, page, and what the leaf permits. -/
structure Walked where
  phys : Nat
  page : Nat
  size : Nat
  write : Bool
deriving DecidableEq, Repr

/-- Index of a table level in a virtual offset (R101). -/
def walkIndex (lvl va : Nat) : Nat :=
  match lvl with
  | 3 => va / 2 ^ 39 % 512
  | 2 => va / 2 ^ 30 % 512
  | 1 => va / 2 ^ 21 % 512
  | _ => va / 2 ^ 16 % 32

/-- Size of the page that a leaf at a level maps (R101). -/
def pageSize (lvl : Nat) : Nat := if lvl = 1 then 2 ^ 21 else 2 ^ 16

/-- Size of a table of a level (R101). -/
def tableSize (lvl : Nat) : Nat := if lvl = 0 then 512 else 8192

/-- The malformed conditions of the walk (R104), for the low and high words of an entry at a level. -/
def entryMalformed (lvl lo hi region linSize : Nat) : Bool :=
  let leaf := lo / 2 % 2 == 1
  let frame := lo % 2 ^ 48 / 2 ^ 13 * 2 ^ 13
  let first := hi / 2 ^ 56 % 128
  lo / 2 ^ 48 != 0 || lo / 2 ^ 5 % 256 != 0
    || (leaf && lvl ≥ 2) || (!leaf && lvl = 0)
    || (!leaf && lo / 4 % 2 == 0) || (!leaf && hi != 0)
    || (leaf && hi / 2 ^ 63 == 1 && hi % 2 ^ 63 != 0)
    || (leaf && hi / 2 ^ 63 == 0 && hi % 2 ^ 56 / 2 ^ (128 - first) != 0)
    || (leaf && frame % pageSize lvl != 0)
    || (leaf && frame + pageSize lvl > region)
    || (!leaf && frame + tableSize (lvl - 1) > linSize)

/-- The companion word lets a cluster use the page (R103, R104). -/
def companionAllows (hi clu : Nat) : Bool :=
  let first := hi / 2 ^ 56 % 128
  hi / 2 ^ 63 == 1 || (first ≤ clu && clu - first < 56 && hi / 2 ^ (clu - first) % 2 == 1)

/-- Sets bits of the low word of an entry by one 8-byte write, unless they are set already (R104). -/
def State.setEntryBits (s : State) (a bits : Nat) : State :=
  let lo := s.readN a 8
  if lo &&& bits == bits then s else s.writePlain a 8 (lo ||| bits)

/-- walk (R104): from the table at linear physical offset `t` at level `lvl` down; reasons 0x51 to 0x54, and 0x55 for an
uncorrectable error in a table (R105). A root whose table reaches beyond the linear region gives 0x54, as any other table does (log 74). -/
def State.walkFrom (s : State) (space va : Nat) (wr : Bool) (clu : Nat) : Nat → Nat → Nat → State × Except Nat Walked
  | 0, _, _ => (s, .error 0x54)
  | fuel + 1, t, lvl =>
    let a := linCell (t + 16 * walkIndex lvl va)
    let lo := s.readN a 8
    let hi := s.readN (a + 8) 8
    let region := match space with
      | 2 => s.hashSize
      | 3 => nvSize
      | _ => s.linSize
    if t + tableSize lvl > s.linSize then (s, .error 0x54)
    else if s.badBytes a 16 .read then (s.consumeError a, .error 0x55)
    else
    let s := s.correctBytes a 16
    if lo % 2 = 0 then (s, .error 0x51)
    else if entryMalformed lvl lo hi region s.linSize then (s, .error 0x54)
    else
      let frame := lo % 2 ^ 48 / 2 ^ 13 * 2 ^ 13
      if lo / 2 % 2 = 0 then (s.setEntryBits a 8).walkFrom space va wr clu fuel frame (lvl - 1)
      else if !companionAllows hi clu then (s, .error 0x53)
      else if wr && lo / 4 % 2 == 0 then (s, .error 0x52)
      else
        let size := pageSize lvl
        (s.setEntryBits a (if wr then 24 else 8), .ok ⟨frame + va % size, va / size * size, size, lo / 4 % 2 == 1⟩)

/-- Table root of a space (R101); space 0xF uses that of space 0x1. -/
def JobCtx.root (c : JobCtx) (space : Nat) : Nat :=
  match space with
  | 2 => c.root2
  | 3 => c.root3
  | _ => c.root1

/-- The entry that a cluster port holds for a page (R106). -/
def State.tlbFind (s : State) (clu job space va : Nat) : Option TlbEntry :=
  s.tlb.find? fun e => e.clu == clu && e.job == job && e.space == space && e.page ≤ va && va < e.page + e.size

/-- Keeps a translation at a cluster port. -/
def State.tlbKeep (s : State) (e : TlbEntry) : State :=
  { s with tlb := e :: s.tlb.filter fun x =>
      !(x.clu == e.clu && x.job == e.job && x.space == e.space && x.page < e.page + e.size && e.page < x.page + x.size) }

/-- Translation at a cluster port (R101, R106): until an invalidation, an access translates by the entry the port holds or by the
tables, where the two differ. An entry that would have to set the dirty bit walks again. -/
def State.translate (s : State) (clu job : Nat) (c : JobCtx) (space va : Nat) (wr : Bool) : State × Except Nat Nat :=
  let w := s.walkFrom space va wr clu 4 (c.root space) 3
  let fresh : State × Except Nat Nat :=
    match w.2 with
    | .ok x => (w.1.tlbKeep ⟨clu, job, space, x.page, x.size, x.phys - (va - x.page), x.write, wr⟩, .ok x.phys)
    | .error r => (w.1, .error r)
  match s.tlbFind clu job space va with
  | none => fresh
  | some e =>
    let old := e.frame + (va - e.page)
    if (wr && !(e.write && e.dirty)) || fresh.2.toOption == some old then fresh
    else
      let d := s.drawChoice 2
      if d.1 = 0 then (d.2, .ok old) else ({ fresh.1 with draws := d.2.draws }, fresh.2)

/-- Cell of a physical offset of a translated space. -/
def physCell (space p : Nat) : Nat :=
  match space with
  | 2 => hashCell p
  | 3 => nvCell p
  | _ => linCell p

/-- The cell of a checked place for an agent, translating where its space is translated. -/
def State.placeCell (s : State) (ag : Agent) (p : Place) (wr : Bool) : State × Except Nat Nat :=
  match p with
  | .cell a => (s, .ok a)
  | .virt space off =>
    match (s.job ag.job).ctx with
    | none => (s, .error 0x51)
    | some c =>
      let r := s.translate (Config.coreClu ag.core) ag.job c space off wr
      (r.1, r.2.map (physCell space))

/-! ## Checks at the target -/

/-- Owner check (R99). -/
def tagAllows (tag job : Nat) (sup : Bool) (k : AKind) : Bool :=
  sup || tag == job || (tag == 0xFF && !k.writes)

/-- One window register grants an access at a line of the slice (R302, R303). -/
def winGrants (w : Word) (line : Nat) (k : AKind) : Bool :=
  let first := w.toNat % 2 ^ 12
  let count := w.toNat / 2 ^ 12 % 2 ^ 13
  let r := w.toNat / 2 ^ 37 % 2 == 1
  let wr := w.toNat / 2 ^ 38 % 2 == 1
  let at_ := w.toNat / 2 ^ 39 % 2 == 1
  (first ≤ line && line < first + count) && (match k with
    | .read => r
    | .write => wr
    | .rmw => r && wr && at_)

/-- The windows of a tile let a remote access in (R303). -/
def State.windowsAllow (s : State) (sn off : Nat) (k : AKind) : Bool :=
  (s.core sn).win.toList.any fun w => winGrants w (off / 64) k

/-- The target checks for one unit of n bytes, in the order of R139: owner fault, refused access, contained error. `cid` is the core
that issues, or whose engine requests. Registers carry no tag. -/
def State.targetCheck (s : State) (cid job : Nat) (k : AKind) (a n : Nat) : Option (Nat × Nat) :=
  let sup := isSup cid
  let space := a / 2 ^ 60
  if space = 7 then none
  else if space = 0 && s.isDead (cellTile a) then some (cContained, 0x62)
  else if space != 14 && !tagAllows (s.line a).tag.toNat job sup k then some (cOwner, 0x31)
  else if space = 0 && cellTile a != cid && !sup && !s.windowsAllow (cellTile a) (a % 2 ^ 18) k then some (cRefused, 0x41)
  else if s.badBytes a n k && !(sup && k == .write && (s.line a).wiped.isSome) then some (cContained, 0x61)
  else none

/-! ## What an access does to its cell -/

/-- f(old, y) of R165, Table 12, on n-byte operands; none where ACAS does not write. -/
def atomicNew (op : AtomicOp) (bits old y cmp : Nat) : Option Nat :=
  match op with
  | .add => some ((old + y) % 2 ^ bits)
  | .and => some (old &&& y)
  | .or => some (old ||| y)
  | .xor => some (old ^^^ y)
  | .min => some (if sextN bits y < sextN bits old then y else old)
  | .max => some (if sextN bits y > sextN bits old then y else old)
  | .swp => some y
  | .cas => if old = cmp then some y else none

/-- An atomic writes its operand: all but an ACAS whose comparison fails (R165). -/
def State.atomicWrites (s : State) (a n : Nat) (op : AtomicOp) (y cmp : Nat) : Bool :=
  (atomicNew op (8 * n) (s.readN a n) (y % 2 ^ (8 * n)) (cmp % 2 ^ (8 * n))).isSome

/-- An atomic at its home (R165, R166): the old value is the result; the line's typed bit is cleared (R76). -/
def State.atomicAt (s : State) (a n : Nat) (op : AtomicOp) (y cmp : Nat) : State × Nat :=
  let old := s.readN a n
  match atomicNew op (8 * n) old (y % 2 ^ (8 * n)) (cmp % 2 ^ (8 * n)) with
  | some x => (s.writePlain a n x, old)
  | none => (s, old)

/-- Kind of an access operation for tags, windows and translation (R94, R236, R237). -/
def AccOp.kind : AccOp → AKind
  | .load | .loadRec | .tload | .fetch | .lde | .cctest _ | .ccwait _ | .cmtest .. | .cmwait .. => .read
  | .store _ | .tstore _ | .stf _ | .few _ | .recast _ => .write
  | .check reads writes => if writes then (if reads then .rmw else .write) else .read
  | _ => .rmw

/-- Rights that an operation needs in its segment (R91, R236, R237). Every write of space 0x3 needs persist (R381), so FEW, LDC, which empties
its word (R380), and the record whose progress MTILE writes need it there too (log 34). -/
def AccOp.rights (op : AccOp) (space : Nat) : Nat :=
  match op with
  | .loadRec => rRead + AKind.write.rights space
  | .ldc | .cctest _ | .ccwait _ | .cmtest .. | .cmwait .. => rRead + if space = 3 then rPersist else 0
  | op => op.kind.rights space

/-- Acceptance by a non-volatile controller (R378, R380): the granules of a write enter the acceptance queue, which keeps what the
media hold; other cells have none. A write that finds 8,192 entries there is accepted once the oldest ones have gone to the media (R382). -/
def State.accept (s : State) (a n : Nat) : State :=
  if a / 2 ^ 60 != 3 then s
  else
    let stack := a % 2 ^ 60 / Config.nvStack
    let gs := (List.range ((a % 16 + n + 15) / 16)).map fun i => a / 16 * 16 + 16 * i
    let q := SMap.get [] s.nvq stack ++ gs.map fun g => (g, s.readN g 16, s.line g)
    { s with nvq := SMap.set [] s.nvq stack (q.drop (q.length - 8192)) }

/-- The plain operations at a unit's cell: its result, if the operation gives one. -/
def State.performPlain (s : State) (op : AccOp) (u : AUnit) : State × List (Nat × Nat) :=
  let s := s.correctBytes u.cell u.n
  match op with
  | .load | .loadRec | .fetch => (s, [(u.idx, s.readN u.cell u.n)])
  | .store data =>
    ((s.accept u.cell u.n).writePlain u.cell u.n (((data.find? fun d => d.1 == u.idx).map (·.2)).getD 0), [])
  | .tload => (s, [(0, s.readN u.cell 64), (1, if (s.line u.cell).typed then 1 else 0)])
  | .tstore l => ((s.accept u.cell 64).writeTyped u.cell l, [])
  | .atomic o y c =>
    let r := (if s.atomicWrites u.cell u.n o y c then s.accept u.cell u.n else s).atomicAt u.cell u.n o y c
    (r.1, [(u.idx, r.2)])
  | _ => (s, [])

end Sys2Proof.Machine
end

