-- ==== Sys2Proof/Machine/Access.lean ====
section
/-!
DEFINITION. The memory part of an instruction at its core (R90, R94, R105, R131, R163), the messages of an access and their effect at
the homes, posted writes, and the fences (R118, R119). `Plan` is what one operation does once its operands are read; a single
operation and the two halves of a pair (R41, R43) run through `State.runPlans`.
-/
namespace Sys2Proof.Machine

/-! ## The checks at the issuing core -/

/-- The outcome of the issuing core's checks. -/
inductive Checked where
  | ok (r : MemReq)
  | trap (t : Trap)                       -- R90 or a target check in the own tile
  | fault (idx reason : Nat) (addr : Word)  -- a page fault, at the first failing element
  | consumed (cell : Nat)                 -- an uncorrectable error in the own tile's slice (R403)
deriving DecidableEq, Repr

/-- R90 for one element: its address and place. -/
def State.askPlace (s : State) (ag : Agent) (ask : MemAsk) (off : Int) : Except Trap (Word × Place) :=
  match segAddr ask.sg off ask.n ask.al ask.op.rights ask.reg with
  | .error (c, d) => .error ⟨4, c, d, ofInt (segBase ask.sg + off)⟩
  | .ok a =>
    match s.checkSpace ag a with
    | .error d => .error ⟨4, cAddress, d, a⟩
    | .ok p => .ok (a, p)

/-- The target checks of a unit in the own tile (R94). -/
def State.ownCheck (s : State) (ag : Agent) (kind : AKind) (u : AUnit) : Option (Nat × Nat) :=
  if isLocal ag.core (s.homeOf u.cell) then s.targetCheck ag.core ag.job kind u.cell u.n else none

/-- The checks of one unit at the issuing core, in the order of R139: R90, then the target checks in the own tile, or the
translation (R94, R105). -/
def State.askUnit (s : State) (ag : Agent) (ask : MemAsk) (e : Nat × Int) : State × Except Checked AUnit :=
  match s.askPlace ag ask e.2 with
  | .error t => (s, .error (.trap t))
  | .ok (a, p) =>
    match s.placeCell ag p ask.op.kind.writes with
    | (s, .error r) => (s, .error (.fault e.1 r a))
    | (s, .ok cell) =>
      let u : AUnit := ⟨e.1, a, cell, ask.n⟩
      match s.ownCheck ag ask.op.kind u with
      | some (c, d) => (s, .error (if c = cContained then .consumed cell else .trap ⟨5, c, d, a⟩))
      | none => (s, .ok u)

/-- The units of an access, in ascending order; the first one that fails a check is the one reported (R139, R207). -/
def State.askUnits (s : State) (ag : Agent) (ask : MemAsk) : List (Nat × Int) → State × Except Checked (List AUnit)
  | [] => (s, .ok [])
  | e :: t =>
    match s.askUnit ag ask e with
    | (s, .error x) => (s, .error x)
    | (s, .ok u) =>
      let r := s.askUnits ag ask t
      (r.1, r.2.map (u :: ·))

/-- Every check of the issuing core on every unit (R90, R94, R105). Where the trap is one of R90, the translations of lower units leave nothing
behind: R90 comes before them (R94, log 22). -/
def State.checkAsk (s : State) (cid k : Nat) (ask : MemAsk) : State × Checked :=
  match s.askUnits (s.agent cid k) ask ask.elems with
  | (s', .error (.trap t)) => (if t.rank = 4 then s else s', .trap t)
  | (s, .error x) => (s, x)
  | (s, .ok us) => (s, .ok { op := ask.op, done := ask.done, units := us, ord := ask.ord, posted := ask.posted && !us.any fun u => u.cell / 2 ^ 60 == 7 })

/-- Every unit passes the checks of the issuing core that need no translation: R90, and the target checks in the own tile. -/
def State.askSound (s : State) (ag : Agent) (ask : MemAsk) : Bool :=
  ask.elems.all fun e => match s.askPlace ag ask e.2 with
    | .error _ => false
    | .ok (a, .cell c) => (s.ownCheck ag ask.op.kind ⟨e.1, a, c, ask.n⟩).isNone
    | .ok (_, .virt ..) => true

/-! ## Results -/

/-- Lanes of width e of a register replaced by results, by index. -/
def putLanes (old : BitVec 2048) (e : Nat) (rs : List (Nat × Nat)) : BitVec 2048 :=
  mkLanes e (2048 / e) fun j => ((rs.find? fun r => r.1 == j).map (·.2)).getD (lane old e j)

/-- The lanes that VLDT writes from a line (R206). -/
def typedLanes (w : Nat) (l : LineBits) : BitVec 2048 :=
  if lineFormat l = 0x01 then mkLanes 8 (min 80 (w / 8)) (lineElem l)
  else mkLanes 8 (min 62 (w / 8)) fun i => (maskOf (lineByte l (2 + i))).getD 0

/-- The register writes of an access's results, or the data fault of a typed load (R206). -/
def Done.writes (d : Done) (t : Slot) (w : Nat) (rs : List (Nat × Nat)) (addr : Word) : Except Trap (List RegWrite) :=
  let r0 := ((rs.find? fun r => r.1 == 0).map (·.2)).getD 0
  match d with
  | .none => .ok []
  | .stash => .ok [.stash r0]
  | .fault e => .error e
  | .g d bits => .ok [.g d (ofInt (sextN bits r0))]
  | .gz d => .ok [.g d (BitVec.ofNat 64 r0)]
  | .lanes d e => .ok [.v d (putLanes (t.rv d) e rs)]
  | .typed d b =>
    let isTyped := rs.any fun r => r.1 == 1 && r.2 == 1
    match typedFault isTyped Option.none r0 with
    | some x => .error ⟨6, cData, x, addr⟩
    | Option.none => .ok [.v d (typedLanes w r0), .g b (BitVec.ofNat 64 (lineFormat r0 * 256 + lineByte r0 1))]

/-- One register write. -/
def RegWrite.apply (t : Slot) : RegWrite → Slot
  | .g d x => t.wg d x
  | .v d x => t.wv d x
  | .p d x => t.wp d x
  | .flags x => { t with flags := x }
  | .stash x => { t with stash := t.stash ++ [x] }
  | .unstash l => { t with stash := l }

/-- Register writes in order. -/
def Slot.applyAll (t : Slot) (ws : List RegWrite) : Slot := ws.foldl RegWrite.apply t

/-- The write that undoes a register write on a slot (R43). -/
def RegWrite.undo (t : Slot) : RegWrite → RegWrite
  | .g d _ => .g d (t.rg d)
  | .v d _ => .v d (t.rv d)
  | .p d _ => .p d (t.p[d])
  | .flags _ => .flags t.flags
  | .stash _ => .unstash t.stash
  | .unstash _ => .unstash t.stash

/-- The thread goes on after an instruction. -/
def State.goOn (s : State) (cid k : Nat) (c : Ctl) : State :=
  match c with
  | .go pc => s.modSlot cid k fun t => { t with pc := pc, st := .ready }
  | .exit => (s.modSlot cid k fun t => { t with st := .ready }).push (.resume cid k .exit)
  | .rerun i => (s.modSlot cid k fun t => { t with st := .ready }).push (.resume cid k i)

/-- Parks a thread. -/
def State.park (s : State) (cid k : Nat) (p : Park) : State :=
  s.modSlot cid k fun t => { t with st := .parked p, parkClk := s.clk }

/-! ## Concords (R223 to R231) -/

/-- The pending count of a concord's word 0 (R223, Table 4). -/
def ccPending (w0 : Nat) : Int := sextN 40 (w0 / 2 ^ 8)

/-- The phase number of a concord's word 0. -/
def ccPhase (w0 : Nat) : Nat := w0 % 256

/-- Word 0 with another pending count. The reserved bits [56:48], which Table 4 has written as zero, stay as a plain store may have left them
(log 83). -/
def ccSetPending (w0 : Nat) (q : Int) : Nat := w0 / 2 ^ 48 * 2 ^ 48 + patN 40 q * 2 ^ 8 + ccPhase w0

/-- Word 0 with the next phase number. -/
def ccNextPhase (w0 : Nat) : Nat := w0 / 2 ^ 8 * 2 ^ 8 + (ccPhase w0 + 1) % 256

/-- complete, where an update has moved pending from `q` to zero (R224). -/
def ccComplete (q : Int) (w : Nat × Nat) : Nat × Nat :=
  if q ≠ 0 ∧ ccPending w.1 = 0 then (ccNextPhase w.1, 0) else w

/-- arrival (R224, R227): n bytes with chunk mask m and the status bits that a request adds (R219, R222). -/
def ccArrival (w : Nat × Nat) (n m status : Nat) : Nat × Nat :=
  let q := ccPending w.1
  if q - n < -(2 ^ 39 : Nat) then (w.1 ||| 2 ^ 61, w.2)
  else
    let w0 := ccSetPending (w.1 ||| status % 64 * 2 ^ 57) (q - n)
    ccComplete q (w0, if w.1 / 2 ^ 63 % 2 = 1 then w.2 ||| m else w.2)

/-- expectation (R224, R226): the new words and the phase in the reply, or none on overflow. -/
def ccExpectation (w : Nat × Nat) (x : Nat) : Option ((Nat × Nat) × Nat) :=
  let q := ccPending w.1
  if x ≥ 2 ^ 39 ∨ q + x > (2 ^ 39 - 1 : Nat) then none
  else some (ccComplete q (ccSetPending w.1 (q + x), w.2), ccPhase w.1)

/-- The condition of CMWAIT and CMTEST (R236). -/
def cmHolds (w : Nat × Nat) (mask phase : Nat) : Bool := (w.2 &&& mask) == mask || ccPhase w.1 != phase % 256

/-- The two words of a concord. -/
def State.ccRead (s : State) (a : Nat) : Nat × Nat := (s.readN a 8, s.readN (a + 8) 8)

/-- An update writes all 16 bytes and clears the line's typed bit (R224, R231). -/
def State.ccWrite (s : State) (a : Nat) (w : Nat × Nat) : State := (s.accept a 16).writePlain a 16 (w.1 + 2 ^ 64 * w.2)

/-! ## Full/empty words (R232) -/

/-- The full/empty bit of the 8-byte word that holds a cell. -/
def State.isFull (s : State) (a : Nat) : Bool := (s.line a).fe.getLsbD (a % 64 / 8)

/-- Marks the 8-byte word that holds a cell full or empty. -/
def State.mark (s : State) (a : Nat) (full : Bool) : State :=
  s.modLine a fun m =>
    let b : BitVec 8 := BitVec.ofNat 8 (2 ^ (a % 64 / 8))
    { m with fe := if full then m.fe ||| b else m.fe &&& ~~~b }

/-! ## Homes: performing, holding, answering -/

/-- What a home says of one unit. -/
inductive Answer where
  | ok (rs : List (Nat × Nat))         -- done, with its results
  | held                               -- it waits at the home (R230, R233)
  | fail (cause detail : Nat)          -- refused
deriving DecidableEq, Repr

/-- A tile belongs to a job's allocation (R400); supervisor software allocates from every tile. -/
def State.inAllocation (s : State) (job sn : Nat) : Bool :=
  match (s.job job).ctx with
  | some c => c.alloc.all fun l => l.contains sn
  | none => true

/-- An operation on one unit at its home for a job, its checks having passed. A word marked full does not serve its waiters here. -/
def State.homeOp (s : State) (job : Nat) (op : AccOp) (u : AUnit) : State × Answer :=
  let s := s.correctBytes u.cell u.n
  let a := u.cell
  match op with
  | .lde => if s.isFull a then (s, .ok [(u.idx, s.readN a 8)]) else (s, .held)
  | .ldc => if s.isFull a then ((s.accept a 8).mark a false, .ok [(u.idx, s.readN a 8)]) else (s, .held)
  | .stf x => (((s.accept a 8).writePlain a 8 x).mark a true, .ok [])
  | .few full => ((s.accept a 8).mark a full, .ok [])
  | .ccinit map => (s.ccWrite a (if map then 2 ^ 63 else 0, 0), .ok [])
  | .ccarr n m st => (s.ccWrite a (ccArrival (s.ccRead a) n m st), .ok [])
  | .ccexp x =>
    match ccExpectation (s.ccRead a) x with
    | some (w, ph) => (s.ccWrite a w, .ok [(u.idx, ph)])
    | none => (s, .fail cConcord 0x01)
  | .cctest ph => (s, .ok [(u.idx, if ccPhase (s.ccRead a).1 != ph % 256 then 1 else 0)])
  | .cmtest ph m => (s, .ok [(u.idx, if cmHolds (s.ccRead a) m ph then 1 else 0)])
  | .ccwait ph => (s, if ccPhase (s.ccRead a).1 != ph % 256 then .ok [] else .held)
  | .cmwait ph m => (s, if cmHolds (s.ccRead a) m ph then .ok [] else .held)
  | .recast role =>
    if s.inAllocation job (cellTile a) then (s.modCore (cellTile a) fun c => { c with pend := some role }, .ok [])
    else (s, .fail cEngine 0x94)
  | op =>
    let r := s.performPlain op u
    (r.1, .ok r.2)

/-- trap_addr of a unit's failure: a concord overflow has no address (R137). -/
def AUnit.failAddr (u : AUnit) (cause : Nat) : Word := if cause = cConcord then 0 else u.va

/-- The refusal of the lowest element (R139, R207). -/
def firstRefusal (rs : List Refusal1) : Option Refusal1 :=
  rs.foldl (fun best r => match best with
    | some b => if r.idx < b.idx then some r else some b
    | none => some r) none

/-- An asynchronous report joins those pending, in the program order of their writes (R142). -/
def Slot.addReport (t : Slot) (r : Report) : Slot :=
  { t with reports := t.reports.filter (fun x => x.seq ≤ r.seq) ++ r :: t.reports.filter fun x => r.seq < x.seq }

/-- An asynchronous fault of an engine's request (R211): the thread takes it if it still runs the clause that requested it and has
fewer than 24 reports pending (R142); else the die's supervisor core receives it, with the job and the concord address of a copy request. -/
def State.engineReport (s : State) (cid k uid seq cause detail : Nat) (addr : Word) (request : Option (Nat × Word)) : State :=
  let t := s.slot cid k
  if t.st != .free && t.st != .stopped && (t.occ.map (·.uid)) == some uid && t.reports.length < 24 then
    s.modSlot cid k (·.addReport ⟨seq, cause, detail, addr⟩)
  else s.report ⟨Config.coreDie cid, cid, k, cause, detail, addr, request⟩

/-- A parked thread's access has all its answers (R130): a refusal traps, with the other half of a pair undone (R43); else the results are
written and the thread goes on. -/
def State.finishAccess (s : State) (id : Nat) (a : Access) : State :=
  let s := { s with accesses := SMap.set none s.accesses id none }
  let t := s.slot a.core a.slot
  match t.st with
  | .parked (.remote n undo c) =>
    if n ≠ id then s
    else
      match firstRefusal a.refusals with
      | some r => (s.modSlot a.core a.slot (·.applyAll undo)).trapEnter a.core a.slot r.cause r.detail r.addr t.pc false
      | none =>
        match a.done.writes t (Config.vecBits a.core) a.results a.addr with
        | .ok ws => (s.modSlot a.core a.slot (·.applyAll ws)).goOn a.core a.slot c
        | .error e => (s.modSlot a.core a.slot (·.applyAll undo)).trapEnter a.core a.slot e.cause e.detail e.addr t.pc false
  | _ => s

/-- A posted access has all its answers (R131, R142, R211): it is no longer outstanding, and its lowest refusal is reported. A report beyond the
24 of R142 is added all the same (log 87). -/
def State.finishPosted (s : State) (id : Nat) (a : Access) : State :=
  let s := { s with accesses := SMap.set none s.accesses id none }
  let s := if a.counted then s.modSlot a.core a.slot fun t => { t with posted := t.posted - 1 } else s
  match firstRefusal a.refusals, a.engine with
  | none, _ => s
  | some r, some uid => s.engineReport a.core a.slot uid id r.cause r.detail r.addr (some (a.job, a.addr))
  | some r, none => s.modSlot a.core a.slot (·.addReport ⟨id, r.cause, r.detail, r.addr⟩)

/-- The answer of one home has returned. -/
def State.closePart (s : State) (id home : Nat) : State :=
  match SMap.get none s.accesses id with
  | none => s
  | some a =>
    let a := { a with waiting := a.waiting.filter (· != home) }
    if !a.waiting.isEmpty then { s with accesses := SMap.set none s.accesses id (some a) }
    else if a.posted then s.finishPosted id a
    else s.finishAccess id a

/-- A home answers: at once in the core's own tile, else by a message. -/
def State.answer (s : State) (id home : Nat) (rs : List (Nat × Nat)) (fs : List Refusal1) : State :=
  match SMap.get none s.accesses id with
  | none => s
  | some a =>
    let a' := { a with results := a.results ++ rs, refusals := a.refusals ++ fs }
    let s := { s with accesses := SMap.set none s.accesses id (some a') }
    if isLocal a.core home then s.closePart id home else s.send (.reply id home)

/-- Takes a waiter out of its home's table. -/
def State.dropWaiter (s : State) (id : Nat) : State := { s with waiters := s.waiters.filter fun w => w.2 != id }

/-- Serves the held LDE and LDC of a word that has become full, in arrival order (R233); one whose word shows an uncorrectable error is refused
(R100, R403). -/
def State.serveFrom (s : State) (cell : Nat) : List (Nat × Nat) → State
  | [] => s
  | (home, id) :: t =>
    match SMap.get none s.accesses id with
    | some a =>
      match a.held with
      | some u =>
        if u.cell / 8 = cell / 8 && (a.op == .lde || a.op == .ldc) && s.isFull cell then
          if s.badBytes u.cell u.n a.op.kind then
            (((s.consumeError u.cell).dropWaiter id).answer id home [] [⟨u.idx, cContained, 0x61, u.va⟩]).serveFrom cell t
          else
          let s := s.correctBytes u.cell u.n
          let x := s.readN u.cell 8
          let s := if a.op == .ldc then (s.accept u.cell 8).mark u.cell false else s
          ((s.dropWaiter id).answer id home [(u.idx, x)] []).serveFrom cell t
        else s.serveFrom cell t
      | none => s.serveFrom cell t
    | none => s.serveFrom cell t

/-- Serves the waiters of a word. -/
def State.serveWord (s : State) (cell : Nat) : State := s.serveFrom cell s.waiters

/-- The operation may leave its word full (R233). -/
def AccOp.fills : AccOp → Bool
  | .stf _ => true
  | .few full => full
  | _ => false

/-- A held request joins its home's waiter table, or is refused and sent again after 256 clk (R230, R233). -/
def State.hold (s : State) (id home : Nat) (u : AUnit) : State :=
  match SMap.get none s.accesses id with
  | none => s
  | some a =>
    let s := { s with accesses := SMap.set none s.accesses id (some { a with held := some u }) }
    if (s.waiters.filter fun w => w.1 == home).length < 64 then { s with waiters := s.waiters ++ [(home, id)] }
    else s.sendAfter 256 (.resend id home)

/-- The concord updates, which take their home's next slot in the order of R224. -/
def AccOp.updates : AccOp → Bool
  | .ccinit _ => true
  | .ccexp _ => true
  | .ccarr .. => true
  | _ => false

/-! ## Performing and sending -/

/-- Performs units one after another, each at its cell. -/
def State.performAll (s : State) (op : AccOp) : List AUnit → State × List (Nat × Nat)
  | [] => (s, [])
  | u :: t =>
    let r := s.performPlain op u
    let q := r.1.performAll op t
    (q.1, r.2 ++ q.2)

/-- Bank and row of a byte of a slice (R95). -/
def bankOf (off : Nat) : Nat := Nat.xor (off / 16 % 16) (off / 256 % 16)

/-- The banks of the different rows that offsets of a slice lie in, one entry for each row (R95, R97). -/
def bankRows (offs : List Nat) : List Nat := (offs.map fun o => o / 16).eraseDups.map fun r => bankOf (16 * r)

/-- Bank of a unit in the own slice. -/
def AUnit.bank (u : AUnit) : Nat := bankOf (u.cell % 2 ^ 18)

/-- Two units lie in one row of a slice. -/
def AUnit.sameRow (u v : AUnit) : Bool := u.cell / 16 == v.cell / 16

/-- The units that need a bank again: each shares its bank, but not its row, with the first unit that uses the bank (R97). -/
def laterUnits (us : List AUnit) : List AUnit :=
  us.filter fun u => (us.find? fun v => v.bank == u.bank).any fun v => !v.sameRow u

/-- The elements of a vector load or store may be served in several clk; every other access is one unit, or is made at its issue. -/
def AccOp.splits : AccOp → Bool
  | .load => true
  | .store _ => true
  | _ => false

/-- The bank accesses of an instruction in the own slice (R96, R97, R166): one access for each bank in its issue clk, the others as T-cont; an
atomic writes its bank in a clk after the read. With `split`, the units that need a bank again are performed as T-cont. -/
def bankUse (clk : Nat) (r : MemReq) (us : List AUnit) (split : Bool) : BankUse :=
  let bs := bankRows (us.flatMap fun u => (List.range ((u.n + 15) / 16)).map fun i => u.cell % 2 ^ 18 + 16 * i)
  let first := bs.eraseDups
  let more := first.flatMap fun b => List.replicate (bs.count b - 1) b
  let use : BankUse := { clk, issue := first, cont := more ++ if r.op.kind == .rmw then first else [] }
  let left := if split && r.op.splits then laterUnits us else []
  if left.isEmpty then use else { use with left, op := r.op, done := r.done }

/-- Accesses of threads want banks of the slice in a clk: they go before those of the engines (R96, Table 6). -/
def Core.bankBusy (c : Core) (clk : Nat) : Bool :=
  c.slots.toList.any fun t => !t.banks.cont.isEmpty || (t.banks.clk == clk && !t.banks.issue.isEmpty)

/-- The touched-bank mask with the dies of homes outside the tile (R118). -/
def Slot.touch (t : Slot) (cid : Nat) (homes : List Nat) : Slot :=
  { t with touched := (homes.filter fun h => !isLocal cid h).foldl (fun m h => m ||| (1#64 <<< homeDie h)) t.touched }

/-- The homes of units, each once. -/
def State.homesOf (s : State) (us : List AUnit) : List Nat := (us.map fun u => s.homeOf u.cell).eraseDups

/-- A remote access leaves the core: one message for each home. The answer is the access's number. -/
def State.launchAccess (s : State) (cid k : Nat) (r : MemReq) (remote : List AUnit) (got : List (Nat × Nat))
    (failed : List Refusal1) : Nat × State :=
  let id := s.nextAcc
  let homes := s.homesOf remote
  let t := s.slot cid k
  let parts := homes.map fun h => (h, remote.filter fun u => s.homeOf u.cell == h)
  let acc : Access :=
    { core := cid, slot := k, job := t.tag, op := r.op, done := r.done, posted := r.posted, ord := r.ord, counted := r.posted, parts, waiting := homes,
      results := got, refusals := failed, addr := (r.units.head?.map (·.va)).getD 0 }
  let s := { s with accesses := SMap.set none s.accesses id (some acc), nextAcc := id + 1 }
  let s := s.modSlot cid k fun t => t.touch cid homes
  (id, homes.foldl (fun s h => s.send (.access id h)) s)

/-- The operations of concords and full/empty words. -/
def AccOp.atHome : AccOp → Bool
  | .load => false
  | .store _ => false
  | .tload => false
  | .tstore _ => false
  | .atomic .. => false
  | .fetch => false
  | .loadRec => false
  | .check .. => false
  | _ => true

/-- A concord or full/empty operation in the own tile (R233, R236, R237): an update takes the home's next slot in the order of R224; a
request that is held parks its thread; every other one is done at its issue. -/
def State.startHome (s : State) (cid k : Nat) (r : MemReq) (undo : List RegWrite) (c : Ctl) : State :=
  match r.units with
  | [] => s.goOn cid k c
  | u :: _ =>
    let id := s.nextAcc
    let acc : Access :=
      { core := cid, slot := k, job := (s.slot cid k).tag, op := r.op, done := r.done, posted := r.posted, counted := false,
        parts := [], waiting := [cid], results := [], refusals := [], addr := u.va }
    let s := s.modSlot cid k fun t => { t with banks := { clk := s.clk, issue := [bankOf (u.cell % 2 ^ 18)] } }
    if r.op.updates then
      let s := { s with accesses := SMap.set none s.accesses id (some { acc with parts := [(cid, [u])] }), nextAcc := id + 1 }
      let s := s.sendAt s.clk (.access id cid)
      if r.posted then s.goOn cid k c else s.park cid k (.remote id undo c)
    else
      match s.homeOp (s.slot cid k).tag r.op u with
      | (s, .ok rs) =>
        match r.done.writes (s.slot cid k) (Config.vecBits cid) rs u.va with
        | .ok ws =>
          let s := (s.modSlot cid k (·.applyAll ws)).goOn cid k c
          if r.op.fills then s.serveWord u.cell else s
        | .error t => s.trapEnter cid k t.cause t.detail t.addr (s.slot cid k).pc false
      | (s, .held) =>
        let s := { s with accesses := SMap.set none s.accesses id (some acc), nextAcc := id + 1 }
        (s.park cid k (.remote id undo c)).hold id cid u
      | (s, .fail cause detail) =>
        if r.posted then
          let s := (s.modSlot cid k (·.addReport ⟨id, cause, detail, u.failAddr cause⟩)).goOn cid k c
          { s with nextAcc := id + 1 }
        else s.trapEnter cid k cause detail (u.failAddr cause) (s.slot cid k).pc false

/-- The access part of an instruction whose checks have passed (R163, R131, R207): local units at once; units elsewhere by messages,
for which a load or atomic parks its thread and a store does not, up to 16 posted writes. Of the local units of a store, and of a load that
needs no other, those that need a bank again are performed with the clk of T-cont that serve them (R97). `undo` restores the other half of a
pair if a reply brings a trap (R43); `failed` holds elements of a posted write whose page faults were not resolved. -/
def State.startAccess (s : State) (cid k : Nat) (r : MemReq) (undo : List RegWrite) (c : Ctl) (failed : List Refusal1) : State :=
  let here := r.units.filter fun u => isLocal cid (s.homeOf u.cell)
  let away := r.units.filter fun u => !isLocal cid (s.homeOf u.cell)
  if r.posted && !away.isEmpty && (s.slot cid k).posted ≥ 16 then s.park cid k (.posted r c failed)
  else if away.isEmpty && !r.units.isEmpty && r.op.atHome then s.startHome cid k r undo c
  else
    let use := bankUse s.clk r here (away.isEmpty || r.op.kind == .write)
    let q := s.performAll r.op (here.filter fun u => !use.left.contains u)
    let s := q.1.modSlot cid k fun t => { t with banks := use }
    if away.isEmpty then
      match r.done.writes (s.slot cid k) (Config.vecBits cid) q.2 ((r.units.head?.map (·.va)).getD 0) with
      | .ok ws =>
        let s := s.modSlot cid k (·.applyAll ws)
        match firstRefusal failed with
        | none => s.goOn cid k c
        | some f =>
          let s := s.modSlot cid k (·.addReport ⟨s.nextAcc, f.cause, f.detail, f.addr⟩)
          ({ s with nextAcc := s.nextAcc + 1 }).goOn cid k c
      | .error t =>
        (s.modSlot cid k (·.applyAll undo)).trapEnter cid k t.cause t.detail t.addr (s.slot cid k).pc false
    else
      let a := s.launchAccess cid k r away q.2 failed
      if r.posted then (a.2.modSlot cid k fun t => { t with posted := t.posted + 1 }).goOn cid k c
      else a.2.park cid k (.remote a.1 undo c)

/-! ## Fences -/

/-- The dies of a touched-bank mask. -/
def diesOf (m : BitVec 64) : List Nat := (List.range 64).filter fun d => m.getLsbD d

/-- The FENCE part of an instruction of the running thread (R118): with a zero mask it does not park. -/
def State.fenceThen (s : State) (scope : Scope) (i : Instr) (go : State → State) : State :=
  let t := s.me
  if t.touched == 0 then go s
  else
    let ds := (diesOf t.touched).map fun d => (d, Path.t)
    let s := s.park s.cur.core s.cur.slot (.fence scope ds true (.rerun i))
    ds.foldl (fun s d => s.send (.probe s.cur.core s.cur.slot d.1 d.2)) s

/-- The probes of a fence: the dies of the touched mask for path T, and the thread's own die for every other path (R118, R119). -/
def fenceProbes (t : Slot) (cid : Nat) (path : Path) : List (Nat × Path) :=
  match path with
  | .t => (diesOf t.touched).map fun d => (d, Path.t)
  | .c => [(Config.coreDie cid, Path.c)]
  | .g => [(Config.coreDie cid, Path.g)]
  | .m => [(Config.coreDie cid, Path.m)]
  | .l => [(Config.coreDie cid, Path.l)]
  | .n => (diesOf t.touched).map (fun d => (d, Path.t)) ++ [(Config.coreDie cid, Path.n)]
  | .p => (diesOf t.touched).map (fun d => (d, Path.t)) ++ [(Config.coreDie cid, Path.p)]

/-- A fence of the running thread on its first path; without a probe it does not park (R118, R119). FENCE and a FENCEX whose first path
is T clear the touched-bank mask; a FENCEX with another first path keeps it (log 71). -/
def State.runFence (s : State) (scope : Scope) (path : Path) (c : Ctl) : State :=
  let cid := s.cur.core
  let k := s.cur.slot
  let probes := fenceProbes s.me cid path
  if probes.isEmpty then s.goOn cid k c
  else
    probes.foldl (fun s d => s.send (.probe cid k d.1 d.2)) (s.park cid k (.fence scope probes (path == .t) (.go c)))

/-! ## Plans -/

/-- Where an operation sends its thread. -/
inductive Next where
  | seq                    -- the next word
  | jump (pc : Word)       -- a branch target
  | exit                   -- EXIT
deriving DecidableEq, Repr

/-- What one operation of the integer, compare, control, memory or vector groups does, once its operands are read. -/
structure Plan where
  writes : List RegWrite := []
  fl : Fl := 0
  skip : Nat := 0                     -- pending skip count that a false compare sets
  next : Next := .seq
  mem : Option MemAsk := none
  release : Option Scope := none      -- a release access acts as a FENCE of this scope first (R118)
  fence : Option (Scope × Path) := none  -- FENCE, or FENCEX with its first path
  late : Option Trap := none          -- a fault that stands after the memory checks in R139
deriving DecidableEq, Repr

/-- The plan of an operation, or the trap that stops it. -/
abbrev PlanRes := Except Trap Plan

/-- The earlier of two traps in the order of R139; the first one on a tie, as for the scalar half of a pair. -/
def firstTrap (x y : Option Trap) : Option Trap :=
  match x, y with
  | some a, some b => if b.rank < a.rank then some b else some a
  | some a, none => some a
  | none, y => y

/-- The trap of a plan. -/
def PlanRes.trap? : PlanRes → Option Trap
  | .error t => some t
  | .ok _ => none

/-- A trap that stands in the list of R139 before the checks of memory. -/
def Trap.early (t : Trap) : Bool := t.rank < 4

/-- The two halves as one plan (R41): register writes of both, flags ORed, one control effect, one access. -/
def Plan.join (x y : Plan) : Plan :=
  { writes := x.writes ++ y.writes, fl := x.fl ||| y.fl, skip := x.skip, next := x.next,
    mem := x.mem.orElse fun _ => y.mem, release := x.release.orElse fun _ => y.release,
    fence := x.fence, late := firstTrap x.late y.late }

/-- Flags after a plan: sticky bits, and the pending skip count of a false compare (R58, R157). -/
def Plan.flagsAfter (p : Plan) (f : Word) : Word :=
  let f := orArith f p.fl
  if p.skip = 0 then f else withSkip f p.skip

/-- Where the thread goes after a plan. -/
def Plan.ctl (p : Plan) (t : Slot) : Ctl :=
  match p.next with
  | .seq => .go t.npc
  | .jump pc => .go pc
  | .exit => .exit

/-- Commits registers and flags of a plan on a slot. -/
def Plan.commit (p : Plan) (t : Slot) : Slot :=
  { t.applyAll p.writes with flags := p.flagsAfter t.flags }

/-- The writes that undo a plan's commit. -/
def Plan.undo (p : Plan) (t : Slot) : List RegWrite := .flags t.flags :: p.writes.map (RegWrite.undo t)

/-- RUNNING A PLAN for the running thread. `late` is a trap of the other half that stands after the memory checks in R139.
Where the access itself
lies elsewhere, its homes are asked first. A page fault parks the thread (R105); a posted write standing alone, all of whose other checks pass, is held, and the thread parks behind
it (R131), a release write after its FENCE part. -/
def State.runPlan (s : State) (i : Instr) (p : Plan) (isPair : Bool) (late : Option Trap) : State :=
  let cid := s.cur.core
  let k := s.cur.slot
  let late := firstTrap p.late late
  match p.mem with
  | none =>
    match late with
    | some t => s.trapMe t
    | none =>
      let c := p.ctl s.me
      let s := s.modSlot cid k p.commit
      match p.fence with
      | some (sc, path) => s.runFence sc path c
      | none => s.goOn cid k c
  | some ask =>
    match s.checkAsk cid k ask with
    | (s, .trap t) => s.trapMe ((firstTrap (some t) late).getD t)
    | (s, .consumed cell) => s.consumeError cell
    | (s, .fault idx r a) =>
      let told (s : State) : State := s.report { die := Config.coreDie cid, core := cid, slot := k, cause := cPage, detail := r, addr := a }
      let hold (s : State) : State :=
        ((told s).modSlot cid k fun t => { t with pc := t.npc }).park cid k (.postedFault ask [⟨idx, cPage, r, a⟩] a)
      if ask.posted && !isPair && late.isNone && s.askSound (s.agent cid k) ask then
        match p.release with
        | some sc => s.fenceThen sc i hold
        | none => hold s
      else (told s).park cid k (.pageFault a)
    | (s, .ok r) =>
      match late with
      | some t =>
        -- the homes of the access make their checks first, which stand before the data fault (R139)
        if r.posted || t.rank < 6 || r.units.all fun u => isLocal cid (s.homeOf u.cell) then s.trapMe t
        else s.startAccess cid k { r with op := .check (ask.op.kind != .write) ask.op.kind.writes, done := .fault t } [] (p.ctl s.me) []
      | none =>
        let go (s : State) : State :=
          let t := s.slot cid k
          (s.modSlot cid k p.commit).startAccess cid k r (p.undo t) (p.ctl t) []
        match p.release with
        | some sc => s.fenceThen sc i go
        | none => if r.units.any fun u => u.cell / 2 ^ 60 == 7 then s.fenceThen .sys i go else go s

/-- One operation. -/
def State.runOne (s : State) (i : Instr) (p : PlanRes) : State :=
  match p with
  | .ok p => s.runPlan i p false none
  | .error t => s.trapMe t

/-- A pair (R41, R43, R139): both plans from one register state; a trap of either half stops both. -/
def State.runBoth (s : State) (i : Instr) (x y : PlanRes) : State :=
  match x, y with
  | .ok a, .ok b => s.runPlan i (a.join b) true none
  | x, y =>
    match firstTrap x.trap? y.trap? with
    | none => s
    | some t =>
      if t.early then s.trapMe t
      else
        -- the half that has no trap may still fail a memory check, which stands earlier in the list
        match x, y with
        | .ok a, _ => s.runPlan i { a with writes := [], fl := 0, skip := 0 } true (some t)
        | _, .ok b => s.runPlan i { b with writes := [], fl := 0, skip := 0 } true (some t)
        | _, _ => s.trapMe t

end Sys2Proof.Machine
end

