-- ==== Sys2Proof/Machine/Scalar.lean ====
section
/-!
DEFINITION. The scalar integer instructions (R153 to R156), compare and skip (R157), and control (R158 to R160): for each
instruction the plan it makes from its operands, and its meaning, which runs the plan.
-/
namespace Sys2Proof.Machine

/-! ## Operands and results of R153 -/

/-- x of R153: g[a] mod 2^W. -/
def srcBits (w : Width) (t : Slot) (a : G) : Nat := (t.rg a).toNat % 2 ^ w.bits

/-- y of R153 in the immediate form: the sign-extended immediate mod 2^W. -/
def immBits (w : Width) (i : Imm) : Nat := (i.val % (2 ^ w.bits : Nat)).toNat

/-- The mould of R153: g[d] := sext(op(x, y) mod 2^W, W). -/
def intPlan (op : Nat → Nat → Nat → Int) (w : Width) (d : G) (x y : Nat) : PlanRes :=
  .ok { writes := [.g d (narrow w.bits (op w.bits x y))] }

/-- The same for division: a divisor of 0 sets dz (R155). -/
def divPlan (op : Nat → Nat → Nat → Int) (w : Width) (d : G) (x y : Nat) : PlanRes :=
  .ok { writes := [.g d (narrow w.bits (op w.bits x y))], fl := Fl.when (y == 0) Fl.dz }

/-- Runs one plan for the running thread. -/
def execPlan (i : Instr) (p : PlanRes) (s : State) : Out := .next (s.runOne i p)

/-! ## The operations of Table 9, on W-bit operands x and y -/

/-- ADD. -/
def opAdd (_w x y : Nat) : Int := ((x + y : Nat) : Int)

/-- SUB. -/
def opSub (_w x y : Nat) : Int := (x : Int) - y

/-- MUL. -/
def opMul (_w x y : Nat) : Int := ((x * y : Nat) : Int)

/-- MULH: floor(sx × sy / 2^W). -/
def opMulh (w x y : Nat) : Int := sextN w x * sextN w y / (2 ^ w : Nat)

/-- MULHU. -/
def opMulhu (w x y : Nat) : Int := ((x * y / 2 ^ w : Nat) : Int)

/-- DIV (R155): trunc(sx / sy); −1 for divisor 0. -/
def opDiv (w x y : Nat) : Int := if y = 0 then -1 else (sextN w x).tdiv (sextN w y)

/-- DIVU (R155); all ones for divisor 0. -/
def opDivu (w x y : Nat) : Int := if y = 0 then (2 ^ w : Nat) - 1 else x / y

/-- REM (R155); the dividend for divisor 0. -/
def opRem (w x y : Nat) : Int := if y = 0 then sextN w x else sextN w x - sextN w y * (sextN w x).tdiv (sextN w y)

/-- REMU (R155); the dividend for divisor 0. -/
def opRemu (_w x y : Nat) : Int := if y = 0 then x else x % y

/-- AND. -/
def opAnd (_w x y : Nat) : Int := ((Nat.land x y : Nat) : Int)

/-- OR. -/
def opOr (_w x y : Nat) : Int := ((Nat.lor x y : Nat) : Int)

/-- XOR. -/
def opXor (_w x y : Nat) : Int := ((Nat.xor x y : Nat) : Int)

/-- ANDN: x AND NOT y. -/
def opAndn (w x y : Nat) : Int := ((Nat.land x (2 ^ w - 1 - y) : Nat) : Int)

/-- ORN: x OR NOT y. -/
def opOrn (w x y : Nat) : Int := ((Nat.lor x (2 ^ w - 1 - y) : Nat) : Int)

/-- SHL. -/
def opShl (w x y : Nat) : Int := ((x * 2 ^ (y % w) : Nat) : Int)

/-- SHR. -/
def opShr (w x y : Nat) : Int := ((x / 2 ^ (y % w) : Nat) : Int)

/-- SAR. -/
def opSar (w x y : Nat) : Int := sextN w x / (2 ^ (y % w) : Nat)

/-- ROL: rotated within W bits. -/
def opRol (w x y : Nat) : Int := ((x * 2 ^ (y % w) + x / 2 ^ (w - y % w) : Nat) : Int)

/-- ROR: rotated within W bits. -/
def opRor (w x y : Nat) : Int := ((x / 2 ^ (y % w) + x * 2 ^ (w - y % w) : Nat) : Int)

/-- MIN. -/
def opMin (w x y : Nat) : Int := min (sextN w x) (sextN w y)

/-- MINU. -/
def opMinu (_w x y : Nat) : Int := ((Nat.min x y : Nat) : Int)

/-- MAX. -/
def opMax (w x y : Nat) : Int := max (sextN w x) (sextN w y)

/-- MAXU. -/
def opMaxu (_w x y : Nat) : Int := ((Nat.max x y : Nat) : Int)

/-- CLZ: leading zero bits, W when x = 0. -/
def opClz (w x : Nat) : Int := ((w - bitLen x : Nat) : Int)

/-- CTZ: trailing zero bits, W when x = 0. -/
def opCtz (w x : Nat) : Int := (((List.range w).find? fun i => x.testBit i).getD w : Nat)

/-- POPC: number of one bits. -/
def opPopc (w x : Nat) : Int := (((List.range w).filter fun i => x.testBit i).length : Nat)

/-- BFX (R156): n = min(len, W − pos) bits of x from bit pos on. -/
def opBfx (w x pos len : Nat) : Int := if w ≤ pos then 0 else ((x / 2 ^ pos % 2 ^ (min len (w - pos)) : Nat) : Int)

/-- BFI (R156): the low W bits of g[d] with n bits from pos on replaced by the low n bits of x. -/
def opBfi (w old x pos len : Nat) : Int :=
  if w ≤ pos then (old : Int)
  else
    let n := min len (w - pos)
    ((old / 2 ^ (pos + n) * 2 ^ (pos + n) + x % 2 ^ n * 2 ^ pos + old % 2 ^ pos : Nat) : Int)

/-! ## Integer instructions -/

/-- ADD, as a plan. -/
def planAdd (w : Width) (d a b : G) (t : Slot) : PlanRes := intPlan opAdd w d (srcBits w t a) (srcBits w t b)

/-- ADD (R154). -/
def execAdd (w : Width) (d a b : G) (s : State) : Out := execPlan (.add w d a b) (planAdd w d a b s.me) s

/-- ADD, immediate form, as a plan. -/
def planAddImm (w : Width) (d a : G) (imm : Imm) (t : Slot) : PlanRes := intPlan opAdd w d (srcBits w t a) (immBits w imm)

/-- ADD_IMM (R153). -/
def execAddImm (w : Width) (d a : G) (imm : Imm) (s : State) : Out :=
  execPlan (.addImm w d a imm) (planAddImm w d a imm s.me) s

/-- SUB, as a plan. -/
def planSub (w : Width) (d a b : G) (t : Slot) : PlanRes := intPlan opSub w d (srcBits w t a) (srcBits w t b)

/-- SUB (R154). -/
def execSub (w : Width) (d a b : G) (s : State) : Out := execPlan (.sub w d a b) (planSub w d a b s.me) s

/-- SUB, immediate form, as a plan. -/
def planSubImm (w : Width) (d a : G) (imm : Imm) (t : Slot) : PlanRes := intPlan opSub w d (srcBits w t a) (immBits w imm)

/-- SUB_IMM (R153). -/
def execSubImm (w : Width) (d a : G) (imm : Imm) (s : State) : Out :=
  execPlan (.subImm w d a imm) (planSubImm w d a imm s.me) s

/-- MUL, as a plan. -/
def planMul (w : Width) (d a b : G) (t : Slot) : PlanRes := intPlan opMul w d (srcBits w t a) (srcBits w t b)

/-- MUL (R154). -/
def execMul (w : Width) (d a b : G) (s : State) : Out := execPlan (.mul w d a b) (planMul w d a b s.me) s

/-- MUL, immediate form, as a plan. -/
def planMulImm (w : Width) (d a : G) (imm : Imm) (t : Slot) : PlanRes := intPlan opMul w d (srcBits w t a) (immBits w imm)

/-- MUL_IMM (R153). -/
def execMulImm (w : Width) (d a : G) (imm : Imm) (s : State) : Out :=
  execPlan (.mulImm w d a imm) (planMulImm w d a imm s.me) s

/-- MULH, as a plan. -/
def planMulh (w : Width) (d a b : G) (t : Slot) : PlanRes := intPlan opMulh w d (srcBits w t a) (srcBits w t b)

/-- MULH (R154). -/
def execMulh (w : Width) (d a b : G) (s : State) : Out := execPlan (.mulh w d a b) (planMulh w d a b s.me) s

/-- MULH, immediate form, as a plan. -/
def planMulhImm (w : Width) (d a : G) (imm : Imm) (t : Slot) : PlanRes := intPlan opMulh w d (srcBits w t a) (immBits w imm)

/-- MULH_IMM (R153). -/
def execMulhImm (w : Width) (d a : G) (imm : Imm) (s : State) : Out :=
  execPlan (.mulhImm w d a imm) (planMulhImm w d a imm s.me) s

/-- MULHU, as a plan. -/
def planMulhu (w : Width) (d a b : G) (t : Slot) : PlanRes := intPlan opMulhu w d (srcBits w t a) (srcBits w t b)

/-- MULHU (R154). -/
def execMulhu (w : Width) (d a b : G) (s : State) : Out := execPlan (.mulhu w d a b) (planMulhu w d a b s.me) s

/-- MULHU, immediate form, as a plan. -/
def planMulhuImm (w : Width) (d a : G) (imm : Imm) (t : Slot) : PlanRes := intPlan opMulhu w d (srcBits w t a) (immBits w imm)

/-- MULHU_IMM (R153). -/
def execMulhuImm (w : Width) (d a : G) (imm : Imm) (s : State) : Out :=
  execPlan (.mulhuImm w d a imm) (planMulhuImm w d a imm s.me) s

/-- DIV, as a plan. -/
def planDiv (w : Width) (d a b : G) (t : Slot) : PlanRes := divPlan opDiv w d (srcBits w t a) (srcBits w t b)

/-- DIV (R154). -/
def execDiv (w : Width) (d a b : G) (s : State) : Out := execPlan (.div w d a b) (planDiv w d a b s.me) s

/-- DIV, immediate form, as a plan. -/
def planDivImm (w : Width) (d a : G) (imm : Imm) (t : Slot) : PlanRes := divPlan opDiv w d (srcBits w t a) (immBits w imm)

/-- DIV_IMM (R153). -/
def execDivImm (w : Width) (d a : G) (imm : Imm) (s : State) : Out :=
  execPlan (.divImm w d a imm) (planDivImm w d a imm s.me) s

/-- DIVU, as a plan. -/
def planDivu (w : Width) (d a b : G) (t : Slot) : PlanRes := divPlan opDivu w d (srcBits w t a) (srcBits w t b)

/-- DIVU (R154). -/
def execDivu (w : Width) (d a b : G) (s : State) : Out := execPlan (.divu w d a b) (planDivu w d a b s.me) s

/-- DIVU, immediate form, as a plan. -/
def planDivuImm (w : Width) (d a : G) (imm : Imm) (t : Slot) : PlanRes := divPlan opDivu w d (srcBits w t a) (immBits w imm)

/-- DIVU_IMM (R153). -/
def execDivuImm (w : Width) (d a : G) (imm : Imm) (s : State) : Out :=
  execPlan (.divuImm w d a imm) (planDivuImm w d a imm s.me) s

/-- REM, as a plan. -/
def planRem (w : Width) (d a b : G) (t : Slot) : PlanRes := divPlan opRem w d (srcBits w t a) (srcBits w t b)

/-- REM (R154). -/
def execRem (w : Width) (d a b : G) (s : State) : Out := execPlan (.rem w d a b) (planRem w d a b s.me) s

/-- REM, immediate form, as a plan. -/
def planRemImm (w : Width) (d a : G) (imm : Imm) (t : Slot) : PlanRes := divPlan opRem w d (srcBits w t a) (immBits w imm)

/-- REM_IMM (R153). -/
def execRemImm (w : Width) (d a : G) (imm : Imm) (s : State) : Out :=
  execPlan (.remImm w d a imm) (planRemImm w d a imm s.me) s

/-- REMU, as a plan. -/
def planRemu (w : Width) (d a b : G) (t : Slot) : PlanRes := divPlan opRemu w d (srcBits w t a) (srcBits w t b)

/-- REMU (R154). -/
def execRemu (w : Width) (d a b : G) (s : State) : Out := execPlan (.remu w d a b) (planRemu w d a b s.me) s

/-- REMU, immediate form, as a plan. -/
def planRemuImm (w : Width) (d a : G) (imm : Imm) (t : Slot) : PlanRes := divPlan opRemu w d (srcBits w t a) (immBits w imm)

/-- REMU_IMM (R153). -/
def execRemuImm (w : Width) (d a : G) (imm : Imm) (s : State) : Out :=
  execPlan (.remuImm w d a imm) (planRemuImm w d a imm s.me) s

/-- AND, as a plan. -/
def planAnd (w : Width) (d a b : G) (t : Slot) : PlanRes := intPlan opAnd w d (srcBits w t a) (srcBits w t b)

/-- AND (R154). -/
def execAnd (w : Width) (d a b : G) (s : State) : Out := execPlan (.and w d a b) (planAnd w d a b s.me) s

/-- AND, immediate form, as a plan. -/
def planAndImm (w : Width) (d a : G) (imm : Imm) (t : Slot) : PlanRes := intPlan opAnd w d (srcBits w t a) (immBits w imm)

/-- AND_IMM (R153). -/
def execAndImm (w : Width) (d a : G) (imm : Imm) (s : State) : Out :=
  execPlan (.andImm w d a imm) (planAndImm w d a imm s.me) s

/-- OR, as a plan. -/
def planOr (w : Width) (d a b : G) (t : Slot) : PlanRes := intPlan opOr w d (srcBits w t a) (srcBits w t b)

/-- OR (R154). -/
def execOr (w : Width) (d a b : G) (s : State) : Out := execPlan (.or w d a b) (planOr w d a b s.me) s

/-- OR, immediate form, as a plan. -/
def planOrImm (w : Width) (d a : G) (imm : Imm) (t : Slot) : PlanRes := intPlan opOr w d (srcBits w t a) (immBits w imm)

/-- OR_IMM (R153). -/
def execOrImm (w : Width) (d a : G) (imm : Imm) (s : State) : Out :=
  execPlan (.orImm w d a imm) (planOrImm w d a imm s.me) s

/-- XOR, as a plan. -/
def planXor (w : Width) (d a b : G) (t : Slot) : PlanRes := intPlan opXor w d (srcBits w t a) (srcBits w t b)

/-- XOR (R154). -/
def execXor (w : Width) (d a b : G) (s : State) : Out := execPlan (.xor w d a b) (planXor w d a b s.me) s

/-- XOR, immediate form, as a plan. -/
def planXorImm (w : Width) (d a : G) (imm : Imm) (t : Slot) : PlanRes := intPlan opXor w d (srcBits w t a) (immBits w imm)

/-- XOR_IMM (R153). -/
def execXorImm (w : Width) (d a : G) (imm : Imm) (s : State) : Out :=
  execPlan (.xorImm w d a imm) (planXorImm w d a imm s.me) s

/-- ANDN, as a plan. -/
def planAndn (w : Width) (d a b : G) (t : Slot) : PlanRes := intPlan opAndn w d (srcBits w t a) (srcBits w t b)

/-- ANDN (R154). -/
def execAndn (w : Width) (d a b : G) (s : State) : Out := execPlan (.andn w d a b) (planAndn w d a b s.me) s

/-- ANDN, immediate form, as a plan. -/
def planAndnImm (w : Width) (d a : G) (imm : Imm) (t : Slot) : PlanRes := intPlan opAndn w d (srcBits w t a) (immBits w imm)

/-- ANDN_IMM (R153). -/
def execAndnImm (w : Width) (d a : G) (imm : Imm) (s : State) : Out :=
  execPlan (.andnImm w d a imm) (planAndnImm w d a imm s.me) s

/-- ORN, as a plan. -/
def planOrn (w : Width) (d a b : G) (t : Slot) : PlanRes := intPlan opOrn w d (srcBits w t a) (srcBits w t b)

/-- ORN (R154). -/
def execOrn (w : Width) (d a b : G) (s : State) : Out := execPlan (.orn w d a b) (planOrn w d a b s.me) s

/-- ORN, immediate form, as a plan. -/
def planOrnImm (w : Width) (d a : G) (imm : Imm) (t : Slot) : PlanRes := intPlan opOrn w d (srcBits w t a) (immBits w imm)

/-- ORN_IMM (R153). -/
def execOrnImm (w : Width) (d a : G) (imm : Imm) (s : State) : Out :=
  execPlan (.ornImm w d a imm) (planOrnImm w d a imm s.me) s

/-- SHL, as a plan. -/
def planShl (w : Width) (d a b : G) (t : Slot) : PlanRes := intPlan opShl w d (srcBits w t a) (srcBits w t b)

/-- SHL (R154). -/
def execShl (w : Width) (d a b : G) (s : State) : Out := execPlan (.shl w d a b) (planShl w d a b s.me) s

/-- SHL, immediate form, as a plan. -/
def planShlImm (w : Width) (d a : G) (imm : Imm) (t : Slot) : PlanRes := intPlan opShl w d (srcBits w t a) (immBits w imm)

/-- SHL_IMM (R153). -/
def execShlImm (w : Width) (d a : G) (imm : Imm) (s : State) : Out :=
  execPlan (.shlImm w d a imm) (planShlImm w d a imm s.me) s

/-- SHR, as a plan. -/
def planShr (w : Width) (d a b : G) (t : Slot) : PlanRes := intPlan opShr w d (srcBits w t a) (srcBits w t b)

/-- SHR (R154). -/
def execShr (w : Width) (d a b : G) (s : State) : Out := execPlan (.shr w d a b) (planShr w d a b s.me) s

/-- SHR, immediate form, as a plan. -/
def planShrImm (w : Width) (d a : G) (imm : Imm) (t : Slot) : PlanRes := intPlan opShr w d (srcBits w t a) (immBits w imm)

/-- SHR_IMM (R153). -/
def execShrImm (w : Width) (d a : G) (imm : Imm) (s : State) : Out :=
  execPlan (.shrImm w d a imm) (planShrImm w d a imm s.me) s

/-- SAR, as a plan. -/
def planSar (w : Width) (d a b : G) (t : Slot) : PlanRes := intPlan opSar w d (srcBits w t a) (srcBits w t b)

/-- SAR (R154). -/
def execSar (w : Width) (d a b : G) (s : State) : Out := execPlan (.sar w d a b) (planSar w d a b s.me) s

/-- SAR, immediate form, as a plan. -/
def planSarImm (w : Width) (d a : G) (imm : Imm) (t : Slot) : PlanRes := intPlan opSar w d (srcBits w t a) (immBits w imm)

/-- SAR_IMM (R153). -/
def execSarImm (w : Width) (d a : G) (imm : Imm) (s : State) : Out :=
  execPlan (.sarImm w d a imm) (planSarImm w d a imm s.me) s

/-- ROL, as a plan. -/
def planRol (w : Width) (d a b : G) (t : Slot) : PlanRes := intPlan opRol w d (srcBits w t a) (srcBits w t b)

/-- ROL (R154). -/
def execRol (w : Width) (d a b : G) (s : State) : Out := execPlan (.rol w d a b) (planRol w d a b s.me) s

/-- ROL, immediate form, as a plan. -/
def planRolImm (w : Width) (d a : G) (imm : Imm) (t : Slot) : PlanRes := intPlan opRol w d (srcBits w t a) (immBits w imm)

/-- ROL_IMM (R153). -/
def execRolImm (w : Width) (d a : G) (imm : Imm) (s : State) : Out :=
  execPlan (.rolImm w d a imm) (planRolImm w d a imm s.me) s

/-- ROR, as a plan. -/
def planRor (w : Width) (d a b : G) (t : Slot) : PlanRes := intPlan opRor w d (srcBits w t a) (srcBits w t b)

/-- ROR (R154). -/
def execRor (w : Width) (d a b : G) (s : State) : Out := execPlan (.ror w d a b) (planRor w d a b s.me) s

/-- ROR, immediate form, as a plan. -/
def planRorImm (w : Width) (d a : G) (imm : Imm) (t : Slot) : PlanRes := intPlan opRor w d (srcBits w t a) (immBits w imm)

/-- ROR_IMM (R153). -/
def execRorImm (w : Width) (d a : G) (imm : Imm) (s : State) : Out :=
  execPlan (.rorImm w d a imm) (planRorImm w d a imm s.me) s

/-- MIN, as a plan. -/
def planMin (w : Width) (d a b : G) (t : Slot) : PlanRes := intPlan opMin w d (srcBits w t a) (srcBits w t b)

/-- MIN (R154). -/
def execMin (w : Width) (d a b : G) (s : State) : Out := execPlan (.min w d a b) (planMin w d a b s.me) s

/-- MIN, immediate form, as a plan. -/
def planMinImm (w : Width) (d a : G) (imm : Imm) (t : Slot) : PlanRes := intPlan opMin w d (srcBits w t a) (immBits w imm)

/-- MIN_IMM (R153). -/
def execMinImm (w : Width) (d a : G) (imm : Imm) (s : State) : Out :=
  execPlan (.minImm w d a imm) (planMinImm w d a imm s.me) s

/-- MINU, as a plan. -/
def planMinu (w : Width) (d a b : G) (t : Slot) : PlanRes := intPlan opMinu w d (srcBits w t a) (srcBits w t b)

/-- MINU (R154). -/
def execMinu (w : Width) (d a b : G) (s : State) : Out := execPlan (.minu w d a b) (planMinu w d a b s.me) s

/-- MINU, immediate form, as a plan. -/
def planMinuImm (w : Width) (d a : G) (imm : Imm) (t : Slot) : PlanRes := intPlan opMinu w d (srcBits w t a) (immBits w imm)

/-- MINU_IMM (R153). -/
def execMinuImm (w : Width) (d a : G) (imm : Imm) (s : State) : Out :=
  execPlan (.minuImm w d a imm) (planMinuImm w d a imm s.me) s

/-- MAX, as a plan. -/
def planMax (w : Width) (d a b : G) (t : Slot) : PlanRes := intPlan opMax w d (srcBits w t a) (srcBits w t b)

/-- MAX (R154). -/
def execMax (w : Width) (d a b : G) (s : State) : Out := execPlan (.max w d a b) (planMax w d a b s.me) s

/-- MAX, immediate form, as a plan. -/
def planMaxImm (w : Width) (d a : G) (imm : Imm) (t : Slot) : PlanRes := intPlan opMax w d (srcBits w t a) (immBits w imm)

/-- MAX_IMM (R153). -/
def execMaxImm (w : Width) (d a : G) (imm : Imm) (s : State) : Out :=
  execPlan (.maxImm w d a imm) (planMaxImm w d a imm s.me) s

/-- MAXU, as a plan. -/
def planMaxu (w : Width) (d a b : G) (t : Slot) : PlanRes := intPlan opMaxu w d (srcBits w t a) (srcBits w t b)

/-- MAXU (R154). -/
def execMaxu (w : Width) (d a b : G) (s : State) : Out := execPlan (.maxu w d a b) (planMaxu w d a b s.me) s

/-- MAXU, immediate form, as a plan. -/
def planMaxuImm (w : Width) (d a : G) (imm : Imm) (t : Slot) : PlanRes := intPlan opMaxu w d (srcBits w t a) (immBits w imm)

/-- MAXU_IMM (R153). -/
def execMaxuImm (w : Width) (d a : G) (imm : Imm) (s : State) : Out :=
  execPlan (.maxuImm w d a imm) (planMaxuImm w d a imm s.me) s

/-- CLZ, as a plan. -/
def planClz (w : Width) (d a : G) (t : Slot) : PlanRes :=
  .ok { writes := [.g d (narrow w.bits (opClz w.bits (srcBits w t a)))] }

/-- CLZ (R154). -/
def execClz (w : Width) (d a : G) (s : State) : Out := execPlan (.clz w d a) (planClz w d a s.me) s

/-- CTZ, as a plan. -/
def planCtz (w : Width) (d a : G) (t : Slot) : PlanRes :=
  .ok { writes := [.g d (narrow w.bits (opCtz w.bits (srcBits w t a)))] }

/-- CTZ (R154). -/
def execCtz (w : Width) (d a : G) (s : State) : Out := execPlan (.ctz w d a) (planCtz w d a s.me) s

/-- POPC, as a plan. -/
def planPopc (w : Width) (d a : G) (t : Slot) : PlanRes :=
  .ok { writes := [.g d (narrow w.bits (opPopc w.bits (srcBits w t a)))] }

/-- POPC (R154). -/
def execPopc (w : Width) (d a : G) (s : State) : Out := execPlan (.popc w d a) (planPopc w d a s.me) s

/-- BFX, as a plan: pos := g[b][5:0], len := g[c][6:0]. -/
def planBfx (w : Width) (d a b c : G) (t : Slot) : PlanRes :=
  .ok { writes := [.g d (narrow w.bits (opBfx w.bits (srcBits w t a) ((t.rg b).toNat % 64) ((t.rg c).toNat % 128)))] }

/-- BFX (R156). -/
def execBfx (w : Width) (d a b c : G) (s : State) : Out := execPlan (.bfx w d a b c) (planBfx w d a b c s.me) s

/-- BFI, as a plan. -/
def planBfi (w : Width) (d a b c : G) (t : Slot) : PlanRes :=
  .ok { writes := [.g d (narrow w.bits
    (opBfi w.bits (srcBits w t d) (srcBits w t a) ((t.rg b).toNat % 64) ((t.rg c).toNat % 128)))] }

/-- BFI (R156). -/
def execBfi (w : Width) (d a b c : G) (s : State) : Out := execPlan (.bfi w d a b c) (planBfi w d a b c s.me) s

/-- SEL, as a plan: the condition tests all 64 bits of g[c]. -/
def planSel (w : Width) (d a b c : G) (t : Slot) : PlanRes :=
  .ok { writes := [.g d (narrow w.bits (if t.rg c != 0 then srcBits w t a else srcBits w t b : Nat))] }

/-- SEL (R154). -/
def execSel (w : Width) (d a b c : G) (s : State) : Out := execPlan (.sel w d a b c) (planSel w d a b c s.me) s

/-- SEL, immediate form, as a plan. -/
def planSelImm (w : Width) (d a c : G) (imm : Imm) (t : Slot) : PlanRes :=
  .ok { writes := [.g d (narrow w.bits (if t.rg c != 0 then srcBits w t a else immBits w imm : Nat))] }

/-- SEL_IMM (R153). -/
def execSelImm (w : Width) (d a c : G) (imm : Imm) (s : State) : Out :=
  execPlan (.selImm w d a c imm) (planSelImm w d a c imm s.me) s

/-- LI, as a plan: g[d] := sext(imm); W does not apply. -/
def planLi (d : G) (imm : Imm) : PlanRes := .ok { writes := [.g d (ofInt imm.val)] }

/-- LI (R154). -/
def execLi (d : G) (imm : Imm) (s : State) : Out := execPlan (.li d imm) (planLi d imm) s

/-- MOV, as a plan. -/
def planMov (w : Width) (d a : G) (t : Slot) : PlanRes := .ok { writes := [.g d (narrow w.bits (srcBits w t a))] }

/-- MOV (R154). -/
def execMov (w : Width) (d a : G) (s : State) : Out := execPlan (.mov w d a) (planMov w d a s.me) s

/-! ## Compare and skip -/

/-- The compare conditions on n-bit operands (R37, Table 7). -/
def condHolds (c : Cond) (n x y : Nat) : Bool :=
  match c with
  | .eq => x == y
  | .ne => x != y
  | .lt => sextN n x < sextN n y
  | .ge => sextN n y ≤ sextN n x
  | .ltu => x < y
  | .geu => y ≤ x
  | .tz => Nat.land x y == 0
  | .tnz => Nat.land x y != 0

/-- CMP and CMPI: a false compare sets the pending skip count (R44, R45, R157). -/
def cmpPlan (cond : Cond) (skip : Fin 4) (x y : Word) : PlanRes :=
  .ok { skip := if condHolds cond 64 x.toNat y.toNat then 0 else skip.val }

/-- CMP, as a plan. -/
def planCmp (cond : Cond) (skip : Fin 4) (a b : G) (t : Slot) : PlanRes := cmpPlan cond skip (t.rg a) (t.rg b)

/-- CMP (R157). -/
def execCmp (cond : Cond) (skip : Fin 4) (a b : G) (s : State) : Out :=
  execPlan (.cmp cond skip a b) (planCmp cond skip a b s.me) s

/-- CMPI, as a plan. -/
def planCmpi (cond : Cond) (skip : Fin 4) (a : G) (imm : Imm) (t : Slot) : PlanRes :=
  cmpPlan cond skip (t.rg a) (ofInt imm.val)

/-- CMPI (R157). -/
def execCmpi (cond : Cond) (skip : Fin 4) (a : G) (imm : Imm) (s : State) : Out :=
  execPlan (.cmpi cond skip a imm) (planCmpi cond skip a imm s.me) s

/-! ## Control -/

/-- The target of B and BL: 4-byte units relative to the branch word (R158). -/
def branchTarget (t : Slot) (off : Imm) : Word := t.pc + ofInt (4 * off.val)

/-- B, as a plan. -/
def planB (off : Imm) (t : Slot) : PlanRes := .ok { next := .jump (branchTarget t off) }

/-- B (R158). -/
def execB (off : Imm) (s : State) : Out := execPlan (.b off) (planB off s.me) s

/-- BL, as a plan: the link names the word after the one that holds the BL. -/
def planBl (d : G) (off : Imm) (t : Slot) : PlanRes :=
  .ok { writes := [.g d t.npc], next := .jump (branchTarget t off) }

/-- BL (R158). -/
def execBl (d : G) (off : Imm) (s : State) : Out := execPlan (.bl d off) (planBl d off s.me) s

/-- A register target with bits [1:0] nonzero raises the fetch-boundary fault at the branch word (R30, R159). -/
def badTarget (x : Word) : Option Trap := if x.toNat % 4 = 0 then none else some ⟨1, cFetchBoundary, 0, 0⟩

/-- BI, as a plan. -/
def planBi (a : G) (t : Slot) : PlanRes :=
  match badTarget (t.rg a) with
  | some x => .error x
  | none => .ok { next := .jump (t.rg a) }

/-- BI (R159). -/
def execBi (a : G) (s : State) : Out := execPlan (.bi a) (planBi a s.me) s

/-- BLI, as a plan: the target is read before the link is written. -/
def planBli (d a : G) (t : Slot) : PlanRes :=
  match badTarget (t.rg a) with
  | some x => .error x
  | none => .ok { writes := [.g d t.npc], next := .jump (t.rg a) }

/-- BLI (R159). -/
def execBli (d a : G) (s : State) : Out := execPlan (.bli d a) (planBli d a s.me) s

/-- NOP, as a plan. -/
def planNop : PlanRes := .ok { }

/-- NOP (R160). -/
def execNop (s : State) : Out := execPlan .nop planNop s

end Sys2Proof.Machine
end

