-- ==== Sys2Proof/Machine/LoadStore.lean ====
section
/-!
DEFINITION. Scalar loads and stores (R162 to R164), atomics (R165, R166), FENCE and FENCEX (R118, R119, R167).
-/
namespace Sys2Proof.Machine

/-- The offset of an access, formed modulo 2^64 as a signed value (R90, R162). -/
def memOffset (base : Word) (index : Int) (disp : Disp) : Int := (base + ofInt index + ofInt disp.val).toInt

/-- The FENCE part of a release access (R118). -/
def memRelease (m : Mem) : Option Scope :=
  match m.ord with
  | .rel => some m.scope
  | .ar => some m.scope
  | _ => none

/-- The plan of a scalar access of n bytes (R162, R165). -/
def accessPlan (op : AccOp) (done : Done) (posted : Bool) (sg : BitVec 128) (off : Int) (n : Nat) (reg : Bool) (m : Mem) : PlanRes :=
  .ok { mem := some { op, done, sg, elems := [(0, off)], n, al := n, reg, posted, ord := m.ord != .plain }, release := memRelease m }

/-- LD, as a plan. -/
def planLd (w : Width) (sg : S) (d a : G) (m : Mem) (t : Slot) : PlanRes :=
  accessPlan .load (.g d w.bits) false t.s[sg] (memOffset (t.rg a) 0 m.disp) w.bytes true m

/-- LD (R162, R163). -/
def execLd (w : Width) (sg : S) (d a : G) (m : Mem) (s : State) : Out := execPlan (.ld w sg d a m) (planLd w sg d a m s.me) s

/-- ST, as a plan. -/
def planSt (w : Width) (sg : S) (d a : G) (m : Mem) (t : Slot) : PlanRes :=
  accessPlan (.store [(0, (t.rg d).toNat % 2 ^ w.bits)]) .none true t.s[sg] (memOffset (t.rg a) 0 m.disp) w.bytes true m

/-- ST (R162, R163). -/
def execSt (w : Width) (sg : S) (d a : G) (m : Mem) (s : State) : Out := execPlan (.st w sg d a m) (planSt w sg d a m s.me) s

/-- LDX, as a plan: the index counts in units of the access width. -/
def planLdx (w : Width) (sg : S) (d a b : G) (m : Mem) (t : Slot) : PlanRes :=
  accessPlan .load (.g d w.bits) false t.s[sg] (memOffset (t.rg a) ((t.rg b).toInt * w.bytes) m.disp) w.bytes true m

/-- LDX (R162, R163). -/
def execLdx (w : Width) (sg : S) (d a b : G) (m : Mem) (s : State) : Out :=
  execPlan (.ldx w sg d a b m) (planLdx w sg d a b m s.me) s

/-- STX, as a plan. -/
def planStx (w : Width) (sg : S) (d a b : G) (m : Mem) (t : Slot) : PlanRes :=
  accessPlan (.store [(0, (t.rg d).toNat % 2 ^ w.bits)]) .none true t.s[sg]
    (memOffset (t.rg a) ((t.rg b).toInt * w.bytes) m.disp) w.bytes true m

/-- STX (R162, R163). -/
def execStx (w : Width) (sg : S) (d a b : G) (m : Mem) (s : State) : Out :=
  execPlan (.stx w sg d a b m) (planStx w sg d a b m s.me) s

/-! ## Atomics -/

/-- The mould of R165: the old value is the result. -/
def atomicPlan (op : AtomicOp) (w : Width) (sg : S) (d a b : G) (cmp : Word) (m : Mem) (t : Slot) : PlanRes :=
  accessPlan (.atomic op ((t.rg b).toNat % 2 ^ w.bits) (cmp.toNat % 2 ^ w.bits)) (.g d w.bits) false t.s[sg]
    (memOffset (t.rg a) 0 m.disp) w.bytes false m

/-- AADD, as a plan. -/
def planAadd (w : Width) (sg : S) (d a b : G) (m : Mem) (t : Slot) : PlanRes := atomicPlan .add w sg d a b 0 m t

/-- AADD (R165, R166). -/
def execAadd (w : Width) (sg : S) (d a b : G) (m : Mem) (s : State) : Out :=
  execPlan (.aadd w sg d a b m) (planAadd w sg d a b m s.me) s

/-- AAND, as a plan. -/
def planAand (w : Width) (sg : S) (d a b : G) (m : Mem) (t : Slot) : PlanRes := atomicPlan .and w sg d a b 0 m t

/-- AAND (R165, R166). -/
def execAand (w : Width) (sg : S) (d a b : G) (m : Mem) (s : State) : Out :=
  execPlan (.aand w sg d a b m) (planAand w sg d a b m s.me) s

/-- AOR, as a plan. -/
def planAor (w : Width) (sg : S) (d a b : G) (m : Mem) (t : Slot) : PlanRes := atomicPlan .or w sg d a b 0 m t

/-- AOR (R165, R166). -/
def execAor (w : Width) (sg : S) (d a b : G) (m : Mem) (s : State) : Out :=
  execPlan (.aor w sg d a b m) (planAor w sg d a b m s.me) s

/-- AXOR, as a plan. -/
def planAxor (w : Width) (sg : S) (d a b : G) (m : Mem) (t : Slot) : PlanRes := atomicPlan .xor w sg d a b 0 m t

/-- AXOR (R165, R166). -/
def execAxor (w : Width) (sg : S) (d a b : G) (m : Mem) (s : State) : Out :=
  execPlan (.axor w sg d a b m) (planAxor w sg d a b m s.me) s

/-- AMIN, as a plan. -/
def planAmin (w : Width) (sg : S) (d a b : G) (m : Mem) (t : Slot) : PlanRes := atomicPlan .min w sg d a b 0 m t

/-- AMIN (R165, R166). -/
def execAmin (w : Width) (sg : S) (d a b : G) (m : Mem) (s : State) : Out :=
  execPlan (.amin w sg d a b m) (planAmin w sg d a b m s.me) s

/-- AMAX, as a plan. -/
def planAmax (w : Width) (sg : S) (d a b : G) (m : Mem) (t : Slot) : PlanRes := atomicPlan .max w sg d a b 0 m t

/-- AMAX (R165, R166). -/
def execAmax (w : Width) (sg : S) (d a b : G) (m : Mem) (s : State) : Out :=
  execPlan (.amax w sg d a b m) (planAmax w sg d a b m s.me) s

/-- ASWP, as a plan. -/
def planAswp (w : Width) (sg : S) (d a b : G) (m : Mem) (t : Slot) : PlanRes := atomicPlan .swp w sg d a b 0 m t

/-- ASWP (R165, R166). -/
def execAswp (w : Width) (sg : S) (d a b : G) (m : Mem) (s : State) : Out :=
  execPlan (.aswp w sg d a b m) (planAswp w sg d a b m s.me) s

/-- ACAS, as a plan: g[c] is the expected value. -/
def planAcas (w : Width) (sg : S) (d a b c : G) (m : Mem) (t : Slot) : PlanRes := atomicPlan .cas w sg d a b (t.rg c) m t

/-- ACAS (R165, R166). -/
def execAcas (w : Width) (sg : S) (d a b c : G) (m : Mem) (s : State) : Out :=
  execPlan (.acas w sg d a b c m) (planAcas w sg d a b c m s.me) s

/-! ## Fences -/

/-- FENCE, as a plan. -/
def planFence (sc : Scope) : PlanRes := .ok { fence := some (sc, .t) }

/-- FENCE (R118, R167). -/
def execFence (sc : Scope) (s : State) : Out := execPlan (.fence sc) (planFence sc) s

/-- FENCEX, as a plan: what the thread issues on the second path comes after the park in any case. -/
def planFencex (sc : Scope) (p1 _p2 : Path) : PlanRes := .ok { fence := some (sc, p1) }

/-- FENCEX (R119, R167): parks until every event on the first path attributed to the thread is performed. -/
def execFencex (sc : Scope) (p1 p2 : Path) (s : State) : Out := execPlan (.fencex sc p1 p2) (planFencex sc p1 p2) s

end Sys2Proof.Machine
end

