-- ==== Sys2Proof/Machine/Special.lean ====
section
/-!
DEFINITION. The special functions VFEXP2, VFLOG2, VFSIN, VFCOS, VFTANH (R189, R190): the exact value, rounded once to nearest. The
exact value is enclosed in an interval of fixed-point numbers whose precision is doubled until both ends round alike; R189 says
that the value never lies on a tie, so this ends. The precision is bounded (log 11).
-/
namespace Sys2Proof.Machine

/-- An enclosure lo × 2^−P ≤ x ≤ hi × 2^−P; the precision P is carried by the context. -/
structure Ivl where
  lo : Int
  hi : Int
deriving DecidableEq, Repr

/-- Division of an integer by 2^n, rounded down. -/
def shrDown (x : Int) (n : Nat) : Int := x / (2 ^ n : Nat)

/-- Division of an integer by 2^n, rounded up. -/
def shrUp (x : Int) (n : Nat) : Int := -((-x) / (2 ^ n : Nat))

/-- Enclosure of the dyadic number v × 2^e. -/
def Ivl.ofDyadic (prec : Nat) (v e : Int) : Ivl :=
  let sh := e + prec
  if 0 ≤ sh then ⟨v * 2 ^ sh.toNat, v * 2 ^ sh.toNat⟩ else ⟨shrDown v (-sh).toNat, shrUp v (-sh).toNat⟩

/-- Sum. -/
def Ivl.add (x y : Ivl) : Ivl := ⟨x.lo + y.lo, x.hi + y.hi⟩
/-- Difference. -/
def Ivl.sub (x y : Ivl) : Ivl := ⟨x.lo - y.hi, x.hi - y.lo⟩
/-- Negation. -/
def Ivl.neg (x : Ivl) : Ivl := ⟨-x.hi, -x.lo⟩
/-- Product of two enclosures of nonnegative numbers. -/
def Ivl.mulPos (prec : Nat) (x y : Ivl) : Ivl := ⟨shrDown (x.lo * y.lo) prec, shrUp (x.hi * y.hi) prec⟩
/-- Quotient of two enclosures of nonnegative numbers, the divisor above 0. -/
def Ivl.divPos (prec : Nat) (x y : Ivl) : Ivl := ⟨x.lo * 2 ^ prec / y.hi, -((-(x.hi * 2 ^ prec)) / y.lo)⟩
/-- A nonnegative enclosure divided by a positive number. -/
def Ivl.divNat (x : Ivl) (n : Nat) : Ivl := ⟨x.lo / n, -((-x.hi) / n)⟩

/-- Sum of z^k / k! for k from `k` on, with the term for k − 1 given: `fuel` terms, then the remainder, which is at most
twice the last term when z ≤ k / 2 there. -/
def expTail (prec : Nat) (z : Ivl) : Nat → Nat → Ivl → Ivl
  | 0, _, term => ⟨0, 2 * term.hi + 1⟩
  | fuel + 1, k, term =>
    let t := (Ivl.mulPos prec term z).divNat k
    t.add (expTail prec z fuel (k + 1) t)

/-- e^z for 0 ≤ z < 128. -/
def expI (prec : Nat) (z : Ivl) : Ivl :=
  let one : Ivl := ⟨2 ^ prec, 2 ^ prec⟩
  one.add (expTail prec z (prec + 300) 1 one)

/-- Sum of u^(2k+1) / (2k+1) from the odd power `pw` at index `n` on, for u ≤ 1/3. -/
def atanhTail (prec : Nat) (u2 : Ivl) : Nat → Nat → Ivl → Ivl
  | 0, _, pw => ⟨0, 2 * pw.hi + 1⟩
  | fuel + 1, n, pw => (pw.divNat n).add (atanhTail prec u2 fuel (n + 2) (Ivl.mulPos prec pw u2))

/-- ln y for 1 ≤ y < 2, as 2 × atanh((y − 1) / (y + 1)). -/
def lnI (prec : Nat) (y : Ivl) : Ivl :=
  let one : Ivl := ⟨2 ^ prec, 2 ^ prec⟩
  let u := Ivl.divPos prec ⟨max 0 (y.lo - 2 ^ prec), max 0 (y.hi - 2 ^ prec)⟩ (y.add one)
  let s := atanhTail prec (Ivl.mulPos prec u u) (prec / 2 + 8) 1 u
  ⟨2 * s.lo, 2 * s.hi⟩

/-- ln 2, as 2 × atanh(1/3). -/
def ln2I (prec : Nat) : Ivl :=
  let u : Ivl := ⟨2 ^ prec / 3, 2 ^ prec / 3 + 1⟩
  let s := atanhTail prec (Ivl.mulPos prec u u) (prec / 2 + 8) 1 u
  ⟨2 * s.lo, 2 * s.hi⟩

/-- Terms r^n / n! of one parity summed with alternating signs: pair (positive sum, negative sum) from the term `t` at index n. -/
def trigTail (prec : Nat) (r2 : Ivl) : Nat → Nat → Ivl → Bool → Ivl × Ivl
  | 0, _, t, _ => (⟨0, t.hi + 1⟩, ⟨0, t.hi + 1⟩)
  | fuel + 1, n, t, minus =>
    let rest := trigTail prec r2 fuel (n + 2) (((Ivl.mulPos prec t r2).divNat (n + 1)).divNat (n + 2)) !minus
    if minus then (rest.1, rest.2.add t) else (rest.1.add t, rest.2)

/-- sin r for 0 ≤ r < 1. -/
def sinI (prec : Nat) (r : Ivl) : Ivl :=
  let s := trigTail prec (Ivl.mulPos prec r r) (prec / 4 + 16) 1 r false
  s.1.sub s.2

/-- cos r for 0 ≤ r < 1. -/
def cosI (prec : Nat) (r : Ivl) : Ivl :=
  let s := trigTail prec (Ivl.mulPos prec r r) (prec / 4 + 16) 0 ⟨2 ^ prec, 2 ^ prec⟩ false
  s.1.sub s.2

/-- The enclosure times 2^n rounds to one value at both ends: that value and its flags, nx among them. -/
def Ivl.round? (f : Fmt) (prec : Nat) (x : Ivl) (n : Int) : Option (Nat × Fl) :=
  if x.lo > 0 then
    let a := roundPack f .rne false x.lo.toNat (n - prec) true
    let b := roundPack f .rne false x.hi.toNat (n - prec) true
    if a = b && bitLen x.lo.toNat ≥ f.fbits + 4 then some (a.1, a.2 ||| Fl.nx) else none
  else if x.hi < 0 then
    let a := roundPack f .rne true x.hi.natAbs (n - prec) true
    let b := roundPack f .rne true x.lo.natAbs (n - prec) true
    if a = b && bitLen x.hi.natAbs ≥ f.fbits + 4 then some (a.1, a.2 ||| Fl.nx) else none
  else none

/-- Doubling of the precision until the enclosure decides the rounding; the default NaN if the bound of log 11 were too small. -/
def decideRound (f : Fmt) (g : Nat → Ivl) (n : Int) : Nat → Nat → Nat × Fl
  | 0, _ => nanResult f false
  | fuel + 1, prec =>
    match (g prec).round? f prec n with
    | some r => r
    | none => decideRound f g n fuel (2 * prec)

/-- Doublings tried: precisions 96 to 96 × 2^7 bits. -/
def roundFuel : Nat := 8

/-- VFEXP2 (R189, Table 5). -/
def fpExp2 (f : Fmt) (a : Nat) : Nat × Fl :=
  match f.dec a with
  | .nan s => nanResult f s
  | .inf s => (if s then f.zero false else f.posInf, 0)
  | .fin s m e =>
    if m = 0 then (f.bias * 2 ^ f.fbits, 0)
    else
      let v : Int := if s then -(m : Int) else m
      let n : Int := if 0 ≤ e then v * 2 ^ e.toNat else shrDown v (-e).toNat
      if n > f.bias then (f.posInf, Fl.of ||| Fl.nx)
      else if n < -2 * (f.bias : Int) - 64 then roundPack f .rne false 1 (-4 * (f.bias : Int)) true
      else if 0 ≤ e || v = n * 2 ^ (-e).toNat then roundPack f .rne false 1 n false
      else
        -- 2^x = 2^n × e^((x − n) ln 2)
        let fr : Int := v - n * 2 ^ (-e).toNat
        decideRound f (fun p => expI p (Ivl.mulPos p (Ivl.ofDyadic p fr e) (ln2I p))) n roundFuel 96

/-- VFLOG2 (R189, Table 5). -/
def fpLog2 (f : Fmt) (a : Nat) : Nat × Fl :=
  match f.dec a with
  | .nan s => nanResult f s
  | .inf s => if s then nanResult f true else (f.posInf, 0)
  | .fin s m e =>
    if m = 0 then (f.inf true, Fl.dz)
    else if s then nanResult f true
    else
      let top : Int := e + bitLen m - 1
      if m = 2 ^ (bitLen m - 1) then roundInt f .rne top 0 false
      else
        decideRound f (fun p =>
          let y := Ivl.ofDyadic p m (1 - (bitLen m : Int))
          (Ivl.ofDyadic p top 0).add (Ivl.divPos p (lnI p y) (ln2I p))) 0 roundFuel 96

/-- VFTANH (R189, Table 5). -/
def fpTanh (f : Fmt) (a : Nat) : Nat × Fl :=
  match f.dec a with
  | .nan s => nanResult f s
  | .inf s => (f.zero s + f.bias * 2 ^ f.fbits, 0)
  | .fin s m e =>
    if m = 0 then (f.zero s, 0)
    else
      let big : Bool := e + bitLen m - 1 ≥ 5
      let r :=
        if big then decideRound f (fun p => ⟨2 ^ p - 2 ^ (p - 40), 2 ^ p - 1⟩) 0 roundFuel 96
        else
          decideRound f (fun p =>
            let x := expI p (Ivl.ofDyadic p (2 * m) e)
            Ivl.divPos p ⟨x.lo - 2 ^ p, x.hi - 2 ^ p⟩ ⟨x.lo + 2 ^ p, x.hi + 2 ^ p⟩) 0 roundFuel 96
      if r.1 = f.defNaN then r else (f.zero s + r.1, r.2)

/-- The constant Π × 2^126 of R190. -/
def piConst : Nat := 0xC90FDAA22168C234C4C6628B80DC1CD1

/-- The nearest integer to v / d for d > 0, a tie to the even one. -/
def nearestEven (v d : Int) : Int :=
  let q := v / d
  let r := v % d
  if 2 * r < d then q else if 2 * r > d then q + 1 else if q % 2 = 0 then q else q + 1

/-- Steps 1 to 3 of R190 for x = v × 2^e: k, and r64 as a signed significand and exponent. -/
def reduceTrig (v e : Int) : Int × Int × Int :=
  -- x / (Π/2) with Π/2 = piConst × 2^−127: both sides scaled by 2^s
  let s : Nat := (max 127 (-e)).toNat
  let xs : Int := v * 2 ^ (e + s).toNat
  let h : Int := piConst * 2 ^ (s - 127)
  let k := nearestEven xs h
  let r := xs - k * h
  let n := r.natAbs
  if bitLen n ≤ 64 then (k, r, -(s : Int))
  else
    let sh := bitLen n - 64
    let q := roundTo .rne false n 0 false sh
    (k, if r < 0 then -(q.1 : Int) else q.1, (sh : Int) - s)

/-- VFSIN (`cos` false) and VFCOS (R189, R190, Table 5). -/
def fpTrig (f : Fmt) (cos : Bool) (a : Nat) : Nat × Fl :=
  match f.dec a with
  | .nan s => nanResult f s
  | .inf _ => nanResult f true
  | .fin s m e =>
    if m = 0 then (if cos then f.bias * 2 ^ f.fbits else f.zero s, 0)
    else if e + bitLen m - 1 ≥ 30 then (f.defNaN, Fl.range)
    else
      let red := reduceTrig (if s then -(m : Int) else m) e
      let k := red.1 % 4
      let useCos : Bool := (k == 1 || k == 3) != cos
      let minus : Bool := if cos then k == 1 || k == 2 else k == 2 || k == 3
      let rNeg : Bool := red.2.1 < 0
      let mag : Int := red.2.1.natAbs
      let flip : Bool := minus != (rNeg && !useCos)
      decideRound f (fun p =>
        let x := Ivl.ofDyadic p mag red.2.2
        let y := if useCos then cosI p x else sinI p x
        if flip then y.neg else y) 0 roundFuel 96

end Sys2Proof.Machine
end

