-- ==== Sys2Proof/Machine/Vector.lean ====
section
/-!
DEFINITION. The vector engine (R181 to R204) apart from vector memory: for each instruction the plan it makes from the thread's
registers on a w-bit engine, and its meaning, which runs the plan.
-/
namespace Sys2Proof.Machine

/-! ## Lane-wise moulds -/

/-- The floating-point format of a type; FP32 for the types that are none (R56). -/
def fmtOf (ty : VType) : Fmt :=
  match ty with
  | .f16 => fp16
  | .b16 => bf16
  | _ => fp32

/-- A number from elements of width e, element 0 lowest. -/
def packLanes (e : Nat) (xs : List Nat) : Nat := xs.foldr (fun x acc => acc * 2 ^ e + x % 2 ^ e) 0

/-- The mould of R187 and R192: an active lane j gets `f j` and raises its flags; an inactive lane keeps its value (R183). -/
def lanePlan (w e : Nat) (t : Slot) (p : P) (d : V) (f : Nat → Nat × Fl) : PlanRes :=
  let pr := t.rp w p
  let old := t.rv d
  let rs := (List.range (w / e)).map fun j => if active pr e j then f j else (lane old e j, 0)
  .ok { writes := [.v d (BitVec.ofNat 2048 (packLanes e (rs.map (·.1))))], fl := rs.foldl (fun acc r => acc ||| r.2) 0 }

/-- A predicate result (R191): cond on an active lane, 0 on an inactive one (R183). -/
def predPlan (w e : Nat) (t : Slot) (p d : P) (f : Nat → Bool × Fl) : PlanRes :=
  let pr := t.rp w p
  let rs := (List.range (w / e)).map fun j => if active pr e j then f j else (false, 0)
  .ok { writes := [.p d (BitVec.ofNat 256 (packLanes (e / 8) (rs.map fun r => if r.1 then 2 ^ (e / 8) - 1 else 0)))],
        fl := rs.foldl (fun acc r => acc ||| r.2) 0 }

/-- The values of the active lanes of a register, ascending, with their lane numbers. -/
def activeLanes (w e : Nat) (t : Slot) (p : P) (a : V) : List (Nat × Nat) :=
  let pr := t.rp w p
  ((List.range (w / e)).filter fun j => active pr e j).map fun j => (j, lane (t.rv a) e j)

/-- Rounding direction of an instruction for a thread (R61). -/
def rmFor (t : Slot) (rm : Fin 8) : RMode := RMode.ofField rm (rndMode t.flags)

/-- The condition codes of VFCMP (R191, Table 6). -/
def fcondCode : FCond → Nat
  | .eq => 0 | .ne => 1 | .lt => 2 | .ge => 3 | .le => 4 | .gt => 5 | .uo => 6 | .ord => 7

/-! ## Floating-point arithmetic (R187, R188) -/

/-- VFADD, as a plan: a + b. -/
def planVfadd (ty : VType) (rm : Fin 8) (p : P) (d a b : V) (w : Nat) (t : Slot) : PlanRes :=
  lanePlan w ty.bits t p d fun j => fpAdd (fmtOf ty) (rmFor t rm) (lane (t.rv a) ty.bits j) (lane (t.rv b) ty.bits j)

/-- VFADD (R187). -/
def execVfadd (ty : VType) (rm : Fin 8) (p : P) (d a b : V) (s : State) : Out :=
  execPlan (.vfadd ty rm p d a b) (planVfadd ty rm p d a b (Config.vecBits s.cur.core) s.me) s

/-- VFSUB, as a plan: a − b. -/
def planVfsub (ty : VType) (rm : Fin 8) (p : P) (d a b : V) (w : Nat) (t : Slot) : PlanRes :=
  lanePlan w ty.bits t p d fun j => fpSub (fmtOf ty) (rmFor t rm) (lane (t.rv a) ty.bits j) (lane (t.rv b) ty.bits j)

/-- VFSUB (R187). -/
def execVfsub (ty : VType) (rm : Fin 8) (p : P) (d a b : V) (s : State) : Out :=
  execPlan (.vfsub ty rm p d a b) (planVfsub ty rm p d a b (Config.vecBits s.cur.core) s.me) s

/-- VFMUL, as a plan: a × b. -/
def planVfmul (ty : VType) (rm : Fin 8) (p : P) (d a b : V) (w : Nat) (t : Slot) : PlanRes :=
  lanePlan w ty.bits t p d fun j => fpMul (fmtOf ty) (rmFor t rm) (lane (t.rv a) ty.bits j) (lane (t.rv b) ty.bits j)

/-- VFMUL (R187). -/
def execVfmul (ty : VType) (rm : Fin 8) (p : P) (d a b : V) (s : State) : Out :=
  execPlan (.vfmul ty rm p d a b) (planVfmul ty rm p d a b (Config.vecBits s.cur.core) s.me) s

/-- VFDIV, as a plan: a / b. -/
def planVfdiv (ty : VType) (rm : Fin 8) (p : P) (d a b : V) (w : Nat) (t : Slot) : PlanRes :=
  lanePlan w ty.bits t p d fun j => fpDiv (fmtOf ty) (rmFor t rm) (lane (t.rv a) ty.bits j) (lane (t.rv b) ty.bits j)

/-- VFDIV (R187). -/
def execVfdiv (ty : VType) (rm : Fin 8) (p : P) (d a b : V) (s : State) : Out :=
  execPlan (.vfdiv ty rm p d a b) (planVfdiv ty rm p d a b (Config.vecBits s.cur.core) s.me) s

/-- VFMA, as a plan: a × b + c, one rounding. -/
def planVfma (ty : VType) (rm : Fin 8) (p : P) (d a b c : V) (w : Nat) (t : Slot) : PlanRes :=
  lanePlan w ty.bits t p d fun j =>
    fpFma (fmtOf ty) (rmFor t rm) false false (lane (t.rv a) ty.bits j) (lane (t.rv b) ty.bits j) (lane (t.rv c) ty.bits j)

/-- VFMA (R187). -/
def execVfma (ty : VType) (rm : Fin 8) (p : P) (d a b c : V) (s : State) : Out :=
  execPlan (.vfma ty rm p d a b c) (planVfma ty rm p d a b c (Config.vecBits s.cur.core) s.me) s

/-- VFMS, as a plan: a × b − c, one rounding. -/
def planVfms (ty : VType) (rm : Fin 8) (p : P) (d a b c : V) (w : Nat) (t : Slot) : PlanRes :=
  lanePlan w ty.bits t p d fun j =>
    fpFma (fmtOf ty) (rmFor t rm) false true (lane (t.rv a) ty.bits j) (lane (t.rv b) ty.bits j) (lane (t.rv c) ty.bits j)

/-- VFMS (R187). -/
def execVfms (ty : VType) (rm : Fin 8) (p : P) (d a b c : V) (s : State) : Out :=
  execPlan (.vfms ty rm p d a b c) (planVfms ty rm p d a b c (Config.vecBits s.cur.core) s.me) s

/-- VFNMA, as a plan: −(a × b) + c, one rounding. -/
def planVfnma (ty : VType) (rm : Fin 8) (p : P) (d a b c : V) (w : Nat) (t : Slot) : PlanRes :=
  lanePlan w ty.bits t p d fun j =>
    fpFma (fmtOf ty) (rmFor t rm) true false (lane (t.rv a) ty.bits j) (lane (t.rv b) ty.bits j) (lane (t.rv c) ty.bits j)

/-- VFNMA (R187). -/
def execVfnma (ty : VType) (rm : Fin 8) (p : P) (d a b c : V) (s : State) : Out :=
  execPlan (.vfnma ty rm p d a b c) (planVfnma ty rm p d a b c (Config.vecBits s.cur.core) s.me) s

/-- VFSQRT, as a plan: √a. -/
def planVfsqrt (ty : VType) (rm : Fin 8) (p : P) (d a : V) (w : Nat) (t : Slot) : PlanRes :=
  lanePlan w ty.bits t p d fun j => fpSqrt (fmtOf ty) (rmFor t rm) (lane (t.rv a) ty.bits j)

/-- VFSQRT (R187, R188). -/
def execVfsqrt (ty : VType) (rm : Fin 8) (p : P) (d a : V) (s : State) : Out :=
  execPlan (.vfsqrt ty rm p d a) (planVfsqrt ty rm p d a (Config.vecBits s.cur.core) s.me) s

/-- VFRCP, as a plan: 1 / a. -/
def planVfrcp (ty : VType) (rm : Fin 8) (p : P) (d a : V) (w : Nat) (t : Slot) : PlanRes :=
  lanePlan w ty.bits t p d fun j => fpRcp (fmtOf ty) (rmFor t rm) (lane (t.rv a) ty.bits j)

/-- VFRCP (R187, R188). -/
def execVfrcp (ty : VType) (rm : Fin 8) (p : P) (d a : V) (s : State) : Out :=
  execPlan (.vfrcp ty rm p d a) (planVfrcp ty rm p d a (Config.vecBits s.cur.core) s.me) s

/-- VFRSQ, as a plan: 1 / √a. -/
def planVfrsq (ty : VType) (rm : Fin 8) (p : P) (d a : V) (w : Nat) (t : Slot) : PlanRes :=
  lanePlan w ty.bits t p d fun j => fpRsq (fmtOf ty) (rmFor t rm) (lane (t.rv a) ty.bits j)

/-- VFRSQ (R187, R188). -/
def execVfrsq (ty : VType) (rm : Fin 8) (p : P) (d a : V) (s : State) : Out :=
  execPlan (.vfrsq ty rm p d a) (planVfrsq ty rm p d a (Config.vecBits s.cur.core) s.me) s

/-- VFMIN, as a plan: minimumNumber. -/
def planVfmin (ty : VType) (p : P) (d a b : V) (w : Nat) (t : Slot) : PlanRes :=
  lanePlan w ty.bits t p d fun j => fpMinMax (fmtOf ty) false (lane (t.rv a) ty.bits j) (lane (t.rv b) ty.bits j)

/-- VFMIN (R187, R188). -/
def execVfmin (ty : VType) (p : P) (d a b : V) (s : State) : Out :=
  execPlan (.vfmin ty p d a b) (planVfmin ty p d a b (Config.vecBits s.cur.core) s.me) s

/-- VFMAX, as a plan: maximumNumber. -/
def planVfmax (ty : VType) (p : P) (d a b : V) (w : Nat) (t : Slot) : PlanRes :=
  lanePlan w ty.bits t p d fun j => fpMinMax (fmtOf ty) true (lane (t.rv a) ty.bits j) (lane (t.rv b) ty.bits j)

/-- VFMAX (R187, R188). -/
def execVfmax (ty : VType) (p : P) (d a b : V) (s : State) : Out :=
  execPlan (.vfmax ty p d a b) (planVfmax ty p d a b (Config.vecBits s.cur.core) s.me) s

/-- VFABS, as a plan: sign bit cleared. -/
def planVfabs (ty : VType) (p : P) (d a : V) (w : Nat) (t : Slot) : PlanRes :=
  lanePlan w ty.bits t p d fun j => fpAbs (fmtOf ty) (lane (t.rv a) ty.bits j)

/-- VFABS (R187, R188). -/
def execVfabs (ty : VType) (p : P) (d a : V) (s : State) : Out :=
  execPlan (.vfabs ty p d a) (planVfabs ty p d a (Config.vecBits s.cur.core) s.me) s

/-- VFNEG, as a plan: sign bit inverted. -/
def planVfneg (ty : VType) (p : P) (d a : V) (w : Nat) (t : Slot) : PlanRes :=
  lanePlan w ty.bits t p d fun j => fpNeg (fmtOf ty) (lane (t.rv a) ty.bits j)

/-- VFNEG (R187, R188). -/
def execVfneg (ty : VType) (p : P) (d a : V) (s : State) : Out :=
  execPlan (.vfneg ty p d a) (planVfneg ty p d a (Config.vecBits s.cur.core) s.me) s

/-- VFEXP2, as a plan: 2^a. -/
def planVfexp2 (ty : VType) (p : P) (d a : V) (w : Nat) (t : Slot) : PlanRes :=
  lanePlan w ty.bits t p d fun j => fpExp2 (fmtOf ty) (lane (t.rv a) ty.bits j)

/-- VFEXP2 (R189). -/
def execVfexp2 (ty : VType) (p : P) (d a : V) (s : State) : Out :=
  execPlan (.vfexp2 ty p d a) (planVfexp2 ty p d a (Config.vecBits s.cur.core) s.me) s

/-- VFLOG2, as a plan: log2 a. -/
def planVflog2 (ty : VType) (p : P) (d a : V) (w : Nat) (t : Slot) : PlanRes :=
  lanePlan w ty.bits t p d fun j => fpLog2 (fmtOf ty) (lane (t.rv a) ty.bits j)

/-- VFLOG2 (R189). -/
def execVflog2 (ty : VType) (p : P) (d a : V) (s : State) : Out :=
  execPlan (.vflog2 ty p d a) (planVflog2 ty p d a (Config.vecBits s.cur.core) s.me) s

/-- VFSIN, as a plan: sin a. -/
def planVfsin (ty : VType) (p : P) (d a : V) (w : Nat) (t : Slot) : PlanRes :=
  lanePlan w ty.bits t p d fun j => fpTrig (fmtOf ty) false (lane (t.rv a) ty.bits j)

/-- VFSIN (R189, R190). -/
def execVfsin (ty : VType) (p : P) (d a : V) (s : State) : Out :=
  execPlan (.vfsin ty p d a) (planVfsin ty p d a (Config.vecBits s.cur.core) s.me) s

/-- VFCOS, as a plan: cos a. -/
def planVfcos (ty : VType) (p : P) (d a : V) (w : Nat) (t : Slot) : PlanRes :=
  lanePlan w ty.bits t p d fun j => fpTrig (fmtOf ty) true (lane (t.rv a) ty.bits j)

/-- VFCOS (R189, R190). -/
def execVfcos (ty : VType) (p : P) (d a : V) (s : State) : Out :=
  execPlan (.vfcos ty p d a) (planVfcos ty p d a (Config.vecBits s.cur.core) s.me) s

/-- VFTANH, as a plan: tanh a. -/
def planVftanh (ty : VType) (p : P) (d a : V) (w : Nat) (t : Slot) : PlanRes :=
  lanePlan w ty.bits t p d fun j => fpTanh (fmtOf ty) (lane (t.rv a) ty.bits j)

/-- VFTANH (R189). -/
def execVftanh (ty : VType) (p : P) (d a : V) (s : State) : Out :=
  execPlan (.vftanh ty p d a) (planVftanh ty p d a (Config.vecBits s.cur.core) s.me) s

/-- VFCMP, as a plan. -/
def planVfcmp (ty : VType) (cond : FCond) (p d : P) (a b : V) (w : Nat) (t : Slot) : PlanRes :=
  predPlan w ty.bits t p d fun j => fpCmp (fmtOf ty) (fcondCode cond) (lane (t.rv a) ty.bits j) (lane (t.rv b) ty.bits j)

/-- VFCMP (R191). -/
def execVfcmp (ty : VType) (cond : FCond) (p d : P) (a b : V) (s : State) : Out :=
  execPlan (.vfcmp ty cond p d a b) (planVfcmp ty cond p d a b (Config.vecBits s.cur.core) s.me) s

/-! ## Integer arithmetic (R192) -/

/-- An integer clamped to the signed or unsigned range of e bits, with sat where it clamps (R55). -/
def clampN (e : Nat) (uns : Bool) (v : Int) : Nat × Fl :=
  let lo : Int := if uns then 0 else -(2 ^ (e - 1) : Nat)
  let hi : Int := if uns then (2 ^ e : Nat) - 1 else (2 ^ (e - 1) : Nat) - 1
  if v < lo then (patN e lo, Fl.sat) else if v > hi then (patN e hi, Fl.sat) else (patN e v, 0)

/-- VADD on e-bit operands (R192, Table 7). -/
def laneVadd (_e x y : Nat) : Int := (x + y : Nat)

/-- VADD, as a plan. -/
def planVadd (ty : VType) (p : P) (d a b : V) (w : Nat) (t : Slot) : PlanRes :=
  lanePlan w ty.bits t p d fun j =>
    (patN ty.bits (laneVadd ty.bits (lane (t.rv a) ty.bits j) (lane (t.rv b) ty.bits j)), 0)

/-- VADD (R192). -/
def execVadd (ty : VType) (p : P) (d a b : V) (s : State) : Out :=
  execPlan (.vadd ty p d a b) (planVadd ty p d a b (Config.vecBits s.cur.core) s.me) s

/-- VSUB on e-bit operands (R192, Table 7). -/
def laneVsub (_e x y : Nat) : Int := (x : Int) - y

/-- VSUB, as a plan. -/
def planVsub (ty : VType) (p : P) (d a b : V) (w : Nat) (t : Slot) : PlanRes :=
  lanePlan w ty.bits t p d fun j =>
    (patN ty.bits (laneVsub ty.bits (lane (t.rv a) ty.bits j) (lane (t.rv b) ty.bits j)), 0)

/-- VSUB (R192). -/
def execVsub (ty : VType) (p : P) (d a b : V) (s : State) : Out :=
  execPlan (.vsub ty p d a b) (planVsub ty p d a b (Config.vecBits s.cur.core) s.me) s

/-- VMUL on e-bit operands (R192, Table 7). -/
def laneVmul (_e x y : Nat) : Int := (x * y : Nat)

/-- VMUL, as a plan. -/
def planVmul (ty : VType) (p : P) (d a b : V) (w : Nat) (t : Slot) : PlanRes :=
  lanePlan w ty.bits t p d fun j =>
    (patN ty.bits (laneVmul ty.bits (lane (t.rv a) ty.bits j) (lane (t.rv b) ty.bits j)), 0)

/-- VMUL (R192). -/
def execVmul (ty : VType) (p : P) (d a b : V) (s : State) : Out :=
  execPlan (.vmul ty p d a b) (planVmul ty p d a b (Config.vecBits s.cur.core) s.me) s

/-- VMULH on e-bit operands (R192, Table 7). -/
def laneVmulh (e x y : Nat) : Int := sextN e x * sextN e y / (2 ^ e : Nat)

/-- VMULH, as a plan. -/
def planVmulh (ty : VType) (p : P) (d a b : V) (w : Nat) (t : Slot) : PlanRes :=
  lanePlan w ty.bits t p d fun j =>
    (patN ty.bits (laneVmulh ty.bits (lane (t.rv a) ty.bits j) (lane (t.rv b) ty.bits j)), 0)

/-- VMULH (R192). -/
def execVmulh (ty : VType) (p : P) (d a b : V) (s : State) : Out :=
  execPlan (.vmulh ty p d a b) (planVmulh ty p d a b (Config.vecBits s.cur.core) s.me) s

/-- VMULHU on e-bit operands (R192, Table 7). -/
def laneVmulhu (e x y : Nat) : Int := (x * y / 2 ^ e : Nat)

/-- VMULHU, as a plan. -/
def planVmulhu (ty : VType) (p : P) (d a b : V) (w : Nat) (t : Slot) : PlanRes :=
  lanePlan w ty.bits t p d fun j =>
    (patN ty.bits (laneVmulhu ty.bits (lane (t.rv a) ty.bits j) (lane (t.rv b) ty.bits j)), 0)

/-- VMULHU (R192). -/
def execVmulhu (ty : VType) (p : P) (d a b : V) (s : State) : Out :=
  execPlan (.vmulhu ty p d a b) (planVmulhu ty p d a b (Config.vecBits s.cur.core) s.me) s

/-- VAND on e-bit operands (R192, Table 7). -/
def laneVand (_e x y : Nat) : Int := (Nat.land x y : Nat)

/-- VAND, as a plan. -/
def planVand (ty : VType) (p : P) (d a b : V) (w : Nat) (t : Slot) : PlanRes :=
  lanePlan w ty.bits t p d fun j =>
    (patN ty.bits (laneVand ty.bits (lane (t.rv a) ty.bits j) (lane (t.rv b) ty.bits j)), 0)

/-- VAND (R192). -/
def execVand (ty : VType) (p : P) (d a b : V) (s : State) : Out :=
  execPlan (.vand ty p d a b) (planVand ty p d a b (Config.vecBits s.cur.core) s.me) s

/-- VOR on e-bit operands (R192, Table 7). -/
def laneVor (_e x y : Nat) : Int := (Nat.lor x y : Nat)

/-- VOR, as a plan. -/
def planVor (ty : VType) (p : P) (d a b : V) (w : Nat) (t : Slot) : PlanRes :=
  lanePlan w ty.bits t p d fun j =>
    (patN ty.bits (laneVor ty.bits (lane (t.rv a) ty.bits j) (lane (t.rv b) ty.bits j)), 0)

/-- VOR (R192). -/
def execVor (ty : VType) (p : P) (d a b : V) (s : State) : Out :=
  execPlan (.vor ty p d a b) (planVor ty p d a b (Config.vecBits s.cur.core) s.me) s

/-- VXOR on e-bit operands (R192, Table 7). -/
def laneVxor (_e x y : Nat) : Int := (Nat.xor x y : Nat)

/-- VXOR, as a plan. -/
def planVxor (ty : VType) (p : P) (d a b : V) (w : Nat) (t : Slot) : PlanRes :=
  lanePlan w ty.bits t p d fun j =>
    (patN ty.bits (laneVxor ty.bits (lane (t.rv a) ty.bits j) (lane (t.rv b) ty.bits j)), 0)

/-- VXOR (R192). -/
def execVxor (ty : VType) (p : P) (d a b : V) (s : State) : Out :=
  execPlan (.vxor ty p d a b) (planVxor ty p d a b (Config.vecBits s.cur.core) s.me) s

/-- VSHL on e-bit operands (R192, Table 7). -/
def laneVshl (e x y : Nat) : Int := (x * 2 ^ (y % e) : Nat)

/-- VSHL, as a plan. -/
def planVshl (ty : VType) (p : P) (d a b : V) (w : Nat) (t : Slot) : PlanRes :=
  lanePlan w ty.bits t p d fun j =>
    (patN ty.bits (laneVshl ty.bits (lane (t.rv a) ty.bits j) (lane (t.rv b) ty.bits j)), 0)

/-- VSHL (R192). -/
def execVshl (ty : VType) (p : P) (d a b : V) (s : State) : Out :=
  execPlan (.vshl ty p d a b) (planVshl ty p d a b (Config.vecBits s.cur.core) s.me) s

/-- VSHR on e-bit operands (R192, Table 7). -/
def laneVshr (e x y : Nat) : Int := (x / 2 ^ (y % e) : Nat)

/-- VSHR, as a plan. -/
def planVshr (ty : VType) (p : P) (d a b : V) (w : Nat) (t : Slot) : PlanRes :=
  lanePlan w ty.bits t p d fun j =>
    (patN ty.bits (laneVshr ty.bits (lane (t.rv a) ty.bits j) (lane (t.rv b) ty.bits j)), 0)

/-- VSHR (R192). -/
def execVshr (ty : VType) (p : P) (d a b : V) (s : State) : Out :=
  execPlan (.vshr ty p d a b) (planVshr ty p d a b (Config.vecBits s.cur.core) s.me) s

/-- VSAR on e-bit operands (R192, Table 7). -/
def laneVsar (e x y : Nat) : Int := sextN e x / (2 ^ (y % e) : Nat)

/-- VSAR, as a plan. -/
def planVsar (ty : VType) (p : P) (d a b : V) (w : Nat) (t : Slot) : PlanRes :=
  lanePlan w ty.bits t p d fun j =>
    (patN ty.bits (laneVsar ty.bits (lane (t.rv a) ty.bits j) (lane (t.rv b) ty.bits j)), 0)

/-- VSAR (R192). -/
def execVsar (ty : VType) (p : P) (d a b : V) (s : State) : Out :=
  execPlan (.vsar ty p d a b) (planVsar ty p d a b (Config.vecBits s.cur.core) s.me) s

/-- VMIN on e-bit operands (R192, Table 7). -/
def laneVmin (e x y : Nat) : Int := min (sextN e x) (sextN e y)

/-- VMIN, as a plan. -/
def planVmin (ty : VType) (p : P) (d a b : V) (w : Nat) (t : Slot) : PlanRes :=
  lanePlan w ty.bits t p d fun j =>
    (patN ty.bits (laneVmin ty.bits (lane (t.rv a) ty.bits j) (lane (t.rv b) ty.bits j)), 0)

/-- VMIN (R192). -/
def execVmin (ty : VType) (p : P) (d a b : V) (s : State) : Out :=
  execPlan (.vmin ty p d a b) (planVmin ty p d a b (Config.vecBits s.cur.core) s.me) s

/-- VMINU on e-bit operands (R192, Table 7). -/
def laneVminu (_e x y : Nat) : Int := (Nat.min x y : Nat)

/-- VMINU, as a plan. -/
def planVminu (ty : VType) (p : P) (d a b : V) (w : Nat) (t : Slot) : PlanRes :=
  lanePlan w ty.bits t p d fun j =>
    (patN ty.bits (laneVminu ty.bits (lane (t.rv a) ty.bits j) (lane (t.rv b) ty.bits j)), 0)

/-- VMINU (R192). -/
def execVminu (ty : VType) (p : P) (d a b : V) (s : State) : Out :=
  execPlan (.vminu ty p d a b) (planVminu ty p d a b (Config.vecBits s.cur.core) s.me) s

/-- VMAX on e-bit operands (R192, Table 7). -/
def laneVmax (e x y : Nat) : Int := max (sextN e x) (sextN e y)

/-- VMAX, as a plan. -/
def planVmax (ty : VType) (p : P) (d a b : V) (w : Nat) (t : Slot) : PlanRes :=
  lanePlan w ty.bits t p d fun j =>
    (patN ty.bits (laneVmax ty.bits (lane (t.rv a) ty.bits j) (lane (t.rv b) ty.bits j)), 0)

/-- VMAX (R192). -/
def execVmax (ty : VType) (p : P) (d a b : V) (s : State) : Out :=
  execPlan (.vmax ty p d a b) (planVmax ty p d a b (Config.vecBits s.cur.core) s.me) s

/-- VMAXU on e-bit operands (R192, Table 7). -/
def laneVmaxu (_e x y : Nat) : Int := (Nat.max x y : Nat)

/-- VMAXU, as a plan. -/
def planVmaxu (ty : VType) (p : P) (d a b : V) (w : Nat) (t : Slot) : PlanRes :=
  lanePlan w ty.bits t p d fun j =>
    (patN ty.bits (laneVmaxu ty.bits (lane (t.rv a) ty.bits j) (lane (t.rv b) ty.bits j)), 0)

/-- VMAXU (R192). -/
def execVmaxu (ty : VType) (p : P) (d a b : V) (s : State) : Out :=
  execPlan (.vmaxu ty p d a b) (planVmaxu ty p d a b (Config.vecBits s.cur.core) s.me) s

/-- VADDS, as a plan: clamped to the signed range. -/
def planVadds (ty : VType) (p : P) (d a b : V) (w : Nat) (t : Slot) : PlanRes :=
  lanePlan w ty.bits t p d fun j => clampN ty.bits false (sextN ty.bits (lane (t.rv a) ty.bits j) + sextN ty.bits (lane (t.rv b) ty.bits j))

/-- VADDS (R192, R55). -/
def execVadds (ty : VType) (p : P) (d a b : V) (s : State) : Out :=
  execPlan (.vadds ty p d a b) (planVadds ty p d a b (Config.vecBits s.cur.core) s.me) s

/-- VADDSU, as a plan: clamped to the unsigned range. -/
def planVaddsu (ty : VType) (p : P) (d a b : V) (w : Nat) (t : Slot) : PlanRes :=
  lanePlan w ty.bits t p d fun j => clampN ty.bits true ((lane (t.rv a) ty.bits j : Int) + (lane (t.rv b) ty.bits j : Int))

/-- VADDSU (R192, R55). -/
def execVaddsu (ty : VType) (p : P) (d a b : V) (s : State) : Out :=
  execPlan (.vaddsu ty p d a b) (planVaddsu ty p d a b (Config.vecBits s.cur.core) s.me) s

/-- VSUBS, as a plan: clamped to the signed range. -/
def planVsubs (ty : VType) (p : P) (d a b : V) (w : Nat) (t : Slot) : PlanRes :=
  lanePlan w ty.bits t p d fun j => clampN ty.bits false (sextN ty.bits (lane (t.rv a) ty.bits j) - sextN ty.bits (lane (t.rv b) ty.bits j))

/-- VSUBS (R192, R55). -/
def execVsubs (ty : VType) (p : P) (d a b : V) (s : State) : Out :=
  execPlan (.vsubs ty p d a b) (planVsubs ty p d a b (Config.vecBits s.cur.core) s.me) s

/-- VSUBSU, as a plan: clamped to the unsigned range. -/
def planVsubsu (ty : VType) (p : P) (d a b : V) (w : Nat) (t : Slot) : PlanRes :=
  lanePlan w ty.bits t p d fun j => clampN ty.bits true ((lane (t.rv a) ty.bits j : Int) - (lane (t.rv b) ty.bits j : Int))

/-- VSUBSU (R192, R55). -/
def execVsubsu (ty : VType) (p : P) (d a b : V) (s : State) : Out :=
  execPlan (.vsubsu ty p d a b) (planVsubsu ty p d a b (Config.vecBits s.cur.core) s.me) s

/-- VABS, as a plan: −2^(e−1) gives itself. -/
def planVabs (ty : VType) (p : P) (d a : V) (w : Nat) (t : Slot) : PlanRes :=
  lanePlan w ty.bits t p d fun j => (patN ty.bits (sextN ty.bits (lane (t.rv a) ty.bits j)).natAbs, 0)

/-- VABS (R192). -/
def execVabs (ty : VType) (p : P) (d a : V) (s : State) : Out :=
  execPlan (.vabs ty p d a) (planVabs ty p d a (Config.vecBits s.cur.core) s.me) s

/-- VCMP, as a plan: the integer conditions at width e. -/
def planVcmp (ty : VType) (cond : Cond) (p d : P) (a b : V) (w : Nat) (t : Slot) : PlanRes :=
  predPlan w ty.bits t p d fun j => (condHolds cond ty.bits (lane (t.rv a) ty.bits j) (lane (t.rv b) ty.bits j), 0)

/-- VCMP (R191). -/
def execVcmp (ty : VType) (cond : Cond) (p d : P) (a b : V) (s : State) : Out :=
  execPlan (.vcmp ty cond p d a b) (planVcmp ty cond p d a b (Config.vecBits s.cur.core) s.me) s

/-! ## Conversion and LNS6 (R193 to R196) -/

/-- One element converted (R62). -/
def convertElem (src dst : VType) (fromU toU : Bool) (rm : RMode) (x : Nat) : Nat × Fl :=
  if src.isFp then
    if dst.isFp then fpToFp (fmtOf src) (fmtOf dst) rm x else fpToInt (fmtOf src) rm dst.bits toU x
  else
    let v : Int := if fromU then (x % 2 ^ src.bits : Nat) else sextN src.bits x
    if dst.isFp then intToFp (fmtOf dst) rm v else (patN dst.bits v, 0)

/-- VCVT, as a plan: the narrow side uses the lanes of group `part`; other lanes of v[d] keep their values. -/
def planVcvt (ty src : VType) (toU fromU : Bool) (part rm : Fin 8) (p : P) (d a : V) (w : Nat) (t : Slot) : PlanRes :=
  let es := src.bits
  let ed := ty.bits
  let wide := Nat.max es ed
  let m := w / wide
  let pr := t.rp w p
  let js := (List.range m).filter fun j => active pr wide j
  let rs := js.map fun j =>
    let x := if es > ed then lane (t.rv a) es j else lane (t.rv a) es (part.val * m + j)
    ((if es > ed then part.val * m + j else j), convertElem src ty fromU toU (rmFor t rm) x)
  .ok { writes := [.v d (putLanes (t.rv d) ed (rs.map fun r => (r.1, r.2.1)))], fl := rs.foldl (fun acc r => acc ||| r.2.2) 0 }

/-- VCVT (R193, R62). -/
def execVcvt (ty src : VType) (toU fromU : Bool) (part rm : Fin 8) (p : P) (d a : V) (s : State) : Out :=
  execPlan (.vcvt ty src toU fromU part rm p d a) (planVcvt ty src toU fromU part rm p d a (Config.vecBits s.cur.core) s.me) s

/-- The block scale operand of VQLNS, VDQLNS and VSTT: −127 to 127, or the data fault 0x03. -/
def scaleOperand (x : Word) : Except Trap Int :=
  if x.toInt < -127 || x.toInt > 127 then .error ⟨6, cData, 0x03, 0⟩ else .ok x.toInt

/-- VQLNS, as a plan. -/
def planVqlns (part : Fin 8) (p : P) (d a : V) (b : G) (w : Nat) (t : Slot) : PlanRes :=
  match scaleOperand (t.rg b) with
  | .error x => .error x
  | .ok sc =>
    let rs := (activeLanes w 32 t p a).map fun x => (part.val * (w / 32) + x.1, quantL6 x.2 sc)
    .ok { writes := [.v d (putLanes (t.rv d) 8 (rs.map fun r => (r.1, r.2.1)))], fl := rs.foldl (fun acc r => acc ||| r.2.2) 0 }

/-- VQLNS (R194, R67). -/
def execVqlns (part : Fin 8) (p : P) (d a : V) (b : G) (s : State) : Out :=
  execPlan (.vqlns part p d a b) (planVqlns part p d a b (Config.vecBits s.cur.core) s.me) s

/-- VDQLNS, as a plan. -/
def planVdqlns (part rm : Fin 8) (p : P) (d a : V) (b : G) (w : Nat) (t : Slot) : PlanRes :=
  match scaleOperand (t.rg b) with
  | .error x => .error x
  | .ok sc =>
    lanePlan w 32 t p d fun j => dequantL6 (rmFor t rm) (lane (t.rv a) 8 (part.val * (w / 32) + j) % 64) sc

/-- VDQLNS (R195, R68). -/
def execVdqlns (part rm : Fin 8) (p : P) (d a : V) (b : G) (s : State) : Out :=
  execPlan (.vdqlns part rm p d a b) (planVdqlns part rm p d a b (Config.vecBits s.cur.core) s.me) s

/-- VBMAX, as a plan. -/
def planVbmax (ty : VType) (p : P) (d : G) (a : V) (w : Nat) (t : Slot) : PlanRes :=
  .ok { writes := [.g d (ofInt (scaleOf (fmtOf ty) ((activeLanes w ty.bits t p a).map (·.2))))] }

/-- VBMAX (R196, R69). -/
def execVbmax (ty : VType) (p : P) (d : G) (a : V) (s : State) : Out :=
  execPlan (.vbmax ty p d a) (planVbmax ty p d a (Config.vecBits s.cur.core) s.me) s

/-! ## Predicates (R197 to R200) -/

/-- VWHILE, as a plan: element j is true when g[a] + j < g[b], both signed, the sum exact. -/
def planVwhile (ty : VType) (d : P) (a b : G) (w : Nat) (t : Slot) : PlanRes :=
  .ok { writes := [.p d (mkPred ty.bits (w / ty.bits) fun j => (t.rg a).toInt + j < (t.rg b).toInt)] }

/-- VWHILE (R197). -/
def execVwhile (ty : VType) (d : P) (a b : G) (s : State) : Out :=
  execPlan (.vwhile ty d a b) (planVwhile ty d a b (Config.vecBits s.cur.core) s.me) s

/-- PAND, as a plan. -/
def planPand (p d a b : P) (w : Nat) (t : Slot) : PlanRes :=
  .ok { writes := [.p d ((t.rp w a &&& t.rp w b) &&& t.rp w p)] }

/-- PAND (R198). -/
def execPand (p d a b : P) (s : State) : Out :=
  execPlan (.pand p d a b) (planPand p d a b (Config.vecBits s.cur.core) s.me) s

/-- POR, as a plan. -/
def planPor (p d a b : P) (w : Nat) (t : Slot) : PlanRes :=
  .ok { writes := [.p d ((t.rp w a ||| t.rp w b) &&& t.rp w p)] }

/-- POR (R198). -/
def execPor (p d a b : P) (s : State) : Out :=
  execPlan (.por p d a b) (planPor p d a b (Config.vecBits s.cur.core) s.me) s

/-- PXOR, as a plan. -/
def planPxor (p d a b : P) (w : Nat) (t : Slot) : PlanRes :=
  .ok { writes := [.p d ((t.rp w a ^^^ t.rp w b) &&& t.rp w p)] }

/-- PXOR (R198). -/
def execPxor (p d a b : P) (s : State) : Out :=
  execPlan (.pxor p d a b) (planPxor p d a b (Config.vecBits s.cur.core) s.me) s

/-- PNOT, as a plan: on the engine's w/8 bits. -/
def planPnot (p d a : P) (w : Nat) (t : Slot) : PlanRes :=
  .ok { writes := [.p d ((~~~(t.rp w a) &&& allTrue w) &&& t.rp w p)] }

/-- PNOT (R198). -/
def execPnot (p d a : P) (s : State) : Out :=
  execPlan (.pnot p d a) (planPnot p d a (Config.vecBits s.cur.core) s.me) s

/-- Number of elements active under both predicates. -/
def countActive (w e : Nat) (x y : BitVec 256) : Nat :=
  ((List.range (w / e)).filter fun j => active x e j && active y e j).length

/-- PCNT, as a plan. -/
def planPcnt (ty : VType) (p : P) (d : G) (a : P) (w : Nat) (t : Slot) : PlanRes :=
  .ok { writes := [.g d (BitVec.ofNat 64 (countActive w ty.bits (t.rp w a) (t.rp w p)))] }

/-- PCNT (R199). -/
def execPcnt (ty : VType) (p : P) (d : G) (a : P) (s : State) : Out :=
  execPlan (.pcnt ty p d a) (planPcnt ty p d a (Config.vecBits s.cur.core) s.me) s

/-- VQLEN, as a plan. -/
def planVqlen (ty : VType) (d : G) (w : Nat) : PlanRes := .ok { writes := [.g d (BitVec.ofNat 64 (w / ty.bits))] }

/-- VQLEN (R200). -/
def execVqlen (ty : VType) (d : G) (s : State) : Out :=
  execPlan (.vqlen ty d) (planVqlen ty d (Config.vecBits s.cur.core)) s

/-! ## Moves, permutes and the non-zero scan (R201 to R203) -/

/-- VMOV, as a plan. -/
def planVmov (ty : VType) (p : P) (d a : V) (w : Nat) (t : Slot) : PlanRes :=
  lanePlan w ty.bits t p d fun j => (lane (t.rv a) ty.bits j, 0)

/-- VMOV (R201). -/
def execVmov (ty : VType) (p : P) (d a : V) (s : State) : Out :=
  execPlan (.vmov ty p d a) (planVmov ty p d a (Config.vecBits s.cur.core) s.me) s

/-- VDUP, as a plan. -/
def planVdup (ty : VType) (p : P) (d : V) (a : G) (w : Nat) (t : Slot) : PlanRes :=
  lanePlan w ty.bits t p d fun _ => ((t.rg a).toNat % 2 ^ ty.bits, 0)

/-- VDUP (R201). -/
def execVdup (ty : VType) (p : P) (d : V) (a : G) (s : State) : Out :=
  execPlan (.vdup ty p d a) (planVdup ty p d a (Config.vecBits s.cur.core) s.me) s

/-- An element as a 64-bit result: sign-extended for integer types, zero-extended for floating-point ones. -/
def elemWord (ty : VType) (x : Nat) : Word := if ty.isInt then ofInt (sextN ty.bits x) else BitVec.ofNat 64 x

/-- VEXT, as a plan: 0 for an index outside 0 to N − 1. -/
def planVext (ty : VType) (d : G) (a : V) (b : G) (w : Nat) (t : Slot) : PlanRes :=
  let i := (t.rg b).toInt
  .ok { writes := [.g d (if 0 ≤ i && i < (w / ty.bits : Nat) then elemWord ty (lane (t.rv a) ty.bits i.toNat) else 0)] }

/-- VEXT (R201). -/
def execVext (ty : VType) (d : G) (a : V) (b : G) (s : State) : Out :=
  execPlan (.vext ty d a b) (planVext ty d a b (Config.vecBits s.cur.core) s.me) s

/-- VPERM, as a plan. -/
def planVperm (ty : VType) (p : P) (d a b : V) (w : Nat) (t : Slot) : PlanRes :=
  lanePlan w ty.bits t p d fun j =>
    let i := lane (t.rv b) ty.bits j
    (if i < w / ty.bits then lane (t.rv a) ty.bits i else 0, 0)

/-- VPERM (R201). -/
def execVperm (ty : VType) (p : P) (d a b : V) (s : State) : Out :=
  execPlan (.vperm ty p d a b) (planVperm ty p d a b (Config.vecBits s.cur.core) s.me) s

/-- VSLIDE, as a plan. -/
def planVslide (ty : VType) (p : P) (d a : V) (b : G) (w : Nat) (t : Slot) : PlanRes :=
  lanePlan w ty.bits t p d fun j =>
    let i := (t.rg b).toInt + j
    (if 0 ≤ i && i < (w / ty.bits : Nat) then lane (t.rv a) ty.bits i.toNat else 0, 0)

/-- VSLIDE (R201). -/
def execVslide (ty : VType) (p : P) (d a : V) (b : G) (s : State) : Out :=
  execPlan (.vslide ty p d a b) (planVslide ty p d a b (Config.vecBits s.cur.core) s.me) s

/-- VCOMPRESS, as a plan: it writes its whole destination. -/
def planVcompress (ty : VType) (p : P) (d a : V) (w : Nat) (t : Slot) : PlanRes :=
  .ok { writes := [.v d (BitVec.ofNat 2048 (packLanes ty.bits ((activeLanes w ty.bits t p a).map (·.2))))] }

/-- VCOMPRESS (R202). -/
def execVcompress (ty : VType) (p : P) (d a : V) (s : State) : Out :=
  execPlan (.vcompress ty p d a) (planVcompress ty p d a (Config.vecBits s.cur.core) s.me) s

/-- An element is nonzero: for floating-point types neither +0 nor −0 (R203). -/
def elemNonzero (ty : VType) (x : Nat) : Bool := if ty.isFp then x % 2 ^ (ty.bits - 1) != 0 else x != 0

/-- VNZX, as a plan: the indices of the active nonzero elements of one group of lanes, and their number. -/
def planVnzx (ty : VType) (part : Fin 8) (p : P) (d a : V) (b c : G) (w : Nat) (t : Slot) : PlanRes :=
  let m := Nat.min (w / ty.bits) (w / 32)
  let pr := t.rp w p
  let js := ((List.range m).map fun i => part.val * m + i).filter fun j =>
    active pr ty.bits j && elemNonzero ty (lane (t.rv a) ty.bits j)
  .ok { writes := [.v d (BitVec.ofNat 2048 (packLanes 32 (js.map fun j => (t.rg b).toNat + j))),
                   .g c (BitVec.ofNat 64 js.length)] }

/-- VNZX (R203). -/
def execVnzx (ty : VType) (part : Fin 8) (p : P) (d a : V) (b c : G) (s : State) : Out :=
  execPlan (.vnzx ty part p d a b c) (planVnzx ty part p d a b c (Config.vecBits s.cur.core) s.me) s

/-- VSEL, as a plan. -/
def planVsel (ty : VType) (p : P) (d a b : V) (c : P) (w : Nat) (t : Slot) : PlanRes :=
  lanePlan w ty.bits t p d fun j =>
    (if active (t.rp w c) ty.bits j then lane (t.rv a) ty.bits j else lane (t.rv b) ty.bits j, 0)

/-- VSEL (R201). -/
def execVsel (ty : VType) (p : P) (d a b : V) (c : P) (s : State) : Out :=
  execPlan (.vsel ty p d a b c) (planVsel ty p d a b c (Config.vecBits s.cur.core) s.me) s

/-! ## Reductions (R204, R79) -/

/-- One level of the pairwise tree: element 2i is added to element 2i + 1. -/
def addPairs (f : Nat → Nat → Nat × Fl) : List Nat → List Nat × Fl
  | x :: y :: t =>
    let r := f x y
    let q := addPairs f t
    (r.1 :: q.1, r.2 ||| q.2)
  | l => (l, 0)

/-- The pairwise tree over a power of two of elements (R79). -/
def treeSum (f : Nat → Nat → Nat × Fl) : Nat → List Nat → Nat × Fl
  | 0, l => (l.headD 0, 0)
  | n + 1, l =>
    let r := addPairs f l
    let q := treeSum f n r.1
    (q.1, r.2 ||| q.2)

/-- Elements of a register with inactive lanes as zero (R79). -/
def zeroedLanes (w e : Nat) (t : Slot) (p : P) (a : V) : List Nat :=
  let pr := t.rp w p
  (List.range (w / e)).map fun j => if active pr e j then lane (t.rv a) e j else 0

/-- VRADD, as a plan. -/
def planVradd (ty : VType) (rm : Fin 8) (p : P) (d : G) (a : V) (w : Nat) (t : Slot) : PlanRes :=
  let add := fun x y => if ty.isFp then fpAdd (fmtOf ty) (rmFor t rm) x y else (patN ty.bits (x + y : Nat), 0)
  let r := treeSum add (Nat.log2 (w / ty.bits)) (zeroedLanes w ty.bits t p a)
  .ok { writes := [.g d (elemWord ty r.1)], fl := r.2 }

/-- VRADD (R204). -/
def execVradd (ty : VType) (rm : Fin 8) (p : P) (d : G) (a : V) (s : State) : Out :=
  execPlan (.vradd ty rm p d a) (planVradd ty rm p d a (Config.vecBits s.cur.core) s.me) s

/-- VRADDO, as a plan: active lanes in ascending order, rounded after each addition. -/
def planVraddo (ty : VType) (rm : Fin 8) (p : P) (d : G) (a : V) (b : G) (w : Nat) (t : Slot) : PlanRes :=
  let r := (activeLanes w ty.bits t p a).foldl (fun acc x =>
    let q := fpAdd (fmtOf ty) (rmFor t rm) acc.1 x.2
    (q.1, acc.2 ||| q.2)) ((t.rg b).toNat % 2 ^ ty.bits, (0 : Fl))
  .ok { writes := [.g d (BitVec.ofNat 64 r.1)], fl := r.2 }

/-- VRADDO (R204). -/
def execVraddo (ty : VType) (rm : Fin 8) (p : P) (d : G) (a : V) (b : G) (s : State) : Out :=
  execPlan (.vraddo ty rm p d a b) (planVraddo ty rm p d a b (Config.vecBits s.cur.core) s.me) s

/-- Minimum or maximum of floating-point elements (R204): ±∞ for none, the default NaN when every one is NaN. -/
def fpReduce (f : Fmt) (isMax : Bool) (xs : List Nat) : Nat × Fl :=
  let nums := xs.filter fun x => !(f.dec x).isNaN
  let fl := Fl.when (xs.any fun x => (f.dec x).isSig) Fl.nv
  match nums with
  | [] => (if xs.isEmpty then f.inf isMax else f.defNaN, fl)
  | x :: t => (t.foldl (fun acc y => (fpMinMax f isMax acc y).1) x, fl)

/-- Minimum or maximum of integer elements (R204): the type's largest or smallest value for none. -/
def intReduce (e : Nat) (isMax uns : Bool) (xs : List Nat) : Int :=
  let rd := fun x => if uns then ((x % 2 ^ e : Nat) : Int) else sextN e x
  let lo : Int := if uns then 0 else -(2 ^ (e - 1) : Nat)
  let hi : Int := if uns then (2 ^ e : Nat) - 1 else (2 ^ (e - 1) : Nat) - 1
  (xs.map rd).foldl (fun acc x => if isMax then max acc x else min acc x) (if isMax then lo else hi)

/-- The mould of VRMIN, VRMINU, VRMAX and VRMAXU. -/
def reducePlan (isMax uns : Bool) (ty : VType) (p : P) (d : G) (a : V) (w : Nat) (t : Slot) : PlanRes :=
  let xs := (activeLanes w ty.bits t p a).map (·.2)
  if ty.isFp then
    let r := fpReduce (fmtOf ty) isMax xs
    .ok { writes := [.g d (BitVec.ofNat 64 r.1)], fl := r.2 }
  else .ok { writes := [.g d (ofInt (intReduce ty.bits isMax uns xs))] }

/-- VRMIN, as a plan. -/
def planVrmin (ty : VType) (p : P) (d : G) (a : V) (w : Nat) (t : Slot) : PlanRes := reducePlan false false ty p d a w t

/-- VRMIN (R204). -/
def execVrmin (ty : VType) (p : P) (d : G) (a : V) (s : State) : Out :=
  execPlan (.vrmin ty p d a) (planVrmin ty p d a (Config.vecBits s.cur.core) s.me) s

/-- VRMINU, as a plan. -/
def planVrminu (ty : VType) (p : P) (d : G) (a : V) (w : Nat) (t : Slot) : PlanRes := reducePlan false true ty p d a w t

/-- VRMINU (R204). -/
def execVrminu (ty : VType) (p : P) (d : G) (a : V) (s : State) : Out :=
  execPlan (.vrminu ty p d a) (planVrminu ty p d a (Config.vecBits s.cur.core) s.me) s

/-- VRMAX, as a plan. -/
def planVrmax (ty : VType) (p : P) (d : G) (a : V) (w : Nat) (t : Slot) : PlanRes := reducePlan true false ty p d a w t

/-- VRMAX (R204). -/
def execVrmax (ty : VType) (p : P) (d : G) (a : V) (s : State) : Out :=
  execPlan (.vrmax ty p d a) (planVrmax ty p d a (Config.vecBits s.cur.core) s.me) s

/-- VRMAXU, as a plan. -/
def planVrmaxu (ty : VType) (p : P) (d : G) (a : V) (w : Nat) (t : Slot) : PlanRes := reducePlan true true ty p d a w t

/-- VRMAXU (R204). -/
def execVrmaxu (ty : VType) (p : P) (d : G) (a : V) (s : State) : Out :=
  execPlan (.vrmaxu ty p d a) (planVrmaxu ty p d a (Config.vecBits s.cur.core) s.me) s

end Sys2Proof.Machine
end

