-- ==== Sys2Proof/Machine/VecMem.lean ====
section
/-!
DEFINITION. Vector memory (R205 to R207), the issue distances (R123, R186), and PAIR (R40 to R43), which joins the plans of its two
halves.
-/
namespace Sys2Proof.Machine

/-- The plan of a vector access with the given element offsets (R205). -/
def vecAccess (op : AccOp) (done : Done) (posted : Bool) (sg : BitVec 128) (elems : List (Nat × Int)) (e : Nat) (m : Mem) : PlanRes :=
  .ok { mem := some { op, done, sg, elems, n := e / 8, al := e / 8, reg := false, posted, ord := m.ord != .plain }, release := memRelease m }

/-- The active lanes under p0 to p7 (R182). -/
def activeIdx (w e : Nat) (t : Slot) (p : P) : List Nat :=
  let pr := t.rp w p
  (List.range (w / e)).filter fun j => active pr e j

/-- Offset of lane j of VLD and VST (R205). -/
def laneOffset (t : Slot) (a : G) (m : Mem) (e j : Nat) : Int := memOffset (t.rg a) ((j * (e / 8) : Nat) : Int) m.disp

/-- Offset of lane j of VLDG and VSTS: the index is unsigned at width e (R205). -/
def gatherOffset (t : Slot) (a : G) (b : V) (m : Mem) (e j : Nat) : Int :=
  memOffset (t.rg a) ((lane (t.rv b) e j * (e / 8) : Nat) : Int) m.disp

/-- VLD, as a plan. -/
def planVld (ty : VType) (p : P) (sg : S) (d : V) (a : G) (m : Mem) (w : Nat) (t : Slot) : PlanRes :=
  vecAccess .load (.lanes d ty.bits) false t.s[sg]
    ((activeIdx w ty.bits t p).map fun j => (j, laneOffset t a m ty.bits j)) ty.bits m

/-- VLD (R205, R207). -/
def execVld (ty : VType) (p : P) (sg : S) (d : V) (a : G) (m : Mem) (s : State) : Out :=
  execPlan (.vld ty p sg d a m) (planVld ty p sg d a m (Config.vecBits s.cur.core) s.me) s

/-- VST, as a plan. -/
def planVst (ty : VType) (p : P) (sg : S) (d : V) (a : G) (m : Mem) (w : Nat) (t : Slot) : PlanRes :=
  let js := activeIdx w ty.bits t p
  vecAccess (.store (js.map fun j => (j, lane (t.rv d) ty.bits j))) .none true t.s[sg]
    (js.map fun j => (j, laneOffset t a m ty.bits j)) ty.bits m

/-- VST (R205, R207). -/
def execVst (ty : VType) (p : P) (sg : S) (d : V) (a : G) (m : Mem) (s : State) : Out :=
  execPlan (.vst ty p sg d a m) (planVst ty p sg d a m (Config.vecBits s.cur.core) s.me) s

/-- VLDG, as a plan. -/
def planVldg (ty : VType) (p : P) (sg : S) (d : V) (a : G) (b : V) (m : Mem) (w : Nat) (t : Slot) : PlanRes :=
  vecAccess .load (.lanes d ty.bits) false t.s[sg]
    ((activeIdx w ty.bits t p).map fun j => (j, gatherOffset t a b m ty.bits j)) ty.bits m

/-- VLDG (R205, R207). -/
def execVldg (ty : VType) (p : P) (sg : S) (d : V) (a : G) (b : V) (m : Mem) (s : State) : Out :=
  execPlan (.vldg ty p sg d a b m) (planVldg ty p sg d a b m (Config.vecBits s.cur.core) s.me) s

/-- VSTS, as a plan: its elements are written in ascending lane order (R207). -/
def planVsts (ty : VType) (p : P) (sg : S) (d : V) (a : G) (b : V) (m : Mem) (w : Nat) (t : Slot) : PlanRes :=
  let js := activeIdx w ty.bits t p
  vecAccess (.store (js.map fun j => (j, lane (t.rv d) ty.bits j))) .none true t.s[sg]
    (js.map fun j => (j, gatherOffset t a b m ty.bits j)) ty.bits m

/-- VSTS (R205, R207). -/
def execVsts (ty : VType) (p : P) (sg : S) (d : V) (a : G) (b : V) (m : Mem) (s : State) : Out :=
  execPlan (.vsts ty p sg d a b m) (planVsts ty p sg d a b m (Config.vecBits s.cur.core) s.me) s

/-- VLDT, as a plan: one 64-byte line with its typed bit. -/
def planVldt (sg : S) (d : V) (a b : G) (m : Mem) (t : Slot) : PlanRes :=
  .ok { mem := some { op := .tload, done := .typed d b, sg := t.s[sg], elems := [(0, memOffset (t.rg a) 0 m.disp)],
                      n := 64, al := 64, reg := false, posted := false, ord := m.ord != .plain }, release := memRelease m }

/-- VLDT (R206). -/
def execVldt (sg : S) (d : V) (a b : G) (m : Mem) (s : State) : Out := execPlan (.vldt sg d a b m) (planVldt sg d a b m s.me) s

/-- The line that VSTT writes: K = min(80, w/8) elements from the byte lanes (R206). -/
def vsttLine (w : Nat) (x : BitVec 2048) (scale : Int) : Nat :=
  mkDense scale fun i => if i < min 80 (w / 8) then lane x 8 i % 64 else 0

/-- VSTT, as a plan: the data fault of a bad scale stands after the memory checks (R139). -/
def planVstt (sg : S) (d : V) (a b : G) (m : Mem) (w : Nat) (t : Slot) : PlanRes :=
  let sc := scaleOperand (t.rg b)
  .ok { mem := some { op := .tstore (vsttLine w (t.rv d) (sc.toOption.getD 0)), done := .none, sg := t.s[sg],
                      elems := [(0, memOffset (t.rg a) 0 m.disp)], n := 64, al := 64, reg := false, posted := true, ord := m.ord != .plain },
        release := memRelease m,
        late := match sc with
          | .error x => some x
          | .ok _ => none }

/-- VSTT (R206). -/
def execVstt (sg : S) (d : V) (a b : G) (m : Mem) (s : State) : Out :=
  execPlan (.vstt sg d a b m) (planVstt sg d a b m (Config.vecBits s.cur.core) s.me) s

/-! ## Pairs -/

/-- EXIT as the scalar half of a pair (R43): the thread ends after the vector half has completed. -/
def planExit : PlanRes := .ok { next := .exit }

/-- The plan of any operation that may stand in a pair (R42). Other instructions have none. -/
def planOf (i : Instr) (w : Nat) (t : Slot) : Option PlanRes :=
  match i with

  | .add x d a b => planAdd x d a b t
  | .addImm x d a imm => planAddImm x d a imm t
  | .sub x d a b => planSub x d a b t
  | .subImm x d a imm => planSubImm x d a imm t
  | .mul x d a b => planMul x d a b t
  | .mulImm x d a imm => planMulImm x d a imm t
  | .mulh x d a b => planMulh x d a b t
  | .mulhImm x d a imm => planMulhImm x d a imm t
  | .mulhu x d a b => planMulhu x d a b t
  | .mulhuImm x d a imm => planMulhuImm x d a imm t
  | .div x d a b => planDiv x d a b t
  | .divImm x d a imm => planDivImm x d a imm t
  | .divu x d a b => planDivu x d a b t
  | .divuImm x d a imm => planDivuImm x d a imm t
  | .rem x d a b => planRem x d a b t
  | .remImm x d a imm => planRemImm x d a imm t
  | .remu x d a b => planRemu x d a b t
  | .remuImm x d a imm => planRemuImm x d a imm t
  | .and x d a b => planAnd x d a b t
  | .andImm x d a imm => planAndImm x d a imm t
  | .or x d a b => planOr x d a b t
  | .orImm x d a imm => planOrImm x d a imm t
  | .xor x d a b => planXor x d a b t
  | .xorImm x d a imm => planXorImm x d a imm t
  | .andn x d a b => planAndn x d a b t
  | .andnImm x d a imm => planAndnImm x d a imm t
  | .orn x d a b => planOrn x d a b t
  | .ornImm x d a imm => planOrnImm x d a imm t
  | .shl x d a b => planShl x d a b t
  | .shlImm x d a imm => planShlImm x d a imm t
  | .shr x d a b => planShr x d a b t
  | .shrImm x d a imm => planShrImm x d a imm t
  | .sar x d a b => planSar x d a b t
  | .sarImm x d a imm => planSarImm x d a imm t
  | .rol x d a b => planRol x d a b t
  | .rolImm x d a imm => planRolImm x d a imm t
  | .ror x d a b => planRor x d a b t
  | .rorImm x d a imm => planRorImm x d a imm t
  | .min x d a b => planMin x d a b t
  | .minImm x d a imm => planMinImm x d a imm t
  | .minu x d a b => planMinu x d a b t
  | .minuImm x d a imm => planMinuImm x d a imm t
  | .max x d a b => planMax x d a b t
  | .maxImm x d a imm => planMaxImm x d a imm t
  | .maxu x d a b => planMaxu x d a b t
  | .maxuImm x d a imm => planMaxuImm x d a imm t
  | .clz x d a => planClz x d a t
  | .ctz x d a => planCtz x d a t
  | .popc x d a => planPopc x d a t
  | .mov x d a => planMov x d a t
  | .bfx x d a b c => planBfx x d a b c t
  | .bfi x d a b c => planBfi x d a b c t
  | .sel x d a b c => planSel x d a b c t
  | .selImm x d a c imm => planSelImm x d a c imm t
  | .li d imm => planLi d imm
  | .cmp cond sk a b => planCmp cond sk a b t
  | .cmpi cond sk a imm => planCmpi cond sk a imm t
  | .b off => planB off t
  | .bl d off => planBl d off t
  | .bi a => planBi a t
  | .bli d a => planBli d a t
  | .nop => planNop
  | .exit => planExit
  | .ld x sg d a m => planLd x sg d a m t
  | .st x sg d a m => planSt x sg d a m t
  | .ldx x sg d a b m => planLdx x sg d a b m t
  | .stx x sg d a b m => planStx x sg d a b m t
  | .aadd x sg d a b m => planAadd x sg d a b m t
  | .aand x sg d a b m => planAand x sg d a b m t
  | .aor x sg d a b m => planAor x sg d a b m t
  | .axor x sg d a b m => planAxor x sg d a b m t
  | .amin x sg d a b m => planAmin x sg d a b m t
  | .amax x sg d a b m => planAmax x sg d a b m t
  | .aswp x sg d a b m => planAswp x sg d a b m t
  | .acas x sg d a b c m => planAcas x sg d a b c m t
  | .fence sc => planFence sc
  | .fencex sc p1 p2 => planFencex sc p1 p2
  | .vfadd ty rm p d a b => planVfadd ty rm p d a b w t
  | .vfsub ty rm p d a b => planVfsub ty rm p d a b w t
  | .vfmul ty rm p d a b => planVfmul ty rm p d a b w t
  | .vfdiv ty rm p d a b => planVfdiv ty rm p d a b w t
  | .vfma ty rm p d a b c => planVfma ty rm p d a b c w t
  | .vfms ty rm p d a b c => planVfms ty rm p d a b c w t
  | .vfnma ty rm p d a b c => planVfnma ty rm p d a b c w t
  | .vfsqrt ty rm p d a => planVfsqrt ty rm p d a w t
  | .vfrcp ty rm p d a => planVfrcp ty rm p d a w t
  | .vfrsq ty rm p d a => planVfrsq ty rm p d a w t
  | .vfmin ty p d a b => planVfmin ty p d a b w t
  | .vfmax ty p d a b => planVfmax ty p d a b w t
  | .vadd ty p d a b => planVadd ty p d a b w t
  | .vsub ty p d a b => planVsub ty p d a b w t
  | .vmul ty p d a b => planVmul ty p d a b w t
  | .vmulh ty p d a b => planVmulh ty p d a b w t
  | .vmulhu ty p d a b => planVmulhu ty p d a b w t
  | .vand ty p d a b => planVand ty p d a b w t
  | .vor ty p d a b => planVor ty p d a b w t
  | .vxor ty p d a b => planVxor ty p d a b w t
  | .vshl ty p d a b => planVshl ty p d a b w t
  | .vshr ty p d a b => planVshr ty p d a b w t
  | .vsar ty p d a b => planVsar ty p d a b w t
  | .vmin ty p d a b => planVmin ty p d a b w t
  | .vminu ty p d a b => planVminu ty p d a b w t
  | .vmax ty p d a b => planVmax ty p d a b w t
  | .vmaxu ty p d a b => planVmaxu ty p d a b w t
  | .vadds ty p d a b => planVadds ty p d a b w t
  | .vaddsu ty p d a b => planVaddsu ty p d a b w t
  | .vsubs ty p d a b => planVsubs ty p d a b w t
  | .vsubsu ty p d a b => planVsubsu ty p d a b w t
  | .vperm ty p d a b => planVperm ty p d a b w t
  | .vfabs ty p d a => planVfabs ty p d a w t
  | .vfneg ty p d a => planVfneg ty p d a w t
  | .vfexp2 ty p d a => planVfexp2 ty p d a w t
  | .vflog2 ty p d a => planVflog2 ty p d a w t
  | .vfsin ty p d a => planVfsin ty p d a w t
  | .vfcos ty p d a => planVfcos ty p d a w t
  | .vftanh ty p d a => planVftanh ty p d a w t
  | .vabs ty p d a => planVabs ty p d a w t
  | .vmov ty p d a => planVmov ty p d a w t
  | .vdup ty p d a => planVdup ty p d a w t
  | .vcompress ty p d a => planVcompress ty p d a w t
  | .vfcmp ty cond p d a b => planVfcmp ty cond p d a b w t
  | .vcmp ty cond p d a b => planVcmp ty cond p d a b w t
  | .vcvt ty src toU fromU part rm p d a => planVcvt ty src toU fromU part rm p d a w t
  | .vqlns part p d a b => planVqlns part p d a b w t
  | .vdqlns part rm p d a b => planVdqlns part rm p d a b w t
  | .vbmax ty p d a => planVbmax ty p d a w t
  | .vwhile ty d a b => planVwhile ty d a b w t
  | .pand p d a b => planPand p d a b w t
  | .por p d a b => planPor p d a b w t
  | .pxor p d a b => planPxor p d a b w t
  | .pnot p d a => planPnot p d a w t
  | .pcnt ty p d a => planPcnt ty p d a w t
  | .vqlen ty d => planVqlen ty d w
  | .vext ty d a b => planVext ty d a b w t
  | .vslide ty p d a b => planVslide ty p d a b w t
  | .vnzx ty part p d a b c => planVnzx ty part p d a b c w t
  | .vsel ty p d a b c => planVsel ty p d a b c w t
  | .vradd ty rm p d a => planVradd ty rm p d a w t
  | .vraddo ty rm p d a b => planVraddo ty rm p d a b w t
  | .vrmin ty p d a => planVrmin ty p d a w t
  | .vrminu ty p d a => planVrminu ty p d a w t
  | .vrmax ty p d a => planVrmax ty p d a w t
  | .vrmaxu ty p d a => planVrmaxu ty p d a w t
  | .vld ty p sg d a m => planVld ty p sg d a m w t
  | .vst ty p sg d a m => planVst ty p sg d a m w t
  | .vldg ty p sg d a b m => planVldg ty p sg d a b m w t
  | .vsts ty p sg d a b m => planVsts ty p sg d a b m w t
  | .vldt sg d a b m => planVldt sg d a b m t
  | .vstt sg d a b m => planVstt sg d a b m w t
  | _ => none

/-- PAIR (R40 to R43): both halves read before either writes; both commit or neither does; a trap of either stops both. Two terms
that cannot stand in a pair have no effect beyond going on, since the decode checks have stopped such a word. -/
def execPair (x y : Instr) (s : State) : Out :=
  let w := Config.vecBits s.cur.core
  match planOf x w s.me, planOf y w s.me with
  | some a, some b => .next (s.runBoth (.pair x y) a b)
  | _, _ => .next (s.goOn s.cur.core s.cur.slot (.go s.me.npc))

/-! ## Issue distances -/

/-- The issue distance of an instruction on a core (R123, R186), in clk. A pair takes the larger one of its halves. The special functions
take 16 on a supervisor core, which R186 does not name: its vector engine is no attention tile's (log 73). -/
def distanceOf (cid : Nat) : Instr → Nat
  | .div .. | .divu .. | .rem .. | .remu .. | .divImm .. | .divuImm .. | .remImm .. | .remuImm .. => 24
  | .vfdiv .. | .vfsqrt .. | .vfrcp .. | .vfrsq .. => 24
  | .vfexp2 .. | .vflog2 .. | .vfsin .. | .vfcos .. | .vftanh .. =>
    if Config.isTile cid && Config.kindOf cid == .attention then 8 else 16
  | .vradd .. | .vrmin .. | .vrminu .. | .vrmax .. | .vrmaxu .. | .vbmax .. => 16
  | .vraddo ty _ _ _ _ _ => 8 + Config.vecBits cid / ty.bits / 2
  | .pair x y => max (distanceOf cid x) (distanceOf cid y)
  | _ => 8

end Sys2Proof.Machine
end

