-- ==== Sys2Proof/Machine/Stop.lean ====
section
/-!
DEFINITION. Context save and restore (R143 to R146): the image of a thread in the layout of Table 8, how each park answers a stop
request (R129, Table 2), and the stop itself (R144).
-/
namespace Sys2Proof.Machine

/-- Index of a slot in the tables of contexts. -/
def ctxKey (cid k : Nat) : Nat := 16 * cid + k

/-- Where a slot's context is saved (R143): in the area that SAVEAREA set, by its 8 KiB; a slot without one has a place of its own (log 36). -/
def State.imageKey (s : State) (cid k : Nat) : Nat :=
  match SMap.get 0 s.saveAreas (ctxKey cid k) with
  | 0 => ctxKey cid k
  | a + 1 => 2 ^ 20 + a / 8192

/-- Words of a bit vector, lowest first. -/
def wordsOf (n x : Nat) : List Word := (List.range n).map fun i => BitVec.ofNat 64 (x / 2 ^ (64 * i))

/-- The state word at 0x01C0 (Table 8). -/
def stateWord (t : Slot) : Word :=
  BitVec.ofNat 64 ((if t.abandoned = 0 then 0 else 1) + (if t.wakePend then 2 else 0)
    + (match t.wakeDue with
        | some st => 4 + st % 256 * 256
        | none => 0)
    + t.abandoned % 256 * 65536)

/-- The image of a thread: words by index (byte offset / 8) in the layout of R143, Table 8. Words not listed are 0. -/
def saveImage (w : Nat) (t : Slot) : List (Nat × Word) :=
  let at_ (i : Nat) (ws : List Word) : List (Nat × Word) := ws.mapIdx fun j x => (i + j, x)
  at_ 0 ((List.finRange 32).map fun i => t.rg i)
    ++ at_ 32 (t.s.toList.flatMap fun x => wordsOf 2 x.toNat)
    ++ at_ 48 [t.pc, t.flags, t.trapPc, t.trapFlags, t.trapCause, t.trapAddr, t.hbase,
               BitVec.zeroExtend 64 t.stallTimeout, stateWord t, t.issueCount, BitVec.ofNat 64 t.reports.length]
    ++ at_ 64 (t.c.toList.flatMap fun x => wordsOf 2 x.toNat)
    ++ at_ 80 (t.reports.flatMap fun r => [causeWord true r.cause r.detail, r.addr])
    ++ (List.finRange 8).flatMap (fun i => at_ (128 + 16 * i.val) (wordsOf (w / 512) (t.rp w i).toNat))
    ++ (List.finRange 16).flatMap fun i => at_ (256 + w / 64 * i.val) (wordsOf (w / 64) (t.rv i).toNat)

/-- The image as a sparse map. -/
def imageMap (ws : List (Nat × Word)) : SMap Word := ws.foldl (fun m x => SMap.set 0 m x.1 x.2) []

/-- n words of an image from an index on, as a number. -/
def imageBits (m : SMap Word) (i n : Nat) : Nat :=
  (List.range n).foldr (fun j acc => (SMap.get 0 m (i + j)).toNat + 2 ^ 64 * acc) 0

/-- A thread read back from its image (R146) into its slot: buffers empty, touched mask zero, home_hold clear (R145); R127 applies. A kept
wake status other than 0x00 is acted on when the thread would issue. -/
def restoreImage (w clk : Nat) (m : SMap Word) (t : Slot) : Slot :=
  let word (i : Nat) : Word := SMap.get 0 m i
  let st := (word 56).toNat
  { t with
    g := Vector.ofFn fun i : Fin 32 => word i.val
    s := Vector.ofFn fun i : Fin 8 => BitVec.ofNat 128 (imageBits m (32 + 2 * i.val) 2)
    pc := word 48, flags := word 49, trapPc := word 50, trapFlags := word 51, trapCause := word 52, trapAddr := word 53
    hbase := word 54, stallTimeout := (word 55).truncate 32
    wakePend := st / 2 % 2 == 1
    wakeStatus := if st / 4 % 2 = 1 ∧ st / 256 % 256 ≠ 0 then some (st / 256 % 256) else none
    wakePc := word 48, wakeMode := hmode (word 49)
    abandoned := 0
    issueCount := word 57
    c := Vector.ofFn fun i : Fin 8 => BitVec.ofNat 128 (imageBits m (64 + 2 * i.val) 2)
    reports := (List.range ((word 58).toNat % 32)).map fun j =>
      ⟨0, (word (80 + 2 * j)).toNat / 256 % 256, (word (80 + 2 * j)).toNat % 256, word (81 + 2 * j)⟩
    p := Vector.ofFn fun i : Fin 8 => BitVec.ofNat 256 (imageBits m (128 + 16 * i.val) (w / 512))
    v := Vector.ofFn fun i : Fin 16 => BitVec.ofNat 2048 (imageBits m (256 + w / 64 * i.val) (w / 64))
    touched := 0, homeHold := false, buf := [], want := none, pre := none, halves := [], retry := false, stopReq := none, posted := 0
    last := clk - 8, dist := 8, banks := { }, st := .ready }

/-- What a stop request does to a park (R129, Table 2). -/
inductive StopAnswer where
  | waits                 -- the stop waits for the park to end
  | abandon (row : Nat)   -- the instruction is abandoned and reissued on restore
  | now                   -- the stop goes on at once
deriving DecidableEq, Repr

/-- The last column of Table 2 of R129. -/
def Park.onStop : Park → StopAnswer
  | .remote .. => .waits
  | .matrix _ => .waits
  | .send .. => .abandon 6
  | .recv .. => .abandon 14
  | .tree _ => .waits
  | .treeWrite .. => .waits
  | .lexicon _ => .waits
  | .pageFault _ => .abandon 5
  | .postedFault .. => .waits
  | .fence .. => .waits
  | .tcont => .waits
  | .posted .. => .waits
  | .sleep _ => .abandon 11
  | .ctxsv .. => .waits
  | .fifo _ => .abandon 13
  | .exitDrain => .waits
  | .reply _ row _ _ => if row = 17 then .abandon 17 else .waits
  | .waitc .. => .abandon 15
  | .steal .. => .waits
  | .tokens _ => .abandon 19
  | .escalated => .now
  | .stopping _ => .now

/-- A packet is open on an out channel of the thread (R294, R295). -/
def Slot.inPacket (t : Slot) : Bool := t.c.toList.any fun c => c.getLsbD 67

/-- The thread has accesses or posted writes that are not performed (R144, step 4). -/
def State.outstanding (s : State) (cid k : Nat) : Bool :=
  s.accesses.any fun a => a.2.any fun x => x.core == cid && x.slot == k

/-- Every slot of the core that waits in CTXSV for slot k learns that it is saved (R177): one of them gets 0, the others 1. -/
def State.answerCtxsv (s : State) (cid k : Nat) (chosen : Option Nat) (st0 : Word) : State :=
  (List.range 16).foldl (fun s j =>
    match (s.slot cid j).st with
    | .parked (.ctxsv target d) =>
      if target = k then
        let st : Word := if chosen == some j then st0 else 1
        s.modSlot cid j fun t => { (t.wg d st) with pc := t.npc, st := .ready }
      else s
    | _ => s) s

/-- The save of R144, step 5: Table 8 is written and the slot becomes stopped. -/
def State.saveSlot (s : State) (cid k : Nat) : State :=
  let t := s.slot cid k
  let waiting := (List.range 16).find? fun j => match (s.slot cid j).st with
    | .parked (.ctxsv target _) => target == k
    | _ => false
  let chosen := match t.stopReq with
    | some (.ctxsv j) => some j
    | _ => waiting
  let s := { s with images := SMap.set [] s.images (s.imageKey cid k) (imageMap (saveImage (Config.vecBits cid) t)) }
  let s := s.modSlot cid k fun t => { t with st := .stopped, stopReq := none, touched := 0, buf := [], want := none, pre := none, halves := [], retry := false }
  (s.tellBroker cid).answerCtxsv cid k chosen 0

/-- Restores a stopped slot (R146). -/
def State.restoreSlot (s : State) (cid k : Nat) : State :=
  let m := SMap.get [] s.images (s.imageKey cid k)
  (s.modSlot cid k fun t => restoreImage (Config.vecBits cid) s.clk m t).tellBroker cid

/-- An asynchronous report to the clause `uid` of a slot (R142, R299): it joins those pending, or, where the clause is stopped, those of its
saved context; where the clause is gone, or holds 24 already, the die's supervisor core receives it. -/
def State.reportTo (s : State) (cid k uid cause detail : Nat) (addr : Word) : State :=
  let t := s.slot cid k
  let m := SMap.get [] s.images (s.imageKey cid k)
  let n := (SMap.get 0 m 58).toNat
  if t.st == .free || (t.occ.map (·.uid)) != some uid || (if t.st == .stopped then n else t.reports.length) ≥ 24 then
    s.report ⟨Config.coreDie cid, cid, k, cause, detail, addr, none⟩
  else if t.st == .stopped then
    let m := SMap.set 0 (SMap.set 0 (SMap.set 0 m 58 (BitVec.ofNat 64 (n + 1))) (80 + 2 * n) (causeWord true cause detail)) (81 + 2 * n) addr
    { s with images := SMap.set [] s.images (s.imageKey cid k) m }
  else { s.modSlot cid k (·.addReport ⟨s.nextAcc, cause, detail, addr⟩) with nextAcc := s.nextAcc + 1 }

/-- The park of a thread to be stopped is abandoned: its instruction reissues on restore (R129, R130). -/
def State.abandon (s : State) (cid k row : Nat) : State :=
  s.modSlot cid k fun t => { t with st := .parked (.stopping row), abandoned := row }

/-- A message belongs to an access. -/
def MsgBody.isOf (id : Nat) : MsgBody → Bool
  | .access a _ => a == id
  | .reply a _ => a == id
  | .resend a _ => a == id
  | .cancelWaiter a _ => a == id
  | _ => false

/-- A message is the steal of a request. -/
def MsgBody.isSteal (id : Nat) : MsgBody → Bool
  | .steal i .. => i == id
  | _ => false

/-- An access is withdrawn: its record, its place in a waiter table and its messages go. -/
def State.dropAccess (s : State) (id : Nat) : State :=
  { s.dropWaiter id with
    accesses := SMap.set none s.accesses id none
    msgs := s.msgs.filter fun m => !m.body.isOf id }

/-- R234: the home of a held LDE or LDC is sent one cancellation. -/
def State.cancelHeld (s : State) (id : Nat) (a : Access) : State :=
  match a.waiting with
  | [] => s
  | home :: _ =>
    if s.msgs.any fun m => m.body == .cancelWaiter id home then s
    else if isLocal a.core home then s.sendAt (s.clk + 1) (.cancelWaiter id home)
    else s.send (.cancelWaiter id home)

/-! ## Places in the order of a tree (R305) -/

/-- A tree of a core. -/
def State.tree (s : State) (cid t : Nat) : Tree := (s.core cid).trees[(Fin.ofNat 4 t : Fin 4)]

/-- The state with a core's tree changed. -/
def State.modTree (s : State) (cid t : Nat) (f : Tree → Tree) : State :=
  s.modCore cid fun c => { c with trees := c.trees.set (Fin.ofNat 4 t : Fin 4) (f c.trees[(Fin.ofNat 4 t : Fin 4)]) }

/-- A slot's operation that has a place in a tree's order and waits for its FENCE part. -/
def TreeOp.waitsFor (k : Nat) (o : TreeOp) : Bool := o.slot == k && o.val.isNone

/-- A thread leaves an instruction in its FENCE part: what the instruction reserved at its issue goes, which is the place of a tree
operation that it has not contributed to (R305), the launch entry of a LAUNCH (R351), or the phrase entries of a DQSTEAL (R357). -/
def State.dropReserved (s : State) (cid k : Nat) : State :=
  let t := s.slot cid k
  let mine (x : Nat × Option Launch) : Bool := x.2.any fun l => l.opening == some k && l.core == cid
  let s := if (s.job t.tag).launches.any mine then s.modJob t.tag fun j => { j with launches := j.launches.filter fun x => !mine x } else s
  let s := match t.st with
    | .parked (.fence _ _ _ (.rerun (.dqsteal ..))) =>
      s.modCore cid fun c => { c with steals := c.steals.filter fun x => some x.1 != t.stash.head? }
    | _ => s
  (List.range 4).foldl (fun s t =>
    if (s.tree cid t).wait.any (TreeOp.waitsFor k) then
      s.modTree cid t fun x => { x with wait := x.wait.filter fun o => !o.waitsFor k }
    else s) s

/-- STOP (R144): for a slot with a requested stop, one step of the proceeding. Inside an open packet every stop but an escalation waits,
whatever the thread is parked on. Else a park that Table 2 abandons is abandoned; at a boundary with nothing outstanding, the context
is saved. -/
def State.stopStep (s : State) (cid k : Nat) : State :=
  let t := s.slot cid k
  let drained := t.posted == 0 && t.banks.cont.isEmpty && !s.outstanding cid k
  match t.stopReq with
  | none => s
  | some rq =>
    match t.st with
    | .free => (s.modSlot cid k fun t => { t with stopReq := none }).answerCtxsv cid k none 1
    | .stopped => (s.modSlot cid k fun t => { t with stopReq := none }).answerCtxsv cid k none 1
    | st =>
    if t.inPacket && rq != .escalation then s
    else
    match st with
    | .free => s
    | .stopped => s
    | .ready => if drained then s.saveSlot cid k else s
    | .parked (.pageFault a) => ((s.dropReserved cid k).modSlot cid k fun t => { t with wakeAddr := a }).abandon cid k 5
    | .parked (.matrix id) =>
      -- R262: an instruction still in the queue is removed from it; MTILE in execution answers at its boundaries
      if ((s.core cid).mxQueue.any fun j => j.id == id) then
        (s.modCore cid fun c => { c with mxQueue := c.mxQueue.filter fun j => j.id != id }).abandon cid k 4
      else s
    | .parked (.lexicon id) =>
      -- R290
      if ((s.core cid).lxQueue.any fun j => j.id == id) then
        (s.modCore cid fun c => { c with lxQueue := c.lxQueue.filter fun j => j.id != id }).abandon cid k 4
      else s
    | .parked (.remote id _ _) =>
      match SMap.get none s.accesses id with
      | some a =>
        match a.op with
        | .lde => s.cancelHeld id a
        | .ldc => s.cancelHeld id a
        | .ccwait _ => (s.dropAccess id).abandon cid k 3
        | .cmwait .. => (s.dropAccess id).abandon cid k 3
        | _ => s
      | none => s
    | .parked (.steal id _) =>
      -- R357: a steal not yet applied at the victim is withdrawn, with its reservation
      if s.msgs.any fun m => m.body.isSteal id then
        ({ s with msgs := s.msgs.filter fun m => !m.body.isSteal id }.modCore cid fun c =>
          { c with steals := c.steals.filter fun x => x.1 != id }).abandon cid k 16
      else s
    | .parked p =>
      match p.onStop with
      | .waits => s
      | .now => if drained then s.saveSlot cid k else s
      | .abandon row => s.abandon cid k row

/-- A stop that the supervisor software (`bySup`) or the clause scheduler requests; one that is requested already stands (R144). -/
def Slot.askStop (t : Slot) (bySup : Bool) : Slot :=
  if t.st == .free || t.st == .stopped || t.stopReq.isSome then t
  else { t with stopReq := some (if bySup then .supervisor else .scheduler) }

/-- STOP (R144), for the slot that the event names. `more`: the supervisor software, or without `flag` the clause scheduler, requests it. -/
def execStop (s : State) : Out :=
  if s.ev.more then .next (s.modSlot s.ev.core s.ev.slot (·.askStop s.ev.flag)) else .next (s.stopStep s.ev.core s.ev.slot)

end Sys2Proof.Machine
end

