-- ==== Sys2Proof/Machine/System.lean ====
section
/-!
DEFINITION. The system instructions (R168 to R180).
-/
namespace Sys2Proof.Machine

/-- The running thread's instruction completes: its slot is changed, and it goes on at the next word. -/
def State.doneWith (s : State) (f : Slot → Slot) : State :=
  (s.modMe f).goOn s.cur.core s.cur.slot (.go s.me.npc)

/-- Completion with a result in a general register. -/
def State.doneG (s : State) (d : G) (x : Word) : Out := .next (s.doneWith (·.wg d x))

/-- The privilege trap (R135): step 3 of R139. -/
def privTrap : Trap := ⟨3, cPrivilege, 0, 0⟩

/-- A fault of the instruction's own description: step 7 of R139. -/
def ownTrap (cause detail : Nat) (addr : Word) : Trap := ⟨7, cause, detail, addr⟩

/-- The limit of SEGLD's operand (R169, Table 14). -/
def segOpLimit (x : Word) : Nat := x.toNat % 2 ^ 48
/-- The rights of SEGLD's operand. -/
def segOpRights (x : Word) : Nat := x.toNat / 2 ^ 48 % 64

/-- The operand checks of SEGLD, detail 0x14. -/
def segOpBad (a b : Word) : Bool := a.toNat % 64 != 0 || b.toNat / 2 ^ 54 != 0

/-- The narrowing check of SEGLD, detail 0x15, on unbounded integers: the parent's bounds and rights. -/
def segNarrowBad (a b : Word) (p : BitVec 128) : Bool :=
  a.toNat < segBase p || segBase p + segLimit p < a.toNat + segOpLimit b || lacks (segOpRights b) (segRights p)

/-- SEGLD, narrowing form (R169). -/
def execSegldNarrow (d : S) (a b : G) (c : S) (s : State) : Out :=
  let x := s.me.rg a
  let y := s.me.rg b
  if segOpBad x y then .next (s.trapMe (ownTrap cSegment 0x14 0))
  else if segNarrowBad x y s.me.s[c] then .next (s.trapMe (ownTrap cSegment 0x15 0))
  else .next (s.doneWith fun t => { t with s := t.s.set d (mkSeg x.toNat (segOpLimit y) (segOpRights y)) })

/-- SEGLD, absolute form (R135, R169): handler mode only. -/
def execSegldAbs (d : S) (a b : G) (s : State) : Out :=
  let x := s.me.rg a
  let y := s.me.rg b
  if !hmode s.me.flags then .next (s.trapMe privTrap)
  else if segOpBad x y then .next (s.trapMe (ownTrap cSegment 0x14 0))
  else .next (s.doneWith fun t => { t with s := t.s.set d (mkSeg x.toNat (segOpLimit y) (segOpRights y)) })

/-- SEGRD (R170). -/
def execSegrd (d : G) (a : S) (half : Bool) (s : State) : Out :=
  let x := s.me.s[a].toNat
  s.doneG d (BitVec.ofNat 64 (if half then x / 2 ^ 64 else x))

/-- The registers that Table 5 marks handler-only (R136). -/
def handlerOnly (num : BitVec 12) : Bool := 1 ≤ num.toNat && num.toNat ≤ 4

/-- Value of a system register (R136, Table 5). -/
def sysValue (c : Core) (t : Slot) (num : BitVec 12) : Word :=
  match num.toNat with
  | 0 => t.flags
  | 1 => t.trapPc
  | 2 => t.trapFlags
  | 3 => t.trapCause
  | 4 => t.trapAddr
  | 5 => t.hbase
  | 6 => t.touched
  | 7 => t.stallTimeout.zeroExtend 64
  | 8 => c.chkCount
  | _ => t.issueCount

/-- SYSRD (R135, R171). A number outside Table 5 has been stopped by the decode checks. -/
def execSysrd (d : G) (num : BitVec 12) (s : State) : Out :=
  if handlerOnly num && !hmode s.me.flags then .next (s.trapMe privTrap)
  else s.doneG d (sysValue (s.core s.cur.core) s.me num)

/-- A write of a system register's RW fields; RO registers ignore it (R136, R171). trap_flags, which Table 5 gives as RW without a field
map of its own, keeps all 64 bits that are written; RTE takes from it the bits that hold a field of flags (log 72). -/
def sysWrite (t : Slot) (num : BitVec 12) (x : Word) : Slot :=
  match num.toNat with
  | 0 => { t with flags := writeFlags t.flags x }
  | 1 => { t with trapPc := x }
  | 2 => { t with trapFlags := x }
  | 3 => { t with trapCause := x &&& 0x1FFFF }
  | 4 => { t with trapAddr := x }
  | 7 => { t with stallTimeout := x.truncate 32 }
  | _ => t

/-- SYSWR (R135, R171). -/
def execSyswr (num : BitVec 12) (a : G) (s : State) : Out :=
  if handlerOnly num && !hmode s.me.flags then .next (s.trapMe privTrap)
  else .next (s.doneWith fun t => sysWrite t num (t.rg a))

/-- TRAP (R172): trap_pc is the address of the word after it. -/
def execTrap (code : BitVec 8) (s : State) : Out :=
  .next (s.trapEnter s.cur.core s.cur.slot cSoftware code.toNat 0 s.me.npc false)

/-- RTE (R135, R173). A trap_pc with bits [1:0] nonzero raises the fetch-boundary fault at the RTE, which escalates. -/
def execRte (s : State) : Out :=
  if !hmode s.me.flags then .next (s.trapMe privTrap)
  else if s.me.trapPc.toNat % 4 != 0 then .next (s.trapMe ⟨1, cFetchBoundary, 0, 0⟩)
  else .next ((s.modMe (·.trapReturn)).goOn s.cur.core s.cur.slot (.go s.me.trapPc))

/-- YIELD (R174, R126). -/
def execYield (s : State) : Out := .next (s.doneWith fun t => { t with homeHold := true })

/-- SLEEP (R175). -/
def execSleep (a : G) (s : State) : Out :=
  if s.me.wakePend then .next (s.doneWith fun t => { t with wakePend := false })
  else
    let n := (s.me.rg a).toNat
    .next (s.park s.cur.core s.cur.slot (.sleep (if n = 0 then none else some (s.clk + n))))

/-- SLEEP_TIMEOUT (R175): a sleeper whose clk have passed leaves the park. -/
def execSleepTimeout (s : State) : Out :=
  match (s.slot s.ev.core s.ev.slot).st with
  | .parked (.sleep (some dl)) =>
    if dl ≤ s.clk then .next (s.modSlot s.ev.core s.ev.slot fun t => { t with pc := t.npc, st := .ready }) else .next s
  | _ => .next s

/-- Effect of a WAKE on its target, and the status (R176). -/
def State.wakeSlot (s : State) (cid job k : Nat) : State × Word :=
  let t := s.slot cid k
  if k > 15 then (s, 2)
  else
    match t.st with
    | .free => (s, 2)
    | st =>
      if t.tag != job then (s, 2)
      else
        match st with
        | .parked (.sleep _) => (s.modSlot cid k fun t => { t with pc := t.npc, st := .ready }, 0)
        | .stopped =>
          let m := SMap.get [] s.images (s.imageKey cid k)
          ({ s with images := SMap.set [] s.images (s.imageKey cid k) (SMap.set 0 m 56 (SMap.get 0 m 56 ||| 2)) }, 1)
        | _ => (s.modSlot cid k fun t => { t with wakePend := true }, 1)

/-- WAKE (R176). -/
def execWake (d a : G) (s : State) : Out :=
  let r := s.wakeSlot s.cur.core s.me.tag (s.me.rg a).toNat
  r.1.doneG d r.2

/-- A fetch of a slot is on its way. -/
def MsgBody.fetches (cid k : Nat) : MsgBody → Bool
  | .fetch c j _ => c == cid && j == k
  | _ => false

/-- IFLUSH (R149, R180): what fetches on their way will bring is discarded, and later fetches follow every access that the thread has made. -/
def execIflush (s : State) : Out :=
  let s := { s with msgs := s.msgs.filter fun m => !m.body.fetches s.cur.core s.cur.slot }
  .next (s.doneWith fun t => { t with buf := [], want := none, pre := none, halves := [], flushed := s.nextAcc })

/-- CTXSV (R177, R144): the issuer parks until the save completes. -/
def execCtxsv (d a : G) (s : State) : Out :=
  let cid := s.cur.core
  let k := (s.me.rg a).toNat
  let t := s.slot cid k
  if !hmode s.me.flags then .next (s.trapMe privTrap)
  else if k > 15 || k = s.cur.slot then s.doneG d 2
  else
    match t.st with
    | .free => s.doneG d 1
    | st =>
      if t.tag != s.me.tag then s.doneG d 2
      else if st = .stopped then s.doneG d 1
      else
        let s := s.modSlot cid k fun t => { t with stopReq := some (t.stopReq.getD (.ctxsv s.cur.slot)) }
        .next (s.park cid s.cur.slot (.ctxsv k d))

/-- CTXLD (R177, R146). An image whose program counter is misaligned raises the fetch-boundary fault (R30). -/
def execCtxld (d a : G) (s : State) : Out :=
  let cid := s.cur.core
  let k := (s.me.rg a).toNat
  let t := s.slot cid k
  if !hmode s.me.flags then .next (s.trapMe privTrap)
  else if k > 15 then s.doneG d 2
  else
    match t.st with
    | .free => s.doneG d 1
    | st =>
      if t.tag != s.me.tag then s.doneG d 2
      else if st != .stopped then s.doneG d 1
      else if (SMap.get 0 (SMap.get [] s.images (s.imageKey cid k)) 48).toNat % 4 != 0 then
        .next (s.trapMe ⟨1, cFetchBoundary, 0, 0⟩)
      else (s.restoreSlot cid k).doneG d 0

/-- The kind code of IDRD selector 2 (R178). -/
def kindCode (cid : Nat) : Nat :=
  match Config.kindOf cid with
  | .dense => 0
  | .sparse => 1
  | .attention => 2
  | .vector => 3

/-- The device identifier: IDRD selector 4 (R178). -/
def deviceId : Word := BitVec.ofNat 64 (0x64000000 + Config.stepping.toNat * 256)

/-- IDRD (R178). On a supervisor core, which is no tile and runs for no job, selectors 0, 2 and 3 give a free value (log 12). -/
def execIdrd (d : G) (sel : BitVec 8) (s : State) : Out :=
  let cid := s.cur.core
  match sel.toNat with
  | 1 => s.doneG d (BitVec.ofNat 64 s.cur.slot)
  | 4 => s.doneG d deviceId
  | n =>
    if isSup cid then
      let r := s.drawWord
      r.2.doneG d r.1
    else
      match n with
      | 0 => s.doneG d (BitVec.ofNat 64 (Config.tileBase cid))
      | 2 => s.doneG d (BitVec.ofNat 64 (kindCode cid))
      | _ => s.doneG d (BitVec.ofNat 64 s.me.tag)

/-- CLKRD (R179): the clock counter of the core's die; a boot gives each die's its lead, of at most 32 clk (log 7). -/
def execClkrd (d : G) (s : State) : Out :=
  s.doneG d (BitVec.ofNat 64 (s.clk + (s.die (Config.coreDie s.cur.core)).lead))

end Sys2Proof.Machine
end

