-- ==== Sys2Proof/Machine/Concord.lean ====
section
/-!
DEFINITION. The concord instructions (R236) and the full/empty instructions (R237). Each names one unit, which its home updates, reads or
holds as `State.homeOp` says.
-/
namespace Sys2Proof.Machine

/-- The plan of an instruction on one concord (n = 16) or one full/empty word (n = 8): address, alignment and rights of R236 and R237;
space 0x7 raises the alignment fault (R87). -/
def homePlan (op : AccOp) (done : Done) (posted : Bool) (n : Nat) (sg : BitVec 128) (base : Word) (m : Mem) : PlanRes :=
  .ok { mem := some { op, done, sg, elems := [(0, memOffset base 0 m.disp)], n, al := n, reg := false, posted, ord := m.ord != .plain },
        release := memRelease m }

/-- CCARR's own check: 2^39 bytes or more raise the concord-overflow trap, detail 0x02 (R236). -/
def arrTooMany (x : Word) : Option Trap := if x.toNat ≥ 2 ^ 39 then some (ownTrap cConcord 0x02 0) else none

/-- CCINIT, as a plan (R236). -/
def planCcinit (map : Bool) (sg : S) (a : G) (m : Mem) (t : Slot) : PlanRes :=
  homePlan (.ccinit map) (.none) true 16 t.s[sg] (t.rg a) m

/-- CCINIT (R236). -/
def execCcinit (map : Bool) (sg : S) (a : G) (m : Mem) (s : State) : Out := execPlan (.ccinit map sg a m) (planCcinit map sg a m s.me) s

/-- CCEXP, as a plan (R236). -/
def planCcexp (sg : S) (d a b : G) (m : Mem) (t : Slot) : PlanRes :=
  homePlan (.ccexp (t.rg b).toNat) (.gz d) false 16 t.s[sg] (t.rg a) m

/-- CCEXP (R236). -/
def execCcexp (sg : S) (d a b : G) (m : Mem) (s : State) : Out := execPlan (.ccexp sg d a b m) (planCcexp sg d a b m s.me) s

/-- CCARR, as a plan (R236). -/
def planCcarr (sg : S) (a b c : G) (m : Mem) (t : Slot) : PlanRes :=
  (homePlan (.ccarr (t.rg b).toNat (t.rg c).toNat 0) (.none) true 16 t.s[sg] (t.rg a) m).map fun p => { p with late := arrTooMany (t.rg b) }

/-- CCARR (R236). -/
def execCcarr (sg : S) (a b c : G) (m : Mem) (s : State) : Out := execPlan (.ccarr sg a b c m) (planCcarr sg a b c m s.me) s

/-- CCWAIT, as a plan (R236). -/
def planCcwait (sg : S) (a b : G) (m : Mem) (t : Slot) : PlanRes :=
  homePlan (.ccwait (t.rg b).toNat) (.none) false 16 t.s[sg] (t.rg a) m

/-- CCWAIT (R236). -/
def execCcwait (sg : S) (a b : G) (m : Mem) (s : State) : Out := execPlan (.ccwait sg a b m) (planCcwait sg a b m s.me) s

/-- CCTEST, as a plan (R236). -/
def planCctest (sg : S) (d a b : G) (m : Mem) (t : Slot) : PlanRes :=
  homePlan (.cctest (t.rg b).toNat) (.gz d) false 16 t.s[sg] (t.rg a) m

/-- CCTEST (R236). -/
def execCctest (sg : S) (d a b : G) (m : Mem) (s : State) : Out := execPlan (.cctest sg d a b m) (planCctest sg d a b m s.me) s

/-- CMWAIT, as a plan (R236). -/
def planCmwait (sg : S) (a b c : G) (m : Mem) (t : Slot) : PlanRes :=
  homePlan (.cmwait (t.rg c).toNat (t.rg b).toNat) (.none) false 16 t.s[sg] (t.rg a) m

/-- CMWAIT (R236). -/
def execCmwait (sg : S) (a b c : G) (m : Mem) (s : State) : Out := execPlan (.cmwait sg a b c m) (planCmwait sg a b c m s.me) s

/-- CMTEST, as a plan (R236). -/
def planCmtest (sg : S) (d a b c : G) (m : Mem) (t : Slot) : PlanRes :=
  homePlan (.cmtest (t.rg c).toNat (t.rg b).toNat) (.gz d) false 16 t.s[sg] (t.rg a) m

/-- CMTEST (R236). -/
def execCmtest (sg : S) (d a b c : G) (m : Mem) (s : State) : Out := execPlan (.cmtest sg d a b c m) (planCmtest sg d a b c m s.me) s

/-- LDE, as a plan (R237). -/
def planLde (sg : S) (d a : G) (m : Mem) (t : Slot) : PlanRes :=
  homePlan (.lde) (.gz d) false 8 t.s[sg] (t.rg a) m

/-- LDE (R237). -/
def execLde (sg : S) (d a : G) (m : Mem) (s : State) : Out := execPlan (.lde sg d a m) (planLde sg d a m s.me) s

/-- LDC, as a plan (R237). -/
def planLdc (sg : S) (d a : G) (m : Mem) (t : Slot) : PlanRes :=
  homePlan (.ldc) (.gz d) false 8 t.s[sg] (t.rg a) m

/-- LDC (R237). -/
def execLdc (sg : S) (d a : G) (m : Mem) (s : State) : Out := execPlan (.ldc sg d a m) (planLdc sg d a m s.me) s

/-- STF, as a plan (R237). -/
def planStf (sg : S) (d a : G) (m : Mem) (t : Slot) : PlanRes :=
  homePlan (.stf (t.rg d).toNat) (.none) true 8 t.s[sg] (t.rg a) m

/-- STF (R237). -/
def execStf (sg : S) (d a : G) (m : Mem) (s : State) : Out := execPlan (.stf sg d a m) (planStf sg d a m s.me) s

/-- FEW empty, as a plan (R237). -/
def planFewEmpty (sg : S) (a : G) (m : Mem) (t : Slot) : PlanRes :=
  homePlan (.few false) (.none) true 8 t.s[sg] (t.rg a) m

/-- FEW empty (R237). -/
def execFewEmpty (sg : S) (a : G) (m : Mem) (s : State) : Out := execPlan (.fewEmpty sg a m) (planFewEmpty sg a m s.me) s

/-- FEW full, as a plan (R237). -/
def planFewFull (sg : S) (a : G) (m : Mem) (t : Slot) : PlanRes :=
  homePlan (.few true) (.none) false 8 t.s[sg] (t.rg a) m

/-- FEW full (R237). -/
def execFewFull (sg : S) (a : G) (m : Mem) (s : State) : Out := execPlan (.fewFull sg a m) (planFewFull sg a m s.me) s

end Sys2Proof.Machine
end

