-- ==== Sys2Proof/Machine/Engine.lean ====
section
/-!
DEFINITION. Memory as the engines of a tile reach it (R23, R101, R119): the range checks made when a request or tile instruction is
given, translation and target checks at the engine, and reads and writes of units.
-/
namespace Sys2Proof.Machine

/-- What stops an engine at an address. -/
inductive EngFail where
  | page (reason : Nat) (addr : Word)            -- a page fault, which the supervisor software answers (R105)
  | fault (cause detail : Nat) (addr : Word)     -- a failed check
deriving DecidableEq, Repr

/-- The rights an engine needs for a destination (R91): write, and persist in space 0x3. -/
def destRights (space : Nat) : Nat := AKind.write.rights space

/-- Address at an offset of a segment. -/
def segPlus (sg : BitVec 128) (off : Int) : Word := ofInt (segBase sg + off)

/-- seg_addr (R90) for n bytes of an engine operand, with check_space at its address; an engine reaches no register (R87). -/
def State.engRange (s : State) (ag : Agent) (sg : BitVec 128) (off : Int) (n al : Nat) (need : Nat → Nat) : Except Trap Word :=
  match segAddr sg off n al need false with
  | .error (c, d) => .error (ownTrap c d (segPlus sg off))
  | .ok a =>
    match s.checkSpace ag a with
    | .error d => .error (ownTrap cAddress d a)
    | .ok _ => .ok a

/-- Translation of one unit's address (R101) for an engine. Registers are out of an engine's reach (R87). A tile that has been retired since the
request was made answers with the contained error (R13, R222). -/
def State.engCell (s : State) (ag : Agent) (a : Word) (wr : Bool) : State × Except EngFail Nat :=
  if spaceOf a = 7 then (s, .error (.fault cAlign 0x21 a))
  else if ag.lost = some a then (s, .error (.page 0 a))
  else
    match s.checkSpace ag a with
    | .error d => (s, .error (if d = 0x04 then .fault cContained 0x62 a else .fault cAddress d a))
    | .ok p =>
      match s.placeCell ag p wr with
      | (s, .error r) => (s, .error (.page r a))
      | (s, .ok c) => (s, .ok c)

/-- The target checks of one unit of n bytes for an engine (R99, R100, R107); consuming an uncorrectable error has the effects of R403. -/
def State.engCheck (s : State) (ag : Agent) (a : Word) (cell n : Nat) (kind : AKind) : State × Option EngFail :=
  match s.targetCheck ag.core ag.job kind cell n with
  | none => (s.correctBytes cell n, none)
  | some (c, d) => (if c = cContained && d = 0x61 then s.consumeError cell else s, some (.fault c d a))

/-- Translation and target checks of one unit of n bytes. -/
def State.engUnit (s : State) (ag : Agent) (a : Word) (n : Nat) (kind : AKind) : State × Except EngFail Nat :=
  match s.engCell ag a kind.writes with
  | (s, .error e) => (s, .error e)
  | (s, .ok cell) =>
    match s.engCheck ag a cell n kind with
    | (s, some e) => (s, .error e)
    | (s, none) => (s, .ok cell)

/-- Reads n bytes for an engine. -/
def State.engRead (s : State) (ag : Agent) (a : Word) (n : Nat) : State × Except EngFail Nat :=
  match s.engUnit ag a n .read with
  | (s, .error e) => (s, .error e)
  | (s, .ok cell) => (s, .ok (s.readN cell n))

/-- Writes n bytes of one line plainly for an engine. -/
def State.engWrite (s : State) (ag : Agent) (a : Word) (n x : Nat) : State × Except EngFail Unit :=
  match s.engUnit ag a n .write with
  | (s, .error e) => (s, .error e)
  | (s, .ok cell) => ((s.accept cell n).writePlain cell n x, .ok ())

/-- Offsets of an n-byte range cut at multiples of 8 bytes of the address: start and size of each piece. -/
def pieces8 (a : Word) (n : Nat) : List (Nat × Nat) :=
  let lead := min n ((8 - a.toNat % 8) % 8)
  let words := (n - lead) / 8
  let tail := n - lead - 8 * words
  ((List.range lead).map fun i => (i, 1)) ++ ((List.range words).map fun i => (lead + 8 * i, 8))
    ++ (List.range tail).map fun i => (lead + 8 * words + i, 1)

end Sys2Proof.Machine
end

