-- ==== Sys2Proof/Machine/Copy.lean ====
section
/-!
DEFINITION. The copy engine (R209 to R222, R235): its command FIFO, the checks of a push, and the five operations. The operation of a
request in progress is an event that happens until the request is done: each time it makes some of its units, by free choice.
-/
namespace Sys2Proof.Machine

/-! ## Requests -/

/-- An engine fault (R214) has trap_addr 0. -/
def engineFault (detail : Nat) : Trap := ownTrap cEngine detail 0

/-- Size of an element of a type code. -/
def codeBytes (c : Nat) : Nat := ((tyOf c).map VType.bytes).getD 0

/-- The request that four words name (R212, Table 1), with the segments and rounding of the pushing thread taken at the push (R214). -/
def copyOf (t : Slot) (cid k : Nat) (w0 w1 w2 w3 : Word) : CopyReq :=
  let x := w0.toNat
  let seg (lo : Nat) : BitVec 128 := t.s[(Fin.ofNat 8 (x / 2 ^ lo) : S)]
  let rm := x / 2 ^ 34 % 8
  { id := 0, core := cid, slot := k, uid := (t.occ.map (·.uid)).getD 0, job := t.tag, op := x / 2 ^ 60
    src := seg 57, dst := seg 54, idx := seg 51, cseg := seg 48
    esize := x / 2 ^ 45 % 8, stype := x / 2 ^ 41 % 16, dtype := x / 2 ^ 37 % 16
    rm := if rm = 0 then rndMode t.flags + 1 else rm
    cc := x / 2 ^ 33 % 2 == 1, fe := x / 2 ^ 32 % 2 == 1, count := x % 2 ^ 32, w1, w2, w3 }

/-- The element size 2^esize. -/
def CopyReq.es (r : CopyReq) : Nat := 2 ^ r.esize

/-- b: the number of destination bytes, which is the arrival total (R213, Table 2). -/
def CopyReq.total (r : CopyReq) : Nat :=
  match r.op with
  | 1 => r.count * r.es
  | 2 => r.count * r.es
  | 3 => r.count * codeBytes r.dtype
  | _ => r.count

/-- The conditions of engine fault 0x72 (R213, R214). -/
def copyBad (w0 : Word) (r : CopyReq) : Bool :=
  let f (lo n : Nat) : Nat := w0.toNat / 2 ^ lo % 2 ^ n
  let convert := r.op == 3
  (r.op == 4 && f 57 3 != 0)
    || ((r.op == 0 || r.op == 3 || r.op == 4) && f 51 3 != 0)
    || ((r.op == 0 || r.op == 3) && r.esize != 0)
    || (!convert && (f 41 4 != 0 || f 37 4 != 0 || f 34 3 != 0))
    || (!r.cc && (f 48 3 != 0 || r.w3 != 0))
    || ((r.op == 1 || r.op == 2) && r.esize > 6) || (r.op == 4 && r.esize > 3)
    || (r.fe && (if r.op == 2 then r.esize < 3 else r.w2.toNat % 8 != 0 || r.total % 8 != 0))
    || (r.op == 4 && r.count % r.es != 0)

/-- The conditions of engine fault 0x73 (R214). -/
def copyTypesBad (w0 : Word) (r : CopyReq) : Bool :=
  let bad (c : Nat) : Bool := c == 3 || c ≥ 8
  r.op == 3 && (bad r.stype || bad r.dtype || r.stype == r.dtype || w0.toNat / 2 ^ 34 % 8 ≥ 5)

/-- The alignment of a destination element. -/
def CopyReq.dstAlign (r : CopyReq) : Nat :=
  match r.op with
  | 0 => 1
  | 3 => codeBytes r.dtype
  | _ => r.es

/-- A segment that must hold rights (R214). No address is formed here: the trap names the segment's base, as it does for a scatter into
space 0x7 (log 26). -/
def mustHold (sg : BitVec 128) (need : Nat) : Except Trap Unit :=
  if lacks need (segRights sg) then .error (ownTrap cSegment 0x12 (ofInt (segBase sg))) else .ok ()

/-- The source checks of push_checks. -/
def State.pushSource (s : State) (ag : Agent) (r : CopyReq) : Except Trap Unit :=
  let read (_ : Nat) : Nat := rRead
  match r.op with
  | 0 => (s.engRange ag r.src r.w1.toInt r.count 1 read).map fun _ => ()
  | 1 => mustHold r.src rRead
  | 2 => (s.engRange ag r.src r.w1.toInt (r.count * r.es) r.es read).map fun _ => ()
  | 3 => (s.engRange ag r.src r.w1.toInt (r.count * codeBytes r.stype) (codeBytes r.stype) read).map fun _ => ()
  | _ => .ok ()

/-- The index list checks of push_checks. -/
def State.pushIndex (s : State) (ag : Agent) (r : CopyReq) : Except Trap Unit :=
  let read (_ : Nat) : Nat := rRead
  match r.op with
  | 1 => (s.engRange ag r.idx r.w1.toInt (4 * r.count) 4 read).map fun _ => ()
  | 2 => (s.engRange ag r.idx r.w2.toInt (4 * r.count) 4 read).map fun _ => ()
  | _ => .ok ()

/-- The destination checks of push_checks. -/
def State.pushDest (s : State) (ag : Agent) (r : CopyReq) : Except Trap Unit :=
  if r.op = 2 then
    match mustHold r.dst (destRights (segBase r.dst / 2 ^ 60)) with
    | .error e => .error e
    | .ok _ => if segBase r.dst / 2 ^ 60 = 7 then .error (ownTrap cAlign 0x21 (ofInt (segBase r.dst))) else .ok ()
  else (s.engRange ag r.dst r.w2.toInt r.total r.dstAlign destRights).map fun _ => ()

/-- The concord check of push_checks. -/
def State.pushConcord (s : State) (ag : Agent) (r : CopyReq) : Except Trap Unit :=
  if r.cc then (s.engRange ag r.cseg r.w3.toInt 16 16 (AKind.rights .rmw)).map fun _ => () else .ok ()

/-- push_checks (R214): the first failing check, or none. -/
def State.pushChecks (s : State) (ag : Agent) (w0 : Word) (r : CopyReq) : Except Trap Unit :=
  if r.op ≥ 5 then .error (engineFault 0x71)
  else if copyBad w0 r then .error (engineFault 0x72)
  else if copyTypesBad w0 r then .error (engineFault 0x73)
  else do
    s.pushSource ag r
    s.pushIndex ag r
    s.pushDest ag r
    s.pushConcord ag r

/-- The four request words g[a] to g[a + 3]. -/
def requestWord (t : Slot) (a : G) (i : Nat) : Word := t.rg (Fin.ofNat 32 (a.val + i))

/-- The request of the running thread, or the trap of its push. -/
def State.pushed (s : State) (a : G) : Except Trap CopyReq :=
  let t := s.me
  let w := requestWord t a
  let r := copyOf t s.cur.core s.cur.slot (w 0) (w 1) (w 2) (w 3)
  (s.pushChecks (s.agent s.cur.core s.cur.slot) (w 0) r).map fun _ => r

/-- A request enters its engine's command FIFO. -/
def State.enqueueCopy (s : State) (r : CopyReq) : State :=
  let s := s.modCore r.core fun c => { c with copyFifo := c.copyFifo ++ [{ r with id := s.nextReq }] }
  { s with nextReq := s.nextReq + 1 }

/-- The command FIFO is full (R209). -/
def Core.fifoFull (c : Core) : Bool := c.copyFifo.length ≥ 16

/-- CPQ (R210, R214, R235). -/
def execCpq (a : G) (s : State) : Out :=
  match s.pushed a with
  | .error t => .next (s.trapMe t)
  | .ok r =>
    if (s.core s.cur.core).fifoFull then .next (s.park s.cur.core s.cur.slot (.fifo r))
    else .next ((s.enqueueCopy r).doneWith id)

/-- CPQN (R210, R214, R235). -/
def execCpqn (d a : G) (s : State) : Out :=
  match s.pushed a with
  | .error t => .next (s.trapMe t)
  | .ok r => if (s.core s.cur.core).fifoFull then s.doneG d 1 else (s.enqueueCopy r).doneG d 0

/-- The thread parked longest on a core's FIFO, the lower-numbered slot on a tie (R210). -/
def Core.fifoWaiter (c : Core) : Option (Nat × CopyReq) :=
  (List.range 16).foldl (fun best k =>
    match (c.slot k).st with
    | .parked (.fifo r) =>
      match best with
      | some (b, _) => if (c.slot k).parkClk < (c.slot b).parkClk then some (k, r) else best
      | none => some (k, r)
    | _ => best) none

/-- Up to n free entries of a core's FIFO go to the threads that have waited longest (R210). -/
def State.fillFifo (s : State) (cid : Nat) : Nat → State
  | 0 => s
  | n + 1 =>
    if (s.core cid).fifoFull then s
    else
      match (s.core cid).fifoWaiter with
      | some (k, q) => ((s.enqueueCopy q).modSlot cid k fun t => { t with pc := t.npc, st := .ready }).fillFifo cid n
      | none => s

/-- Requests in progress: those that a cancel has ended hold no place of the four (R209, R334). -/
def Core.copiesRunning (c : Core) : Nat := (c.copyBusy.filter fun r => !r.dropped).length

/-- COPY_REQUEST_START (R209, R210): the oldest request starts, and the entry it frees goes to the thread that has waited longest. -/
def execCopyRequestStart (s : State) : Out :=
  let cid := s.ev.core
  match (s.core cid).copyFifo with
  | [] => .next s
  | r :: rest =>
    if (s.core cid).copiesRunning ≥ 4 then .next s
    else
      let d := s.drawLatency
      let s := d.2.modCore cid fun c => { c with copyFifo := rest, copyBusy := c.copyBusy ++ [{ r with due := s.clk + 1 + d.1 }] }
      .next (s.fillFifo cid 1)

/-! ## Carrying out a request -/

/-- One unit of a request: the pieces it reads, or a constant, and where it writes. -/
structure Move where
  src : List (Option Word × Nat)  -- address and size of each piece, lowest first; none for zeros that nothing is read for
  dst : Word
  n : Nat
  const : Nat := 0             -- the value where nothing is read
  line : Bool := false         -- a typed form: the line with its typed bit (R76)
deriving DecidableEq, Repr

/-- A move whose addresses are translated. -/
structure Resolved where
  src : List (Option (Word × Nat) × Nat)   -- address and cell, and size
  cell : Nat
  move : Move
deriving DecidableEq, Repr

/-- Single bytes from an address on. -/
def bytesFrom (a : Word) (n : Nat) : List (Option Word × Nat) := (List.range n).map fun i => (some (a + BitVec.ofNat 64 i), 1)

/-- Offset and size of unit i of an n-byte range cut at multiples of 8 bytes of the address. -/
def pieceAt (a : Word) (n i : Nat) : Nat × Nat :=
  let lead := min n ((8 - a.toNat % 8) % 8)
  let words := (n - lead) / 8
  if i < lead then (i, 1) else if i < lead + words then (lead + 8 * (i - lead), 8) else (8 * words + (i - words), 1)

/-- How many units that range has. -/
def pieceCount (a : Word) (n : Nat) : Nat :=
  let lead := min n ((8 - a.toNat % 8) % 8)
  lead + (n - lead) / 8 + (n - lead) % 8

/-- How a copy is cut (R215, R221): lines, words at equal alignment, words under fe, or single bytes. -/
inductive CopyCut where
  | lines | pieces | words | bytes
deriving DecidableEq, Repr

/-- First source address of a copy. -/
def CopyReq.srcAt (r : CopyReq) : Word := segPlus r.src r.w1.toInt

/-- First destination address of every operation but a scatter. -/
def CopyReq.dstAt (r : CopyReq) : Word := segPlus r.dst r.w2.toInt

/-- The cut of a copy. -/
def CopyReq.cut (r : CopyReq) : CopyCut :=
  if r.srcAt.toNat % 64 = 0 && r.dstAt.toNat % 64 = 0 && r.count % 64 = 0 then .lines
  else if r.srcAt.toNat % 8 = r.dstAt.toNat % 8 then .pieces
  else if r.fe then .words
  else .bytes

/-- Size of a destination element of a gather, scatter, convert or fill. -/
def CopyReq.size (r : CopyReq) : Nat := if r.op = 3 then codeBytes r.dtype else r.es

/-- How many elements a unit of these operations holds: one, or under fe those of an 8-byte word (R221). -/
def CopyReq.per (r : CopyReq) : Nat := if r.fe && r.op != 2 && r.size < 8 then 8 / r.size else 1

/-- How many units a request has. -/
def CopyReq.units (r : CopyReq) : Nat :=
  match r.op with
  | 0 =>
    match r.cut with
    | .lines => r.count / 64
    | .pieces => pieceCount r.dstAt r.count
    | .words => r.count / 8
    | .bytes => r.count
  | 4 => r.count / r.es / r.per
  | _ => r.count / r.per

/-- Unit i of a copy (R215, R221). -/
def CopyReq.copyUnit (r : CopyReq) (i : Nat) : Move :=
  let src (o : Nat) : Word := r.srcAt + BitVec.ofNat 64 o
  let dst (o : Nat) : Word := r.dstAt + BitVec.ofNat 64 o
  match r.cut with
  | .lines => { src := [(some (src (64 * i)), 64)], dst := dst (64 * i), n := 64, line := true }
  | .pieces =>
    let q := pieceAt r.dstAt r.count i
    { src := [(some (src q.1), q.2)], dst := dst q.1, n := q.2 }
  | .words => { src := bytesFrom (src (8 * i)) 8, dst := dst (8 * i), n := 8 }
  | .bytes => { src := [(some (src i), 1)], dst := dst i, n := 1 }

/-- The address that an index element of a gather or scatter leads to lies beyond the limit of its segment (R216, R217). -/
def CopyReq.beyond (r : CopyReq) (k : Nat) : Option Word :=
  let sg := if r.op = 1 then r.src else r.dst
  if (r.op = 1 || r.op = 2) && k * r.es + r.es > segLimit sg then some (segPlus sg (k * r.es : Nat)) else none

/-- The elements of unit i. -/
def CopyReq.elemsOf (r : CopyReq) (i : Nat) : List Nat := (List.range r.per).map (r.per * i + ·)

/-- Unit i of a request, given the index elements `ks` of a gather's or scatter's elements (R216, R217, R219, R220). A gather's element
beyond the source limit writes zeros; a scatter's beyond the destination limit is not written. -/
def CopyReq.unit (r : CopyReq) (i : Nat) (ks : List Nat) : Option Move :=
  let n := r.size * r.per
  let dst := r.dstAt + BitVec.ofNat 64 (n * i)
  match r.op with
  | 0 => some (r.copyUnit i)
  | 1 => some { src := ks.map fun k => (if (r.beyond k).isSome then none else some (segPlus r.src (k * r.es : Nat)), r.es), dst, n,
                line := r.esize == 6 }
  | 2 =>
    let k := ks.headD 0
    if (r.beyond k).isSome then none
    else some { src := [(some (r.srcAt + BitVec.ofNat 64 (r.es * i)), r.es)], dst := segPlus r.dst (k * r.es : Nat), n := r.es,
                line := r.esize == 6 }
  | 3 =>
    let a := codeBytes r.stype
    some { src := (r.elemsOf i).map fun j => (some (r.srcAt + BitVec.ofNat 64 (a * j)), a), dst, n }
  | _ => some { src := [], dst, n, const := (List.range r.per).foldl (fun x j => x + r.w1.toNat % 2 ^ (8 * r.es) * 2 ^ (8 * r.es * j)) 0 }

/-- The agent of a request (R211). -/
def CopyReq.agent (r : CopyReq) : Agent := { core := r.core, slot := r.slot, job := r.job }

/-- Translates the pieces of a move. -/
def State.resolvePieces (s : State) (ag : Agent) : List (Option Word × Nat) → State × Except EngFail (List (Option (Word × Nat) × Nat))
  | [] => (s, .ok [])
  | (none, n) :: t =>
    let q := s.resolvePieces ag t
    (q.1, q.2.map ((none, n) :: ·))
  | (some a, n) :: t =>
    match s.engCell ag a false with
    | (s, .error e) => (s, .error e)
    | (s, .ok c) =>
      let q := s.resolvePieces ag t
      (q.1, q.2.map ((some (a, c), n) :: ·))

/-- Translates a unit. -/
def State.resolveMove (s : State) (ag : Agent) (m : Move) : State × Except EngFail Resolved :=
  match s.resolvePieces ag m.src with
  | (s, .error e) => (s, .error e)
  | (s, .ok ps) =>
    match s.engCell ag m.dst true with
    | (s, .error e) => (s, .error e)
    | (s, .ok c) => (s, .ok ⟨ps, c, m⟩)

/-- Reads the pieces of a move, lowest first, with their target checks: the value of each with its size, and whether its line is typed. -/
def State.readPieces (s : State) (ag : Agent) : List (Option (Word × Nat) × Nat) → State × Except EngFail (List (Nat × Nat × Bool))
  | [] => (s, .ok [])
  | (none, n) :: t =>
    let q := s.readPieces ag t
    (q.1, q.2.map ((0, n, false) :: ·))
  | (some (a, c), n) :: t =>
    match s.engCheck ag a c n .read with
    | (s, some e) => (s, .error e)
    | (s, none) =>
      let x := (s.readN c n, n, (s.line c).typed)
      let q := s.readPieces ag t
      (q.1, q.2.map (x :: ·))

/-- The rounding direction of a request. -/
def CopyReq.rmode (r : CopyReq) : RMode := RMode.ofField (Fin.ofNat 8 r.rm) 0

/-- The value that a request writes for a value read, with the flags of a conversion (R219). -/
def CopyReq.value (r : CopyReq) (x : Nat) : Nat × Fl :=
  if r.op = 3 then
    match tyOf r.stype, tyOf r.dtype with
    | some a, some b => convertElem a b false false r.rmode x
    | _, _ => (x, 0)
  else (x, 0)

/-- The values of the pieces side by side, lowest first, with the flags of all of them. -/
def CopyReq.joined (r : CopyReq) : List (Nat × Nat × Bool) → Nat × Fl
  | [] => (0, 0)
  | (x, n, _) :: t =>
    let v := r.value x
    let w := r.joined t
    (v.1 + 2 ^ (8 * if r.op = 3 then r.size else n) * w.1, v.2 ||| w.2)

/-- Marks full each of the 8-byte words that have been written, and serves their waiters (R221, R233). -/
def State.markWritten (s : State) (cell n : Nat) : State :=
  ((List.range (n / 8)).map fun i => cell + 8 * i).foldl (fun s w => (s.mark w true).serveWord w) s

/-- One move: its read, its value, its write. -/
def State.doMove (s : State) (r : CopyReq) (m : Resolved) : State × Except EngFail Fl :=
  match s.readPieces r.agent m.src with
  | (s, .error e) => (s, .error e)
  | (s, .ok xs) =>
    match s.engCheck r.agent m.move.dst m.cell m.move.n .write with
    | (s, some e) => (s, .error e)
    | (s, none) =>
      let v := if xs.isEmpty then (m.move.const, 0) else r.joined xs
      let s := s.accept m.cell m.move.n
      let s := if m.move.line && xs.any (·.2.2) then s.writeTyped m.cell v.1 else s.writePlain m.cell m.move.n v.1
      (if r.fe then s.markWritten m.cell m.move.n else s, .ok v.2)

/-- Chunk bits that n bytes at an address map to (R228). -/
def chunkBits (a : Word) (n : Nat) : Nat :=
  if n = 0 then 0
  else (List.range ((a.toNat + n - 1) / 512 - a.toNat / 512 + 1)).foldl (fun m i => m ||| 2 ^ ((a.toNat / 512 + i) % 64)) 0

/-- Bytes of the destination that unit i writes, for every operation but a scatter: address and size. -/
def CopyReq.unitDest (r : CopyReq) (i : Nat) : Word × Nat :=
  match r.unit i [] with
  | some m => (m.dst, m.n)
  | none => (r.dstAt, 0)

/-- The chunk bits whose bytes are all written, of a request with the units `left` still to be made (R228). -/
def CopyReq.chunksDone (r : CopyReq) (left : List Nat) : Nat :=
  let open_ := left.foldl (fun m i => m ||| chunkBits (r.unitDest i).1 (r.unitDest i).2) 0
  chunkBits r.dstAt r.total &&& (2 ^ 64 - 1 - open_)

/-- The status bits [62:57] of a request (R223): err, and the cvt bits of its flags. -/
def statusBits (err : Bool) (f : Fl) : Nat :=
  (if err then 32 else 0) + (if (f &&& Fl.nv) != 0 then 8 else 0) + (if (f &&& Fl.of) != 0 then 4 else 0)
    + (if (f &&& Fl.uf) != 0 then 2 else 0) + (if (f &&& Fl.nx) != 0 then 1 else 0)

/-- The chunk bits that the last arrival part sets: those not yet set whose bytes are written (R222, R228). -/
def CopyReq.lastChunks (r : CopyReq) : Nat :=
  match r.todo with
  | none => 0
  | some left => if r.op = 2 then (if left.isEmpty then r.chunks else 0) else r.chunksDone left &&& (2 ^ 64 - 1 - r.chunks)

/-- The index list address of a request. -/
def CopyReq.indexAt (r : CopyReq) : Word := segPlus r.idx (if r.op = 1 then r.w1.toInt else r.w2.toInt)

/-- Address of a request's concord. -/
def CopyReq.concordAt (r : CopyReq) : Word := segPlus r.cseg r.w3.toInt

/-- A request in progress is kept as it now stands. -/
def State.keepCopy (s : State) (r : CopyReq) : State :=
  s.modCore r.core fun c => { c with copyBusy := c.copyBusy.map fun q => if q.id = r.id then r else q }

/-- A request waits for the answer to a page fault (R222). -/
def State.blockCopy (s : State) (r : CopyReq) (reason : Nat) (a : Word) : State :=
  (s.keepCopy { r with blocked := some a, status := 0 }).report ⟨Config.coreDie r.core, r.core, r.slot, cPage, reason, a, none⟩

/-- An asynchronous fault of a request, in the order of the requests' reports. -/
def State.copyReport (s : State) (r : CopyReq) (cause detail : Nat) (addr : Word) : State :=
  let s' := s.engineReport r.core r.slot r.uid s.nextAcc cause detail addr (some (r.job, if r.cc then r.concordAt else 0))
  { s' with nextAcc := s.nextAcc + 1 }

/-- A failure as cause, detail and address; a page fault has the status that answered it as its detail. -/
def EngFail.parts : EngFail → Nat × Nat × Word
  | .page reason a => (cPage, reason, a)
  | .fault c d a => (c, d, a)

/-- An arrival part of a request (R229): n bytes, after all the writes that it covers. -/
def State.sendArrival (s : State) (r : CopyReq) (cell n chunks status : Nat) : State :=
  let id := s.nextAcc
  let home := s.homeOf cell
  let acc : Access :=
    { core := r.core, slot := r.slot, job := r.job, op := .ccarr n chunks status, done := .none, posted := true, counted := false,
      parts := [(home, [⟨0, r.concordAt, cell, 16⟩])], waiting := [home], results := [], refusals := [], engine := some r.uid,
      gather := r.op == 1, addr := r.concordAt }
  let s := { s with accesses := SMap.set none s.accesses id (some acc), nextAcc := id + 1 }
  if isLocal r.core home then s.sendAt (s.clk + 1) (.access id home) else s.send (.access id home)

/-- The end of a request: it leaves the engine and reports (R216, R217, R222); its last arrival part carries the bytes that no earlier
one did, the chunk bits not yet set and the status (R228, R229). `lost`: its concord's update is refused. -/
def State.leaveCopy (s : State) (r : CopyReq) (concord : Option Nat) (lost : Option EngFail) : State :=
  let s := s.modCore r.core fun c => { c with copyBusy := c.copyBusy.filter fun q => q.id != r.id }
  let s := match r.overAt with
    | some o => s.copyReport r cSegment 0x11 o.2
    | none => s
  let s := match r.fail with
    | some (c, d, a) => s.copyReport r c d a
    | none => s
  let s := match lost with
    | some e => s.copyReport r e.parts.1 e.parts.2.1 e.parts.2.2
    | none => s
  match concord with
  | some cell => s.sendArrival r cell (r.total - r.sent) r.lastChunks (statusBits (r.overAt.isSome || r.fail.isSome || r.dropped) r.flags)
  | none => s

/-- Ends a request with nothing left to do, or abandoned; the page of its concord may have to be waited for (R222). -/
def State.endCopy (s : State) (r : CopyReq) : State :=
  if !r.cc then s.leaveCopy r none none
  else
    match s.engCell r.agent r.concordAt true with
    | (s, .ok cell) => s.leaveCopy r (some cell) none
    | (s, .error (.page reason a)) => if r.status = 0 then s.blockCopy { r with ending := true } reason a else s.leaveCopy r none (some (.page r.status a))
    | (s, .error e) => s.leaveCopy r none (some e)

/-- The index element of element e, if it has been read. -/
def CopyReq.index (r : CopyReq) (e : Nat) : Option Nat := (r.got.find? fun x => x.1 == e).map (·.2)

/-- Reads index elements that have not been read, each exactly once (R216), up to one that fails. -/
def State.readIndex (s : State) (r : CopyReq) : List Nat → State × CopyReq × Option EngFail
  | [] => (s, r, none)
  | e :: t =>
    if (r.index e).isSome then s.readIndex r t
    else
      match s.engRead r.agent (r.indexAt + BitVec.ofNat 64 (4 * e)) 4 with
      | (s, .error x) => (s, r, some x)
      | (s, .ok k) => s.readIndex { r with got := r.got ++ [(e, k)] } t

/-- The elements whose index elements unit i needs. -/
def CopyReq.indexed (r : CopyReq) (i : Nat) : List Nat := if r.op = 1 || r.op = 2 then r.elemsOf i else []

/-- One unit of a request: its index elements, its translation, its read and its write. -/
def State.copyUnit (s : State) (r : CopyReq) (i : Nat) : State × CopyReq × Except EngFail Fl :=
  match s.readIndex r (r.indexed i) with
  | (s, r, some e) => (s, r, .error e)
  | (s, r, none) =>
    match r.unit i ((r.indexed i).filterMap r.index) with
    | none => (s, r, .ok 0)
    | some m =>
      match s.resolveMove r.agent m with
      | (s, .error e) => (s, r, .error e)
      | (s, .ok q) =>
        match s.doMove r q with
        | (s, .ok f) => (s, r, .ok f)
        | (s, .error e) => (s, r, .error e)

/-- The lower of two elements beyond a limit, with its address. -/
def lowerOf (x y : Option (Nat × Word)) : Option (Nat × Word) :=
  match x, y with
  | some a, some b => some (if b.1 < a.1 then b else a)
  | some a, none => some a
  | none, y => y

/-- The request after unit i, the first of those to be made, has been made. -/
def CopyReq.after (r : CopyReq) (i : Nat) (f : Fl) : CopyReq :=
  let es := r.indexed i
  let past := es.filterMap fun e => (r.index e).bind fun k => (r.beyond k).map fun a => (e, a)
  { r with
    todo := r.todo.map (·.drop 1), got := r.got.filter fun x => !es.contains x.1, flags := r.flags ||| f
    overAt := past.foldl (fun o x => lowerOf o (some x)) r.overAt
    chunks := if r.op = 2 then (match r.unit i (es.filterMap r.index) with
      | some m => r.chunks ||| chunkBits m.dst m.n
      | none => r.chunks) else r.chunks }

/-- Units of a request one after another, up to one that fails or meets a page fault. -/
def State.copyUnits (s : State) (r : CopyReq) : List Nat → State × CopyReq × Option EngFail
  | [] => (s, r, none)
  | i :: t =>
    match s.copyUnit r i with
    | (s, r, .ok f) => s.copyUnits (r.after i f) t
    | (s, r, .error e) => (s, r, some e)

/-- Units of a scatter that may be made now: their index elements are read, and every earlier one left, its index read too, names another
destination element (R217). -/
def CopyReq.free (r : CopyReq) (left : List Nat) : List Nat :=
  left.filter fun i =>
    match r.index i with
    | none => false
    | some k => left.all fun j => j ≥ i || match r.index j with
      | some q => q != k
      | none => false

/-- An arrival part for what has been written so far (R229): the bytes and the finished chunk bits that no earlier part carried. A scatter
sets its chunk bits with its last part only (R228). -/
def State.copyPart (s : State) (r : CopyReq) (left : List Nat) : State :=
  let size := left.foldl (fun n i => n + (if r.op = 2 then r.es else (r.unitDest i).2)) 0
  let n := r.total - size - r.sent
  if !r.cc || n = 0 then s.keepCopy r
  else
    match s.engCell r.agent r.concordAt true with
    | (s, .ok cell) =>
      let bits := if r.op = 2 then 0 else r.chunksDone left &&& (2 ^ 64 - 1 - r.chunks)
      (s.keepCopy { r with sent := r.sent + n, chunks := r.chunks ||| bits }).sendArrival r cell n bits 0
    | (s, .error _) => s.keepCopy r

/-- The first n entries of a list, from place p on around its end; and the others. -/
def takeRound (l : List Nat) (p n : Nat) : List Nat × List Nat := ((l.drop p ++ l.take p).take n, (l.drop p ++ l.take p).drop n)

/-- A request meets a failure: a page fault leaves it waiting for its answer, any other failure ends it (R222). -/
def State.failCopy (s : State) (r : CopyReq) (e : EngFail) : State :=
  match e with
  | .page reason a => s.blockCopy r reason a
  | e => s.endCopy { r with fail := some e.parts }

/-- A request in progress has done a part of its work: it ends, or goes on later, by free choice after an arrival part (R229). -/
def State.pauseCopy (s : State) (r : CopyReq) : State :=
  let left := r.todo.getD []
  if left.isEmpty then s.endCopy r
  else
    let l := s.drawLatency
    let x := l.2.drawChoice 2
    let r := { r with due := s.clk + 1 + l.1 }
    if x.1 = 1 then x.2.copyPart r left else x.2.keepCopy r

/-- A request in progress goes on (R215 to R222). By free choice it reads some index elements ahead, from any place on (R216); then it makes
some of its units, by free choice how many and from which on, of a scatter only those that may be made. Where the answer to a page fault is a
status of Table 3, the request is abandoned, or, for the page of its concord, it ends without its last arrival. -/
def State.runCopy (s : State) (r : CopyReq) : State :=
  if r.fail.isSome || r.dropped || r.ending then s.endCopy r
  else if r.status != 0 then s.endCopy { r with fail := some (cPage, r.status, r.lostAt), status := 0 }
  else
    let todo := r.todo.getD (List.range r.units)
    let unread := (todo.flatMap r.indexed).filter fun e => (r.index e).isNone
    let least := if r.op = 2 && (r.free todo).isEmpty then 1 else 0
    let x := s.drawChoice (unread.length + 1 - least)
    let y := x.2.drawChoice (unread.length + 1)
    match y.2.readIndex { r with todo := some todo } (takeRound unread y.1 (x.1 + least)).1 with
    | (s, r, some e) => s.failCopy r e
    | (s, r, none) =>
      let able := if r.op = 2 then r.free todo else todo
      if todo.isEmpty then s.endCopy r
      else if able.isEmpty then s.pauseCopy r
      else
        let c := s.drawChoice able.length
        let d := c.2.drawChoice able.length
        let order := takeRound able d.1 (able.length - c.1)
        let rest := if r.op = 2 then todo.filter fun i => !order.1.contains i else order.2
        match d.2.copyUnits { r with todo := some (order.1 ++ rest) } order.1 with
        | (s, r, some e) => s.failCopy r e
        | (s, r, none) => s.pauseCopy r

/-- A request is ended from outside (R334, R403): what is left of its arrival is applied and err is set, once the page of its concord is at
hand (R222). -/
def State.abandonCopy (s : State) (r : CopyReq) : State :=
  let s := s.modCore r.core fun c =>
    { c with copyFifo := c.copyFifo.filter fun q => q.id != r.id, copyBusy := c.copyBusy.filter fun q => q.id != r.id }
  let r := { r with dropped := true, blocked := none, status := 0, due := s.clk }
  (s.modCore r.core fun c => { c with copyBusy := c.copyBusy ++ [r] }).endCopy r

/-- Byte ranges that a request may touch, the own slice under its space 0x0 name (R83). -/
def CopyReq.spans (r : CopyReq) : List (Nat × Nat) :=
  let norm (a : Word) : Nat := if spaceOf a = 14 then sramCell r.core (a.toNat % 2 ^ 18) else a.toNat
  let whole (sg : BitVec 128) : Nat × Nat := (norm (ofInt (segBase sg)), segLimit sg)
  let part (sg : BitVec 128) (w : Word) (n : Nat) : Nat × Nat := (norm (segPlus sg w.toInt), n)
  match r.op with
  | 0 => [part r.src r.w1 r.count, part r.dst r.w2 r.count]
  | 1 => [whole r.src, part r.idx r.w1 (4 * r.count), part r.dst r.w2 r.total]
  | 2 => [part r.src r.w1 r.total, part r.idx r.w2 (4 * r.count), whole r.dst]
  | 3 => [part r.src r.w1 (r.count * codeBytes r.stype), part r.dst r.w2 r.total]
  | _ => [part r.dst r.w2 r.total]

/-- Two requests of one thread on one path that may share a byte keep their push order (R109, R239). -/
def CopyReq.ordered (x y : CopyReq) : Bool :=
  x.slot == y.slot && x.uid == y.uid && (x.op == 1) == (y.op == 1)
    && x.spans.any fun a => y.spans.any fun b => a.1 < b.1 + b.2 && b.1 < a.1 + a.2

/-- A request in progress may be carried out now: its time has come, it waits for no page, and no earlier one orders it. -/
def Core.copyReady (c : Core) (clk : Nat) (r : CopyReq) : Bool :=
  r.due ≤ clk && r.blocked.isNone && (c.copyBusy.takeWhile fun q => q.id != r.id).all fun q => !q.ordered r

/-- The operation `op` of the request that the event names, if that request may be carried out now. -/
def State.copyEvent (s : State) (op : Nat) : Out :=
  let c := s.core s.ev.core
  match c.copyBusy.find? fun r => r.id == s.ev.id with
  | some r => if r.op = op && c.copyReady s.clk r then .next (s.runCopy r) else .next s
  | none => .next s

/-- COPY (R215). -/
def execCopy (s : State) : Out := s.copyEvent 0

/-- GATHER (R216, R218). -/
def execGather (s : State) : Out := s.copyEvent 1

/-- SCATTER (R217, R218). -/
def execScatter (s : State) : Out := s.copyEvent 2

/-- CONVERT (R219). -/
def execConvert (s : State) : Out := s.copyEvent 3

/-- FILL (R220). -/
def execFill (s : State) : Out := s.copyEvent 4

end Sys2Proof.Machine
end

