-- ==== Sys2Proof/Machine/Matrix.lean ====
section
/-!
DEFINITION. The matrix engine (R240 to R256): its planes and accumulators, the checks at issue, the instructions, the pass and the issue
credit (R247). MTILE stands in Mtile.lean.
-/
namespace Sys2Proof.Machine

/-! ## Shapes and state -/

/-- Physical columns of an LNS6 plane (R240, Table 1). -/
def planeCols (cid : Nat) : Nat := if Config.kindOf cid == .dense then 80 else 40

/-- Rows of a plane in the mode that a form loads: 80 for LNS6, 40 for FP16 (R240). -/
def planeRows (f16 : Bool) : Nat := if f16 then 40 else 80

/-- Live LNS6 width W_l6 (R241). -/
def State.widthL6 (s : State) (cid : Nat) : Nat :=
  planeCols cid - (if s.deadCols.any fun d => d.1 == cid then 1 else 0)

/-- Live FP16 width W_f16 (R241). -/
def State.widthF16 (s : State) (cid : Nat) : Nat :=
  planeCols cid / 2 - (if s.deadCols.any fun d => d.1 == cid then 1 else 0)

/-- Live width of a form. -/
def State.width (s : State) (cid : Nat) (f16 : Bool) : Nat := if f16 then s.widthF16 cid else s.widthL6 cid

/-- A code of a plane. -/
def Plane.code (p : Plane) (row col : Nat) : Nat := SMap.get 0 p.codes (80 * row + col)

/-- The scale of a column. -/
def Plane.scale (p : Plane) (col : Nat) : Int := SMap.get 0 p.scales col

/-- Writes a code. -/
def Plane.put (p : Plane) (row col x : Nat) : Plane := { p with codes := SMap.set 0 p.codes (80 * row + col) x }

/-- Writes a column's scale. -/
def Plane.putScale (p : Plane) (col : Nat) (x : Int) : Plane := { p with scales := SMap.set 0 p.scales col x }

/-- An accumulator element. -/
def Core.accAt (c : Core) (row col : Nat) : Nat := SMap.get 0 c.acc (80 * row + col)

/-- Writes an accumulator element. -/
def Core.setAcc (c : Core) (row col x : Nat) : Core := { c with acc := SMap.set 0 c.acc (80 * row + col) x }

/-- Sets `count` rows from `first` on to +0 (R256). -/
def Core.clearAcc (c : Core) (first count : Nat) : Core :=
  { c with acc := c.acc.filter fun e => !(80 * first ≤ e.1 && e.1 < 80 * (first + count)) }

/-- Conditions of an operation join the sticky bits of the status (R243). -/
def Core.mxSet (c : Core) (f : Fl) : Core :=
  let bit (x : Fl) (n : Nat) : Nat := if (f &&& x) != 0 then n else 0
  { c with mxSticky := c.mxSticky ||| BitVec.ofNat 4 (bit Fl.nal 8 + bit Fl.nv 4 + bit Fl.of 2 + bit Fl.uf 1) }

/-- Code of a plane's mode in the status word (R243). -/
def PlaneMode.code : PlaneMode → Nat
  | .empty => 0
  | .l6 => 1
  | .l6c => 2
  | .f16 => 3

/-- The status word (R243, Table 3). -/
def Core.mxStatus (c : Core) : Word :=
  BitVec.ofNat 64 ((if c.mxRun.isSome then 2 ^ 15 else 0) + c.mxActive.mode.code * 2 ^ 12 + c.mxShadow.mode.code * 2 ^ 10
    + c.mxSticky.toNat)

/-! ## Checks at issue (R250) -/

/-- Number of lines whose ranges need a check: every one up to the first that must pass the limit. -/
def linesToCheck (sg : BitVec 128) (count stride : Nat) : Nat :=
  if stride = 0 then min count 1 else min count (segLimit sg / stride + 2)

/-- R90 for lines i of `size` bytes at base + i × stride, then the alignment of base and stride themselves (R251, R254). -/
def State.checkLines (s : State) (ag : Agent) (sg : BitVec 128) (base count stride size al : Nat) (need : Nat → Nat) : Option Trap :=
  let rec go : Nat → Nat → Option Trap
    | 0, _ => none
    | n + 1, i =>
      match s.engRange ag sg (base + i * stride : Nat) size al need with
      | .error t => some t
      | .ok _ => go n (i + 1)
  match go (linesToCheck sg count stride) 0 with
  | some t => some t
  | none =>
    if base % al != 0 then some (ownTrap cAlign 0x21 (segPlus sg base))
    else if stride % al != 0 then some (ownTrap cAlign 0x21 (segPlus sg (base + stride : Nat)))
    else none

/-- Bytes of an MLDW line that the issue check covers, and its alignment (R250, R251). -/
def State.mldwLine (s : State) (cid : Nat) (f16 west : Bool) : Nat × Nat :=
  if f16 then (if west then 2 * s.widthF16 cid else 80, 16) else (64, 64)

/-- Bytes of an MSTRM vector that the issue check covers, and its alignment (R250, R253). -/
def State.mstrmLine (s : State) (cid : Nat) (f16 tr : Bool) : Nat × Nat :=
  if f16 then (if tr then 2 * s.widthF16 cid else 80, 16) else (64, 64)

/-- Bytes of an output element. -/
def outBytes (ty : VType) : Nat := if ty == .f32 then 4 else 2

/-- The checks at issue of a matrix instruction (R250). -/
def State.mxCheck (s : State) (cid : Nat) (ag : Agent) (op : MxOp) : Option Trap :=
  let read (_ : Nat) : Nat := rRead
  let shape (bad : Bool) : Option Trap := if bad then some (ownTrap cEngine 0x74 0) else none
  match op with
  | .mldw f16 west comp first base count stride sg =>
    let l := s.mldwLine cid f16 west
    match s.checkLines ag sg base count stride l.1 l.2 read with
    | some t => some t
    | none =>
      match shape (first + count > if west then planeRows f16 else s.width cid f16) with
      | some t => some t
      | none =>
        if comp && (Config.kindOf cid != .sparse || west || f16) then some (ownTrap cEngine 0x76 0) else none
  | .mstrm f16 tr first base count stride sg =>
    let l := s.mstrmLine cid f16 tr
    match s.checkLines ag sg base count stride l.1 l.2 read with
    | some t => some t
    | none => shape (first + count > 32)
  | .mdrain ty cols _ first base count stride sg =>
    match s.checkLines ag sg base count stride (cols * outBytes ty) (outBytes ty) destRights with
    | some t => some t
    | none => shape (first + count > 32)
  | .mclr first count _ => shape (first + count > 32)
  | _ => none

/-- A matrix instruction of the running thread whose checks have passed enters the engine's queue, and its thread parks (R244). -/
def State.mxEnter (s : State) (op : MxOp) : State :=
  let cid := s.cur.core
  let id := s.nextReq
  let s := s.modCore cid fun c => { c with mxQueue := c.mxQueue ++ [⟨id, s.cur.slot, s.me.tag, op⟩] }
  ({ s with nextReq := id + 1 }).park cid s.cur.slot (.matrix id)

/-- The mould of the parking instructions. -/
def State.mxIssue (s : State) (op : MxOp) : Out :=
  match s.mxCheck s.cur.core (s.agent s.cur.core s.cur.slot) op with
  | some t => .next (s.trapMe t)
  | none => .next (s.mxEnter op)

/-- MLDW (R251). -/
def execMldw (ty : VType) (west comp : Bool) (sg : S) (d a b c : G) (s : State) : Out :=
  let t := s.me
  s.mxIssue (.mldw (ty == .f16) west comp (t.rg d).toNat (t.rg a).toNat (t.rg b).toNat (t.rg c).toNat t.s[sg])

/-- MSWAP (R252). -/
def execMswap (s : State) : Out := s.mxIssue .mswap

/-- MSTRM (R253). -/
def execMstrm (ty : VType) (tr : Bool) (sg : S) (d a b c : G) (s : State) : Out :=
  let t := s.me
  s.mxIssue (.mstrm (ty == .f16) tr (t.rg d).toNat (t.rg a).toNat (t.rg b).toNat (t.rg c).toNat t.s[sg])

/-- MDRAIN (R254). -/
def execMdrain (ty : VType) (cols : BitVec 7) (clr : Bool) (sg : S) (d a b c : G) (s : State) : Out :=
  let t := s.me
  s.mxIssue (.mdrain ty cols.toNat clr (t.rg d).toNat (t.rg a).toNat (t.rg b).toNat (t.rg c).toNat t.s[sg])

/-- MCLR (R256). -/
def execMclr (a b : G) (shadow : Bool) (s : State) : Out :=
  s.mxIssue (.mclr (s.me.rg a).toNat (s.me.rg b).toNat shadow)

/-- MQW (R255). -/
def execMqw (d : G) (sel : Fin 4) (s : State) : Out :=
  let cid := s.cur.core
  match sel.val with
  | 0 => s.doneG d (BitVec.ofNat 64 (s.widthL6 cid))
  | 1 => s.doneG d (BitVec.ofNat 64 (s.widthF16 cid))
  | 2 => s.doneG d (s.core cid).mxStatus
  | _ => (s.modCore cid fun c => { c with mxSticky := 0 }).doneG d (s.core cid).mxStatus

/-! ## Memory of the engine -/

/-- Why the engine stops in an instruction: a page fault to wait on, or the trap it ends in. -/
inductive MxStop where
  | page (reason : Nat) (addr : Word)
  | trap (t : Trap)
deriving DecidableEq, Repr

/-- A failure of memory at the engine. -/
def EngFail.stop : EngFail → MxStop
  | .page r a => .page r a
  | .fault c d a => .trap (ownTrap c d a)

/-- Reads a typed line (R74, R75): its 64 bytes, of the one format that its place accepts. No line is asked for beyond its segment, whose
check comes first (R250), so a run never ends before its value blocks do and detail 0x07 does not arise (log 75). -/
def State.readTyped (s : State) (ag : Agent) (a : Word) (format : Nat) : State × Except MxStop Nat :=
  match s.engUnit ag a 64 .read with
  | (s, .error e) => (s, .error e.stop)
  | (s, .ok cell) =>
    let l := s.readN cell 64
    match typedFault (s.line cell).typed (some format) l with
    | some d => (s, .error (.trap (ownTrap cData d a)))
    | none => (s, .ok l)

/-- Reads n bytes in pieces of 2, each an FP16 element, lowest first. -/
def State.readF16s (s : State) (ag : Agent) (a : Word) : Nat → State × Except MxStop (List Nat)
  | 0 => (s, .ok [])
  | n + 1 =>
    match s.engRead ag a 2 with
    | (s, .error e) => (s, .error e.stop)
    | (s, .ok x) =>
      let q := s.readF16s ag (a + 2) n
      (q.1, q.2.map (x :: ·))

/-- A segment check at the engine, on values as they stood at issue (R250). -/
def State.lateRange (s : State) (ag : Agent) (sg : BitVec 128) (off n al : Nat) : Except MxStop Word :=
  match s.engRange ag sg off n al fun _ => rRead with
  | .error t => .error (.trap t)
  | .ok a => .ok a

/-! ## MLDW and MSWAP -/

/-- A line decoded for the shadow plane: its codes by position, and its scale. -/
structure MxLine where
  codes : List Nat
  scale : Int
deriving DecidableEq, Repr

/-- The 80 codes of a dense block. -/
def denseCodes (l : LineBits) : List Nat := (List.range 80).map (lineElem l)

/-- The codes of a compressed run's positions below 480: element i of the value block at the i-th set position (R73, R246). -/
def runCodes (pos : List Nat) (value : LineBits) : List Nat :=
  (List.range 480).map fun p => if pos.contains p then lineElem value (pos.takeWhile (· < p)).length else 0

/-- A compressed run (R246): its pattern block, then its value block if it sets a position. A value block beyond the segment is a segment
fault (R250), and so detail 0x07 does not arise (log 75). -/
def State.readRun (s : State) (ag : Agent) (sg : BitVec 128) (off : Nat) : State × Except MxStop MxLine :=
  match s.readTyped ag (segPlus sg off) 0x03 with
  | (s, .error e) => (s, .error e)
  | (s, .ok l) =>
    let pos := patternPositions l
    if pos.length > 80 || pos.any (· ≥ 480) then (s, .error (.trap (ownTrap cEngine 0x77 0)))
    else if pos.isEmpty then (s, .ok ⟨List.replicate 480 0, 0⟩)
    else
      match s.lateRange ag sg (off + 64) 64 64 with
      | .error e => (s, .error e)
      | .ok a =>
        match s.readTyped ag a 0x01 with
        | (s, .error e) => (s, .error e)
        | (s, .ok v) => (s, .ok ⟨runCodes pos v, lineScale v⟩)

/-- Line i of an MLDW form (R251, Table 6); an FP16 line has `len` elements. -/
def State.readLine (s : State) (ag : Agent) (f16 comp : Bool) (sg : BitVec 128) (off len : Nat) : State × Except MxStop MxLine :=
  let a : Word := segPlus sg off
  if f16 then
    match s.readF16s ag a len with
    | (s, .error e) => (s, .error e)
    | (s, .ok xs) => (s, .ok ⟨xs, 0⟩)
  else if comp then s.readRun ag sg off
  else
    match s.readTyped ag a 0x01 with
    | (s, .error e) => (s, .error e)
    | (s, .ok l) => (s, .ok ⟨denseCodes l, lineScale l⟩)

/-- Lines in order. -/
def State.readLines (s : State) (ag : Agent) (f16 comp : Bool) (sg : BitVec 128) (stride len : Nat) :
    Nat → Nat → State × Except MxStop (List MxLine)
  | 0, _ => (s, .ok [])
  | n + 1, off =>
    match s.readLine ag f16 comp sg off len with
    | (s, .error e) => (s, .error e)
    | (s, .ok l) =>
      let q := s.readLines ag f16 comp sg stride len n (off + stride)
      (q.1, q.2.map (l :: ·))

/-- The mode that a form loads. -/
def formMode (f16 comp : Bool) : PlaneMode := if f16 then .f16 else if comp then .l6c else .l6

/-- The shadow plane with a line written as a column (edge north). -/
def Plane.putColumn (p : Plane) (col : Nat) (l : MxLine) : Plane :=
  ((l.codes.mapIdx fun k x => (k, x)).foldl (fun p e => p.put e.1 col e.2) p).putScale col l.scale

/-- The shadow plane with the first `w` elements of a line written as a row (edge west). -/
def Plane.putRow (p : Plane) (row w : Nat) (l : MxLine) : Plane :=
  ((l.codes.take w).mapIdx fun c x => (c, x)).foldl (fun p e => p.put row e.1 e.2) p

/-- Lines loaded into the shadow plane (R251): a plane of another mode is cleared first. -/
def Core.loadShadow (c : Core) (mode : PlaneMode) (west : Bool) (first w : Nat) (ls : List MxLine) : Core :=
  let p : Plane := if c.mxShadow.mode == mode then c.mxShadow else { mode }
  let p := (ls.mapIdx fun i l => (i, l)).foldl (fun p e => if west then p.putRow (first + e.1) w e.2 else p.putColumn (first + e.1) e.2) p
  let p := if west && mode == .l6 then
      match ls.head? with
      | some l => (List.range w).foldl (fun p col => p.putScale col l.scale) p
      | none => p
    else p
  { c with mxShadow := p }

/-- The blocks of an .l6 load with edge west disagree in scale (R251, detail 0x75). -/
def scalesDiffer (ls : List MxLine) : Bool :=
  match ls with
  | [] => false
  | l :: t => t.any fun x => x.scale != l.scale

/-- Exchange of the planes (R252). -/
def Core.swapPlanes (c : Core) : Core := { c with mxActive := c.mxShadow, mxShadow := c.mxActive }

/-! ## The pass (R245) -/

/-- A pass result added into an accumulator element, to nearest with ties to even (R245). -/
def Core.addAcc (c : Core) (row col : Nat) (r : Nat × Fl) : Core :=
  let a := fpAdd fp32 .rne (c.accAt row col) r.1
  (c.setAcc row col a.1).mxSet (r.2 ||| a.2)

/-- One output of a pass: the exact sum of its products, rounded once. -/
def passSum (mode : PlaneMode) (scale : Int) (pairs : List (Nat × Nat)) : Nat × Fl :=
  if mode == .f16 then fp16Pass pairs else lnsPass scale pairs

/-- A plain pass (R245) over rows `row0` on, one for each activation element, for columns below `cols`, into accumulator row `dst`. -/
def Core.pass (c : Core) (x : Activation) (row0 cols dst : Nat) : Core :=
  if x.xs.isEmpty then c
  else
    let p := c.mxActive
    (List.range cols).foldl (fun c col =>
      let pairs := x.xs.mapIdx fun k v => (p.code (row0 + k) col, v)
      c.addAcc dst col (passSum p.mode (p.scale col + x.scale) pairs)) c

/-- A transposed pass (R245): outputs are the plane's rows. -/
def Core.passTr (c : Core) (x : Activation) (rows dst : Nat) : Core :=
  if x.xs.isEmpty then c
  else
    let p := c.mxActive
    (List.range rows).foldl (fun c row =>
      let pairs := x.xs.mapIdx fun col v => (p.code row col, v)
      c.addAcc dst row (passSum p.mode (p.scale 0 + x.scale) pairs)) c

/-! ## Running an instruction -/

/-- The agent of a queued instruction. -/
def MxJob.agent (j : MxJob) (cid : Nat) : Agent := { core := cid, slot := j.slot, job := j.job }

/-- The executing instruction is replaced or ends. -/
def State.setMx (s : State) (cid : Nat) (r : Option MxRun) : State := s.modCore cid fun c => { c with mxRun := r }

/-- The executing instruction completes: its thread goes on at the next word. -/
def State.mxDone (s : State) (cid : Nat) (j : MxJob) : State :=
  let s := s.setMx cid none
  if (s.slot cid j.slot).st == .parked (.matrix j.id) then s.goOn cid j.slot (.go (s.slot cid j.slot).npc) else s

/-- The executing instruction ends in a trap at its thread (R250). -/
def State.mxTrap (s : State) (cid : Nat) (j : MxJob) (t : Trap) : State :=
  let s := s.setMx cid none
  if (s.slot cid j.slot).st == .parked (.matrix j.id) then
    s.trapEnter cid j.slot t.cause t.detail t.addr (s.slot cid j.slot).pc false
  else s

/-- The executing instruction waits for the answer to a page fault (R105). -/
def State.mxBlock (s : State) (cid : Nat) (r : MxRun) (reason : Nat) (a : Word) : State :=
  (s.setMx cid (some { r with blocked := some a })).report ⟨Config.coreDie cid, cid, r.job.slot, cPage, reason, a, none⟩

/-- What follows a stop of the engine in an instruction other than MTILE. -/
def State.mxStopped (s : State) (cid : Nat) (r : MxRun) : MxStop → State
  | .page reason a => s.mxBlock cid r reason a
  | .trap t => s.mxTrap cid r.job t

/-- The engine's checks of MSTRM (R250). -/
def State.mstrmCheck (s : State) (cid : Nat) (f16 tr : Bool) : Option Nat :=
  let p := (s.core cid).mxActive
  let w := s.widthL6 cid
  if p.mode == .empty || (p.mode == .f16) != f16 then some 0x79
  else if tr && p.mode == .l6c then some 0x76
  else if tr && p.mode == .l6 && (List.range w).any fun c => p.scale c != p.scale 0 then some 0x75
  else none

/-- Converted output element of a drain (R254). -/
def drainElem (ty : VType) (x : Nat) : Nat × Fl :=
  match ty with
  | .f16 => fpToFp fp32 fp16 .rne x
  | .b16 => fpToFp fp32 bf16 .rne x
  | _ => (x, 0)

/-- Output elements of a drain: accumulator row and column, and offset. -/
def drainElems (ty : VType) (cols first base count stride : Nat) : List (Nat × Nat × Nat) :=
  (List.range count).flatMap fun i => (List.range cols).map fun c => (first + i, c, base + i * stride + c * outBytes ty)

/-- Translation of the elements of a drain, all before any is written. -/
def State.drainCells (s : State) (ag : Agent) (sg : BitVec 128) : List (Nat × Nat × Nat) →
    State × List (Nat × Nat × Word × Nat) × Option EngFail
  | [] => (s, [], none)
  | (row, col, off) :: t =>
    let a : Word := segPlus sg off
    match s.engCell ag a true with
    | (s, .error e) => (s, [], some e)
    | (s, .ok cell) =>
      let q := s.drainCells ag sg t
      (q.1, (row, col, a, cell) :: q.2.1, q.2.2)

/-- Writes of a drain, in order, up to the first that fails. -/
def State.drainWrites (s : State) (cid : Nat) (ag : Agent) (ty : VType) (clr : Bool) : List (Nat × Nat × Word × Nat) →
    State × Option EngFail
  | [] => (s, none)
  | (row, col, a, cell) :: t =>
    let n := outBytes ty
    match s.engCheck ag a cell n .write with
    | (s, some e) => (s, some e)
    | (s, none) =>
      let v := drainElem ty ((s.core cid).accAt row col)
      let s := (s.accept cell n).writePlain cell n v.1
      let s := s.modCore cid fun c => let c := c.mxSet (v.2 &&& (Fl.of ||| Fl.uf)); if clr then c.setAcc row col 0 else c
      s.drainWrites cid ag ty clr t

/-- How a drain stands after some of its writes. -/
inductive Drained where
  | stop (e : MxStop)                                              -- a write or a translation has stopped it
  | more (left : List (Nat × Nat × Word × Nat)) (t : Option Trap)  -- elements to be written, and the trap that follows them
deriving DecidableEq, Repr

/-- Some of the writes of a drain, at least one, by free choice: another agent may see the others still to come (R94, log 31). With the last one
comes the trap of the translation after it. -/
def State.drainSome (s : State) (cid : Nat) (ag : Agent) (ty : VType) (clr : Bool) (cells : List (Nat × Nat × Word × Nat)) (t : Option Trap) :
    State × Drained :=
  let c := if cells.length ≤ 1 then (0, s) else s.drawChoice cells.length
  match c.2.drainWrites cid ag ty clr (cells.take (cells.length - c.1)) with
  | (s, some e) => (s, .stop e.stop)
  | (s, none) =>
    match cells.drop (cells.length - c.1), t with
    | [], some t => (s, .stop (.trap t))
    | left, t => (s, .more left t)

/-- A drain begins (R254): every translation first, so that a page fault to wait on comes before any write. -/
def State.drain (s : State) (cid : Nat) (ag : Agent) (ty : VType) (clr : Bool) (sg : BitVec 128) (es : List (Nat × Nat × Nat)) : State × Drained :=
  match s.drainCells ag sg es with
  | (s, _, some (.page r a)) => (s, .stop (.page r a))
  | (s, cells, some (.fault c d a)) => s.drainSome cid ag ty clr cells (some (ownTrap c d a))
  | (s, cells, none) => s.drainSome cid ag ty clr cells none

/-- MDRAIN after some of its writes. -/
def drainNext (cid : Nat) (r : MxRun) (d : State × Drained) : State :=
  match d with
  | (s, .stop e) => s.mxStopped cid r e
  | (s, .more [] _) => s.mxDone cid r.job
  | (s, .more left t) => s.setMx cid (some { r with stage := .drain 0 0 left t })

/-- MDRAIN goes on with its writes. -/
def State.drainStep (s : State) (cid : Nat) (r : MxRun) (left : List (Nat × Nat × Word × Nat)) (t : Option Trap) : State :=
  match r.job.op with
  | .mdrain ty _ clr .. => drainNext cid r (s.drainSome cid (r.job.agent cid) ty clr left t)
  | _ => s

/-- The instruction at the head of the engine's order starts (R250): its checks at the engine, and all of it but the passes. -/
def State.mxStart (s : State) (cid : Nat) (r : MxRun) : State :=
  let ag := r.job.agent cid
  match r.job.op with
  | .mldw f16 west comp first base count stride sg =>
    let len := if west then s.widthF16 cid else 40
    match s.readLines ag f16 comp sg stride len count base with
    | (s, .error e) => s.mxStopped cid r e
    | (s, .ok ls) =>
      if west && !f16 && scalesDiffer ls then s.mxTrap cid r.job (ownTrap cEngine 0x75 0)
      else
        let s := if count = 0 then s
          else s.modCore cid fun c => c.loadShadow (formMode f16 comp) west first (s.width cid f16) ls
        s.mxDone cid r.job
  | .mswap => (s.modCore cid Core.swapPlanes).mxDone cid r.job
  | .mstrm f16 tr _ _ count _ _ =>
    match s.mstrmCheck cid f16 tr with
    | some d => s.mxTrap cid r.job (ownTrap cEngine d 0)
    | none => if count = 0 then s.mxDone cid r.job else s.setMx cid (some { r with stage := .vector 0 [] })
  | .mdrain ty cols clr first base count stride sg =>
    drainNext cid r (s.drain cid ag ty clr sg (drainElems ty cols first base count stride))
  | .mclr first count shadow =>
    (s.modCore cid fun c => let c := c.clearAcc first count; if shadow then { c with mxShadow := { } } else c).mxDone cid r.job
  | .mtile rec .. =>
    let resume := rec / 2 ^ 447 % 2 == 1
    let j := if resume then rec / 2 ^ 304 % 2 ^ 16 else 0
    let p := if resume then rec / 2 ^ 368 % 2 ^ 16 else 0
    let s := if p > 0 then s else s.modCore cid fun c => c.clearAcc (rec / 2 ^ 48 % 32) (rec / 2 ^ 32 % 32 + 1)
    s.setMx cid (some { r with stage := .tile j p })

/-- The blocks of an activation vector over a compressed plane, from block t on. Those from block `known` on, whose extent the checks at issue
did not know, are checked when read (R250). -/
def State.readWindows (s : State) (ag : Agent) (sg : BitVec 128) (off known : Nat) : Nat → Nat → State × Except MxStop (List Activation)
  | 0, _ => (s, .ok [])
  | n + 1, t =>
    match (if t < known then .ok (segPlus sg (off + 64 * t : Nat)) else s.lateRange ag sg (off + 64 * t) 64 64) with
    | .error e => (s, .error e)
    | .ok a =>
      match s.readTyped ag a 0x01 with
      | (s, .error e) => (s, .error e)
      | (s, .ok l) =>
        let q := s.readWindows ag sg off known n (t + 1)
        (q.1, q.2.map (⟨denseCodes l, lineScale l⟩ :: ·))

/-- The windows of a vector, each one pass (R246). -/
def Core.passWindows (c : Core) (ws : List Activation) (cols dst : Nat) : Core :=
  (ws.mapIdx fun t x => (t, x)).foldl (fun c e => c.pass e.2 (80 * e.1) cols dst) c

/-- Activation vector of an MSTRM at an offset, read and decoded (R253, Table 7): one pass, or six past a compressed plane (R246). -/
def State.mstrmVector (s : State) (cid : Nat) (ag : Agent) (f16 tr : Bool) (off : Nat) (sg : BitVec 128) :
    State × Except MxStop (List Activation) :=
  let a : Word := segPlus sg off
  let cols := s.width cid f16
  if f16 then
    match s.readF16s ag a (if tr then cols else 40) with
    | (s, .error e) => (s, .error e)
    | (s, .ok xs) => (s, .ok [⟨xs, 0⟩])
  else if (s.core cid).mxActive.mode == .l6c then s.readWindows ag sg off 1 6 0
  else
    match s.readTyped ag a 0x01 with
    | (s, .error e) => (s, .error e)
    | (s, .ok l) => (s, .ok [⟨if tr then (denseCodes l).take cols else denseCodes l, lineScale l⟩])

/-- The next vector of an MSTRM is read: its passes follow (R247, R253). -/
def State.mstrmRead (s : State) (cid : Nat) (r : MxRun) (i : Nat) : State :=
  match r.job.op with
  | .mstrm f16 tr _ base _ stride sg =>
    match s.mstrmVector cid (r.job.agent cid) f16 tr (base + i * stride) sg with
    | (s, .error e) => s.mxStopped cid r e
    | (s, .ok xs) => s.setMx cid (some { r with stage := .vector i xs })
  | _ => s

/-- One pass of vector i of an MSTRM, past the window that follows those made (R245, R246); `left` are the passes after it. -/
def Core.mstrmPass (c : Core) (f16 tr : Bool) (cols dst : Nat) (x : Activation) (left : Nat) : Core :=
  if tr then c.passTr x (planeRows f16) dst
  else c.pass x (if c.mxActive.mode == .l6c then 80 * (5 - left) else 0) cols dst

/-- The pass of an MSTRM that is ready is made; after a vector's last one comes the next vector (R253). -/
def State.mstrmStep (s : State) (cid : Nat) (r : MxRun) (i : Nat) (x : Activation) (left : List Activation) : State :=
  match r.job.op with
  | .mstrm f16 tr first _ count _ _ =>
    let s := s.modCore cid fun c => c.mstrmPass f16 tr (s.width cid f16) (first + i) x left.length
    if !left.isEmpty then s.setMx cid (some { r with stage := .vector i left })
    else if i + 1 < count then s.setMx cid (some { r with stage := .vector (i + 1) [] })
    else s.mxDone cid r.job
  | _ => s

end Sys2Proof.Machine
end

