-- ==== Sys2Proof/Machine/Mtile.lean ====
section
/-!
DEFINITION. MTILE and its shape record (R257 to R262).
-/
namespace Sys2Proof.Machine

/-! ## The shape record (R257, Table 8) -/

/-- A field of the record. -/
def recField (r lo n : Nat) : Nat := r / 2 ^ lo % 2 ^ n

/-- The weights and activations are FP16. -/
def recF16 (r : Nat) : Bool := recField r 56 4 == 1
/-- Compressed weights. -/
def recComp (r : Nat) : Bool := recField r 55 1 == 1
/-- Rows of X: M. -/
def recM (r : Nat) : Nat := recField r 32 5 + 1
/-- First accumulator row. -/
def recAcc0 (r : Nat) : Nat := recField r 48 5
/-- Output type. -/
def recOut (r : Nat) : VType :=
  match recField r 44 4 with
  | 0 => .f32
  | 1 => .f16
  | _ => .b16
/-- Round height K_r (R258). -/
def recRound (r : Nat) : Nat := if recF16 r then 40 else if recComp r then 480 else 80
/-- Panel width W, for the live width of the type. -/
def recWidth (r live : Nat) : Nat := if recField r 37 7 = 0 then live else recField r 37 7
/-- Number of panels P. -/
def recPanels (r live : Nat) : Nat := (recField r 16 16 + recWidth r live - 1) / recWidth r live
/-- Number of rounds B. -/
def recRounds (r k : Nat) : Nat := (k + recRound r - 1) / recRound r
/-- Columns of panel j. -/
def recCols (r live j : Nat) : Nat := min (recWidth r live) (recField r 16 16 - j * recWidth r live)
/-- Rows of round p. -/
def recRows (r k p : Nat) : Nat := min (recRound r) (k - p * recRound r)
/-- The first panel and round to perform. -/
def recStart (r : Nat) : Nat × Nat := if recField r 447 1 = 1 then (recField r 304 16, recField r 368 16) else (0, 0)

/-- Offset, size and alignment of the weight lines of a round (R258, Table 9); of a compressed run, its pattern block. -/
def recWeights (r live k j p : Nat) : List (Nat × Nat × Nat) :=
  let base := recField r 256 48 + j * recField r 160 32
  let wls := recField r 64 32
  if recF16 r then (List.range (recRows r k p)).map fun i => (base + (p * 40 + i) * wls, 2 * recCols r live j, 16)
  else (List.range (recCols r live j)).map fun c => (base + c * wls + (if recComp r then 128 else 64) * p, 64, 64)

/-- Ranges of the activations of a round. -/
def recActs (r k p : Nat) : List (Nat × Nat × Nat) :=
  (List.range (recM r)).flatMap fun m =>
    let base := recField r 320 48 + m * recField r 128 32
    if recF16 r then [(base + 80 * p, 2 * recRows r k p, 16)]
    else if recComp r then (List.range 6).map fun t => (base + 64 * (6 * p + t), 64, 64)
    else [(base + 64 * p, 64, 64)]

/-- Ranges of the outputs of a panel. -/
def recOuts (r live j : Nat) : List (Nat × Nat × Nat) :=
  let es := outBytes (recOut r)
  (List.range (recM r)).map fun m =>
    (recField r 384 48 + m * recField r 224 32 + j * recWidth r live * es, recCols r live j * es, es)

/-- A segment that the record names. -/
def recSeg (segs : Vector (BitVec 128) 8) (r lo : Nat) : BitVec 128 := segs[(Fin.ofNat 8 (r / 2 ^ lo) : S)]

/-! ## Checks at issue (R259) -/

/-- A shape fault. -/
def shapeFault (d : Nat) : Trap := ownTrap cShape d 0

/-- The checks on the record alone. -/
def State.recBad (s : State) (cid r : Nat) : Option Trap :=
  let live := s.width cid (recF16 r)
  if recField r 480 20 != 0 || recField r 432 15 != 0 || recField r 96 4 != 0 || recField r 53 1 != 0 then some (shapeFault 0x06)
  else if recField r 60 4 != 1 then some (shapeFault 0x02)
  else if (recField r 56 4 != 1 && recField r 56 4 != 3) || (recComp r && (recF16 r || Config.kindOf cid != .sparse))
      || recField r 44 4 > 2 then some (shapeFault 0x03)
  else if recField r 37 7 > live || recAcc0 r + recM r > 32 || recField r 16 16 = 0 then some (shapeFault 0x04)
  else none

/-- The first failing range of a list. -/
def State.rangesBad (s : State) (ag : Agent) (sg : BitVec 128) (need : Nat → Nat) (l : List (Nat × Nat × Nat)) : Option Trap :=
  l.findSome? fun x => match s.engRange ag sg (x.1 : Nat) x.2.1 x.2.2 need with
    | .error t => some t
    | .ok _ => none

/-- A base or stride that breaks its alignment (R258). -/
def strideBad (sg : BitVec 128) (al base : Nat) (strides : List Nat) : Option Trap :=
  if base % al != 0 then some (ownTrap cAlign 0x21 (segPlus sg base))
  else (strides.find? fun x => x % al != 0).map fun x => ownTrap cAlign 0x21 (segPlus sg (base + x : Nat))

/-- The first of several checks that fails. -/
def firstSome (l : List (Unit → Option Trap)) : Option Trap := l.findSome? fun f => f ()

/-- The rest of the checks of R259, once K is known. -/
def State.tileBad (s : State) (cid : Nat) (ag : Agent) (segs : Vector (BitVec 128) 8) (r k : Nat) : Option Trap :=
  let live := s.width cid (recF16 r)
  let P := recPanels r live
  let B := recRounds r k
  let (j0, p0) := recStart r
  let read (_ : Nat) : Nat := rRead
  let wseg := recSeg segs r 109
  let xseg := recSeg segs r 106
  let oseg := recSeg segs r 103
  let al := if recF16 r then 16 else 64
  let es := outBytes (recOut r)
  if k > recField r 112 16 then some (shapeFault 0x01)
  else if recField r 447 1 = 1 && (j0 ≥ P || p0 > B) then some (shapeFault 0x05)
  else
    let panels := (List.range P).filter fun j => j0 ≤ j
    let rounds (j : Nat) : List Nat := (List.range B).filter fun p => j != j0 || p0 ≤ p
    let touched := (List.range B).filter fun p => P > j0 + 1 || p0 ≤ p
    firstSome [
      fun _ => panels.findSome? fun j => (rounds j).findSome? fun p => s.rangesBad ag wseg read (recWeights r live k j p),
      fun _ => strideBad wseg al (recField r 256 48) [recField r 64 32, recField r 160 32],
      fun _ => touched.findSome? fun p => s.rangesBad ag xseg read (recActs r k p),
      fun _ => strideBad xseg al (recField r 320 48) [recField r 128 32],
      fun _ => panels.findSome? fun j => s.rangesBad ag oseg destRights (recOuts r live j),
      fun _ => strideBad oseg es (recField r 384 48) [recField r 224 32],
      fun _ => if recField r 503 1 = 1 then s.rangesBad ag (recSeg segs r 500) read [(recField r 448 32, 16, 16)] else none]

/-- A read that an instruction makes before it goes on (R259, R351): its value joins the thread's `stash`. -/
def State.readFor (s : State) (i : Instr) (ask : MemAsk) : State :=
  let cid := s.cur.core
  let k := s.cur.slot
  match s.checkAsk cid k ask with
  | (s, .trap t) => s.trapMe t
  | (s, .consumed cell) => s.consumeError cell
  | (s, .fault _ r a) => (s.report ⟨Config.coreDie cid, cid, k, cPage, r, a, none⟩).park cid k (.pageFault a)
  | (s, .ok r) => s.startAccess cid k r [] (.rerun i) []

/-- The read of MTILE's record: 64 bytes, with the read and write rights. -/
def tileRecAsk (t : Slot) (sg : S) (a : G) (m : Mem) : MemAsk :=
  { op := .loadRec, done := .stash, sg := t.s[sg], elems := [(0, memOffset (t.rg a) 0 m.disp)], n := 64, al := 64, reg := false,
    posted := false }

/-- The read of MTILE's row count. -/
def tileCountAsk (t : Slot) (r : Nat) : MemAsk :=
  { op := .load, done := .stash, sg := recSeg t.s r 100, elems := [(0, (recField r 192 32 : Nat))], n := 4, al := 4, reg := false,
    posted := false }

/-- MTILE's last checks, and its entry into the engine's queue, which gives it its place in the engine's order (log 90). -/
def State.tileEnter (s : State) (sg : S) (a : G) (m : Mem) (r k : Nat) : State :=
  let cid := s.cur.core
  let t := s.me
  match s.tileBad cid (s.agent cid s.cur.slot) t.s r k with
  | some e => s.trapMe e
  | none => (s.modMe fun t => { t with stash := [] }).mxEnter (.mtile r k (segPlus t.s[sg] (memOffset (t.rg a) 0 m.disp)) t.s)

/-- MTILE (R259, R260): its reads at issue, then its checks, then the engine. -/
def execMtile (sg : S) (a : G) (m : Mem) (s : State) : Out :=
  let i : Instr := .mtile sg a m
  match s.me.stash with
  | [] => .next (s.readFor i (tileRecAsk s.me sg a m))
  | [r] =>
    match s.recBad s.cur.core r with
    | some t => .next (s.trapMe t)
    | none => if recField r 54 1 = 1 then .next (s.readFor i (tileCountAsk s.me r)) else .next (s.tileEnter sg a m r (recField r 0 16))
  | r :: k :: _ => .next (s.tileEnter sg a m r k)

/-! ## The sequence (R260, R261) -/

/-- The chunk mask of a round: the bits of every byte of its weight lines; a compressed run has 128 bytes of room. -/
def tileMask (r live k j p : Nat) (sg : BitVec 128) : Nat :=
  (recWeights r live k j p).foldl (fun m x => m ||| chunkBits (segPlus sg (x.1 : Nat)) (if recComp r then 128 else x.2.1)) 0

/-- MTILE stops at (j, p): its progress fields are to be written (R261). -/
def State.tileSave (s : State) (cid : Nat) (r : MxRun) (j p : Nat) (valid : Bool) (t : Option Trap) : State :=
  s.setMx cid (some { r with stage := .save j p valid t })

/-- What follows a stop of the engine in round or drain (j, p), detail 0x77 of a compressed round among them (log 88). -/
def State.tileStopped (s : State) (cid : Nat) (r : MxRun) (j p : Nat) : MxStop → State
  | .page reason a => s.mxBlock cid r reason a
  | .trap t => s.tileSave cid r j p true (some t)

/-- The concord condition of a chunk wait: it holds, or not, or its read stops. -/
def State.tileWait (s : State) (ag : Agent) (segs : Vector (BitVec 128) 8) (r live k j p : Nat) : State × Except MxStop Bool :=
  if recField r 503 1 = 0 then (s, .ok true)
  else
    match s.engUnit ag (segPlus (recSeg segs r 500) (recField r 448 32 : Nat)) 16 .read with
    | (s, .error e) => (s, .error e.stop)
    | (s, .ok cell) =>
      (s, .ok (cmHolds (s.ccRead cell) (tileMask r live k j p (recSeg segs r 109)) (recField r 504 8)))

/-- The load of a round into the shadow plane and the swap (R260). -/
def State.tileLoad (s : State) (cid : Nat) (ag : Agent) (segs : Vector (BitVec 128) 8) (r k j p : Nat) : State × Option MxStop :=
  let f16 := recF16 r
  let live := s.width cid f16
  let cols := recCols r live j
  let base := recField r 256 48 + j * recField r 160 32
  let wls := recField r 64 32
  let off := if f16 then base + p * 40 * wls else base + (if recComp r then 128 else 64) * p
  match s.readLines ag f16 (recComp r) (recSeg segs r 109) wls cols (if f16 then recRows r k p else cols) off with
  | (s, .error e) => (s, some e)
  | (s, .ok ls) => (s.modCore cid fun c => (c.loadShadow (formMode f16 (recComp r)) f16 0 cols ls).swapPlanes, none)

/-- The activation of vector m in a round: one vector, or the windows of a compressed round; rows from K on have no term. -/
def State.tileVector (s : State) (ag : Agent) (sg : BitVec 128) (r k p m : Nat) : State × Except MxStop (List Activation) :=
  let rows := recRows r k p
  let base := recField r 320 48 + m * recField r 128 32
  if recF16 r then
    match s.readF16s ag (segPlus sg (base + 80 * p : Nat)) rows with
    | (s, .error e) => (s, .error e)
    | (s, .ok xs) => (s, .ok [⟨xs, 0⟩])
  else if recComp r then
    match s.readWindows ag sg (base + 384 * p) 6 6 0 with
    | (s, .error e) => (s, .error e)
    | (s, .ok ws) => (s, .ok (ws.mapIdx fun t w => { w with xs := w.xs.take (rows - 80 * t) }))
  else
    match s.readTyped ag (segPlus sg (base + 64 * p : Nat)) 0x01 with
    | (s, .error e) => (s, .error e)
    | (s, .ok l) => (s, .ok [⟨(denseCodes l).take rows, lineScale l⟩])

/-- The passes of a round, added only when all of them have been made (R261). -/
def Core.tilePasses (c : Core) (vs : List (List Activation)) (cols acc0 : Nat) : Core :=
  (vs.mapIdx fun m v => (m, v)).foldl (fun c e => c.passWindows e.2 cols (acc0 + e.1)) c

/-- The record of an MTILE. -/
def MxOp.record : MxOp → Nat
  | .mtile r .. => r
  | _ => 0

/-- Passes of one vector of a round (R260). -/
def recPasses (r : Nat) : Nat := if recComp r then 6 else 1

/-- The next vector of a round is read, once the passes of those before it have started (R247, R260). -/
def State.tileRead (s : State) (cid : Nat) (r : MxRun) (j p : Nat) (vs : List (List Activation)) (paid : Nat) : State :=
  match r.job.op with
  | .mtile rec k _ segs =>
    match s.tileVector (r.job.agent cid) (recSeg segs rec 106) rec k p vs.length with
    | (s, .error e) => s.tileStopped cid r j p e
    | (s, .ok v) => s.setMx cid (some { r with stage := .round j p (vs ++ [v]) paid })
  | _ => s

/-- A pass of a round starts (R247); the round is added to the accumulators with its last pass. -/
def State.tileStep (s : State) (cid : Nat) (r : MxRun) (j p : Nat) (vs : List (List Activation)) (paid : Nat) : State :=
  match r.job.op with
  | .mtile rec .. =>
    if paid + 1 < recM rec * recPasses rec then s.setMx cid (some { r with stage := .round j p vs (paid + 1) })
    else
      let cols := recCols rec (s.width cid (recF16 rec)) j
      (s.modCore cid fun c => c.tilePasses vs cols (recAcc0 rec)).setMx cid (some { r with stage := .tile j (p + 1) })
  | _ => s

/-- MTILE after some of the writes of panel j's drain (R260): the next panel follows the last one, or the end. -/
def tileDrained (cid : Nat) (r : MxRun) (rec j p live : Nat) (d : State × Drained) : State :=
  match d with
  | (s, .stop e) => s.tileStopped cid r j p e
  | (s, .more [] _) =>
    if j + 1 < recPanels rec live then
      (s.modCore cid fun c => c.clearAcc (recAcc0 rec) (recM rec)).setMx cid (some { r with stage := .tile (j + 1) 0 })
    else s.tileSave cid r 0 0 false none
  | (s, .more left t) => s.setMx cid (some { r with stage := .drain j p left t })

/-- What follows boundary(j, p) and the chunk wait (R260): the load of a round, or the panel's drain. A page fault that is resolved is
followed by the same load or drain, and a stop waits for the boundary after it (R261, R262). -/
def State.tileWork (s : State) (cid : Nat) (r : MxRun) (rec k : Nat) (segs : Vector (BitVec 128) 8) (j p : Nat) : State :=
  let r := { r with stage := .work j p }
  let ag := r.job.agent cid
  let live := s.width cid (recF16 rec)
  if p < recRounds rec k then
    match s.tileLoad cid ag segs rec k j p with
    | (s, some e) => s.tileStopped cid r j p e
    | (s, none) => s.setMx cid (some { r with stage := .round j p [] 0 })
  else
    let ty := recOut rec
    let off := recField rec 384 48 + j * recWidth rec live * outBytes ty
    tileDrained cid r rec j p live (s.drain cid ag ty false (recSeg segs rec 103)
      (drainElems ty (recCols rec live j) (recAcc0 rec) off (recM rec) (recField rec 224 32)))

/-- A stop may be taken at a boundary of MTILE: one is requested, and inside an open packet it is an escalation (R144, R262). -/
def Slot.stopsHere (t : Slot) : Bool := t.stopReq.any fun q => !t.inPacket || q == .escalation

/-- boundary(j, p) and the chunk wait of a round (R260, R262): a stop is taken here. -/
def State.tileBoundary (s : State) (cid : Nat) (r : MxRun) (rec k : Nat) (segs : Vector (BitVec 128) 8) (j p : Nat) : State :=
  if (s.slot cid r.job.slot).stopsHere then s.tileSave cid r j p true none
  else if p < recRounds rec k then
    match s.tileWait (r.job.agent cid) segs rec (s.width cid (recF16 rec)) k j p with
    | (s, .error e) => s.tileStopped cid r j p e
    | (s, .ok false) => s
    | (s, .ok true) => s.tileWork cid r rec k segs j p
  else s.tileWork cid r rec k segs j p

/-- Bytes of the progress fields: offset in the record, size, value (R257). -/
def progressBytes (j p : Nat) (valid : Bool) : List (Nat × Nat × Nat) :=
  [(38, 2, j), (46, 2, p), (55, 1, if valid then 0x80 else 0)]

/-- Translation of the progress fields. -/
def State.progressCells (s : State) (ag : Agent) (at_ : Word) : List (Nat × Nat × Nat) →
    State × Except EngFail (List (Word × Nat × Nat × Nat))
  | [] => (s, .ok [])
  | (o, n, x) :: t =>
    let a := at_ + BitVec.ofNat 64 o
    match s.engUnit ag a n .write with
    | (s, .error e) => (s, .error e)
    | (s, .ok cell) =>
      let q := s.progressCells ag at_ t
      (q.1, q.2.map ((a, cell, n, x) :: ·))

/-- The progress write (R261), and what the end of the sequence was for: completion, a stop (R262) or a trap. -/
def State.tileProgress (s : State) (cid : Nat) (r : MxRun) (at_ : Word) (j p : Nat) (valid : Bool) (t : Option Trap) : State :=
  match s.progressCells (r.job.agent cid) at_ (progressBytes j p valid) with
  | (s, .error (.page reason a)) => s.mxBlock cid r reason a
  | (s, .error (.fault c d a)) => s.mxTrap cid r.job (ownTrap c d a)
  | (s, .ok cells) =>
    let s := cells.foldl (fun s (x : Word × Nat × Nat × Nat) => (s.accept x.2.1 x.2.2.1).writePlain x.2.1 x.2.2.1 x.2.2.2) s
    match t with
    | some t => s.mxTrap cid r.job t
    | none =>
      if valid then (s.setMx cid none).abandon cid r.job.slot 4
      else s.mxDone cid r.job

/-- MTILE_CHUNK_RESUME (R260): MTILE goes on from a boundary, where its chunk wait lets it, or writes its progress. -/
def execMtileChunkResume (s : State) : Out :=
  let cid := s.ev.core
  match (s.core cid).mxRun with
  | some r =>
    if r.blocked.isSome then .next s
    else
      match r.job.op, r.stage with
      | .mtile rec k _ segs, .tile j p => .next (s.tileBoundary cid r rec k segs j p)
      | .mtile rec k _ segs, .work j p => .next (s.tileWork cid r rec k segs j p)
      | .mtile rec .., .drain j p left t =>
        .next (tileDrained cid r rec j p (s.width cid (recF16 rec)) (s.drainSome cid (r.job.agent cid) (recOut rec) false left t))
      | .mtile _ _ at_ _, .save j p valid t => .next (s.tileProgress cid r at_ j p valid t)
      | _, _ => .next s
  | none => .next s

/-- MATRIX_DISPATCH (R244): the next instruction in the engine's order starts, or one that a page fault held starts again; or the executing
one reads the vector of its next passes. -/
def execMatrixDispatch (s : State) : Out :=
  let cid := s.ev.core
  match (s.core cid).mxRun with
  | some r =>
    if r.blocked.isSome then .next s
    else
      match r.stage with
      | .start => .next (s.mxStart cid r)
      | .vector i [] => .next (s.mstrmRead cid r i)
      | .drain _ _ left t => .next (s.drainStep cid r left t)
      | .round j p vs paid => if paid < vs.length * recPasses r.job.op.record then .next s else .next (s.tileRead cid r j p vs paid)
      | _ => .next s
  | none =>
    match (s.core cid).mxQueue with
    | [] => .next s
    | j :: t =>
      let r : MxRun := { job := j }
      .next ((s.modCore cid fun c => { c with mxQueue := t, mxRun := some r }).mxStart cid r)

/-- A page that the executing instruction needs is not provided (R105, R254, R261): it ends in the page fault. -/
def State.mxLost (s : State) (cid : Nat) (r : MxRun) (status : Nat) (a : Word) : State :=
  let t := ownTrap cPage status a
  match r.stage with
  | .tile j p => s.tileSave cid { r with blocked := none } j p true (some t)
  | .work j p => s.tileSave cid { r with blocked := none } j p true (some t)
  | .round j p _ _ => s.tileSave cid { r with blocked := none } j p true (some t)
  | _ => s.mxTrap cid r.job t

end Sys2Proof.Machine
end

