-- ==== Sys2Proof/Machine/Lexicon.lean ====
section
/-!
DEFINITION. The lexicon engine (R264 to R290): families, tables, buckets and the overflow pool, inserts, deletes, probes, the incremental
rehash, and the issue credit that it shares with the matrix engine (R247, R279). An instruction is computed as a whole and takes effect
when the steps it needs have their credit.
-/
namespace Sys2Proof.Machine

/-! ## Registers (R265, R266) -/

/-- A field of a 64-bit word. -/
def wfield (w : Nat) (lo n : Nat) : Nat := w / 2 ^ lo % 2 ^ n

/-- A hash family: its seed and the fields of its configuration (R265, Table 2). -/
structure Family where
  seed : Nat
  dim : Nat
  f16 : Bool
  t0 : Nat
  tables : Nat
  k : Nat
  kind : Nat
deriving DecidableEq, Repr

/-- A family from its register. -/
def famOf (x : Nat) : Family :=
  let c := x / 2 ^ 64
  { seed := x % 2 ^ 64, dim := wfield c 35 13 + 1, f16 := wfield c 34 1 == 1, t0 := wfield c 31 3, tables := wfield c 28 3 + 1,
    k := wfield c 16 5, kind := wfield c 0 2 }

/-- Bytes of a key element. -/
def Family.es (f : Family) : Nat := if f.f16 then 2 else 4

/-- Numbers of a family's table registers (R265). -/
def Family.regs (f : Family) : List Nat := (List.range f.tables).map fun l => f.t0 + l

/-- A table: the fields of its register (R266, Table 3). -/
structure LxTable where
  base : Word
  pblk : Nat
  bound : Nat
  policy : Nat
  slots : Nat
  b : Nat
deriving DecidableEq, Repr

/-- A table from its register. -/
def tableOf (x : Nat) : LxTable :=
  let c := x / 2 ^ 64
  { base := BitVec.ofNat 64 x, pblk := wfield c 28 16, bound := wfield c 24 4, policy := wfield c 20 2,
    slots := if wfield c 16 1 = 1 then 8 else 4, b := wfield c 0 5 }

/-- Family register f. -/
def Core.fam (c : Core) (f : Nat) : Family := famOf (c.hf[(Fin.ofNat 4 f : HF)]).toNat

/-- Table register t. -/
def Core.table (c : Core) (t : Nat) : LxTable := tableOf (c.lt[(Fin.ofNat 8 t : LT)]).toNat

/-- The family rules of R283: a nonzero kind, and 1 ≤ b ≤ k in each table. -/
def Core.famUsable (c : Core) (f : Nat) : Bool :=
  let x := c.fam f
  x.kind != 0 && x.regs.all fun t => 1 ≤ (c.table t).b && (c.table t).b ≤ x.k

/-- Buckets of a family's tables (R276). -/
def Core.famBuckets (c : Core) (f : Nat) : Nat := (((c.fam f).regs.map fun t => 2 ^ (c.table t).b)).foldl (· + ·) 0

/-- Buckets still to move; 0 without a rehash (R287, R288). -/
def Core.rhLeft (c : Core) : Nat :=
  match c.rh with
  | some r => c.famBuckets r.fo - r.cursor
  | none => 0

/-- The status word (R288, Table 8). -/
def Core.lxStatus (c : Core) : Word :=
  let rh := match c.rh with
    | some r => 2 ^ 14 + r.fo * 2 ^ 12 + r.fn * 2 ^ 10
    | none => 0
  BitVec.ofNat 64 ((if c.lxRun.isSome then 2 ^ 15 else 0) + rh + c.lxSticky.toNat)

/-- Detail 0x82 of LXFAM (R281). -/
def famBad (cfg : Word) : Bool :=
  let x := cfg.toNat
  let f := famOf (x * 2 ^ 64)
  wfield x 48 16 != 0 || wfield x 21 7 != 0 || wfield x 2 14 != 0 || f.kind == 3
    || (f.kind != 0 && (f.k == 0 || f.k > 16 || f.dim > 4096)) || f.t0 + f.tables > 8

/-- Detail 0x82 of LXTAB (R282). -/
def tabBad (cfg : Word) : Bool :=
  let x := cfg.toNat
  let t := tableOf (x * 2 ^ 64)
  wfield x 44 20 != 0 || wfield x 22 2 != 0 || wfield x 17 3 != 0 || wfield x 5 11 != 0 || t.b == 0 || t.b > 16 || t.policy == 3
    || (t.policy == 2 && (t.pblk < 2 || t.bound == 0)) || (t.policy != 2 && (t.pblk != 0 || t.bound != 0))

/-- R275: a family of an active rehash. -/
def Core.rhFam (c : Core) (f : Nat) : Bool := c.rh.any fun r => r.fo == f || r.fn == f

/-- R275: a table of a family of an active rehash. -/
def Core.rhTable (c : Core) (t : Nat) : Bool :=
  c.rh.any fun r => (c.fam r.fo).regs.contains t || (c.fam r.fn).regs.contains t

/-- The conditions of an LXRH start that concern the engine's state (R286). -/
def Core.rhBad (c : Core) (fo fn : Nat) : Bool :=
  let x := c.fam fo
  let y := c.fam fn
  c.rh.isSome || fo == fn || !c.famUsable fo || !c.famUsable fn || x.dim != y.dim || x.f16 != y.f16
    || x.regs.any fun t => y.regs.contains t

/-! ## Issue -/

/-- A lexicon engine fault found at issue, or in engine state (R289): trap_addr 0. -/
def lxFault (d : Nat) : Trap := ownTrap cEngine d 0

/-- A lexicon instruction of the running thread enters the engine's queue, and its thread parks (R278). -/
def State.lxEnter (s : State) (op : LxOp) : State :=
  let cid := s.cur.core
  let id := s.nextReq
  let s := s.modCore cid fun c => { c with lxQueue := c.lxQueue ++ [⟨id, s.cur.slot, s.me.tag, op⟩] }
  ({ s with nextReq := id + 1 }).park cid s.cur.slot (.lexicon id)

/-- LXFAM (R281). -/
def execLxfam (d : HF) (a b : G) (s : State) : Out :=
  let cfg := s.me.rg b
  if famBad cfg then .next (s.trapMe (lxFault 0x82))
  else if (s.core s.cur.core).rhFam d then .next (s.trapMe (lxFault 0x86))
  else .next (s.lxEnter (.fam d (s.me.rg a) cfg))

/-- LXTAB (R282); its table is written, so one in space 0x3 needs the persist right too (R381). -/
def execLxtab (d : LT) (sg : S) (a b : G) (init : Bool) (s : State) : Out :=
  let cfg := s.me.rg b
  let t := tableOf (cfg.toNat * 2 ^ 64)
  if tabBad cfg then .next (s.trapMe (lxFault 0x82))
  else
    match s.engRange (s.agent s.cur.core s.cur.slot) s.me.s[sg] (s.me.rg a).toNat (64 * (2 ^ t.b + t.pblk)) 64
        (AKind.rights .rmw) with
    | .error e => .next (s.trapMe e)
    | .ok at_ =>
      if spaceOf at_ = 15 then .next (s.trapMe (lxFault 0x85))
      else if (s.core s.cur.core).rhTable d then .next (s.trapMe (lxFault 0x86))
      else .next (s.lxEnter (.tab d at_ cfg init))

/-- Row ids end at 0xFFFF_FFFE (R270). -/
def rowBad (x : Word) : Bool := x.toNat ≥ 0xFFFFFFFF

/-- The check of a key's range for a family (R283, R285). -/
def State.keyRange (s : State) (f : Nat) (sg : BitVec 128) (off : Word) : Except Trap Word :=
  let x := (s.core s.cur.core).fam f
  s.engRange (s.agent s.cur.core s.cur.slot) sg off.toNat (x.dim * x.es) x.es fun _ => rRead

/-- The mould of LXINS and LXDEL at issue (R283), with the order of R139. -/
def State.lxRow (s : State) (sg : BitVec 128) (a b : G) (f : Nat) (op : Word → Nat → LxOp) : Out :=
  match s.keyRange f sg (s.me.rg a) with
  | .error e => .next (s.trapMe e)
  | .ok key =>
    if rowBad (s.me.rg b) then .next (s.trapMe (lxFault 0x84))
    else if !(s.core s.cur.core).famUsable f then .next (s.trapMe (lxFault 0x81))
    else .next (s.lxEnter (op key (s.me.rg b).toNat))

/-- LXINS (R283). -/
def execLxins (d : G) (sg : S) (a b : G) (c : HF) (s : State) : Out :=
  s.lxRow s.me.s[sg] a b c fun key row => .ins d c key row

/-- LXDEL (R283). -/
def execLxdel (d : G) (sg : S) (a b : G) (c : HF) (s : State) : Out :=
  s.lxRow s.me.s[sg] a b c fun key row => .del d c key row

/-- The gather template of a probe (R285), completed with the list and count cap. -/
def State.probeGather (s : State) (a : G) (w0 : Word) : Except Trap (Option CopyReq) :=
  let t := s.me
  let w (i : Nat) : Word := requestWord t a i
  let cap := wfield w0.toNat 0 16
  if wfield w0.toNat 55 1 = 0 then .ok none
  else
    let x := (w 4).toNat
    if x / 2 ^ 60 != 1 || wfield x 51 3 != 0 || wfield x 0 32 != 0 || w 5 != 0 then .error (lxFault 0x87)
    else
      let full : Word := BitVec.ofNat 64 (x + wfield w0.toNat 56 3 * 2 ^ 51 + cap)
      let r := copyOf t s.cur.core s.cur.slot full (w 2) (w 6) (w 7)
      (s.pushChecks (s.agent s.cur.core s.cur.slot) full r).map fun _ => some r

/-- LXPRB (R284, R285). -/
def execLxprb (d a : G) (s : State) : Out :=
  let t := s.me
  let ag := s.agent s.cur.core s.cur.slot
  let w (i : Nat) : Word := requestWord t a i
  let w0 := (w 0).toNat
  let cap := wfield w0 0 16
  let f := wfield w0 62 2
  let list := t.s[(Fin.ofNat 8 (wfield w0 56 3) : S)]
  let go : Except Trap LxOp :=
    if wfield w0 16 39 != 0 || cap = 0 then .error (lxFault 0x87)
    else if !(s.core s.cur.core).famUsable f then .error (lxFault 0x81)
    else do
      let key ← s.keyRange f t.s[(Fin.ofNat 8 (wfield w0 59 3) : S)] (w 1)
      let la ← s.engRange ag list (w 2).toInt (4 * cap) 4 destRights
      let ca ← s.engRange ag list (w 3).toInt 4 4 destRights
      let g ← s.probeGather a (w 0)
      return .prb d f cap key la ca g
  match go with
  | .error e => .next (s.trapMe e)
  | .ok op => .next (s.lxEnter op)

/-- LXRH, start form (R286), with the order of R139. -/
def execLxrhStart (fo fn : HF) (sg : S) (a b : G) (s : State) : Out :=
  let t := s.me
  let g := t.s[sg]
  let es := ((s.core s.cur.core).fam fo).es
  let off := (t.rg a).toNat
  let stride := (t.rg b).toNat
  if lacks rRead (segRights g) then .next (s.trapMe (ownTrap cSegment 0x12 (segPlus g off)))
  else if (s.core s.cur.core).rhBad fo fn || off % es != 0 || stride % es != 0 || stride ≥ 2 ^ 32 then .next (s.trapMe (lxFault 0x83))
  else .next (s.lxEnter (.rhStart fo fn (segPlus g off) off stride (segLimit g) (segRights g)))

/-- LXRH, step form (R287): whether a rehash is active is found in engine order (log 76). -/
def execLxrhStep (d : G) (count : BitVec 7) (s : State) : Out := .next (s.lxEnter (.rhStep d count.toNat))

/-- LXST (R288). -/
def execLxst (d : G) (sel idx : Fin 8) (s : State) : Out :=
  let cid := s.cur.core
  let c := s.core cid
  let hf := (c.hf[(Fin.ofNat 4 idx.val : HF)]).toNat
  let lt := (c.lt[idx]).toNat
  match sel.val with
  | 0 => s.doneG d c.lxStatus
  | 1 => (s.modCore cid fun c => { c with lxSticky := 0 }).doneG d c.lxStatus
  | 2 => s.doneG d (BitVec.ofNat 64 c.rhLeft)
  | 3 => s.doneG d (BitVec.ofNat 64 (hf / 2 ^ 64))
  | 4 => s.doneG d (BitVec.ofNat 64 hf)
  | 5 => s.doneG d (BitVec.ofNat 64 lt)
  | _ => s.doneG d (BitVec.ofNat 64 (lt / 2 ^ 64))

/-! ## The engine's computation -/

/-- A computation of the engine: the machine and the steps counted so far (R279), and where it stops. -/
abbrev LxM := ExceptT MxStop (StateM (State × Nat))

/-- The state. -/
def lxState : LxM State := do return (← get).1

/-- A change of the core. -/
def lxMod (cid : Nat) (f : Core → Core) : LxM Unit := modify fun p => (p.1.modCore cid f, p.2)

/-- One step of R279. -/
def lxTick (n : Nat) : LxM Unit := modify fun p => (p.1, p.2 + n)

/-- An action on memory. -/
def lxMem {α : Type} (f : State → State × Except EngFail α) : LxM α := do
  let p ← get
  match f p.1 with
  | (s, .error e) =>
    set (s, p.2)
    throw e.stop
  | (s, .ok x) =>
    set (s, p.2)
    return x

/-- Sticky bits of the status (R288): refuse 1, evict 2, pool 4, nan 8, trunc 16. -/
def lxSet (cid n : Nat) : LxM Unit := lxMod cid fun c => { c with lxSticky := c.lxSticky ||| BitVec.ofNat 5 n }

/-- A malformed bucket or block (R271). -/
def lxMalformed {α : Type} (a : Word) : LxM α := throw (.trap (ownTrap cEngine 0x88 a))

/-! ### Keys and hashes (R267 to R269) -/

/-- Reads n key elements. -/
def readKey (ag : Agent) (es : Nat) (a : Word) : Nat → LxM (List Nat)
  | 0 => return []
  | n + 1 => do
    let x ← lxMem fun s => s.engRead ag a es
    return x :: (← readKey ag es (a + BitVec.ofNat 64 es) n)

/-- Format of key elements. -/
def Family.fmt (f : Family) : Fmt := if f.f16 then fp16 else fp32

/-- mix (R269), modulo 2^64. -/
def lxMix (seed u : Nat) : Nat :=
  let m := 2 ^ 64
  let z := (seed + (u + 1) * 0x9E3779B97F4A7C15) % m
  let z := Nat.xor z (z / 2 ^ 30) * 0xBF58476D1CE4E5B9 % m
  let z := Nat.xor z (z / 2 ^ 27) * 0x94D049BB133111EB % m
  Nat.xor z (z / 2 ^ 31)

/-- One bit under coordinate-sign selection (R268). -/
def coordBit (f : Family) (xs : List Nat) (l i : Nat) : Bool :=
  let a := wfield f.seed 0 16
  let st := Nat.lor (wfield f.seed 16 16) 1
  match f.fmt.dec (xs.getD ((a + st * (l * f.k + i)) % f.dim) 0) with
  | .fin neg m _ => !neg && m != 0
  | .inf neg => !neg
  | .nan _ => false

/-- One bit under seeded sign-random projection (R269). -/
def signBit (f : Family) (xs : List Nat) (l i : Nat) : Bool :=
  let terms := xs.mapIdx fun j x =>
    let plus := lxMix f.seed (l * 2 ^ 56 + i * 2 ^ 48 + j) / 2 ^ 63 == 0
    match f.fmt.dec x with
    | .fin neg m e => (if neg == plus then -(m : Int) * 2 ^ (e + 160).toNat else (m : Int) * 2 ^ (e + 160).toNat, 0, 0)
    | .inf neg => if neg == plus then (0, 0, 1) else (0, 1, 0)
    | .nan _ => ((0 : Int), (0 : Nat), (0 : Nat))
  let pos := (terms.map fun t => t.2.1).foldl (· + ·) 0
  let neg := (terms.map fun t => t.2.2).foldl (· + ·) 0
  if pos != 0 || neg != 0 then pos != 0 && neg == 0
  else (terms.map fun t => t.1).foldl (· + ·) 0 > 0

/-- h_ℓ (R267). -/
def lxHash (f : Family) (xs : List Nat) (l : Nat) : Nat :=
  (List.range f.k).foldl (fun h i => h + if (if f.kind == 1 then signBit f xs l i else coordBit f xs l i) then 2 ^ i else 0) 0

/-- The hashes of a key under a family, the key's NaN bit, and the steps of hashing it (R279). -/
def hashKey (cid : Nat) (ag : Agent) (f : Family) (a : Word) : LxM (List Nat × Bool) := do
  let xs ← readKey ag f.es a f.dim
  lxTick (if f.kind == 1 then (a.toNat + f.dim * f.es - 1) / 64 - a.toNat / 64 + 1 else 1)
  let nan := xs.any fun x => (f.fmt.dec x).isNaN
  if nan then lxSet cid 8
  return ((List.range f.tables).map (lxHash f xs), nan)

/-! ### Buckets and pool blocks (R270, R271) -/

/-- A bucket or pool block. -/
structure LxBlock where
  at_ : Word
  rows : List Nat          -- slots 0 to count − 1
  chain : Nat
  flags : Nat
deriving DecidableEq, Repr

/-- The 64 bytes of a block. -/
def LxBlock.bits (b : LxBlock) : Nat :=
  (List.range 8).foldl (fun acc i => acc + b.rows.getD i 0xFFFFFFFF * 2 ^ (32 * i)) 0
    + b.chain * 2 ^ 256 + b.rows.length * 2 ^ 288 + b.flags * 2 ^ 296

/-- The block that a line holds, or none where R271 finds it malformed. -/
def blockOf64 (t : LxTable) (slots : Nat) (at_ : Word) (l : Nat) : Option LxBlock :=
  let count := l / 2 ^ 288 % 256
  let chain := l / 2 ^ 256 % 2 ^ 32
  let flags := l / 2 ^ 296 % 256
  if count > slots || l / 2 ^ 304 % 2 ^ 208 != 0 || flags ≥ 4 || (chain != 0 && (t.policy != 2 || chain ≥ t.pblk)) then none
  else some ⟨at_, (List.range count).map fun i => l / 2 ^ (32 * i) % 2 ^ 32, chain, flags⟩

/-- Address of bucket h of a table (R266, R272). -/
def LxTable.bucketAt (t : LxTable) (h : Nat) : Word := t.base + BitVec.ofNat 64 (64 * (h % 2 ^ t.b))

/-- Address of pool block n. -/
def LxTable.poolAt (t : LxTable) (n : Nat) : Word := t.base + BitVec.ofNat 64 (64 * (2 ^ t.b + n))

/-- Reads a block. -/
def readBlock (ag : Agent) (t : LxTable) (slots : Nat) (a : Word) : LxM LxBlock := do
  let l ← lxMem fun s => s.engRead ag a 64
  lxTick 1
  match blockOf64 t slots a l with
  | some b => return b
  | none => lxMalformed a

/-- Changes a line of a table: a read-modify-write of the line as it stands (R270). -/
def editLine (ag : Agent) (a : Word) (f : Nat → Nat) : LxM Unit := do
  lxMem fun s => match s.engUnit ag a 64 .rmw with
    | (s, .error e) => (s, .error e)
    | (s, .ok cell) => ((s.accept cell 64).writePlain cell 64 (f (s.readN cell 64)), .ok ())
  lxTick 1

/-- Writes a line of a table. -/
def writeLine (ag : Agent) (a : Word) (x : Nat) : LxM Unit := editLine ag a fun _ => x

/-- A line with its chain field set to n (R272). -/
def lineChain (n l : Nat) : Nat := l - l / 2 ^ 256 % 2 ^ 32 * 2 ^ 256 + n * 2 ^ 256

/-- A line made an empty block that keeps its bflags (R276). -/
def lineEmpty (l : Nat) : Nat := (LxBlock.mk 0 [] 0 (l / 2 ^ 296 % 256)).bits

/-- Writes a block. -/
def writeBlock (ag : Agent) (b : LxBlock) : LxM Unit := writeLine ag b.at_ b.bits

/-- The chain of a bucket, block by block, with pool indices; longer than bound is malformed (R271), and the trap's address is then that of
the last block within the bound (log 89). -/
def readChain (ag : Agent) (t : LxTable) (prev : Word) : Nat → Nat → LxM (List (Nat × LxBlock))
  | _, 0 => return []
  | 0, _ => lxMalformed prev
  | n + 1, i => do
    let b ← readBlock ag t 8 (t.poolAt i)
    return (i, b) :: (← readChain ag t b.at_ n b.chain)

/-- A bucket with its chain. -/
def readBucket (ag : Agent) (t : LxTable) (h : Nat) : LxM (LxBlock × List (Nat × LxBlock)) := do
  let b ← readBlock ag t t.slots (t.bucketAt h)
  return (b, ← readChain ag t b.at_ t.bound b.chain)

/-- The pool header: its free-list head and next never-used index (R270, R271). -/
def readHeader (ag : Agent) (t : LxTable) : LxM (Nat × Nat) := do
  let a := t.poolAt 0
  let l ← lxMem fun s => s.engRead ag a 64
  lxTick 1
  let free := l % 2 ^ 32
  let next := l / 2 ^ 32 % 2 ^ 32
  if free ≥ t.pblk || next = 0 || next > t.pblk || l / 2 ^ 64 != 0 then lxMalformed a
  else return (free, next)

/-- Writes the pool header. -/
def writeHeader (ag : Agent) (t : LxTable) (free next : Nat) : LxM Unit := writeLine ag (t.poolAt 0) (free + next * 2 ^ 32)

/-- alloc (R272). -/
def lxAlloc (ag : Agent) (t : LxTable) : LxM (Option Nat) := do
  let (free, next) ← readHeader ag t
  if free != 0 then
    let b ← readBlock ag t 8 (t.poolAt free)
    writeHeader ag t b.chain next
    return some free
  else if next < t.pblk then
    writeHeader ag t 0 (next + 1)
    return some next
  else return none

/-- A push of an empty pool block onto the free list (R273, R276). -/
def lxFree (ag : Agent) (t : LxTable) (n : Nat) : LxM Unit := do
  let (free, next) ← readHeader ag t
  writeBlock ag ⟨t.poolAt n, [], free, 0⟩
  writeHeader ag t n next

/-! ### Insert, delete, probe -/

/-- A chain as an insert that extends it sees it (R292): where another engine has linked a block since this instruction began, it may still
see the chain end there, by free choice. -/
def chainSeen (cid : Nat) (ag : Agent) : LxBlock → List (Nat × LxBlock) → LxM (List (Nat × LxBlock))
  | _, [] => return []
  | prev, (n, b) :: rest => do
    let s ← lxState
    let cell ← lxMem fun s => s.engCell ag prev.at_ true
    let choice := s.drawChoice 2
    if ((s.core cid).lxRun.any fun r => r.rivals.contains (cell, n)) && choice.1 == 1 then
      modify fun p => ({ p.1 with draws := choice.2.draws }, p.2)
      return []
    else return (n, b) :: (← chainSeen cid ag b rest)

/-- The link of block n has been written into the block at a cell: instructions that other engines are executing may have read it before
(R292). -/
def lxLinked (cid : Nat) (ag : Agent) (prev : Word) (n : Nat) : LxM Unit := do
  let cell ← lxMem fun s => s.engCell ag prev true
  modify fun p =>
    (((p.1.cores.filter fun c => c.1 != cid && c.2.lxRun.isSome).map (·.1)).foldl (fun s c => s.modCore c fun c =>
      { c with lxRun := c.lxRun.map fun r => { r with rivals := r.rivals ++ [(cell, n)] } }) p.1, p.2)

/-- insert (R272): its code. A bucket is read with its whole chain (log 77). -/
def lxInsert (cid : Nat) (ag : Agent) (t : LxTable) (h x : Nat) : LxM Nat := do
  let (b, chain) ← readBucket ag t h
  let chain ← chainSeen cid ag b chain
  if b.rows.contains x || chain.any fun e => e.2.rows.contains x then return 1
  else if b.rows.length < t.slots then
    writeBlock ag { b with rows := b.rows ++ [x] }
    return 0
  else
    match t.policy with
    | 0 => do
      writeBlock ag { b with flags := Nat.lor b.flags 1 }
      lxSet cid 1
      return 3
    | 1 => do
      writeBlock ag { b with rows := b.rows.drop 1 ++ [x], flags := Nat.lor b.flags 2 }
      lxSet cid 2
      return 2
    | _ =>
      match chain.find? fun e => e.2.rows.length < 8 with
      | some e => do
        writeBlock ag { e.2 with rows := e.2.rows ++ [x] }
        return 0
      | none => do
        let got ← if chain.length < t.bound then lxAlloc ag t else pure none
        match got with
        | some n => do
          writeBlock ag ⟨t.poolAt n, [x], 0, 0⟩
          let last := (chain.getLast?.map (·.2)).getD b
          editLine ag last.at_ (lineChain n)
          lxLinked cid ag last.at_ n
          return 0
        | none => do
          writeBlock ag { b with flags := Nat.lor b.flags 1 }
          lxSet cid 4
          return 3

/-- Removes a row from a chain after `prev`; an emptied block is unlinked and freed (R273). -/
def deleteChain (ag : Agent) (t : LxTable) (x : Nat) : LxBlock → List (Nat × LxBlock) → LxM Bool
  | _, [] => return false
  | prev, (n, b) :: rest =>
    if b.rows.contains x then do
      let rows := b.rows.erase x
      if rows.isEmpty then
        writeBlock ag { prev with chain := b.chain }
        lxFree ag t n
      else writeBlock ag { b with rows }
      return true
    else deleteChain ag t x b rest

/-- delete (R273): whether the row was removed. A bucket is read with its whole chain (log 77). -/
def lxDelete (ag : Agent) (t : LxTable) (h x : Nat) : LxM Bool := do
  let (b, chain) ← readBucket ag t h
  if b.rows.contains x then
    writeBlock ag { b with rows := b.rows.erase x }
    return true
  else deleteChain ag t x b chain

/-- Inserts a row into every table of a family: the codes by table. -/
def insertAll (cid : Nat) (ag : Agent) (x : Nat) : List (LxTable × Nat) → LxM (List Nat)
  | [] => return []
  | (t, h) :: rest => do
    let c ← lxInsert cid ag t h x
    return c :: (← insertAll cid ag x rest)

/-- Deletes a row from every table of a family. -/
def deleteAll (ag : Agent) (x : Nat) : List (LxTable × Nat) → LxM (List Bool)
  | [] => return []
  | (t, h) :: rest => do
    let c ← lxDelete ag t h x
    return c :: (← deleteAll ag x rest)

/-- Every row id that the tables of a family hold at their hashes, in the order read (R274). -/
def probeAll (ag : Agent) : List (LxTable × Nat) → LxM (List Nat)
  | [] => return []
  | (t, h) :: rest => do
    let (b, chain) ← readBucket ag t h
    return b.rows ++ chain.flatMap (fun e => e.2.rows) ++ (← probeAll ag rest)

/-- The tables of a family with a key's hashes. -/
def Core.famTables (c : Core) (f : Nat) (hs : List Nat) : List (LxTable × Nat) := ((c.fam f).regs.map c.table).zip hs

/-- Insertion into a strictly ascending list. -/
def insertSorted (x : Nat) : List Nat → List Nat
  | [] => [x]
  | y :: t => if x < y then x :: y :: t else if x = y then y :: t else y :: insertSorted x t

/-- Row ids without repeats, ascending (R274). -/
def sortRows (xs : List Nat) : List Nat := xs.foldl (fun acc x => insertSorted x acc) []

/-- Writes a list of row ids, 4 bytes each. -/
def writeRows (ag : Agent) (a : Word) : List Nat → LxM Unit
  | [] => return ()
  | x :: t => do
    lxMem fun s => s.engWrite ag a 4 x
    writeRows ag (a + 4) t

/-! ### The incremental rehash (R276) -/

/-- Table and bucket of a cursor over a family's tables; none at the end. -/
def cursorAt : List LxTable → Nat → Option (LxTable × Nat)
  | [], _ => none
  | t :: rest, n => if n < 2 ^ t.b then some (t, n) else cursorAt rest (n - 2 ^ t.b)

/-- Moves rows of a bucket into the tables of fn; detail 0x89 names the key's first byte (log 89). -/
def moveRows (cid : Nat) (ag : Agent) (r : Rehash) : List Nat → LxM Unit
  | [] => return ()
  | x :: rest => do
    let c := (← lxState).core cid
    let f := c.fam r.fn
    let a := r.base + BitVec.ofNat 64 (x * r.stride)
    if r.off + x * r.stride + f.dim * f.es > r.limit then throw (.trap (ownTrap cEngine 0x89 a))
    let (hs, _) ← hashKey cid ag f a
    let _ ← insertAll cid ag x (c.famTables r.fn hs)
    moveRows cid ag r rest

/-- Frees the blocks of a chain. -/
def freeAll (ag : Agent) (t : LxTable) : List Nat → LxM Unit
  | [] => return ()
  | n :: rest => do
    lxFree ag t n
    freeAll ag t rest

/-- Moves up to n buckets; at the end of fo's tables the rehash ends. -/
def rhMove (cid : Nat) (ag : Agent) : Nat → LxM Unit
  | 0 => return ()
  | n + 1 => do
    let c := (← lxState).core cid
    match c.rh with
    | none => return ()
    | some r =>
      match cursorAt ((c.fam r.fo).regs.map c.table) r.cursor with
      | none => return ()
      | some (t, h) =>
        let (b, chain) ← readBucket ag t h
        moveRows cid ag r (b.rows ++ chain.flatMap fun e => e.2.rows)
        editLine ag b.at_ lineEmpty
        freeAll ag t (chain.map (·.1))
        if r.cursor + 1 = c.famBuckets r.fo then
          lxMod cid fun c => { c with rh := none, hf := c.hf.set (Fin.ofNat 4 r.fo : HF) c.hf[(Fin.ofNat 4 r.fn : HF)] }
        else lxMod cid fun c => { c with rh := some { r with cursor := r.cursor + 1 } }
        rhMove cid ag n

/-! ### The instructions at the engine -/

/-- What an instruction writes and pushes at its end. -/
structure LxEnd where
  res : Option (G × Word) := none
  gather : Option CopyReq := none
deriving DecidableEq, Repr

/-- Bits of a list of truth values. -/
def boolBits (bs : List Bool) : Nat := bs.foldr (fun b acc => 2 * acc + if b then 1 else 0) 0

/-- Codes of two bits each. -/
def codeBits (cs : List Nat) : Nat := cs.foldr (fun c acc => 4 * acc + c % 4) 0

/-- The empty buckets of LXTAB with init (R282). -/
def initBuckets (ag : Agent) (t : LxTable) : Nat → Nat → LxM Unit
  | 0, _ => return ()
  | n + 1, i => do
    writeBlock ag ⟨t.bucketAt i, [], 0, 0⟩
    initBuckets ag t n (i + 1)

/-- A lexicon instruction at the head of the engine's order (R281 to R287): the checks of R289 first. -/
def lxRunOp (cid : Nat) (ag : Agent) (op : LxOp) : LxM LxEnd := do
  let c := (← lxState).core cid
  match op with
  | .fam d seed cfg =>
    if c.rhFam d then throw (.trap (lxFault 0x86))
    lxMod cid fun c => { c with hf := c.hf.set (Fin.ofNat 4 d : HF) (BitVec.ofNat 128 (cfg.toNat * 2 ^ 64 + seed.toNat)) }
    return {}
  | .tab d at_ cfg init =>
    if c.rhTable d then throw (.trap (lxFault 0x86))
    let x := cfg.toNat * 2 ^ 64 + at_.toNat
    lxMod cid fun c => { c with lt := c.lt.set (Fin.ofNat 8 d : LT) (BitVec.ofNat 128 x) }
    let t := tableOf x
    if init then
      initBuckets ag t (2 ^ t.b) 0
      if t.policy == 2 then writeHeader ag t 0 1
    return {}
  | .ins d f key row =>
    if !c.famUsable f then throw (.trap (lxFault 0x81))
    let f := match c.rh with
      | some r => if r.fo == f then r.fn else f
      | none => f
    let (hs, nan) ← hashKey cid ag (c.fam f) key
    let codes ← insertAll cid ag row (c.famTables f hs)
    return { res := some (d, BitVec.ofNat 64 (codeBits codes + if nan then 2 ^ 16 else 0)) }
  | .del d f key row =>
    if !c.famUsable f then throw (.trap (lxFault 0x81))
    let pair := c.rh.filter fun r => r.fo == f || r.fn == f
    let fo := (pair.map (·.fo)).getD f
    let (hs, nan) ← hashKey cid ag (c.fam fo) key
    let gone ← deleteAll ag row (c.famTables fo hs)
    let rest ← match pair with
      | some r => do
        let (hs, _) ← hashKey cid ag (c.fam r.fn) key
        let more ← deleteAll ag row (c.famTables r.fn hs)
        pure (boolBits more * 256)
      | none => pure 0
    return { res := some (d, BitVec.ofNat 64 (boolBits gone + rest + if nan then 2 ^ 16 else 0)) }
  | .prb d f cap key list count gather =>
    if !c.famUsable f then throw (.trap (lxFault 0x81))
    let pair := c.rh.filter fun r => r.fo == f || r.fn == f
    let fo := (pair.map (·.fo)).getD f
    let (hs, nan) ← hashKey cid ag (c.fam fo) key
    let xs ← probeAll ag (c.famTables fo hs)
    let ys ← match pair with
      | some r => do
        let (hs, _) ← hashKey cid ag (c.fam r.fn) key
        probeAll ag (c.famTables r.fn hs)
      | none => pure []
    let u := sortRows (xs ++ ys)
    let n := min u.length cap
    writeRows ag list (u.take cap)
    lxMem fun s => s.engWrite ag count 4 n
    if u.length > cap then lxSet cid 16
    return { res := some (d, BitVec.ofNat 64 (u.length + (if u.length > cap then 2 ^ 32 else 0) + if nan then 2 ^ 33 else 0)),
             gather := gather.map fun r => { r with count := n } }
  | .rhStart fo fn base off stride limit rights =>
    if c.rhBad fo fn then throw (.trap (lxFault 0x83))
    lxMod cid fun c => { c with rh := some ⟨fo, fn, 0, base, off, stride, limit, rights⟩ }
    return {}
  | .rhStep d count =>
    if c.rh.isNone then throw (.trap (lxFault 0x83))
    rhMove cid ag count
    let c := (← lxState).core cid
    return { res := some (d, BitVec.ofNat 64 c.rhLeft) }

/-! ## Running -/

/-- Whether the executing instruction can go on with the credit it has taken. -/
inductive LxTry where
  | short                  -- it needs a further step's credit
  | done (s : State)       -- it has gone on
deriving DecidableEq, Repr

/-- The executing instruction ends: its result is written and its thread goes on. -/
def State.lxDone (s : State) (cid : Nat) (j : LxJob) (e : LxEnd) : State :=
  let s := s.modCore cid fun c => { c with lxRun := none }
  let s := match e.gather with
    | some r => s.enqueueCopy r
    | none => s
  if (s.slot cid j.slot).st == .parked (.lexicon j.id) then
    let s := match e.res with
      | some (d, x) => s.modSlot cid j.slot (·.wg d x)
      | none => s
    s.goOn cid j.slot (.go (s.slot cid j.slot).npc)
  else s

/-- The executing instruction is abandoned: its thread takes the trap (R289). -/
def State.lxTrap (s : State) (cid : Nat) (j : LxJob) (t : Trap) : State :=
  let s := s.modCore cid fun c => { c with lxRun := none }
  if (s.slot cid j.slot).st == .parked (.lexicon j.id) then
    s.trapEnter cid j.slot t.cause t.detail t.addr (s.slot cid j.slot).pc false
  else s

/-- The executing instruction with the credit it has. A page fault leaves it waiting. -/
def State.lxTry (s : State) (cid : Nat) (r : LxRun) : LxTry :=
  let q := (lxRunOp cid { core := cid, slot := r.job.slot, job := r.job.job } r.job.op).run.run (s, 0)
  if r.paid < q.2.2 then .short
  else
    match q.1 with
    | .error (.page reason a) =>
      .done ((s.modCore cid fun c => { c with lxRun := some { r with blocked := some a } }).report
        ⟨Config.coreDie cid, cid, r.job.slot, cPage, reason, a, none⟩)
    | .error (.trap t) => .done (q.2.1.lxTrap cid r.job t)
    | .ok e => if e.gather.isSome && (s.core cid).fifoFull then .done s else .done (q.2.1.lxDone cid r.job e)

/-- The executing instruction goes on if it can. -/
def State.lxGo (s : State) (cid : Nat) : State :=
  match (s.core cid).lxRun with
  | none => s
  | some r =>
    if r.blocked.isSome then s
    else
      match s.lxTry cid r with
      | .short => s
      | .done s' => s'

/-- LEXICON_DISPATCH (R278): the next instruction in the engine's order starts, or the executing one goes on. -/
def execLexiconDispatch (s : State) : Out :=
  let cid := s.ev.core
  match (s.core cid).lxRun, (s.core cid).lxQueue with
  | some _, _ => .next (s.lxGo cid)
  | none, [] => .next s
  | none, j :: t => .next ((s.modCore cid fun c => { c with lxQueue := t, lxRun := some { job := j } }).lxGo cid)

/-- A page at `a` that the executing instruction needs is not provided (R289): it is abandoned, and the work it did before stays. -/
def State.lxLost (s : State) (cid : Nat) (r : LxRun) (status : Nat) (a : Word) : State :=
  let q := (lxRunOp cid { core := cid, slot := r.job.slot, job := r.job.job, lost := some a } r.job.op).run.run (s, 0)
  let t := ownTrap cPage status a
  match q.1 with
  | .error (.page _ _) => q.2.1.lxTrap cid r.job t
  | _ => s.lxTrap cid r.job t

/-! ## The issue credit (R247, R279) -/

/-- A pass is ready: its vector has been read, and the executing matrix instruction lacks only its credit. -/
def Core.passReady (c : Core) : Bool :=
  match c.mxRun with
  | none => false
  | some r =>
    r.blocked.isNone && match r.stage with
      | .vector _ xs => !xs.isEmpty
      | .round _ _ vs paid => paid < vs.length * recPasses r.job.op.record
      | _ => false

/-- The pass that is ready starts, and is made. -/
def State.startPass (s : State) (cid : Nat) : State :=
  match (s.core cid).mxRun with
  | none => s
  | some r =>
    match r.stage with
    | .vector i (x :: left) => s.mstrmStep cid r i x left
    | .round j p vs paid => s.tileStep cid r j p vs paid
    | _ => s

/-- A lexicon step is ready: the executing instruction lacks only its credit. -/
def State.stepReady (s : State) (cid : Nat) : Bool :=
  match (s.core cid).lxRun with
  | none => false
  | some r => r.blocked.isNone && s.lxTry cid r == .short

/-- ISSUE_CREDIT_START (R247, R279): in each clk the credit rises by the holding; with c = F the pass that is ready starts, or else the
lexicon step, which may still lose the clk to accesses of higher kinds (R96). `debt` is F − c. -/
def execIssueCreditStart (s : State) : Out :=
  let cid := s.ev.core
  let spend (s : State) : State := s.modCore cid fun c => { c with debt := Config.fullRate cid }
  let s := s.modCore cid fun c => { c with debt := c.debt - (c.extra + 1) }
  let c := s.core cid
  if c.debt != 0 then .next s
  else if c.passReady then .next ((spend s).startPass cid)
  else if s.stepReady cid then
    let s := (spend s).modCore cid fun c => { c with lxRun := c.lxRun.map fun r => { r with paid := r.paid + 1 } }
    let d := if c.bankBusy s.clk then s.drawChoice 2 else (0, s)
    .next (if d.1 = 0 then d.2.lxGo cid else d.2)
  else .next s

end Sys2Proof.Machine
end

