-- ==== Sys2Proof/Machine/Network.lean ====
section
/-!
DEFINITION. The network engine (R293 to R317): channels and packets, roles and RECAST, windows, and the spanning trees.
-/
namespace Sys2Proof.Machine

/-! ## Channel registers (R294, Table 2) -/

/-- A field of a channel register. -/
def chField (c : BitVec 128) (lo n : Nat) : Nat := c.toNat / 2 ^ lo % 2 ^ n

/-- dir: 1 out, 2 in; any other value is unbound. -/
def chDir (c : BitVec 128) : Nat := chField c 62 2

/-- Bound as an out channel. -/
def chOut (c : BitVec 128) : Bool := chDir c == 1

/-- Bound as an in channel. -/
def chIn (c : BitVec 128) : Bool := chDir c == 2

/-- A channel register with a field replaced. -/
def chSet (c : BitVec 128) (lo n x : Nat) : BitVec 128 :=
  BitVec.ofNat 128 (c.toNat - chField c lo n * 2 ^ lo + x % 2 ^ n * 2 ^ lo)

/-- A slot with a channel register replaced. -/
def Slot.setC (t : Slot) (ch : Nat) (x : BitVec 128) : Slot := { t with c := t.c.set (Fin.ofNat 8 ch : C) x }

/-- A channel register. -/
def Slot.ch (t : Slot) (ch : Nat) : BitVec 128 := t.c[(Fin.ofNat 8 ch : C)]

/-- The channel registers that a clause starts with (R294): the role table row of the core's role, its peer slot resolved. -/
def Core.bindChannels (c : Core) (slot : Nat) : Vector (BitVec 128) 8 :=
  Vector.ofFn fun i : Fin 8 =>
    let e : BitVec 128 := BitVec.ofNat 128 (SMap.get 0 c.roleTab (8 * c.role + i.val)).toNat
    if chField e 53 1 = 1 then chSet (chSet e 54 4 slot) 53 1 0 else e

/-- A message is a word of a thread's out channel. -/
def MsgBody.isWordOf (cid k ch : Nat) : MsgBody → Bool
  | .word a b c .. => a == cid && b == k && c == ch
  | _ => false

/-- Words of an out channel sent and not yet accepted (R297). -/
def State.unaccepted (s : State) (cid k ch : Nat) : Nat := (s.msgs.filter fun m => m.body.isWordOf cid k ch).length

/-- The transmission of a word (R309): it leaves for the peer, and the packet opens, goes on or closes. -/
def State.transmit (s : State) (cid k ch : Nat) (data : Word) (last : Bool) : State :=
  let t := s.slot cid k
  let c := t.ch ch
  let n := chField c 64 3
  let closes := last || n == 7
  let first := chField c 67 1 == 0
  let id := if first then s.nextReq else SMap.get 0 t.pktIds ch
  let dst := cellTile (chField c 0 32)
  let uid := (t.occ.map (·.uid)).getD 0
  let s := s.send (.word cid k ch dst (chField c 54 4) (chField c 58 3) t.tag uid id data first closes)
  let s := s.modSlot cid k fun t =>
    { t.setC ch (if closes then chSet (chSet c 67 1 0) 64 3 0 else chSet (chSet c 67 1 1) 64 3 (n + 1)) with
      pktIds := SMap.set 0 t.pktIds ch id }
  if first then { s with nextReq := s.nextReq + 1 } else s

/-- The segment of a network operation must hold the send right (R308): no address is formed. -/
def sendRight (sg : BitVec 128) : Option Trap :=
  if lacks rSend (segRights sg) then some (ownTrap cSegment 0x12 0) else none

/-- The check of a tile base: a space 0x0 address with offset zero that names a live tile (R81, R82, R309, R312). Another
space gives detail 0x01 (log 92). -/
def State.tileBaseBad (s : State) (a : Word) : Option Trap :=
  if a.toNat / 2 ^ 60 != 0 then some (ownTrap cAddress 0x01 a)
  else if a.toNat % 2 ^ 18 != 0 then some (ownTrap cAddress 0x02 a)
  else
    match s.sramPlace a.toNat with
    | .error d => some (ownTrap cAddress d a)
    | .ok _ => none

/-- SEND (R309). -/
def execSend (ch : C) (a : G) (sg : S) (last : Bool) (s : State) : Out :=
  let cid := s.cur.core
  let k := s.cur.slot
  let t := s.me
  let c := t.c[ch]
  if !chOut c then .next (s.trapMe (ownTrap cEngine 0x91 0))
  else
    match sendRight t.s[sg] with
    | some e => .next (s.trapMe e)
    | none =>
      match s.tileBaseBad (BitVec.ofNat 64 (chField c 0 32)) with
      | some e => .next (s.trapMe e)
      | none =>
        if s.unaccepted cid k ch ≥ 16 then .next (s.park cid k (.send ch (t.rg a) last))
        else .next ((s.transmit cid k ch (t.rg a) last).doneWith id)

/-! ## Queues of the receiving core (R296) -/

/-- Packets of the queue of a slot and in channel, oldest first. -/
def Core.queue (c : Core) (k ch : Nat) : List Pkt := c.pkts.filter fun p => p.slot == k && p.ch == ch

/-- Base of the overflow extension in the slice, if it is enabled (R293, R296). -/
def Core.ovfBase (c : Core) : Option Nat := if c.ovf.getLsbD 63 then some (c.ovf.toNat / 2 ^ 13 % 32 * 2 ^ 13) else none

/-- The lowest free overflow entry. -/
def Core.freeOver (c : Core) : Option Nat :=
  match c.ovfBase with
  | none => none
  | some _ => (List.range 64).find? fun i => !c.pkts.any fun p => p.overAt == some i

/-- Cell of an overflow entry, 128 bytes each, at the base that ovf names now (log 91). -/
def State.overCell (s : State) (cid i : Nat) : Nat := sramCell cid (((s.core cid).ovfBase.getD 0 + 128 * i) % 2 ^ 18)

/-- Word 8 of an overflow entry (R296). -/
def overHeader (p : Pkt) : Nat := p.slot + p.ch * 2 ^ 4 + p.count * 2 ^ 7 + if p.ended then 2 ^ 11 else 0

/-- A word written into the extension; a poisoned line stays as it is, and its error is consumed (R402, R403). -/
def State.writeWord (s : State) (a x : Nat) : State := if s.badBytes a 8 .write then s.consumeError a else s.writePlain a 8 x

/-- Words written to consecutive cells of the extension. -/
def State.writeWords (s : State) (a : Nat) : List Nat → State
  | [] => s
  | x :: t => (s.writeWord a x).writeWords (a + 8) t

/-- A held packet is replaced. -/
def Core.setPkt (c : Core) (p : Pkt) : Core := { c with pkts := c.pkts.map fun q => if q.id == p.id then p else q }

/-- A word joins a held packet (R296). -/
def State.addWord (s : State) (cid : Nat) (p : Pkt) (data : Word) (last : Bool) : State :=
  let p' := { p with words := if p.overAt.isNone then p.words ++ [data] else [], count := p.count + 1, ended := last }
  let s := s.modCore cid (·.setPkt p')
  match p.overAt with
  | none => s
  | some i =>
    let a := s.overCell cid i
    (s.writeWord (a + 8 * p.count) data.toNat).writeWord (a + 64) (overHeader p')

/-- The entry that a first word takes (R296): a hardware entry of its queue, or the lowest overflow entry. -/
def Core.entryFor (c : Core) (k ch : Nat) : Option (Option Nat) :=
  if ((c.queue k ch).filter fun p => p.overAt.isNone && !p.err).length < 2 then some none
  else c.freeOver.map some

/-- A first word opens its packet's entry; an overflow entry is written as zeros first. -/
def State.openPkt (s : State) (cid k ch id job src : Nat) (overAt : Option Nat) : State :=
  let p : Pkt := { id, slot := k, ch, job, src, words := [], count := 0, read := 0, ended := false, overAt }
  let s := s.modCore cid fun c => { c with pkts := c.pkts ++ [p] }
  match overAt with
  | none => s
  | some i => s.writeWords (s.overCell cid i) ((List.replicate 8 0) ++ [overHeader p] ++ List.replicate 7 0)

/-- Words of a held packet, as the entry holds them. -/
def State.pktWords (s : State) (cid : Nat) (p : Pkt) : List Word :=
  match p.overAt with
  | none => p.words
  | some i => (List.range p.count).map fun j => BitVec.ofNat 64 (s.readN (s.overCell cid i + 8 * j) 8)

/-- A packet leaves its entry; the oldest overflow packet of the queue takes a hardware entry that frees (R296). Its words are read then: an
error in them is corrected, or consumed by the tile's own network engine (R100, R403). -/
def State.freePkt (s : State) (cid : Nat) (p : Pkt) : State :=
  let s := s.modCore cid fun c => { c with pkts := c.pkts.filter fun q => q.id != p.id }
  if p.overAt.isSome || p.err then s
  else
    match ((s.core cid).queue p.slot p.ch).find? fun q => q.overAt.isSome with
    | some q =>
      let a := s.overCell cid (q.overAt.getD 0)
      if s.badBytes a (8 * q.count) .read then s.consumeError a
      else (s.correctBytes a (8 * q.count)).modCore cid (·.setPkt { q with words := s.pktWords cid q, overAt := none })
    | none => s

/-- A held packet ends as it stands: one that has been read to its end leaves its entry, and another takes the end bit, which an overflow
entry holds in its word 8 (R296). -/
def State.endPkt (s : State) (cid : Nat) (p : Pkt) : State :=
  if p.read = p.count then s.freePkt cid p
  else
    let p := { p with ended := true }
    let s := s.modCore cid (·.setPkt p)
    match p.overAt with
    | none => s
    | some i => s.writeWord (s.overCell cid i + 64) (overHeader p)

/-- Cell of a held packet's next word, where the packet stands in the overflow extension. -/
def State.wordCell (s : State) (cid : Nat) (p : Pkt) : Option Nat := p.overAt.map fun i => s.overCell cid i + 8 * p.read

/-- RECV takes the next word of the head packet, if there is one (R310). A word that is still in the extension is read there: one that holds
an uncorrectable error gives no value (R100). -/
def State.takeWord (s : State) (cid k : Nat) (d : G) (ch : Nat) : Option State :=
  match (s.core cid).queue k ch with
  | [] => none
  | p :: _ =>
    if p.read < p.count then
      let at_ := s.wordCell cid p
      if at_.any fun a => s.badBytes a 8 .read then some (s.consumeError (at_.getD 0)) else
      let x := (s.pktWords cid p).getD p.read 0
      let s := match at_ with
        | none => s
        | some a => s.correctBytes a 8
      let ends := p.ended && p.read + 1 == p.count
      let s := s.modSlot cid k fun t => (t.setC ch (chSet (t.ch ch) 68 1 (if ends then 1 else 0))).wg d x
      some (if ends then s.freePkt cid p else s.modCore cid (·.setPkt { p with read := p.read + 1 }))
    else none

/-- An error message stands at the head of a queue (R403). -/
def Core.headErr (c : Core) (k ch : Nat) : Bool :=
  match c.queue k ch with
  | p :: _ => p.err
  | [] => false

/-- RECV (R310). An error message of a contained sender stays at the head (R403). -/
def execRecv (d : G) (ch : C) (s : State) : Out :=
  let cid := s.cur.core
  let k := s.cur.slot
  if !chIn s.me.c[ch] then .next (s.trapMe (ownTrap cEngine 0x91 0))
  else if (s.core cid).headErr k ch then .next (s.trapMe (ownTrap cContained 0x62 0))
  else
    match s.takeWord cid k d ch with
    | some s' => .next (s'.doneWith id)
    | none => .next (s.park cid k (.recv d ch))

/-- The state word of CHST (R311, Table 8). -/
def State.chState (s : State) (cid k ch : Nat) : Nat :=
  let c := (s.slot cid k).ch ch
  if chOut c then chField c 64 3 * 2 ^ 41 + chField c 67 1 * 2 ^ 40 + s.unaccepted cid k ch * 2 ^ 32 + 2 ^ 20
  else if chIn c then
    let q := (s.core cid).queue k ch
    let head := match q with
      | p :: _ => if p.err then 0 else (if p.ended then 2 ^ 16 else 0) + (p.count - p.read) * 2 ^ 8
      | [] => 0
    2 ^ 19 + chField c 69 1 * 2 ^ 18 + chField c 68 1 * 2 ^ 17 + head + q.length
  else 0

/-- CHST (R311). -/
def execChst (d : G) (ch : C) (s : State) : Out :=
  s.doneG d (BitVec.ofNat 64 (s.chState s.cur.core s.cur.slot ch))

/-- A sender parked on a channel goes on when a word of it is accepted (R297). -/
def State.wakeSender (s : State) (cid k ch : Nat) : State :=
  match (s.slot cid k).st with
  | .parked (.send c data last) =>
    if c = ch && s.unaccepted cid k ch < 16 then (s.transmit cid k ch data last).goOn cid k (.go (s.slot cid k).npc) else s
  | _ => s

/-- A receiver parked on a queue goes on when it has an unread word (R310). -/
def State.wakeReceiver (s : State) (cid k ch : Nat) : State :=
  match (s.slot cid k).st with
  | .parked (.recv d c) =>
    if c != ch then s
    else if (s.core cid).headErr k ch then s.trapEnter cid k cContained 0x62 0 (s.slot cid k).pc false
    else
      match s.takeWord cid k d ch with
      | some s' => s'.goOn cid k (.go (s'.slot cid k).npc)
      | none => s
  | _ => s

/-- An asynchronous fault of a sender, with trap_addr at the target tile (R13, R299). -/
def State.refusePacket (s : State) (cid k uid dst cause detail pkt : Nat) (last : Bool) : State :=
  let known := s.refusedPkts.contains pkt
  let s := if known then s else s.reportTo cid k uid cause detail (BitVec.ofNat 64 (Config.tileBase dst))
  if last then { s with refusedPkts := s.refusedPkts.filter (· != pkt) }
  else if known then s else { s with refusedPkts := pkt :: s.refusedPkts }

/-- A slot runs, or holds stopped, a clause of another job than the sender's (R299). -/
def Slot.foreign (t : Slot) (job : Nat) : Bool := t.st != .free && t.tag != job

/-- PACKET_WORD_ARRIVAL (R296, R297, R299), for the message that the event names. A first word that finds no entry stays on its link. -/
def execPacketWordArrival (s : State) : Out :=
  match s.takeMsg s.ev.id with
  | (some (.word cid k ch dst dslot dch job uid pkt data first last), gone) =>
    let held := (s.core dst).pkts.find? fun p => p.id == pkt
    if s.isDead dst then .next ((gone.refusePacket cid k uid dst cContained 0x62 pkt last).wakeSender cid k ch)
    else
      match held with
      | some p => .next (((gone.addWord dst p data last).wakeReceiver dst dslot dch).wakeSender cid k ch)
      | none =>
        if !first || (s.slot dst dslot).foreign job then
          .next ((gone.refusePacket cid k uid dst cEngine 0x93 pkt last).wakeSender cid k ch)
        else
          match (s.core dst).entryFor dslot dch with
          | none => .next s
          | some overAt =>
            let s := gone.openPkt dst dslot dch pkt job cid overAt
            match (s.core dst).pkts.find? fun p => p.id == pkt with
            | some p => .next (((s.addWord dst p data last).wakeReceiver dst dslot dch).wakeSender cid k ch)
            | none => .next s
  | _ => .next s

/-- An error message of a packet's own sender stands in the packet's queue (R403). -/
def Core.sealedPkt (c : Core) (p : Pkt) : Bool := (c.queue p.slot p.ch).any fun e => e.err && e.src == p.src

/-- A clause starts on a slot: packets of other jobs in its queues are discarded and reported (R299, R413 code 0x06). The error message of a
contained sender is discarded with the queue's other packets from that sender (R403). -/
def State.discardPkts (s : State) (cid k job : Nat) : State :=
  let bad := (s.core cid).pkts.filter fun p => p.slot == k && (p.job != job || (s.core cid).sealedPkt p)
  bad.foldl (fun s b =>
    let p := ((s.core cid).pkts.find? fun q => q.id == b.id).getD b
    if p.job = job || p.err then s.freePkt cid p
    else ((s.freePkt cid p).report ⟨Config.coreDie cid, cid, k, 0, 0, BitVec.ofNat 64 (coreBase cid), none⟩).event 0x06
      (Config.coreDie cid) (coreBase cid) (BitVec.ofNat 64 (p.job * 2 ^ 40 + k * 2 ^ 32 + p.ch * 2 ^ 28 + p.count))) s

/-- The device closes a slot's open packets as they stand (R141): the last word already sent ends each. -/
def State.closePackets (s : State) (cid k : Nat) : State :=
  (List.range 8).foldl (fun s ch =>
    let t := s.slot cid k
    let c := t.ch ch
    if chField c 67 1 = 0 then s
    else
      let pkt := SMap.get 0 t.pktIds ch
      let s := s.modSlot cid k fun t => t.setC ch (chSet (chSet c 67 1 0) 64 3 0)
      match (s.msgs.filter fun m => m.body.isWordOf cid k ch).getLast? with
      | some m =>
        { s with msgs := s.msgs.map fun x => if x.id == m.id then
            { x with body := match x.body with
              | .word a b c d e f j u p w fst _ => .word a b c d e f j u p w fst true
              | y => y } else x }
      | none =>
        let dst := cellTile (chField c 0 32)
        match (s.core dst).pkts.find? fun p => p.id == pkt with
        | some p => s.endPkt dst p
        | none => { s with refusedPkts := s.refusedPkts.filter (· != pkt) }) s

/-! ## Roles (R300, R301, R312) -/

/-- RECAST (R312): the recast message is a posted write (R131). -/
def execRecast (a b : G) (sg : S) (s : State) : Out :=
  let t := s.me
  let base := t.rg a
  let role := (t.rg b).toNat
  match sendRight t.s[sg] with
  | some e => .next (s.trapMe e)
  | none =>
    match s.tileBaseBad base with
    | some e => .next (s.trapMe e)
    | none =>
      if role > 3 then .next (s.trapMe (ownTrap cEngine 0x91 0))
      else
        let u : AUnit := ⟨0, base, base.toNat, 8⟩
        .next (s.startAccess s.cur.core s.cur.slot { op := .recast role, done := .none, units := [u], posted := true } [] (.go t.npc) [])

/-- RECAST_MESSAGE (R300, R13): it reaches the target core, or its tile is retired. -/
def execRecastMessage (s : State) : Out :=
  match s.takeMsg s.ev.id with
  | (some (.access id home), s) =>
    match SMap.get none s.accesses id with
    | some a =>
      match a.parts with
      | (_, u :: _) :: _ =>
        if s.isDead home then .next (s.answer id home [] [⟨0, cContained, 0x62, u.va⟩])
        else
          match s.homeOp a.job a.op u with
          | (s, .fail c d) => .next (s.answer id home [] [⟨0, c, d, u.va⟩])
          | (s, _) => .next (s.answer id home [] [])
      | _ => .next s
    | none => .next s
  | _ => .next s

/-- The channels that the current role binds as in. -/
def Core.inChannels (c : Core) : List Nat :=
  (List.range 8).filter fun i => chIn (BitVec.ofNat 128 (SMap.get 0 c.roleTab (8 * c.role + i)).toNat)

/-- The in channels of the current role are dry (R300). -/
def Core.dry (c : Core) : Bool := c.inChannels.all fun ch => !c.pkts.any fun p => p.ch == ch && !p.err

/-- RECAST_ADOPT (R300, R301): a dry core takes its pending role; threads parked in RECV on the old in channels are released. -/
def execRecastAdopt (s : State) : Out :=
  let cid := s.ev.core
  let c := s.core cid
  match c.pend with
  | none => .next s
  | some role =>
    if !c.dry then .next s
    else
      let old := c.inChannels
      let s := s.modCore cid fun c => { c with role := role, pend := none }
      .next ((List.range 16).foldl (fun s k =>
        match (s.slot cid k).st with
        | .parked (.recv d ch) =>
          if old.contains ch then
            (s.modSlot cid k fun t => (t.setC ch (chSet (t.ch ch) 69 1 1)).wg d 0).goOn cid k (.go (s.slot cid k).npc)
          else s
        | _ => s) s)

/-! ## Windows (R302, R315) -/

/-- Detail 0x92: a reserved bit, or a count above 4,096. -/
def winBad (x : Word) : Bool := wfield x.toNat 40 24 != 0 || wfield x.toNat 25 12 != 0 || wfield x.toNat 12 13 > 4096

/-- WIN, write form (R315): the new value is in force at once. -/
def execWinWrite (idx : Fin 4) (a : G) (s : State) : Out :=
  let x := s.me.rg a
  if winBad x then .next (s.trapMe (ownTrap cEngine 0x92 0))
  else .next ((s.modCore s.cur.core fun c => { c with win := c.win.set idx x }).doneWith id)

/-- WIN, read form (R315). -/
def execWinRead (d : G) (idx : Fin 4) (s : State) : Out := s.doneG d (s.core s.cur.core).win[idx]

/-! ## Spanning trees (R304 to R307, R313, R314) -/

/-- The core is a member. -/
def Tree.member (t : Tree) : Bool := t.cfg.getLsbD 0
/-- The core is the root. -/
def Tree.root (t : Tree) : Bool := t.cfg.getLsbD 1
/-- Number of children. -/
def Tree.count (t : Tree) : Nat := min (wfield t.cfg.toNat 4 4) 8

/-- The core that a tile base register names. -/
def coreOfBase (x : Word) : Nat := cellTile (x.toNat % 2 ^ 32)

/-- Child slots with their cores. -/
def Tree.children (t : Tree) : List (Nat × Nat) := (List.range t.count).map fun j => (j, coreOfBase (SMap.get 0 t.kids j))

/-- Order of top-k pairs (R307): score descending with −0 equal to +0, then id ascending. Of two pairs of one id whose scores are +0 and −0,
the same one always comes first, so that the order of the children does not show; which one is free (log 97). -/
def topBefore (x y : Nat) : Bool :=
  let sx := fp32.dec (x % 2 ^ 32)
  let sy := fp32.dec (y % 2 ^ 32)
  if valLt sy sx then true
  else if valLt sx sy then false
  else if x / 2 ^ 32 != y / 2 ^ 32 then x / 2 ^ 32 < y / 2 ^ 32
  else if Config.plusZeroFirst then x < y
  else y < x

/-- Insertion in that order, after equals. -/
def topInsert (x : Nat) : List Nat → List Nat
  | [] => [x]
  | y :: t => if topBefore x y then x :: y :: t else y :: topInsert x t

/-- A top-k merge of pairs into k (R307). -/
def topMerge (k : Nat) (xs : List Nat) : List Nat :=
  let live := xs.filter fun x => !(fp32.dec (x % 2 ^ 32)).isNaN
  let sorted := live.foldl (fun acc x => topInsert x acc) []
  (sorted ++ List.replicate k (0xFF800000 + 0xFFFFFFFF * 2 ^ 32)).take k

/-- One element of NRED combined (R306). -/
def nredElem (ty : VType) (op x y : Nat) : Nat :=
  if ty == .f32 then
    match op with
    | 0 => (fpAdd fp32 .rne x y).1
    | 1 => (fpMinMax fp32 false x y).1
    | _ => (fpMinMax fp32 true x y).1
  else
    let e := ty.bits
    match op with
    | 0 => (x + y) % 2 ^ e
    | 1 => if sextN e y < sextN e x then y else x
    | _ => if sextN e x < sextN e y then y else x

/-- Two contributions agree in instruction, type, op and count (R305). -/
def TreeVal.agrees (x y : TreeVal) : Bool := x.kind == y.kind && x.ty == y.ty && x.op == y.op && x.vals.length == y.vals.length

/-- A node's own contribution with its children's partial results, in ascending child slot (R305, R79). -/
def combineTree (own : TreeVal) (kids : List TreeVal) : TreeVal :=
  if own.kind = 0 && own.op = 3 then
    { own with vals := topMerge own.vals.length (own.vals ++ kids.flatMap fun k => k.vals) }
  else
    kids.foldl (fun acc k =>
      { acc with vals := (acc.vals.zip k.vals).map fun p =>
          if own.kind = 0 then nredElem own.ty own.op p.1 p.2
          else if sextN 64 p.1 < sextN 64 p.2 then p.2 else p.1 }) own

/-- Writes the elements of a result on path N, one unit each (R313); where it stops, what is left. -/
def State.writeResult (s : State) (ag : Agent) (a : Word) (es : Nat) : List Nat → State × Option (EngFail × Word × List Nat)
  | [] => (s, none)
  | x :: t =>
    match s.engWrite ag a es x with
    | (s, .error e) => (s, some (e, a, x :: t))
    | (s, .ok _) => s.writeResult ag (a + BitVec.ofNat 64 es) es t

/-- A failure of a result write is reported as an engine's: an asynchronous trap (R211, R222, R313). -/
def State.resultFailed (s : State) (cid k uid cause detail : Nat) (addr : Word) : State :=
  { s.engineReport cid k uid s.nextAcc cause detail addr none with nextAcc := s.nextAcc + 1 }

/-- A member's result write, from an element on: a page fault waits, and another failure is reported as an engine's (R313, R222). -/
def State.finishResult (s : State) (cid k : Nat) (a : Word) (es : Nat) (vals : List Nat) : State :=
  let uid := ((s.slot cid k).occ.map (·.uid)).getD 0
  match s.writeResult (s.agent cid k) a es vals with
  | (s, none) => s.goOn cid k (.go (s.slot cid k).npc)
  | (s, some (.page r a, at_, rest)) =>
    (s.report ⟨Config.coreDie cid, cid, k, cPage, r, a, none⟩).modSlot cid k fun t => { t with st := .parked (.treeWrite at_ es rest) }
  | (s, some (.fault c d a, _, _)) =>
    (s.resultFailed cid k uid c d a).goOn cid k (.go (s.slot cid k).npc)

/-- The thread of an outstanding operation receives its result (R305). -/
def State.giveResult (s : State) (cid t : Nat) (o : TreeOp) (v : TreeVal) : State :=
  if o.ended || (s.slot cid o.slot).st != .parked (.tree t) then s
  else match o.dest with
  | .none => s.goOn cid o.slot (.go (s.slot cid o.slot).npc)
  | .g d => (s.modSlot cid o.slot (·.wg d (ofInt (sextN 64 (v.vals.getD 0 0))))).goOn cid o.slot (.go (s.slot cid o.slot).npc)
  | .mem a es => s.finishResult cid o.slot a es v.vals

/-- An operation ends at a core: the next one starts afresh. -/
def Tree.next (t : Tree) : Tree :=
  { t with
    no := t.no + 1, wait := t.wait.drop 1
    got := t.got.filter fun g => t.no < g.1
    fails := t.fails.filter fun f => t.no < f.1 }

/-- The core's present operation completes with its result, which goes on to the children. -/
def State.treeDone (s : State) (cid t : Nat) (v : TreeVal) : State :=
  let x := s.tree cid t
  let s := x.children.foldl (fun s j => s.send (.treeDown j.2 t x.no v)) s
  let s := s.modTree cid t Tree.next
  match x.wait with
  | o :: _ => s.giveResult cid t o v
  | [] => s

/-- A failure of an operation is recorded and passed to the parent and the children (R305). -/
def State.treeFailed (s : State) (cid t no cause detail : Nat) : State :=
  let x := s.tree cid t
  if no < x.no || x.fails.any fun f => f.1 == no then s
  else
    let s := s.modTree cid t fun x => { x with fails := x.fails ++ [(no, cause, detail)] }
    let s := if x.root then s else s.send (.treeFail (coreOfBase x.parent) t no cause detail)
    x.children.foldl (fun s j => s.send (.treeFail j.2 t no cause detail)) s

/-- The partial result that child slot j has sent for the present operation. -/
def Tree.part (t : Tree) (j : Nat) : Option TreeVal := (t.got.find? fun g => g.1 == t.no && g.2.1 == j).map (·.2.2)

/-! ### Whether the members name each other consistently (R304) -/

/-- A member names another core as its parent, or as a child. -/
def State.names (s : State) (t x y : Nat) : Bool :=
  let r := s.tree x t
  r.member && ((!r.root && coreOfBase r.parent == y) || r.children.any fun j => j.2 == y)

/-- The cores that are linked with those of a list, by naming or by being named. -/
def State.treeParty (s : State) (t : Nat) : Nat → List Nat → List Nat
  | 0, l => l
  | n + 1, l =>
    let named := l.flatMap fun x => (s.tree x t).children.map (·.2) ++ if (s.tree x t).root then [] else [coreOfBase (s.tree x t).parent]
    let naming := (s.cores.map (·.1)).filter fun x => l.any fun y => s.names t x y
    let more := (named ++ naming).eraseDups.filter fun x => !l.contains x
    if more.isEmpty then l else s.treeParty t n (l ++ more)

/-- A core's tree registers agree with those of the cores that they name: it is a member, its children name it as their parent, each once,
and, but for the root, its parent lists it. -/
def State.treeFits (s : State) (t x : Nat) : Bool :=
  let r := s.tree x t
  let kids := r.children.map (·.2)
  r.member && kids.eraseDups.length == kids.length
    && kids.all (fun y => !(s.tree y t).root && (s.tree y t).member && coreOfBase (s.tree y t).parent == x)
    && (r.root || (s.tree (coreOfBase r.parent) t).children.any fun j => j.2 == x)

/-- The cores linked with a root form one tree (R304). -/
def State.treeSound (s : State) (t root : Nat) : Bool :=
  let l := s.treeParty t s.cores.length [root]
  l.all fun x => s.treeFits t x && ((s.tree x t).root == (x == root))

/-- Threads parked in operations that have failed take their traps at once (R298, R305); an operation that is not yet its core's present one
keeps its place. -/
def State.treeTraps (s : State) (cid t : Nat) : State :=
  let x := s.tree cid t
  (x.wait.mapIdx fun i o => (x.no + i, o)).foldl (fun s e =>
    match x.fails.find? fun f => f.1 == e.1 with
    | some f =>
      if e.2.val.isSome && !e.2.ended && (s.slot cid e.2.slot).st == .parked (.tree t) then
        (s.modTree cid t fun x => { x with wait := x.wait.mapIdx fun i o => if x.no + i = e.1 then { o with ended := true } else o }).trapEnter
          cid e.2.slot f.2.1 f.2.2 0 (s.slot cid e.2.slot).pc false
      else s
    | none => s) s

/-- The present operation of a core's tree goes as far as it can: it fails, or its partial result is passed up, or at the root of a tree
whose members name each other consistently its result down (R304, R305). -/
def State.treeGo (s : State) (cid t : Nat) : Nat → State
  | 0 => s
  | fuel + 1 =>
    let s := s.treeTraps cid t
    let x := s.tree cid t
    match x.wait with
    | [] => s
    | o :: _ =>
      match o.val with
      | none => s
      | some own =>
        if x.fails.any fun f => f.1 == x.no then (s.modTree cid t Tree.next).treeGo cid t fuel
        else if (x.children.any fun j => s.isDead j.2) || (!x.root && s.isDead (coreOfBase x.parent)) then
          (s.treeFailed cid t x.no cContained 0x62).treeGo cid t fuel
        else
          let parts := x.children.map fun j => x.part j.1
          if parts.any fun p => p.any fun v => !v.agrees own then (s.treeFailed cid t x.no cEngine 0x96).treeGo cid t fuel
          else if o.sent || parts.any Option.isNone then s
          else
            let v := combineTree own (parts.filterMap id)
            if x.root then if s.treeSound t cid then (s.treeDone cid t v).treeGo cid t fuel else s
            else (s.modTree cid t fun x => { x with wait := { o with sent := true } :: x.wait.drop 1 }).send
              (.treePart cid (coreOfBase x.parent) t x.no v)

/-- The running thread's tree operation takes its place in issue order and acts as a FENCE.dev; `go` then contributes (R305). -/
def State.treeIssue (s : State) (t : Nat) (i : Instr) (go : State → State) : State :=
  let cid := s.cur.core
  let k := s.cur.slot
  let s := if (s.tree cid t).wait.any (TreeOp.waitsFor k) then s
    else s.modTree cid t fun x => { x with wait := x.wait ++ [⟨k, none, .none, false, false⟩] }
  s.fenceThen .dev i go

/-- Number of the tree operation that a slot takes part in. -/
def Tree.opOf (t : Tree) (k : Nat) : Nat := t.no + (t.wait.takeWhile fun o => o.slot != k || o.ended).length

/-- A thread's clause ends in the middle of tree operations: they fail at every member (R403). -/
def State.leaveTrees (s : State) (cid k : Nat) : State :=
  (List.range 4).foldl (fun s t =>
    let x := s.tree cid t
    if x.wait.any fun o => o.slot == k && !o.ended then
      let no := x.opOf k
      let s := s.modTree cid t fun x =>
        { x with wait := x.wait.map fun o => if o.slot = k then { o with val := some (o.val.getD ⟨2, .i64, 0, []⟩), ended := true } else o }
      (s.treeFailed cid t no cContained 0x62).treeGo cid t 32
    else s) s

/-- A thread's contribution joins the core's operations of the tree (R305), at the place that its issue gave it. -/
def State.contribute (s : State) (t : Nat) (v : TreeVal) (dest : TreeDest) : State :=
  let cid := s.cur.core
  let k := s.cur.slot
  let s := s.park cid k (.tree t)
  (s.modTree cid t fun x =>
    { x with wait := x.wait.map fun o => if o.waitsFor k then { o with val := some v, dest := dest } else o }).treeGo cid t 32

/-- The trap of a tree instruction, which leaves the tree's order. -/
def State.trapTree (s : State) (t : Trap) : State := (s.dropReserved s.cur.core s.cur.slot).trapMe t

/-- Element bytes of an NRED (R306, Table 5). -/
def nredBytes (ty : VType) (op : Nat) : Nat := if op = 3 then 8 else ty.bytes

/-- The most elements of an NRED (R313). -/
def nredMax (ty : VType) (op : Nat) : Nat := if op = 3 then 16 else if ty == .i64 then 32 else 64

/-- Reads the elements of an NRED. -/
def State.readElems (s : State) (ag : Agent) (a : Word) (es : Nat) : Nat → State × Except EngFail (List Nat)
  | 0 => (s, .ok [])
  | n + 1 =>
    match s.engRead ag a es with
    | (s, .error e) => (s, .error e)
    | (s, .ok x) =>
      let q := s.readElems ag (a + BitVec.ofNat 64 es) es n
      (q.1, q.2.map (x :: ·))

/-- The checks of NRED at issue (R313): its source and destination, or the trap. -/
def State.nredChecks (s : State) (ty : VType) (op tree : Nat) (sg : BitVec 128) (a b c : Word) : Except Trap (Word × Word) :=
  let ag := s.agent s.cur.core s.cur.slot
  let n := c.toNat
  let e := nredBytes ty op
  if n = 0 || n > nredMax ty op then .error (ownTrap cEngine 0x97 0)
  else
    match sendRight sg with
    | some t => .error t
    | none => do
      let src ← s.engRange ag sg a.toInt (n * e) e fun _ => rRead
      let dst ← s.engRange ag sg b.toInt (n * e) e destRights
      if !(s.tree s.cur.core tree).member then throw (ownTrap cEngine 0x95 0)
      return (src, dst)

/-- NRED (R313). -/
def execNred (ty : VType) (op tree : Fin 4) (sg : S) (a b c : G) (s : State) : Out :=
  let t := s.me
  match s.nredChecks ty op tree t.s[sg] (t.rg a) (t.rg b) (t.rg c) with
  | .error e => .next (s.trapTree e)
  | .ok (src, dst) =>
    let go (s : State) : State :=
      let cid := s.cur.core
      let k := s.cur.slot
      let es := nredBytes ty op
      match s.readElems (s.agent cid k) src es (t.rg c).toNat with
      | (s, .error (.page r x)) => (s.report ⟨Config.coreDie cid, cid, k, cPage, r, x, none⟩).park cid k (.pageFault x)
      | (s, .error (.fault cc d x)) => s.trapTree (ownTrap cc d x)
      | (s, .ok xs) => s.contribute tree ⟨0, ty, op, xs⟩ (.mem dst es)
    .next (s.treeIssue tree (.nred ty op tree sg a b c) go)

/-- NBMAX (R314). -/
def execNbmax (d a : G) (sg : S) (tree : Fin 4) (s : State) : Out :=
  let t := s.me
  let x := (t.rg a).toInt
  match sendRight t.s[sg] with
  | some e => .next (s.trapTree e)
  | none =>
    if x < -127 || x > 127 then .next (s.trapTree ⟨6, cData, 0x03, 0⟩)
    else if !(s.tree s.cur.core tree).member then .next (s.trapTree (ownTrap cEngine 0x95 0))
    else .next (s.treeIssue tree (.nbmax d a sg tree) fun s => s.contribute tree ⟨1, .i64, 0, [(t.rg a).toNat]⟩ (.g d))

/-- NBAR (R314). -/
def execNbar (sg : S) (tree : Fin 4) (s : State) : Out :=
  match sendRight s.me.s[sg] with
  | some e => .next (s.trapTree e)
  | none =>
    if !(s.tree s.cur.core tree).member then .next (s.trapTree (ownTrap cEngine 0x95 0))
    else .next (s.treeIssue tree (.nbar sg tree) fun s => s.contribute tree ⟨2, .i64, 0, []⟩ .none)

/-- TREE_PARTIAL (R305): a child's partial result reaches its parent; one whose sender the parent does not name is lost. -/
def execTreePartial (s : State) : Out :=
  match s.takeMsg s.ev.id with
  | (some (.treePart src dst t no v), s) =>
    let x := s.tree dst t
    match x.children.find? fun j => j.2 == src with
    | some j => if no < x.no then .next s else .next ((s.modTree dst t fun x => { x with got := x.got ++ [(no, j.1, v)] }).treeGo dst t 32)
    | none => .next s
  | _ => .next s

/-- TREE_RESULT (R305): the final result, or a failure, reaches a member. -/
def execTreeResult (s : State) : Out :=
  match s.takeMsg s.ev.id with
  | (some (.treeDown dst t no v), s) =>
    if (s.tree dst t).no = no && !(s.tree dst t).wait.isEmpty then .next ((s.treeDone dst t v).treeGo dst t 32) else .next s
  | (some (.treeFail dst t no cause detail), s) =>
    .next ((s.treeFailed dst t no cause detail).treeGo dst t 32)
  | _ => .next s

/-! ## Stall timeouts (R298) -/

/-- Turns since a park began. -/
def State.turns (s : State) (t : Slot) : Nat := (s.clk - t.parkClk) / 16

/-- The park's turns have reached stall_timeout. -/
def State.stalled (s : State) (t : Slot) : Bool := t.stallTimeout != 0 && t.stallTimeout.toNat ≤ s.turns t

/-- CHANNEL_STALL_TIMEOUT (R298, R305), for the slot that the event names: a SEND traps; a tree operation fails at every member. -/
def execChannelStallTimeout (s : State) : Out :=
  let cid := s.ev.core
  let k := s.ev.slot
  let t := s.slot cid k
  if !s.stalled t then .next s
  else
    match t.st with
    | .parked (.send ..) => .next (s.trapEnter cid k cStall 0x01 0 t.pc false)
    | .parked (.tree tr) => .next ((s.treeFailed cid tr ((s.tree cid tr).opOf k) cStall 0x02).treeGo cid tr 32)
    | _ => .next s

end Sys2Proof.Machine
end

