-- ==== Sys2Proof/Machine/Thread.lean ====
section
/-!
DEFINITION. The events of the thread engine: instruction fetch and annulment (R44, R45, R92, R147, R148), decode traps (R49),
asynchronous traps (R142), the checker and the known-answer tester (R128, R150 to R152), T-cont accesses (R97).
-/
namespace Sys2Proof.Machine

/-- The 32-byte fetch block of an address (R30). -/
def blockOf (a : Word) : Word := BitVec.ofNat 64 (a.toNat / 32 * 32)

/-- The block at an address in a buffer. -/
def bufFind (b : List Block) (a : Word) : Option Block := b.find? fun x => x.addr == a

/-- The thread waits for a block, or fetches it ahead. -/
def Slot.wants (t : Slot) (b : Word) : Bool := t.want == some b || t.pre == some b

/-- A fetched block enters the buffer, which keeps the block that holds pc and the block after it (R147). -/
def Slot.load (t : Slot) (b : Block) : Slot :=
  let cur := blockOf t.pc
  { t with
    buf := (b :: t.buf.filter fun x => x.addr != b.addr).filter fun x => x.addr == cur || x.addr == cur + 32
    want := if t.want == some b.addr then none else t.want
    pre := if t.pre == some b.addr then none else t.pre }

/-- The check of a fetch block against s0 (R92): its place, or cause and detail. Space 0x7, which has no access of 32 bytes (R87), raises
the address fault. -/
def State.fetchPlace (s : State) (cid k : Nat) (a : Word) : Except (Nat × Nat) Place :=
  let sg := (s.slot cid k).s[0]
  match segAddr sg ((a.toNat : Int) - segBase sg) 32 32 (fun _ => rExec) true with
  | .error e => if e.1 = cAlign && spaceOf a == 7 then .error (cAddress, 0x02) else .error e
  | .ok a =>
    match s.checkSpace (s.agent cid k) a with
    | .error d => .error (cAddress, d)
    | .ok p => .ok p

/-- A fetch that fails: a demanded block traps at the first word that the thread would issue from it (R92); a block fetched ahead
is dropped, and the check is made again if the thread reaches it. -/
def State.fetchFail (s : State) (cid k : Nat) (demand : Bool) (cause detail : Nat) : State :=
  let t := s.slot cid k
  let s := s.modSlot cid k fun t => { t with want := none, pre := none, halves := [] }
  if demand then s.trapEnter cid k cause detail t.pc t.pc false else s

/-- A 16-byte half of a block has been read; with its other half the block enters the buffer (R148). -/
def Slot.takeHalf (t : Slot) (h : Word) (x : Nat) : Slot :=
  let b := blockOf h
  let hs := (h, x) :: t.halves.filter fun y => y.1 != h
  match hs.find? (·.1 == b), hs.find? (·.1 == b + 16) with
  | some lo, some hi => { t with halves := hs.filter fun y => blockOf y.1 != b }.load ⟨b, lo.2 + 2 ^ 128 * hi.2⟩
  | _, _ => { t with halves := hs }

/-- Reads the half at address `h` of the block whose cell is `cell`, for a thread that still wants the block: the target checks, then
the 16 bytes as one unit (R94, R148). -/
def State.readHalf (s : State) (cid k cell : Nat) (h : Word) (demand : Bool) : State :=
  if !(s.slot cid k).wants (blockOf h) then s
  else
    let c := cell + h.toNat % 32
    match s.targetCheck cid (s.slot cid k).tag .read c 16 with
    | some (cause, d) =>
      if cause = cContained && d = 0x61 then
        let s' := s.consumeError c
        if isLocal cid (s.homeOf c) then s' else s'.fetchFail cid k demand cause d
      else s.fetchFail cid k demand cause d
    | none => (s.correctBytes c 16).modSlot cid k (·.takeHalf h (s.readN c 16))

/-- An access that the thread issued before its latest IFLUSH is not yet performed (R149). -/
def State.flushPending (s : State) (cid k : Nat) : Bool :=
  s.msgs.any fun m => match m.body with
    | .access id _ => id < (s.slot cid k).flushed && (SMap.get none s.accesses id).any fun a => a.core == cid && a.slot == k && a.engine.isNone
    | _ => false

/-- FETCH_BLOCK (R92, R147, R148) for the block of `a`; `demand`: the thread waits for it. Each half is read on its own: in the own slice
both at once, or one of them now and the other later, by a free choice (log 29); elsewhere by a message each. `arrived`: the fetch of
the half at `a` has reached its home, whose tile may have been retired meanwhile (R13). -/
def State.fetchBlock (s : State) (cid k : Nat) (a : Word) (demand arrived : Bool) : State :=
  let b := blockOf a
  match s.fetchPlace cid k b with
  | .error (c, d) =>
    if arrived && c = cAddress && d = 0x04 then s.fetchFail cid k demand cContained 0x62 else s.fetchFail cid k demand c d
  | .ok p =>
    match s.placeCell (s.agent cid k) p false with
    | (s, .error r) =>
      if demand then
        let s := s.report { die := Config.coreDie cid, core := cid, slot := k, cause := cPage, detail := r, addr := b }
        (s.modSlot cid k fun t => { t with want := none, halves := [] }).park cid k (.pageFault b)
      else s.modSlot cid k fun t => { t with pre := none, halves := [] }
    | (s, .ok cell) =>
      if arrived then s.readHalf cid k cell a demand
      else
        let s := s.modSlot cid k fun t =>
          { t with halves := t.halves.filter fun y => blockOf y.1 != b, want := if demand then some b else t.want }
        if isLocal cid (s.homeOf cell) && !s.flushPending cid k then
          let c := s.drawChoice 3
          match c.1 with
          | 0 => (c.2.readHalf cid k cell b demand).readHalf cid k cell (b + 16) demand
          | 1 => (c.2.readHalf cid k cell b demand).send (.fetch cid k (b + 16))
          | _ => (c.2.readHalf cid k cell (b + 16) demand).send (.fetch cid k b)
        else (s.send (.fetch cid k b)).send (.fetch cid k (b + 16))

/-- FETCH_BLOCK, for the slot and block that the event names. `flag`: the thread waits for the block; `more`: the fetch of the half at
`addr` has reached its home. An answer nobody waits for is dropped. -/
def execFetchBlock (s : State) : Out :=
  let e := s.ev
  let t := s.slot e.core e.slot
  if t.st == .free || t.st == .stopped then .next s
  else if e.more then
    if t.want == some (blockOf e.addr) then .next (s.fetchBlock e.core e.slot e.addr true true)
    else if t.pre == some (blockOf e.addr) then .next (s.fetchBlock e.core e.slot e.addr false true)
    else .next s
  else .next (s.fetchBlock e.core e.slot e.addr e.flag false)

/-- What stands at a thread's program counter. -/
inductive Fetched where
  | missing (block : Word)     -- its block is not in the buffer
  | word (avail bits : Nat)    -- bytes left in the block, and its bits from pc on
deriving DecidableEq, Repr

/-- The word at pc, from the instruction buffer (R147). -/
def Slot.fetched (t : Slot) : Fetched :=
  match bufFind t.buf (blockOf t.pc) with
  | none => .missing (blockOf t.pc)
  | some b =>
    let o := t.pc.toNat % 32
    .word (32 - o) (b.bits / 2 ^ (8 * o))

/-- Engines of a core for the decode checks (R48). -/
def enginesOf (cid : Nat) : Engines := ⟨Config.hasMatrix cid, Config.hasLexicon cid⟩

/-- The page fault trap of an instruction that was abandoned at a page whose wake brought another status than 0x00 (R105, R146). A report that
is taken before it (R142) leaves the status for the instruction's reissue. -/
def State.keptTrap (s : State) (cid k status : Nat) : State :=
  let t := s.slot cid k
  (s.modSlot cid k fun t => { t with wakeStatus := none }).trapEnter cid k cPage status t.wakeAddr t.pc false

/-- SKIP_ANNUL (R44, R45): annuls the word at pc of a thread with a pending skip count, and goes on with the next one until the
count is used up; a block that is missing is fetched first. -/
def State.annul (s : State) (cid k : Nat) : State :=
  let t := s.slot cid k
  let again : Turn := .event .skipAnnul { core := cid, slot := k }
  if t.st != .ready || skipPend t.flags = 0 then s
  else
    match t.wakeDue with
    | some st => s.keptTrap cid k st
    | none =>
    match t.fetched with
    | .missing b =>
      if t.want == some b then s
      else (s.push again).push (.event .fetchBlock { core := cid, slot := k, addr := b, flag := true })
    | .word avail w =>
      if w % 4 = 3 then (s.modSlot cid k fun t => { t with pc := blockOf t.pc + 32 }).push again
      else if avail < wordLength w then s.trapEnter cid k cFetchBoundary 0 0 t.pc false
      else
        let n := skipPend t.flags - 1
        let s := s.modSlot cid k fun t =>
          { t with pc := t.pc + BitVec.ofNat 64 (wordLength w), flags := withSkip t.flags n, homeHold := t.homeHold || n == 0 }
        if n = 0 then s else s.push again

/-- SKIP_ANNUL (R44, R45), for the slot that the event names. -/
def execSkipAnnul (s : State) : Out := .next (s.annul s.ev.core s.ev.slot)

/-- ILLEGAL_ENCODING (R49): the decode checks have stopped the running thread's word. `flag`: the fetch-boundary fault of step 1;
else the illegal-instruction trap with the detail in `value`. -/
def execIllegalEncoding (s : State) : Out :=
  if s.ev.flag then .next (s.trapMe ⟨1, cFetchBoundary, 0, 0⟩)
  else .next (s.trapMe ⟨2, cIllegal, s.ev.value.toNat, 0⟩)

/-- ASYNC_TRAP_TAKEN (R142): the first pending report, at an instruction boundary in program mode; trap_pc is the next
instruction's address. A retry of that instruction is no longer pending: it issues anew after the handler (R151). -/
def State.takeAsync (s : State) (cid k : Nat) : State :=
  let t := s.slot cid k
  match t.reports with
  | [] => s
  | r :: rest =>
    (s.modSlot cid k fun t => { t with reports := rest, retry := false }).trapEnter cid k r.cause r.detail r.addr t.pc true

/-- ASYNC_TRAP_TAKEN (R142), for the slot that the event names. -/
def execAsyncTrapTaken (s : State) : Out :=
  let t := s.slot s.ev.core s.ev.slot
  if t.st == .ready && !hmode t.flags then .next (s.takeAsync s.ev.core s.ev.slot) else .next s

/-- The slot whose T-cont access a bank serves in a clk (R96, Table 6): none if a T-issue access uses the bank; else that of the oldest
instruction. -/
def Core.tcontOf (c : Core) (clk bank : Nat) : Option Nat :=
  if c.slots.toList.any fun t => t.banks.clk == clk && t.banks.issue.contains bank then none
  else
    (List.range 16).foldl (fun best k =>
      let t := c.slot k
      if t.banks.clk < clk && t.banks.cont.contains bank then
        match best with
        | some b => if t.banks.clk < (c.slot b).banks.clk then some k else best
        | none => some k
      else best) none

/-- Some of the units that a slot's instruction has left are performed, and a load's lanes are written. -/
def State.performLeft (s : State) (cid k : Nat) (p : AUnit → Bool) : State :=
  let b := (s.slot cid k).banks
  if !b.left.any p then s else
  let q := s.performAll b.op (b.left.filter p)
  let s := q.1.modSlot cid k fun t => { t with banks := { t.banks with left := t.banks.left.filter fun u => !p u } }
  match b.done.writes (s.slot cid k) (Config.vecBits cid) q.2 0 with
  | .ok ws => s.modSlot cid k (·.applyAll ws)
  | .error _ => s

/-- A bank serves a T-cont access of a slot (R97): that of the first row which the slot's instruction has left there. -/
def State.serveBank (s : State) (cid b k : Nat) : State :=
  let s := match (s.slot cid k).banks.left.find? fun u => u.bank == b with
    | some u => s.performLeft cid k u.sameRow
    | none => s
  s.modSlot cid k fun t => { t with banks := { t.banks with cont := t.banks.cont.erase b } }

/-- The T-cont accesses that the banks of a slice serve in one clk (R97). -/
def State.serveTcont (s : State) (cid : Nat) : State :=
  (List.range 16).foldl (fun x b => match (s.core cid).tcontOf s.clk b with
    | some k => x.serveBank cid b k
    | none => x) s

/-- A thread that is parked for its T-cont accesses is ready when the last one is served (R97). -/
def Slot.endTcont (t : Slot) : Slot := if t.st == .parked .tcont && t.banks.cont.isEmpty then { t with st := .ready } else t

/-- TCONT_ACCESS (R96, R97): one clk of T-cont service in the core that the event names. -/
def execTcontAccess (s : State) : Out :=
  .next ((s.serveTcont s.ev.core).modCore s.ev.core fun c => { c with slots := c.slots.map Slot.endTcont })

/-- Saturating increment of chk_count (R136). -/
def bumpChk (x : Word) : Word := if x.toNat = 2 ^ 64 - 1 then x else x + 1

/-- CHECKER_RETRY (R151): the instruction that the thread was about to commit mismatched. It does not commit and reissues at the
next eligible position, a position having gone to it; a second mismatch is a core error (R403). -/
def execCheckerRetry (s : State) : Out :=
  let cid := s.ev.core
  let k := s.ev.slot
  let t := s.slot cid k
  if t.st != .ready then .next s
  else if t.retry then .next (s.push (.contain cid 0x02))
  else
    let s := s.modCore cid fun c => { c with chkCount := bumpChk c.chkCount }
    let dist := match t.fetched with
      | .word avail w => match decodeWord (enginesOf cid) avail w with
        | .instr i _ => distanceOf cid i
        | _ => 8
      | .missing _ => 8
    .next (s.modSlot cid k fun t => { t with retry := true, last := s.clk, dist })

/-- KNOWN_ANSWER_TEST (R128): a test in a spare position. `flag`: the result differs from the stored answer, a core error. -/
def execKnownAnswerTest (s : State) : Out :=
  if s.ev.flag then .next (s.push (.contain s.ev.core 0x03)) else .next s

/-! ## Issue positions -/

/-- What a position comes to: a new state, or an instruction that the running thread issues. -/
inductive Served where
  | turn (s : State)
  | run (i : Instr) (s : State)
deriving DecidableEq, Repr

/-- The thread may be given positions: it is ready, and no stop waits for it at this boundary outside an open packet (R144). -/
def Slot.canIssue (t : Slot) : Bool := t.st == .ready && (t.stopReq.isNone || t.inPacket)

/-- The blocks that a thread at the first word of a block leaves in its buffer, and the next block it fetches (R147). -/
def Slot.ahead (t : Slot) : Slot :=
  let cur := blockOf t.pc
  { t with
    buf := t.buf.filter fun x => x.addr == cur || x.addr == cur + 32
    pre := if (bufFind t.buf (cur + 32)).isSome then none else some (cur + 32) }

/-- The issue of a word of n bytes (R123, R136): the running thread is this one; its last issue is now. -/
def State.issue (s : State) (cid k n : Nat) (i : Instr) (home : Bool) : State :=
  let s := { s with cur := ⟨cid, k⟩ }
  s.modSlot cid k fun t =>
    { t.ahead with
      npc := t.pc + BitVec.ofNat 64 n
      last := s.clk
      dist := distanceOf cid i
      issueCount := t.issueCount + 1
      retry := false
      wakeStatus := if hmode t.flags == t.wakeMode then none else t.wakeStatus
      stash := []
      homeHold := if home then false else t.homeHold }

/-- Slot k gets the position: asynchronous traps first (R142), then fetch and decode (R49). `again` is the move that offers the
position once more: fillers take no position (R29), however many there are. -/
def State.serve (s : State) (cid k : Nat) (home : Bool) (again : Turn) : Served :=
  let t := s.slot cid k
  if !t.reports.isEmpty && !hmode t.flags then
    .turn ((s.push again).push (.event .asyncTrapTaken { core := cid, slot := k }))
  else
    match t.wakeDue with
    | some st => .turn ((s.push again).keptTrap cid k st)
    | none =>
    match t.fetched with
    | .missing b =>
      let s := if t.pre == some b then s else s.modSlot cid k fun t => { t with buf := [], pre := none }
      .turn ((s.push again).push (.event .fetchBlock { core := cid, slot := k, addr := b, flag := true }))
    | .word avail w =>
      match decodeWord (enginesOf cid) avail w with
      | .instr i n => .run i (s.issue cid k n i home)
      | .filler => .turn ((s.modSlot cid k fun t => { t with pc := blockOf t.pc + 32 }).push again)
      | .boundary => .run .illegalEncoding { s.issue cid k 4 .illegalEncoding home with ev := { flag := true } }
      | .illegal d =>
        .run .illegalEncoding { s.issue cid k 4 .illegalEncoding home with ev := { value := BitVec.ofNat 64 d } }

/-- A thread of R125's set E in clk t. A thread that holds for its home position and has a retry pending takes that position, which is
then offered as a spare (R126, R152, log 65). -/
def Slot.eligible (t : Slot) (clk : Nat) (home : Bool) : Bool :=
  t.canIssue && skipPend t.flags == 0 && (!t.homeHold || t.retry && home) && t.banks.cont.isEmpty && t.want.isNone
    && decide (max (8 : Int) t.dist ≤ clk - t.last)

/-- The eligible thread with the least last issue, the lower-numbered slot on a tie (R125), at the home position of a slot. -/
def Core.pickSpare (c : Core) (clk home : Nat) : Option Nat :=
  (List.range 16).foldl (fun best k =>
    if (c.slot k).eligible clk (k == home) then
      match best with
      | some b => if (c.slot k).last < (c.slot b).last then some k else best
      | none => some k
    else best) none

/-- The slot whose home position this clk is: the clock counter of the core's die mod 16 (R121). -/
def State.homeSlot (s : State) (cid : Nat) : Nat := (s.clk + (s.die (Config.coreDie cid)).lead) % 16

/-- offer_spare (R125). A position that no thread takes goes to the known-answer tester, which changes nothing (R128). -/
def State.spare (s : State) (cid : Nat) : Served :=
  match (s.core cid).pickSpare s.clk (s.homeSlot cid) with
  | none => .turn s
  | some k => s.serve cid k (k == s.homeSlot cid) (.spare cid)

/-- The home position of a slot (R124); with a retry pending it is offered as a spare (R152). -/
def State.position (s : State) (cid : Nat) : Served :=
  let k := s.homeSlot cid
  let h := s.slot cid k
  if !h.canIssue || h.want.isSome || h.retry then s.spare cid
  else if !h.banks.cont.isEmpty then (s.park cid k .tcont).spare cid
  else if skipPend h.flags != 0 then
    .turn ((s.push (.spare cid)).push (.event .skipAnnul { core := cid, slot := k }))
  else if (h.dist : Int) ≤ s.clk - h.last then s.serve cid k true (.position cid)
  else s.spare cid

end Sys2Proof.Machine
end

