-- ==== Sys2Proof/Machine/Clause.lean ====
section
/-!
DEFINITION. The clause scheduler (R318 to R359): records, launches and their counters, ready queues and clause starts, waiting and
cancelling, the distributors, phrases.
-/
namespace Sys2Proof.Machine

/-! ## Handles (R320) -/

/-- A handle: kind 1 names a clause record, kind 2 a launch entry. -/
def handleOf (kind serial number : Nat) : Word := BitVec.ofNat 64 (kind * 2 ^ 36 + serial * 2 ^ 20 + number)

/-- Serial of a handle. -/
def handleSerial (h : Word) : Nat := wfield h.toNat 20 16
/-- Number of a handle. -/
def handleNumber (h : Word) : Nat := wfield h.toNat 0 20

/-- A malformed handle: a reserved bit, another kind, or a number beyond its table. -/
def handleBad (kind size : Nat) (h : Word) : Bool :=
  h.toNat / 2 ^ 40 != 0 || wfield h.toNat 36 4 != kind || handleNumber h ≥ size

/-- Records of a job's clause table (R319); supervisor software has none. -/
def State.tableSize (s : State) (job : Nat) : Nat :=
  match (s.job job).ctx with
  | some c => 2 ^ c.ctab
  | none => 0

/-- Entries of a launch table (R319). -/
def launchEntries : Nat := 4096

/-- The jobs whose tables a handle of a thread may name: the thread's own, and on a supervisor core, whose threads run for no job (R397)
and may join any job's record (R327), every bound one (log 78). -/
def State.handleJobs (s : State) (cid job : Nat) : List Nat :=
  if isSup cid then (s.jobs.filter fun j => j.2.ctx.isSome).map (·.1) else [job]

/-- A clause handle is malformed for every job that it may name. -/
def State.recordBad (s : State) (cid job : Nat) (h : Word) : Bool :=
  (s.handleJobs cid job).all fun j => handleBad 1 (s.tableSize j) h

/-- The job whose entry a handle names, `live` telling in which jobs it is not stale; among several the spec names none (log 78). -/
def State.handleJob (s : State) (cid job : Nat) (h : Word) (live : Nat → Bool) : Nat :=
  if isSup cid then
    let js := (s.handleJobs cid job).filter live
    js.getD (Config.handleJob h % js.length) job
  else job

/-- The record that a handle's number and serial name; none when stale. -/
def State.record (s : State) (job num serial : Nat) : Option CRec :=
  (SMap.get none (s.job job).recs num).filter fun r => r.serial == serial

/-- The launch that a number and serial name; none when stale. -/
def State.launchAt (s : State) (job num serial : Nat) : Option Launch :=
  (SMap.get none (s.job job).launches num).filter fun l => l.serial == serial

/-- A job's launch entry by number. -/
def State.launch (s : State) (job num : Nat) : Option Launch := SMap.get none (s.job job).launches num

/-- The state with a launch entry changed. -/
def State.modLaunch (s : State) (job num : Nat) (f : Launch → Launch) : State :=
  s.modJob job fun j => { j with launches := SMap.set none j.launches num ((SMap.get none j.launches num).map f) }

/-- The next serial (R320): 1 to 65,535. -/
def nextSerial (n : Nat) : Nat := n % 65535 + 1

/-- The first number from x on that is not among rising used numbers. -/
def freeFrom (used : List Nat) (x : Nat) : Nat := used.foldl (fun c k => if k = c then c + 1 else c) x

/-- A free number of a table of the given size, some entry of it being free; which one is free (log 6). -/
def State.pickNumber (s : State) (used : List Nat) (size : Nat) : Nat × State :=
  let d := s.drawChoice size
  let n := freeFrom used d.1
  (if n < size then n else freeFrom used 0, d.2)

/-! ## Launch descriptors (R328) -/

/-- A field of a descriptor. -/
def dField (d lo n : Nat) : Nat := d / 2 ^ lo % 2 ^ n

/-- Number of indices. -/
def dCount (d : Nat) : Nat := dField d 160 32
/-- Placement mode. -/
def dMode (d : Nat) : Nat := dField d 392 2
/-- Tile kind. -/
def dKind (d : Nat) : Nat := dField d 394 2
/-- Graph number. -/
def dGraph (d : Nat) : Nat := dField d 424 8
/-- One bit per die. -/
def dDies (d : Nat) : List Nat := (List.range 64).filter fun i => dField d (192 + i) 1 == 1
/-- Indices per range; 0 means 1. -/
def dChunk (d : Nat) : Nat := max 1 (dField d 432 16)
/-- Reserve of the launch (R330). -/
def dReserve (d : Nat) : Nat := if dField d 412 1 = 1 then dField d 408 4 else 4
/-- The nonzero predecessor fields. -/
def dPreds (d : Nat) : List Nat := ((List.range 4).map fun i => dField d (256 + 32 * i) 32).filter (· != 0)
/-- Tile of index i in mode 1. -/
def dTile (d i : Nat) : Nat := dField d 448 7 + i * dField d 464 8
/-- Source number of index i's tile in mode 1. -/
def dNamed (d i : Nat) : Nat := Config.snOf (dField d 456 6) (dField d 455 1) (dTile d i)
/-- Key of index i in mode 2. -/
def dKey (d i : Nat) : Nat := (dField d 480 32 + i) % 2 ^ 32

/-- A reserved bit of a descriptor is set. -/
def dReserved (d : Nat) : Bool :=
  dField d 384 8 != 0 || dField d 396 4 != 0 || dField d 407 1 != 0 || dField d 415 9 != 0 || dField d 462 2 != 0 || dField d 472 8 != 0

/-! ## Placement (R327, R342) -/

/-- Kind code of a tile (R178, R349). -/
def kindOfTile (sn : Nat) : Nat :=
  match Config.kindOf sn with
  | .dense => 0
  | .sparse => 1
  | .attention => 2
  | .vector => 3

/-- Ring position of a tile (R342). -/
def ringPos (sn : Nat) : Nat := sn * 0x9E3779B9 % 2 ^ 32

/-- Ring position of a key (R342). -/
def keyPos (key : Nat) : Nat := (key * 0x85EBCA6B + 0xC2B2AE35) % 2 ^ 32

/-- The tiles of a job that serve a condition: live, and in its allocation. -/
def State.jobTiles (s : State) (job : Nat) (p : Nat → Bool) : List Nat :=
  (List.range Config.tiles).filter fun sn => p sn && !s.isDead sn && s.inAllocation job sn

/-- A job's ring of a tile kind (R342). -/
def State.jobRing (s : State) (job kind : Nat) : List Nat := s.jobTiles job fun sn => kindOfTile sn == kind

/-- The tile with the least position. -/
def leastPos (ts : List Nat) : Option Nat :=
  ts.foldl (fun best t => match best with
    | some b => if ringPos t < ringPos b then some t else best
    | none => some t) none

/-- succ (R342): the ring tile with the least position from p on, else the least of all. -/
def ringSucc (ring : List Nat) (p : Nat) : Option Nat :=
  (leastPos (ring.filter fun t => p ≤ ringPos t)).orElse fun _ => leastPos ring

/-- The ring successor of a tile in its kind's ring. -/
def State.successor (s : State) (job sn : Nat) : Option Nat := ringSucc (s.jobRing job (kindOfTile sn)) (ringPos sn)

/-- A named tile is live and in the job's allocation. -/
def State.namedOk (s : State) (job sn : Nat) : Bool := !s.isDead sn && s.inAllocation job sn

/-- The tile that a control word names (R349, Table 6), if its number is below 96. -/
def cNamed (c : Word) : Option Nat :=
  let t := wfield c.toNat 24 7
  if t < 96 then some (Config.snOf (wfield c.toNat 32 6) (wfield c.toNat 31 1) t) else none

/-- Placement mode of a control word. -/
def cMode (c : Word) : Nat := wfield c.toNat 40 2
/-- Ring kind of a control word. -/
def cKind (c : Word) : Nat := wfield c.toNat 38 2
/-- Key of a control word. -/
def cKey (c : Word) : Nat := wfield c.toNat 44 20

/-- The check of a placement by the instruction that creates the clause (R327). -/
def State.placeBad (s : State) (cid job : Nat) (c : Word) : Bool :=
  match cMode c with
  | 0 => isSup cid
  | 1 =>
    match cNamed c with
    | some sn => !s.namedOk job sn
    | none => true
  | _ => (s.jobRing job (cKind c)).isEmpty

/-- The live tile with the lowest source number of a job's allocation, in a die if it has one there (R327). -/
def State.lowestTile (s : State) (job die : Nat) : Option Nat :=
  ((s.jobTiles job fun sn => Config.dieOf sn == die).head?).orElse fun _ => (s.jobTiles job fun _ => true).head?

/-- A tile, or where its work goes when it is no longer fit (R327, R344, R346): its ring successor, or where its kind's ring is empty
the lowest tile. The flag tells a redirection to be reported. -/
def State.fitTile (s : State) (job sn : Nat) (ok : Bool) : Option (Nat × Bool) :=
  if ok then some (sn, false)
  else (((s.successor job sn).orElse fun _ => s.lowestTile job (Config.dieOf sn))).map fun t => (t, true)

/-- The target of a record when it is enqueued (R327), by the core of the thread that enqueues it. -/
def State.recordTarget (s : State) (job cid : Nat) (c : Word) : Option (Nat × Bool) :=
  match cMode c with
  | 0 =>
    if isSup cid then (s.lowestTile job (Config.coreDie cid)).map fun t => (t, true)
    else if s.isDead cid then (s.fitTile job cid false).map fun t => (t.1, false)
    else some (cid, false)
  | 1 =>
    match cNamed c with
    | some sn => s.fitTile job sn (s.namedOk job sn)
    | none => (s.lowestTile job (Config.coreDie cid)).map fun t => (t, true)
  | _ =>
    match ringSucc (s.jobRing job (cKind c)) (keyPos (cKey c)) with
    | some t => some (t, false)
    | none => (s.lowestTile job (Config.coreDie cid)).map fun t => (t, true)

/-! ## Counters (R329) -/

/-- A launch is complete. -/
def Launch.complete (l : Launch) : Bool := l.counter == 0 && (l.eligible || l.cancelled)

/-- The entries of a job's launch table with their numbers (R319). -/
def State.launchTable (s : State) (job : Nat) : List (Nat × Launch) :=
  (s.job job).launches.filterMap fun x => x.2.map fun l => (x.1, l)

/-- A job's launches with their numbers: the entries whose LAUNCH has passed its FENCE part. -/
def State.launchesOf (s : State) (job : Nat) : List (Nat × Launch) := (s.launchTable job).filter fun x => x.2.opening.isNone

/-- A launch belongs to a unit of R354: level 0 a handle, 1 a graph, 2 a phase, 3 the job. -/
def Launch.inUnit (l : Launch) (num level unit : Nat) : Bool :=
  match level with
  | 0 => handleNumber (BitVec.ofNat 64 unit) == num && handleSerial (BitVec.ofNat 64 unit) == l.serial
  | 1 => dGraph l.desc == unit
  | 2 => l.phase == unit
  | _ => true

/-- Counter of a unit: a launch's own, or the incomplete launches of a graph, phase or job. -/
def State.unitCounter (s : State) (job level unit : Nat) : Nat :=
  if level = 0 then
    match s.launchAt job (handleNumber (BitVec.ofNat 64 unit)) (handleSerial (BitVec.ofNat 64 unit)) with
    | some l => if l.complete then 0 else l.counter
    | none => 0
  else ((s.launchesOf job).filter fun x => x.2.counted && !x.2.complete && x.2.inUnit x.1 level unit).length

/-- A unit is complete (R329, R352). -/
def State.unitComplete (s : State) (job level unit : Nat) : Bool :=
  if level = 0 then
    match s.launchAt job (handleNumber (BitVec.ofNat 64 unit)) (handleSerial (BitVec.ofNat 64 unit)) with
    | some l => l.complete
    | none => true
  else s.unitCounter job level unit == 0

/-- Cancelled bit of a unit (R333). -/
def State.unitCancelled (s : State) (job level unit : Nat) : Bool :=
  let j := s.job job
  match level with
  | 0 => ((s.launchAt job (handleNumber (BitVec.ofNat 64 unit)) (handleSerial (BitVec.ofNat 64 unit))).map (·.cancelled)).getD false
  | 1 => j.cancelledGraphs.contains unit
  | 2 => j.cancelledPhases.contains unit
  | _ => j.cancelled

/-- A launch or a unit above it is cancelled (R349). -/
def State.launchCancelled (s : State) (job : Nat) (l : Launch) : Bool :=
  let j := s.job job
  l.cancelled || j.cancelledGraphs.contains (dGraph l.desc) || j.cancelledPhases.contains l.phase || j.cancelled

/-! ## Generations (R341) -/

/-- A message that names a range is accepted: it belongs to no range, or the range is in force under its generation. -/
def Launch.accepts (l : Launch) (range gen : Nat) : Bool :=
  range == 0 || (match SMap.get none l.ranges range with
    | some r => r.gen == gen
    | none => false)

/-- The generation of a launch accepts a message; a launch that is gone accepts none. -/
def State.accepts (s : State) (job launch range gen : Nat) : Bool :=
  range == 0 || ((s.launch job launch).map fun l => l.accepts range gen).getD false

/-- A dropped message is logged to the die's supervisor core (R341, R413 code 0x05). -/
def State.dropped (s : State) (cid k job launch : Nat) : State :=
  let serial := ((s.launch job launch).map (·.serial)).getD (SMap.get 0 (s.job job).launchSerial launch)
  (s.report ⟨Config.coreDie cid, cid, k, 0, 0, handleOf 2 serial launch, none⟩).event 0x05 (Config.coreDie cid) (coreBase cid)
    (BitVec.ofNat 64 (job * 2 ^ 40) ||| handleOf 2 serial launch)

/-- A clause of a launch has ended, or was removed (R329): its index, or one of those that its range spawned. -/
def Launch.endClause (l : Launch) (range : Nat) (index : Option Nat) : Launch :=
  { l with
    counter := l.counter - 1
    ranges :=
      if range = 0 then l.ranges
      else SMap.set none l.ranges range ((SMap.get none l.ranges range).bind fun r =>
        let r := match index with
          | some i => { r with ended := r.ended ++ [i] }
          | none => { r with extra := r.extra - 1 }
        if r.extra = 0 && r.ended.length > r.last - r.first then none else some r) }

/-- The end of a clause is counted, unless its generation is stale. -/
def State.countEnd (s : State) (cid k job launch range gen : Nat) (index : Option Nat) : State :=
  if s.accepts job launch range gen then s.modLaunch job launch fun l => l.endClause range index
  else s.dropped cid k job launch

/-! ## Ready queues (R325) -/

/-- e stands before f in ready order. -/
def QEntry.before (e f : QEntry) : Bool :=
  if e.prio ≠ f.prio then f.prio < e.prio
  else if e.clk ≠ f.clk then e.clk < f.clk
  else e.src < f.src

/-- Insertion in ready order, after equals. -/
def queueInsert (e : QEntry) : List QEntry → List QEntry
  | [] => [e]
  | f :: t => if e.before f then e :: f :: t else f :: queueInsert e t

/-- Launch number of an entry. -/
def State.entryLaunch (s : State) (e : QEntry) : Nat :=
  match e.item with
  | .record n serial => ((s.record e.job n serial).map fun r => r.occ.launch).getD launchEntries
  | .range l .. => l
  | .again o => o.launch

/-- Range and generation of an entry. -/
def State.entryRange (s : State) (e : QEntry) : Nat × Nat :=
  match e.item with
  | .record n serial => ((s.record e.job n serial).map fun r => (r.occ.range, r.occ.gen)).getD (0, 0)
  | .range _ _ _ r g => (r, g)
  | .again o => (o.range, o.gen)

/-- An entry belongs to a unit. -/
def State.entryInUnit (s : State) (e : QEntry) (job level unit : Nat) : Bool :=
  e.job == job && ((s.launch job (s.entryLaunch e)).map fun l => l.inUnit (s.entryLaunch e) level unit).getD (level == 3)

/-- Indices first to last of a launch end. -/
def State.countIndices (s : State) (cid job launch range gen first : Nat) : Nat → State
  | 0 => s
  | n + 1 =>
    (s.countEnd cid 0 job launch range gen (if range = 0 then none else some first)).countIndices cid job launch range gen (first + 1) n

/-- A record leaves the clause table. -/
def State.freeRecord (s : State) (job num : Nat) : State :=
  s.modJob job fun j => { j with recs := SMap.set none j.recs num none }

/-- A removed entry counts as ended (R329, R333); the answer is how many clauses and indices it held. -/
def State.removeItem (s : State) (cid : Nat) (e : QEntry) : State × Nat :=
  match e.item with
  | .record n serial =>
    match s.record e.job n serial with
    | some r => ((s.freeRecord e.job n).countEnd cid 0 e.job r.occ.launch r.occ.range r.occ.gen r.occ.index, 1)
    | none => (s, 0)
  | .range l first last r g => (s.countIndices cid e.job l r g first (last + 1 - first), last + 1 - first)
  | .again o => (s.countEnd cid 0 e.job o.launch o.range o.gen o.index, 1)

/-- A cancel under way has already reached a die that an entry comes to (R333). -/
def State.cancelPassed (s : State) (e : QEntry) (die : Nat) : Option CancelOp :=
  s.cancels.find? fun c => s.entryInUnit e c.job c.level c.unit && !c.waiting.contains die

/-- An entry joins a core's ready queue; a cancel that has passed its die removes it (R326, R333). -/
def State.enqueueAt (s : State) (sn : Nat) (e : QEntry) : State :=
  match s.cancelPassed e (Config.coreDie sn) with
  | some c =>
    let r := s.removeItem sn e
    { r.1 with cancels := r.1.cancels.map fun x => if x.id == c.id then { x with count := x.count + r.2 } else x }
  | none => s.modCore sn fun c => { c with ready := queueInsert e c.ready }

/-- A redirection is reported (R327, R413 code 0x07). -/
def State.redirected (s : State) (sn job : Nat) (h : Word) : State :=
  (s.report ⟨Config.coreDie sn, sn, 0, 0, 0, h, none⟩).event 0x07 (Config.coreDie sn) (Config.tileBase sn)
    (BitVec.ofNat 64 (job * 2 ^ 40) ||| h)

/-- Enqueues a record whose counter is zero (R327), for the core that enqueues it. Where no tile of the allocation is live, it stays in the
table. -/
def State.enqueueRecord (s : State) (job num cid : Nat) : State :=
  match SMap.get none (s.job job).recs num with
  | none => s
  | some r =>
    match s.recordTarget job cid r.control with
    | none => s
    | some (sn, redirect) =>
      let s := s.modJob job fun j => { j with recs := SMap.set none j.recs num (some { r with queued := true }) }
      let s := if redirect then s.redirected sn job (handleOf 1 r.serial num) else s
      s.enqueueAt sn ⟨job, .record num r.serial, r.occ.prio, s.clk, cid, r.occ.phase⟩

/-! ## SPAWN (R349) -/

/-- A reserved bit of a control word, or mode 3. -/
def controlBad (c : Word) : Bool := wfield c.toNat 42 2 != 0 || wfield c.toNat 23 1 != 0 || cMode c == 3

/-- Free records of a job: those neither allocated nor promised to the indices of a keyed launch, each of which takes its record when it
is placed (R345). -/
def State.freeRecords (s : State) (job : Nat) : Nat :=
  let promised := ((s.launchTable job).map fun x => if dMode x.2.desc = 2 then dCount x.2.desc - x.2.next else 0).sum
  s.tableSize job - (s.job job).recs.length - promised

/-- A new record (R318, R349); its number and the state. -/
def State.newRecord (s : State) (job die : Nat) (occ : Occ) (join : Nat) (control : Word) : (Nat × Nat) × State :=
  let j := s.job job
  let p := s.pickNumber (j.recs.map (·.1)) (s.tableSize job)
  let serial := nextSerial (SMap.get 0 j.recSerial p.1)
  ((p.1, serial), p.2.modJob job fun j =>
    { j with recs := SMap.set none j.recs p.1 (some { serial, occ, join, control, die }), recSerial := SMap.set 0 j.recSerial p.1 serial })

/-- A new request number. -/
def State.request (s : State) : Nat × State := (s.nextReq, { s with nextReq := s.nextReq + 1 })

/-- The clause that a SPAWN creates: the issuer's segments, launch, range, generation and phase (R323). -/
def spawnOcc (t : Slot) (o : Occ) (code frame control : Word) : Occ :=
  { o with
    code, frame, segs := t.s.toList, cls := wfield control.toNat 20 3, prio := wfield control.toNat 16 4, index := none, uid := 0 }

/-- SPAWN's effect once its FENCE part is done. -/
def State.spawn (s : State) (d : G) (code frame control : Word) : State :=
  let cid := s.cur.core
  let k := s.cur.slot
  let t := s.me
  let o := t.occ.getD { job := 0 }
  let job := o.job
  let join := wfield control.toNat 0 16
  if (((s.launch job o.launch).map fun l => s.launchCancelled job l).getD false) then s.doneWith (·.wg d 0)
  else if !s.accepts job o.launch o.range o.gen then (s.dropped cid k job o.launch).doneWith (·.wg d 0)
  else if s.freeRecords job = 0 then s.trapMe (ownTrap cEngine 0xA3 0)
  else
    let r := s.newRecord job (Config.coreDie cid) (spawnOcc t o code frame control) join control
    let s := r.2.modLaunch job o.launch fun l =>
      { l with
        counter := l.counter + 1
        ranges := SMap.set none l.ranges o.range ((SMap.get none l.ranges o.range).map fun x => { x with extra := x.extra + 1 }) }
    if join = 0 then
      let q := s.request
      (q.2.park cid k (.reply q.1 21 (some d) (.go t.npc))).send (.join cid k q.1 job r.1.1 r.1.2 (some (o.launch, o.range, o.gen)) true)
    else s.doneWith (·.wg d (handleOf 1 r.1.2 r.1.1))

/-- SPAWN (R349). Its checks are made at its issue, before the FENCE part, which a mark in the stash tells: a tile that is retired in between is
redirected when the clause is enqueued (R327). -/
def execSpawn (d a b c : G) (s : State) : Out :=
  let t := s.me
  let code := t.rg a
  let control := t.rg c
  let fence (s : State) : Out := .next (s.fenceThen .dev (.spawn d a b c) fun s => (s.modMe fun t => { t with stash := [] }).spawn d code (t.rg b) control)
  if !t.stash.isEmpty then fence s
  else if controlBad control then .next (s.trapMe (ownTrap cEngine 0xA1 0))
  else if code.toNat % 4 != 0 then .next (s.trapMe (ownTrap cEngine 0xA6 0))
  else if s.placeBad s.cur.core t.tag control then .next (s.trapMe (ownTrap cEngine 0xA2 0))
  else fence (s.modMe fun t => { t with stash := [1] })

/-! ## JOIN, CLEND and EXIT (R161, R350) -/

/-- Sends a JOIN: its thread parks until the status returns. -/
def State.sendJoin (s : State) (h : Word) (d : Option G) (c : Ctl) : State :=
  let cid := s.cur.core
  let k := s.cur.slot
  let o := s.me.occ.getD { job := 0 }
  let job := s.handleJob cid o.job h fun j => (s.record j (handleNumber h) (handleSerial h)).isSome
  let q := s.request
  (q.2.park cid k (.reply q.1 21 d c)).send
    (.join cid k q.1 job (handleNumber h) (handleSerial h) (some (o.launch, o.range, o.gen)) false)

/-- JOIN (R350). -/
def execJoin (d a : G) (s : State) : Out :=
  let h := s.me.rg a
  if h != 0 && s.recordBad s.cur.core s.me.tag h then .next (s.trapMe (ownTrap cEngine 0xA7 0))
  else
    .next (s.fenceThen .dev (.join d a) fun s =>
      if h = 0 then s.doneWith (·.wg d 3) else s.sendJoin h (some d) (.go s.me.npc))

/-- JOIN_AT_HOME (R350, R341), for the message that the event names. -/
def execJoinAtHome (s : State) : Out :=
  match s.takeMsg s.ev.id with
  | (some (.join cid k id job num serial own spawn), s) =>
    let stale := match own with
      | some (l, r, g) => !s.accepts job l r g
      | none => false
    let reply (s : State) (x : Word) : Out := .next (s.send (.done cid k id x))
    match s.record job num serial with
    | none => reply s (if spawn then 0 else 2)
    | some r =>
      if spawn then
        if stale then reply ((s.dropped cid k job r.occ.launch).freeRecord job num) 0 else reply (s.enqueueRecord job num cid) 0
      else if stale then reply (s.dropped cid k job ((own.map (·.1)).getD 0)) 2
      else if r.queued || r.join = 0 || !s.accepts job r.occ.launch r.occ.range r.occ.gen then reply s 2
      else
        let s := s.modJob job fun j => { j with recs := SMap.set none j.recs num (some { r with join := r.join - 1 }) }
        if r.join = 1 then reply (s.enqueueRecord job num cid) 1 else reply s 0
  | _ => .next s

/-- A clause ends (R161): its end is counted and its slot becomes free. -/
def State.endThread (s : State) (cid k : Nat) : State :=
  let s := match (s.slot cid k).occ with
    | some o => s.countEnd cid k o.job o.launch o.range o.gen o.index
    | none => s
  let s := s.modSlot cid k fun t =>
    { t with
      st := .free, occ := none, explicit := 0, buf := [], want := none, pre := none, retry := false, stopReq := none, reports := []
      homeHold := false, touched := 0 }
  (s.tellBroker cid).answerCtxsv cid k none 1

/-- EXIT (R161): a pending report is taken at the EXIT, in handler mode too; then the fence, the posted writes, and the end. In a pair the
vector half has committed by then, and a report that comes meanwhile traps at the pair: RTE runs both halves again (log 82). -/
def execExit (s : State) : Out :=
  let cid := s.cur.core
  let k := s.cur.slot
  if !s.me.reports.isEmpty then .next (s.takeAsync cid k)
  else
    .next (s.fenceThen .dev .exit fun s =>
      if s.me.posted ≠ 0 then s.park cid k .exitDrain else s.endThread cid k)

/-- CLEND (R350): with handle 0 it is EXIT. A report taken in its EXIT steps resumes at the CLEND as a whole (log 94). -/
def execClend (a : G) (s : State) : Out :=
  let h := s.me.rg a
  if h != 0 && s.recordBad s.cur.core s.me.tag h then .next (s.trapMe (ownTrap cEngine 0xA7 0))
  else
    .next (s.fenceThen .dev (.clend a) fun s =>
      if h = 0 then s.goOn s.cur.core s.cur.slot .exit else s.sendJoin h none .exit)

/-! ## Launches (R328 to R331, R351) -/

/-- The tiles of indices 0 to n − 1 in mode 1 are named rightly. -/
def State.namedAll (s : State) (job d : Nat) : Bool :=
  dTile d (dCount d - 1) < 96 && (List.range (dCount d)).all fun i => s.namedOk job (dNamed d i)

/-- The checks of a descriptor for a job, by the core that gives it (R351): the detail of the engine fault. -/
def State.launchBad (s : State) (job cid d : Nat) : Option Nat :=
  if dReserved d || (dMode d == 3 && dDies d == []) || dCount d == 0 || (dMode d == 1 && dField d 464 8 == 0) then some 0xA1
  else if d % 4 != 0 then some 0xA6
  else if (dMode d == 0 && isSup cid) || (dMode d == 1 && !s.namedAll job d) || (dMode d == 2 && (s.jobRing job (dKind d)).isEmpty) then some 0xA2
  else if dMode d == 2 && s.freeRecords job < dCount d then some 0xA3
  else if (s.launchTable job).length ≥ launchEntries then some 0xA4
  else none

/-- Allocates a launch entry for a LAUNCH of a slot, before its FENCE part (R351), and with it the records of mode 2; the answer is its
handle. -/
def State.allocLaunch (s : State) (job cid k d : Nat) (segs : List (BitVec 128)) : Word × State :=
  let p := s.pickNumber ((s.launchTable job).map (·.1)) launchEntries
  let serial := nextSerial (SMap.get 0 (s.job job).launchSerial p.1)
  let l : Launch := { serial, desc := d, segs, phase := 0, die := Config.coreDie cid, core := cid, counter := dCount d, opening := some k }
  (handleOf 2 serial p.1, p.2.modJob job fun j =>
    { j with launches := SMap.set none j.launches p.1 (some l), launchSerial := SMap.set 0 j.launchSerial p.1 serial })

/-- The launch of an allocated entry is made (R331, R351): it opens its phase, or joins the open one. The
phase number has no width (log 95). -/
def State.openLaunch (s : State) (job num : Nat) : State :=
  s.modJob job fun j =>
    let new := ((SMap.get none j.launches num).map fun l => dField l.desc 414 1).getD 0
    { j with
      openPhase := j.openPhase + new
      launches := SMap.set none j.launches num ((SMap.get none j.launches num).map fun l => { l with phase := j.openPhase + new, opening := none }) }

/-- Creates a launch (R331, R351); the answer is its handle. -/
def State.createLaunch (s : State) (job cid k d : Nat) (segs : List (BitVec 128)) : Word × State :=
  let r := s.allocLaunch job cid k d segs
  (r.1, r.2.openLaunch job (handleNumber r.1))

/-- The read of a LAUNCH's descriptor. -/
def descAsk (t : Slot) (a : G) (sg : S) (m : Mem) : MemAsk :=
  { op := .load, done := .stash, sg := t.s[sg], elems := [(0, memOffset (t.rg a) 0 m.disp)], n := 64, al := 64, reg := false,
    posted := false }

/-- LAUNCH (R351): the descriptor is read first; after the checks the entry is allocated, and the FENCE part follows. -/
def execLaunch (sg : S) (d a : G) (m : Mem) (s : State) : Out :=
  let i := Instr.launch sg d a m
  let enter (h : Nat) (s : State) : State :=
    (s.openLaunch s.me.tag (handleNumber (BitVec.ofNat 64 h))).doneWith fun t => { (t.wg d (BitVec.ofNat 64 h)) with stash := [] }
  match s.me.stash with
  | [] => .next (s.readFor i (descAsk s.me a sg m))
  | [desc] =>
    match s.launchBad s.me.tag s.cur.core desc with
    | some x => .next (s.trapMe (ownTrap cEngine x 0))
    | none =>
      let r := s.allocLaunch s.me.tag s.cur.core s.cur.slot desc s.me.s.toList
      .next ((r.2.modMe fun t => { t with stash := [desc, r.1.toNat] }).fenceThen .dev i (enter r.1.toNat))
  | _ :: h :: _ => .next (s.fenceThen .dev i (enter h))

/-- A predecessor field names a complete or stale launch (R328, R331). -/
def State.predDone (s : State) (job p : Nat) : Bool :=
  match s.launch job (p % 2 ^ 20) with
  | some l => l.serial % 2 ^ 12 != p / 2 ^ 20 || l.complete
  | none => true

/-- A launch that is not eligible may become so (R331). -/
def State.mayBegin (s : State) (job : Nat) (l : Launch) : Bool :=
  !l.eligible && !l.cancelled && (dPreds l.desc).all (s.predDone job)
    && (dField l.desc 413 1 == 1 || (s.launchesOf job).all fun x => l.phase ≤ x.2.phase || x.2.complete)

/-- What a clause of launch index i starts with (R323, R324). -/
def Launch.occOf (l : Launch) (job num range gen i : Nat) : Occ :=
  { job, code := BitVec.ofNat 64 l.desc, frame := BitVec.ofNat 64 (dField l.desc 64 64 + i * dField l.desc 128 32), segs := l.segs
    cls := dField l.desc 404 3, prio := dField l.desc 400 4, launch := num, index := some i, range, gen, phase := l.phase }

/-- An index of a launch in mode 1 or 2 is placed, at its tile or at the successor that takes its work; in mode 2 in a record of its own
(R345). -/
def State.placeIndex (s : State) (job num : Nat) (l : Launch) (i : Nat) : State :=
  let target :=
    if dMode l.desc = 1 then s.fitTile job (dNamed l.desc i) (s.namedOk job (dNamed l.desc i))
    else match ringSucc (s.jobRing job (dKind l.desc)) (keyPos (dKey l.desc i)) with
      | some t => some (t, false)
      | none => (s.lowestTile job l.die).map fun t => (t, true)
  match target with
  | none => s
  | some (sn, redirect) =>
    let s := if redirect then s.redirected sn job (handleOf 2 l.serial num) else s
    let r := if dMode l.desc = 1 then (.range num i i 0 0, s)
      else
        let r := s.newRecord job l.die (l.occOf job num 0 0 i) 0 0
        (.record r.1.1 r.1.2, r.2.modJob job fun j =>
          { j with recs := SMap.set none j.recs r.1.1 ((SMap.get none j.recs r.1.1).map fun x => { x with queued := true }) })
    r.2.enqueueAt sn ⟨job, r.1, dField l.desc 400 4, s.clk, l.core, l.phase⟩

/-- LAUNCH_ELIGIBLE (R331, R351): the launch that the event names becomes eligible, and its indices are placed. A launch in mode 3 is
placed by its distributors (R338). -/
def execLaunchEligible (s : State) : Out :=
  let job := s.ev.size
  let num := s.ev.id
  match s.launch job num with
  | none => .next s
  | some l =>
    if !s.mayBegin job l then .next s
    else
      let n := dCount l.desc
      let s := s.modLaunch job num fun l => { l with eligible := true, next := if dMode l.desc = 3 then 0 else n }
      match dMode l.desc with
      | 0 =>
        let target := if s.isDead l.core then s.fitTile job l.core false else some (l.core, false)
        match target with
        | some (sn, _) => .next (s.enqueueAt sn ⟨job, .range num 0 (n - 1) 0 0, dField l.desc 400 4, s.clk, l.core, l.phase⟩)
        | none => .next s
      | 3 => .next s
      | _ => .next ((List.range n).foldl (fun s i => s.placeIndex job num l i) s)

/-! ## Clause starts (R321, R322, R134) -/

/-- A job context record (R400, Table 4) from its 64 bytes at a linear physical address; bits [4:0] of the handler base are zero (R136). -/
def ctxOf (a r : Nat) (alloc : Option (List Nat)) : JobCtx :=
  { addr := a, hbase := BitVec.ofNat 64 (r / 32 * 32), plimit := dField r 64 32, zoneCtl := dField r 128 1 == 1, pbase := dField r 144 48
    root1 := dField r 192 64, root2 := dField r 256 64, root3 := dField r 320 64, ctab := dField r 384 5, sched := dField r 448 64, alloc }

/-- The record is read at each clause start of the job (R399); the allocation stays as JOBCTX read it (R400). A read that consumes an
uncorrectable error gives no value (R100): the fields stay (log 79). -/
def State.refreshCtx (s : State) (job : Nat) : State :=
  match (s.job job).ctx with
  | none => s
  | some c =>
    match s.ownRead (linCell c.addr) 64 with
    | (s, some r) => s.modJob job fun j => { j with ctx := some (ctxOf c.addr r c.alloc) }
    | (s, none) => s

/-- The largest reserve among the launches of a job that have an entry of an earlier phase in a queue (R321, R330). -/
def State.reserveBefore (s : State) (q : List QEntry) (e : QEntry) : Nat :=
  ((q.filter fun f => f.job == e.job && f.phase < e.phase).map fun f =>
    ((s.launch f.job (s.entryLaunch f)).map fun l => dReserve l.desc).getD 0).foldl max 0

/-- Takes the next clause of a core's entry: what it starts with, and the state without it. -/
def State.takeNext (s : State) (cid : Nat) (e : QEntry) : Option (Occ × State) :=
  let without := s.modCore cid fun c => { c with ready := c.ready.erase e }
  match e.item with
  | .record n serial => (s.record e.job n serial).map fun r => (r.occ, without.freeRecord e.job n)
  | .range num first last range gen =>
    (s.launch e.job num).map fun l =>
      (l.occOf e.job num range gen first,
        if first < last then s.modCore cid fun c => { c with ready := c.ready.map fun f =>
          if f == e then { e with item := .range num (first + 1) last range gen } else f }
        else without)
  | .again o => some (o, without)

/-- A clause starts on a slot (R134, R294, R322): its energy class goes to the broker. -/
def State.startClause (s : State) (cid k : Nat) (o : Occ) : State :=
  let s := s.refreshCtx o.job
  let q := s.request
  let s := q.2.discardPkts cid k o.job
  let s := s.modSlot cid k fun t =>
    { g := (Vector.replicate 32 0).set 31 o.frame
      s := Vector.ofFn fun i : Fin 8 => o.segs.getD i.val 0
      c := (s.core cid).bindChannels k
      pc := o.code
      hbase := ((s.job o.job).ctx.map (·.hbase)).getD 0
      st := .ready
      last := s.clk - 8
      occ := some { o with uid := q.1 } }
  s.tellBroker cid

/-- Nothing is left that an entry could start: its record or its launch is gone. -/
def State.gone (s : State) (e : QEntry) : Bool :=
  match e.item with
  | .record n serial => (s.record e.job n serial).isNone
  | .range num .. => (s.launch e.job num).isNone
  | .again _ => false

/-- The entry that starts next (R321): the first in ready order that the reserve rule does not pass over. -/
def State.nextEntry (s : State) (cid free : Nat) : Option QEntry :=
  let q := (s.core cid).ready
  q.find? fun e => decide (s.reserveBefore q e + 1 ≤ free)

/-- CLAUSE_START (R321), for the core that the event names. -/
def execClauseStart (s : State) : Out :=
  let cid := s.ev.core
  let c := s.core cid
  let free := (List.range 16).filter fun k => (c.slot k).st == .free
  match free with
  | [] => .next s
  | k :: _ =>
    if s.closed || s.isDead cid then .next s
    else
      let s := s.modCore cid fun c => { c with ready := c.ready.filter fun e => !s.gone e }
      match s.nextEntry cid free.length with
      | none => .next s
      | some e =>
        match s.takeNext cid e with
        | some (o, s) => .next (s.startClause cid k o)
        | none => .next s

/-! ## Waiting and cancelling (R333, R334, R352 to R354) -/

/-- Code of a level (R347). -/
def levelCode : Level → Nat
  | .launch => 0
  | .graph => 1
  | .phase => 2
  | .job => 3

/-- A unit value has a bit beyond its level's field (R354), or its handle is malformed. -/
def unitBad (level : Nat) (x : Word) : Bool :=
  match level with
  | 0 => handleBad 2 launchEntries x
  | 1 => x.toNat ≥ 2 ^ 8
  | 2 => x.toNat ≥ 2 ^ 16
  | _ => x != 0

/-- The unit contains the clause that a slot runs. -/
def State.unitHolds (s : State) (t : Slot) (level unit : Nat) : Bool :=
  match t.occ with
  | none => false
  | some o => ((s.launch o.job o.launch).map fun l => l.inUnit o.launch level unit).getD false

/-- The job whose unit a thread of a core names (R354): its own; a launch handle is read as `State.handleJob` says. -/
def State.unitJob (s : State) (cid job level unit : Nat) : Nat :=
  let h := BitVec.ofNat 64 unit
  if level = 0 then s.handleJob cid job h fun j => (s.launchAt j (handleNumber h) (handleSerial h)).isSome else job

/-- WAITC without test (R352): the condition is evaluated at the end of the clk. -/
def execWaitcWait (level : Level) (d a : G) (s : State) : Out :=
  let level := levelCode level
  let x := s.me.rg a
  if unitBad level x then .next (s.trapMe (ownTrap cEngine 0xA7 0))
  else if s.unitHolds s.me level x.toNat then .next (s.trapMe (ownTrap cEngine 0xA5 0))
  else .next (s.park s.cur.core s.cur.slot (.waitc level x.toNat d))

/-- WAITC with test = 1 (R352). -/
def execWaitcTest (level : Level) (d a : G) (s : State) : Out :=
  let level := levelCode level
  let x := s.me.rg a
  let job := s.unitJob s.cur.core s.me.tag level x.toNat
  if unitBad level x then .next (s.trapMe (ownTrap cEngine 0xA7 0))
  else
    let bit := if s.unitCancelled job level x.toNat then 2 ^ 63 else 0
    s.doneG d (BitVec.ofNat 64 (bit + s.unitCounter job level x.toNat % 2 ^ 48))

/-- The cancelled bit of a unit, and of each of its launches (R333); a LAUNCH in its FENCE part has made none yet (R351). -/
def State.markCancelled (s : State) (job level unit : Nat) : State :=
  s.modJob job fun j =>
    { j with
      launches := j.launches.map fun x => (x.1, x.2.map fun l =>
        if l.inUnit x.1 level unit && !l.complete && l.opening.isNone then { l with cancelled := true } else l)
      cancelledGraphs := if level = 1 then (j.cancelledGraphs ++ [unit]).eraseDups else j.cancelledGraphs
      cancelledPhases := if level = 2 then (j.cancelledPhases ++ [unit]).eraseDups else j.cancelledPhases
      cancelled := j.cancelled || level == 3 }

/-- The dies that are not fenced off. -/
def State.liveDies (s : State) : List Nat := (List.range 64).filter fun d => !(s.die d).fenced

/-- CANCEL (R353): every live die is a home; the count is fixed when each has acknowledged. -/
def execCancel (level : Level) (d a : G) (s : State) : Out :=
  let level := levelCode level
  let x := s.me.rg a
  let job := s.unitJob s.cur.core s.me.tag level x.toNat
  let cid := s.cur.core
  let k := s.cur.slot
  if unitBad level x then .next (s.trapMe (ownTrap cEngine 0xA7 0))
  else
    let q := s.request
    let s := q.2.markCancelled job level x.toNat
    let op : CancelOp := { id := q.1, job, level, unit := x.toNat, waiting := s.liveDies, count := 0, core := cid, slot := k }
    let s := { s with cancels := s.cancels ++ [op] }.park cid k (.reply q.1 21 (some d) (.go s.me.npc))
    .next (op.waiting.foldl (fun s die => s.send (.cancel q.1 die)) s)

/-- Drops the indices of a launch that are not placed (R333); the answer is their number. -/
def State.dropUnplaced (s : State) (job num : Nat) (l : Launch) : State × Nat :=
  let flying := (l.ranges.filterMap fun x => x.2.map fun r => (x.1, r)).filter fun x =>
    s.msgs.any fun m => match m.body with
      | .distRange j n sr _ _ r => j == job && n == num && sr == l.serial && r == x.1
      | _ => false
  let run (l : List (Nat × Nat)) : Nat := (l.map fun x => x.2 + 1 - x.1).sum
  let heldN := (l.held.map fun r => r.last + 1 - r.first - r.ended.length).sum
  let n := (dCount l.desc - l.next) + run l.back + heldN + (flying.map fun x => x.2.last + 1 - x.2.first).sum
  (s.modLaunch job num fun l =>
    { l with
      counter := l.counter - n, next := dCount l.desc, back := [], held := []
      ranges := l.ranges.filter fun x => !flying.any fun y => y.1 == x.1 }, n)

/-- A live die acts for itself, and the lowest of them for what the fenced dies have left. -/
def State.actsFor (s : State) (die d : Nat) : Bool := d == die || ((s.die d).fenced && s.liveDies.head? == some die)

/-- Removes what a cancel finds in a die (R333): queued entries, pending records, and unplaced indices. -/
def State.cancelDie (s : State) (c : CancelOp) (die : Nat) : State × Nat :=
  let queued := s.cores.flatMap fun x =>
    if s.actsFor die (Config.coreDie x.1) then (x.2.ready.filter fun e => s.entryInUnit e c.job c.level c.unit).map fun e => (x.1, e) else []
  let r := queued.foldl (fun acc x =>
    let s := acc.1.modCore x.1 fun c => { c with ready := c.ready.erase x.2 }
    let q := s.removeItem x.1 x.2
    (q.1, acc.2 + q.2)) (s, 0)
  let recs := (s.job c.job).recs.filterMap fun x => x.2.bind fun r =>
    let e : QEntry := ⟨c.job, .record x.1 r.serial, 0, 0, 0, 0⟩
    if s.actsFor die r.die && !r.queued && s.entryInUnit e c.job c.level c.unit then some e else none
  let r := recs.foldl (fun acc e =>
    let q := acc.1.removeItem (Config.supCore die) e
    (q.1, acc.2 + q.2)) r
  ((r.1.launchesOf c.job).filter fun x => s.actsFor die x.2.die && x.2.cancelled && x.2.inUnit x.1 c.level c.unit).foldl (fun acc x =>
    let q := acc.1.dropUnplaced c.job x.1 x.2
    (q.1, acc.2 + q.2)) r

/-- The copy requests of a core that a job's end or a cancel ends; entries of the FIFO that they leave go to waiting threads (R210, R334). -/
def State.dropCopies (s : State) (cid : Nat) (of : CopyReq → Bool) : State :=
  let c := s.core cid
  (((c.copyFifo ++ c.copyBusy).filter fun r => of r && !r.dropped).foldl State.abandonCopy s).fillFifo cid 16

/-- A job-level cancel acts on the job's copy requests in a die (R334). -/
def State.cancelCopies (s : State) (job die : Nat) : State :=
  (s.cores.filter fun x => Config.coreDie x.1 == die).foldl (fun s x => s.dropCopies x.1 fun r => r.job == job) s

/-- CANCEL_AT_HOME (R333, R353), for the message that the event names. -/
def execCancelAtHome (s : State) : Out :=
  match s.takeMsg s.ev.id with
  | (some (.cancel id die), s) =>
    match s.cancels.find? fun c => c.id == id with
    | none => .next s
    | some c =>
      let r := s.cancelDie c die
      let s := if c.level = 3 then r.1.cancelCopies c.job die else r.1
      let c := (s.cancels.find? fun x => x.id == id).getD c
      let c := { c with waiting := c.waiting.filter (· != die), count := c.count + r.2 }
      if c.waiting.isEmpty then
        .next ({ s with cancels := s.cancels.filter fun x => x.id != id }.send (.done c.core c.slot id (BitVec.ofNat 64 c.count)))
      else .next { s with cancels := s.cancels.map fun x => if x.id == id then c else x }
  | _ => .next s

/-- The end of a clk for WAITC (R352): threads whose unit is complete leave the park. -/
def State.wakeWaitc (s : State) (cid : Nat) : State :=
  (List.range 16).foldl (fun s k =>
    let t := s.slot cid k
    match t.st with
    | .parked (.waitc level unit d) =>
      if s.unitComplete (s.unitJob cid t.tag level unit) level unit then (s.modSlot cid k (·.wg d 0)).goOn cid k (.go t.npc) else s
    | _ => s) s

/-- A WAITC is parked on a launch. -/
def State.awaited (s : State) (job num : Nat) (l : Launch) : Bool :=
  s.cores.any fun c => c.2.slots.toList.any fun t =>
    match t.st with
    | .parked (.waitc 0 unit _) => s.unitJob c.1 t.tag 0 unit == job && l.inUnit num 0 unit
    | _ => false

/-- Frees the launch entries of a job that are complete and not waited for (R319). -/
def State.freeLaunches (s : State) (job : Nat) : State :=
  ((s.launchesOf job).filter fun x => x.2.complete && !s.awaited job x.1 x.2).foldl (fun s x =>
    s.modJob job fun j => { j with launches := SMap.set none j.launches x.1 none }) s

/-! ## Phrases (R335 to R337, R355 to R358) -/

/-- A job's deque on a core, top first. -/
def Core.dequeOf (c : Core) (job : Nat) : List Phrase := c.deque.filter fun p => p.job == job

/-- Free phrase entries: 128, less those in use and those reserved for steals (R335, R357). -/
def Core.freePhrases (c : Core) : Nat := 128 - c.deque.length - (c.steals.map (·.2)).sum

/-- The bottom phrase of a job's deque leaves it. -/
def dropBottom (job : Nat) (ps : List Phrase) : List Phrase :=
  let rev := ps.reverse
  ((rev.takeWhile fun p => p.job != job) ++ (rev.dropWhile fun p => p.job != job).drop 1).reverse

/-- The first h phrases of a job leave the deque. -/
def dropTop (job : Nat) : Nat → List Phrase → List Phrase
  | 0, ps => ps
  | _, [] => []
  | h + 1, p :: t => if p.job = job then dropTop job h t else p :: dropTop job (h + 1) t

/-- DQPUSH (R355). Its status is 2 for g[a] = 0, be an entry free or not (log 93). -/
def execDqpush (d a b : G) (s : State) : Out :=
  let cid := s.cur.core
  .next (s.fenceThen .dev (.dqpush d a b) fun s =>
    let t := s.me
    if t.rg a = 0 then s.doneWith (·.wg d 2)
    else if (s.core cid).freePhrases = 0 then s.doneWith (·.wg d 1)
    else (s.modCore cid fun c => { c with deque := c.deque ++ [⟨t.tag, t.rg a, t.rg b⟩] }).doneWith (·.wg d 0))

/-- DQPOP (R356). -/
def execDqpop (d c : G) (s : State) : Out :=
  let cid := s.cur.core
  let job := s.me.tag
  match ((s.core cid).dequeOf job).getLast? with
  | none => .next (s.doneWith fun t => (t.wg d 0).wg c 0)
  | some p => .next ((s.modCore cid fun x => { x with deque := dropBottom job x.deque }).doneWith fun t => (t.wg d p.w0).wg c p.w1)

/-- DQSTEAL (R357): its base is checked, and the entries for what it may bring are reserved, at its issue, before its FENCE part. A victim that
is retired in between answers the steal (R13). -/
def execDqsteal (d a : G) (s : State) : Out :=
  let cid := s.cur.core
  let k := s.cur.slot
  let base := s.me.rg a
  let victim := cellTile base.toNat
  let go (id f : Nat) (s : State) : State :=
    let s := s.modMe fun t => { t with stash := [] }
    if f = 0 then (s.modCore cid fun c => { c with steals := c.steals.filter fun x => x.1 != id }).doneWith (·.wg d 0)
    else (s.park cid k (.steal id d)).send (.steal id cid k s.me.tag victim f)
  match s.me.stash with
  | id :: f :: _ => .next (s.fenceThen .dev (.dqsteal d a) (go id f))
  | _ =>
    match s.tileBaseBad base with
    | some e => .next (s.trapMe e)
    | none =>
      if victim = cid then .next (s.doneWith (·.wg d 0))
      else
        let f := min 64 (s.core cid).freePhrases
        let q := s.request
        let s := (q.2.modCore cid fun c => { c with steals := c.steals ++ [(q.1, f)] }).modMe fun t => { t with stash := [q.1, f] }
        .next (s.fenceThen .dev (.dqsteal d a) (go q.1 f))

/-- DQCNT (R358). -/
def execDqcnt (d : G) (clr : Bool) (s : State) : Out :=
  let cid := s.cur.core
  let job := s.me.tag
  let c := s.core cid
  let x := (if c.robbed.contains job then 2 ^ 63 else 0) + (c.dequeOf job).length
  let s := if clr then s.modCore cid fun c => { c with robbed := c.robbed.filter (· != job) } else s
  s.doneG d (BitVec.ofNat 64 x)

/-- STEAL_ARRIVAL (R336, R13), for the message that the event names. -/
def execStealArrival (s : State) : Out :=
  match s.takeMsg s.ev.id with
  | (some (.steal id cid k job victim f), s) =>
    if s.isDead victim then .next (s.send (.failed cid k id cContained 0x62))
    else
      let ps := (s.core victim).dequeOf job
      let h := min (ps.length / 2) f
      let s := if h = 0 then s
        else s.modCore victim fun c =>
          { c with deque := dropTop job h c.deque, robbed := if c.robbed.contains job then c.robbed else c.robbed ++ [job] }
      .next (s.send (.stolen id cid k job victim (ps.take h)))
  | _ => .next s

/-- Phrases move to the bottom of the ring successor's deque for their job (R337); those without room are reported with their contents. -/
def State.movePhrases (s : State) (sn : Nat) (ps : List Phrase) : State :=
  ps.foldl (fun s p =>
    match s.successor p.job sn with
    | some t =>
      if (s.core t).freePhrases = 0 then
        (s.report ⟨Config.dieOf sn, sn, 0, 0, 0, p.w0, none⟩).report ⟨Config.dieOf sn, sn, 0, 0, 0, p.w1, none⟩
      else s.modCore t fun c => { c with deque := c.deque ++ [p] }
    | none => (s.report ⟨Config.dieOf sn, sn, 0, 0, 0, p.w0, none⟩).report ⟨Config.dieOf sn, sn, 0, 0, 0, p.w1, none⟩) s

/-- STEAL_REPLY (R336, R357), for the message that the event names. -/
def execStealReply (s : State) : Out :=
  match s.takeMsg s.ev.id with
  | (some (.stolen id cid k _ _ ps), s) =>
    if s.isDead cid then .next (s.movePhrases cid ps)
    else
      let s := s.modCore cid fun c => { c with steals := c.steals.filter fun x => x.1 != id, deque := c.deque ++ ps }
      match (s.slot cid k).st with
      | .parked (.steal n d) =>
        if n = id then .next ((s.modSlot cid k (·.wg d (BitVec.ofNat 64 ps.length))).goOn cid k (.go (s.slot cid k).npc)) else .next s
      | _ => .next s
  | _ => .next s

/-! ## Distribution across dies (R338 to R341) -/

/-- The live dies of a launch's mask; the lowest is its master (R338, R340). -/
def State.maskDies (s : State) (l : Launch) : List Nat := (dDies l.desc).filter fun d => !(s.die d).fenced

/-- Indices of a launch remain to be handed out. -/
def Launch.more (l : Launch) : Bool := !l.back.isEmpty || l.next < dCount l.desc

/-- The tile of a die for which its distributor asks (R339): live, of the kind, in the allocation, with a free slot and no entry of the
launch; the lowest source number. -/
def State.askTile (s : State) (job num : Nat) (l : Launch) (die : Nat) : Option Nat :=
  (s.jobTiles job fun sn => Config.dieOf sn == die && kindOfTile sn == dKind l.desc).find? fun sn =>
    ((s.core sn).slots.toList.any fun t => t.st == .free) && !(s.core sn).ready.any fun e => e.job == job && s.entryLaunch e == num

/-- DISTRIBUTOR_REQUEST (R339): the distributor of die `core` asks for a range of launch `id` of job `size`. -/
def execDistributorRequest (s : State) : Out :=
  let die := s.ev.core
  let job := s.ev.size
  let num := s.ev.id
  match s.launch job num with
  | none => .next s
  | some l =>
    if !l.eligible || l.cancelled || !l.more || l.asking.contains die || !(s.maskDies l).contains die then .next s
    else
      match s.askTile job num l die with
      | none => .next s
      | some sn =>
        let s := s.modLaunch job num fun l => { l with asking := l.asking ++ [die] }
        .next (s.send (.distRequest job num l.serial die sn))

/-- The next chunk of a launch (R339): from what is to be handed out again, else from the counter on. -/
def Launch.chunk (l : Launch) : Nat × Nat × Launch :=
  let n := dChunk l.desc
  match l.back with
  | (a, b) :: t =>
    let e := min b (a + n - 1)
    (a, e, { l with back := if e < b then (e + 1, b) :: t else t })
  | [] =>
    let e := min (dCount l.desc - 1) (l.next + n - 1)
    (l.next, e, { l with next := e + 1 })

/-- The master hands the next range to a die (R339), under the present generation (R341). -/
def State.handOut (s : State) (job num die tile : Nat) (l : Launch) : State :=
  if !l.more || l.cancelled || (s.die die).fenced then s.modLaunch job num fun l => { l with asking := l.asking.filter (· != die) }
  else
    let (first, last, l') := l.chunk
    let n := l'.nextRange
    let r : DRange := { die, first, last, gen := l'.gen }
    let s := s.modLaunch job num fun _ => { l' with nextRange := n + 1, ranges := SMap.set none l'.ranges n (some r) }
    s.send (.distRange job num l.serial die tile n)

/-- A range reaches its distributor, which enqueues it (R339); one that a cancel or a reissue has taken back is dropped. -/
def State.placeRange (s : State) (job num die tile n : Nat) (l : Launch) : State :=
  let s := s.modLaunch job num fun l => { l with asking := l.asking.filter (· != die) }
  match SMap.get none l.ranges n with
  | none => s
  | some r =>
    match s.fitTile job ((s.askTile job num l die).getD tile) (!s.isDead ((s.askTile job num l die).getD tile)) with
    | none => s
    | some (sn, _) =>
      s.enqueueAt sn ⟨job, .range num r.first r.last n r.gen, dField l.desc 400 4, s.clk, Config.supCore die, l.phase⟩

/-- RANGE_HANDOUT (R339), for the message that the event names: a request at the master, or a range at its distributor. -/
def execRangeHandout (s : State) : Out :=
  match s.takeMsg s.ev.id with
  | (some (.distRequest job num serial die tile), s) =>
    match s.launchAt job num serial with
    | some l => .next (s.handOut job num die tile l)
    | none => .next s
  | (some (.distRange job num serial die tile n), s) =>
    match s.launchAt job num serial with
    | some l => .next (s.placeRange job num die tile n l)
    | none => .next s
  | _ => .next s

/-- Consecutive numbers as first and last. -/
def runsOf : List Nat → List (Nat × Nat)
  | [] => []
  | x :: t =>
    match runsOf t with
    | (a, b) :: r => if x + 1 = a then (x, b) :: r else (x, x) :: (a, b) :: r
    | [] => [(x, x)]

/-- Indices of a range that have not ended. -/
def DRange.open (r : DRange) : List Nat := ((List.range (r.last + 1 - r.first)).map (r.first + ·)).filter fun i => !r.ended.contains i

/-- Reissues ranges under the next generation (R340, R341): they are no longer in force, and their unended indices are handed out again;
the clauses that they spawned count no more. Each die of the mask is to sweep the old number. -/
def State.reissue (s : State) (job num : Nat) (rs : List DRange) : State :=
  match s.launch job num with
  | none => s
  | some l =>
    let old := l.gen
    let dies := s.maskDies l
    let s := s.modLaunch job num fun l =>
      { l with
        gen := (old + 1) % 4096
        back := l.back ++ runsOf (rs.flatMap DRange.open)
        dirty := l.dirty ++ [(old, dies)] }
    s.liveDies.foldl (fun s d => s.send (.sweep job num l.serial old d)) s

/-- Indices of a launch that have not ended and stand in no range in force, as first and last. -/
def Launch.unended (l : Launch) : List (Nat × Nat) :=
  l.back ++ runsOf (l.held.flatMap DRange.open) ++ if l.next < dCount l.desc then [(l.next, dCount l.desc - 1)] else []

/-- The ranges of a fenced die with indices that have not ended are taken out of force; they are reissued at once, or wait for the sweep
of the next number (R340, R341). A range whose indices have all ended stays, for the clauses that they spawned. Where no die of the mask is
live, the unended indices are reported to die 0, each run of them by its first and last in the report's address. -/
def State.loseDie (s : State) (job num die : Nat) : State :=
  match s.launch job num with
  | none => s
  | some l =>
    if dMode l.desc ≠ 3 || !(dDies l.desc).contains die then s
    else
      let lost (r : DRange) : Bool := r.die == die && !r.open.isEmpty
      let rs := (l.ranges.filterMap (·.2)).filter lost
      let s := s.modLaunch job num fun l =>
        { l with
          counter := l.counter - (rs.map (·.extra)).sum
          ranges := l.ranges.filter fun x => !x.2.any lost
          asking := l.asking.filter (· != die)
          dirty := l.dirty.map fun x => (x.1, x.2.filter (· != die)) }
      let s := s.modLaunch job num fun l => { l with dirty := l.dirty.filter fun x => !x.2.isEmpty }
      let l := (s.launch job num).getD l
      if (s.maskDies l).isEmpty then
        let s := s.modLaunch job num fun l => { l with lost := true, back := l.back ++ runsOf (rs.flatMap DRange.open) }
        if l.lost then s
        else (((s.launch job num).map (·.unended)).getD []).foldl (fun s x =>
          s.report ⟨0, Config.supCore 0, 0, 0, 0, BitVec.ofNat 64 (x.2 * 2 ^ 32 + x.1), some (job, handleOf 2 l.serial num)⟩) s
      else if rs.isEmpty then s
      else if l.dirty.any fun x => x.1 == (l.gen + 1) % 4096 then s.modLaunch job num fun l => { l with held := l.held ++ rs }
      else s.reissue job num rs

/-- An item bears a generation of a launch for a range that is not in force. -/
def State.staleItem (s : State) (job num gen : Nat) (e : QEntry) : Bool :=
  e.job == job && s.entryLaunch e == num && (s.entryRange e).2 == gen && (s.entryRange e).1 != 0
    && !s.accepts job num (s.entryRange e).1 (s.entryRange e).2

/-- A message that a die holds bears a generation of a launch for a range that is not in force. -/
def State.staleMsg (s : State) (die job num gen : Nat) (b : MsgBody) : Bool :=
  match b with
  | .join cid _ _ j _ _ (some (l, r, g)) _ =>
    s.actsFor die (Config.coreDie cid) && j == job && l == num && g == gen && !s.accepts job num r g
  | _ => false

/-- A message that a sweep discards: it is logged, and its sender, if it still waits, goes on as if its record were stale (R341, R350). -/
def State.discardJoin (s : State) (m : Msg) : State :=
  match m.body with
  | .join cid k id job _ _ own spawn =>
    let s := { s with msgs := s.msgs.filter fun x => x.id != m.id }
    (s.dropped cid k job ((own.map (·.1)).getD 0)).send (.done cid k id (if spawn then 0 else 2))
  | _ => s

/-- GENERATION_SWEEP (R341), for the message that the event names: a die discards every held message, record and queued entry that bears the
number for a stale range, and acknowledges; when every die has, a reissue that waits for the number goes on. -/
def execGenerationSweep (s : State) : Out :=
  match s.takeMsg s.ev.id with
  | (some (.sweep job num serial gen die), s) =>
    match s.launchAt job num serial with
    | none => .next s
    | some _ =>
      let stale := s.staleItem job num gen
      let keep (x : Nat × Option CRec) : Bool := !(x.2.any fun r => s.actsFor die r.die && stale ⟨job, .record x.1 r.serial, 0, 0, 0, 0⟩)
      let held := s.msgs.filter fun m => s.staleMsg die job num gen m.body
      let here := (s.cores.map (·.1)).filter fun c => s.actsFor die (Config.coreDie c)
      let s1 := here.foldl (fun s cid =>
        s.modCore cid fun c => { c with ready := c.ready.filter fun e => !(stale e || s.gone e) }) (held.foldl State.discardJoin s)
      let s2 := s1.modJob job fun j => { j with recs := j.recs.filter keep }
      let s3 := s2.modLaunch job num fun l =>
        { l with dirty := (l.dirty.map fun x => if x.1 = gen then (x.1, x.2.filter (· != die)) else x).filter fun x => !x.2.isEmpty }
      match s3.launch job num with
      | some l =>
        if l.held.isEmpty || l.dirty.any fun x => x.1 == (l.gen + 1) % 4096 then .next s3
        else .next ((s3.modLaunch job num fun l => { l with held := [] }).reissue job num l.held)
      | none => .next s3
  | _ => .next s

end Sys2Proof.Machine
end

