-- ==== Sys2Proof/Machine/Broker.lean ====
section
/-!
DEFINITION. The power broker (R360 to R374): holdings and targets, the shortfall queue, revocation, loans between neighbouring zones, and the
broker instructions. A broker applies an instruction's operation when it issues, and the reply takes a message's time (R366).
-/
namespace Sys2Proof.Machine

/-! ## The quantities of a zone (R361) -/

/-- Cores of a die that hold a place in the state. -/
def State.zoneCores (s : State) (die : Nat) : List (Nat × Core) := s.cores.filter fun x => Config.isTile x.1 && Config.dieOf x.1 == die

/-- floors: the live matrix-bearing tiles of the die. -/
def State.floors (s : State) (die : Nat) : Nat :=
  ((List.range 192).filter fun i => Config.hasMatrix (192 * die + i) && !s.isDead (192 * die + i)).length

/-- granted: the holdings above the floors. -/
def State.granted (s : State) (die : Nat) : Nat := ((s.zoneCores die).map fun x => x.2.grant).sum

/-- Sum of the lent registers. -/
def Die.lentAll (d : Die) : Nat := (d.loans.toList.map (·.lent)).sum
/-- Sum of the borrowed registers. -/
def Die.borrowedAll (d : Die) : Nat := (d.loans.toList.map (·.borrowed)).sum
/-- pool_eff; it is negative where more is lent than a pool written since holds. -/
def Die.poolEff (d : Die) : Int := d.pool + d.borrowedAll - d.lentAll

/-- free. -/
def State.freeTokens (s : State) (die : Nat) : Nat := ((s.die die).poolEff - (s.floors die + s.granted die)).toNat

/-- owed. -/
def State.owed (s : State) (die : Nat) : Nat := (s.floors die + s.granted die - (s.die die).poolEff).toNat

/-- Tokens of pending notices of a core. -/
def Core.noticed (c : Core) : Nat := (c.notices.map (·.amount)).sum

/-- Tokens of every pending notice of a die. -/
def State.noticedAll (s : State) (die : Nat) : Nat := ((s.zoneCores die).map fun x => x.2.noticed).sum

/-- The holding h of a tile, as the broker holds it. -/
def State.holding (s : State) (cid : Nat) : Nat := if Config.hasMatrix cid && !s.isDead cid then (s.core cid).grant + 1 else 0

/-! ## Grants, revocation and returns (R361, R364, R371) -/

/-- Gives tokens to a tile: its holding rises, and the tile is told. -/
def State.giveTokens (s : State) (cid n : Nat) : State :=
  if n = 0 then s else (s.modCore cid fun c => { c with grant := c.grant + n, grantAt := s.clk }).sendSoon (.holding cid)

/-- Takes n tokens off the newest notices of a list (R371). -/
def trimNewest (n : Nat) (l : List Notice) : List Notice :=
  (l.reverse.foldl (fun (acc : Nat × List Notice) x =>
    let k := min acc.1 x.amount
    (acc.1 - k, if x.amount = k then acc.2 else { x with amount := x.amount - k } :: acc.2)) (n, [])).2

/-- The tile of a die whose notice was given last. -/
def State.lastNoticed (s : State) (die : Nat) : Option Nat :=
  ((s.zoneCores die).foldl (fun (best : Option (Nat × Nat)) x =>
    match x.2.notices.getLast?, best with
    | some n, some b => if b.2 < n.no then some (x.1, n.no) else best
    | some n, none => some (x.1, n.no)
    | none, _ => best) none).map (·.1)

/-- Cancels n tokens of the notices given last (R371). -/
def State.cancelNotices (s : State) (die n : Nat) : Nat → State
  | 0 => s
  | fuel + 1 =>
    if n = 0 then s
    else
      match s.lastNoticed die with
      | none => s
      | some cid =>
        let k := min n (((s.core cid).notices.getLast?.map (·.amount)).getD 0)
        (s.modCore cid fun c => { c with notices := trimNewest k c.notices }).cancelNotices die (n - k) fuel

/-- The head of a die's shortfall queue (R364). -/
def State.queueHead (s : State) (die : Nat) : Option Nat :=
  ((s.zoneCores die).foldl (fun (best : Option (Nat × Nat)) x =>
    match x.2.queuedAt, best with
    | some a, some b => if a < b.2 then some (x.1, a) else best
    | some a, none => some (x.1, a)
    | none, _ => best) none).map (·.1)

/-- Serves the shortfall queue from the free tokens (R361, R364). -/
def State.serveQueue (s : State) (die : Nat) : Nat → State
  | 0 => s
  | fuel + 1 =>
    match s.queueHead die with
    | none => s
    | some cid =>
      let k := min (s.freeTokens die) (s.core cid).short
      if k = 0 then s
      else
        let s := s.giveTokens cid k
        (s.modCore cid fun c =>
          { c with short := c.short - k, queuedAt := if c.short = k then none else c.queuedAt }).serveQueue die fuel

/-- The tile to be revoked from next (R371): the latest grant first, then the higher source number. -/
def State.revokeNext (s : State) (die : Nat) : Option Nat :=
  ((s.zoneCores die).foldl (fun (best : Option (Nat × Nat)) x =>
    if x.2.grant ≤ x.2.noticed then best
    else match best with
      | some b => if b.2 ≤ x.2.grantAt then some (x.1, x.2.grantAt) else best
      | none => some (x.1, x.2.grantAt)) none).map (·.1)

/-- Gives notices for n tokens, each tile down to its floor (R371); a notice lasts 2,048 clk from its arrival. -/
def State.revoke (s : State) (die n : Nat) : Nat → State
  | 0 => s
  | fuel + 1 =>
    if n = 0 then s
    else
      match s.revokeNext die with
      | none => s
      | some cid =>
        let c := s.core cid
        let k := min n (c.grant - c.noticed)
        let r := s.drawLatency
        let q := r.2.request
        (q.2.modCore cid fun c =>
          { c with notices := c.notices ++ [⟨k, s.clk + 1 + r.1 % 64 + 2048, q.1⟩] }).revoke die (n - k) fuel

/-- Gives back recalled tokens that nothing holds any more, and those whose recall has lasted its time, the oldest recall first (R370). -/
def State.giveBack (s : State) (die avail : Nat) : List Recall → State
  | [] => s
  | r :: t =>
    if r.n ≤ avail || r.due ≤ s.clk then
      let s := s.modDie die fun d => { d with returning := t }
      match Config.neighbour die r.dir with
      | some l => (s.sendSoon (.returned die l r.n r.id)).giveBack die (avail - r.n) t
      | none => s.giveBack die (avail - r.n) t
    else s

/-- A notice can take no more than its tile still holds above the floor (log 80). -/
def State.trimNotices (s : State) (die : Nat) : State :=
  (s.zoneCores die).foldl (fun s x =>
    if x.2.noticed ≤ x.2.grant then s
    else s.modCore x.1 fun c => { c with notices := trimNewest (c.noticed - c.grant) c.notices }) s

/-- The broker's bookkeeping after any change (R361, R371): notices that owed no longer needs are cancelled, the one given last first; free
tokens serve the queue; owed that no notice covers is revoked; and recalled tokens go back. -/
def State.settleZone (s : State) (die : Nat) : State :=
  let s := (s.cancelNotices die (s.noticedAll die - s.owed die) 4096).trimNotices die
  let s := s.serveQueue die 192
  let s := s.revoke die (s.owed die - s.noticedAll die) 192
  let d := s.die die
  s.giveBack die ((d.returning.map (·.n)).sum - s.owed die) d.returning

/-! ## Words (R367, Table 5) -/

/-- The tile word. With several notices pending, the clk remaining are those of the oldest. -/
def State.tileWord (s : State) (cid : Nat) : Word :=
  let c := s.core cid
  let left := match c.notices with
    | n :: _ => min 2048 (n.due - s.clk)
    | [] => 0
  BitVec.ofNat 64 (s.holding cid % 256 + s.target cid % 256 * 2 ^ 8 + c.short % 256 * 2 ^ 16 + Config.fullRate cid * 2 ^ 24
    + left * 2 ^ 32 + if c.notices.isEmpty then 0 else 2 ^ 44)

/-- The zone word. -/
def State.zoneWord (s : State) (die : Nat) : Word :=
  BitVec.ofNat 64 (s.freeTokens die % 2 ^ 16 + s.granted die % 2 ^ 16 * 2 ^ 16 + s.floors die * 2 ^ 32 + s.owed die % 2 ^ 16 * 2 ^ 48)

/-- The loan word. -/
def State.loanWord (s : State) (die : Nat) : Word :=
  let d := s.die die
  BitVec.ofNat 64 ((d.poolEff % 2 ^ 16).toNat + d.lentAll % 2 ^ 16 * 2 ^ 16 + d.borrowedAll % 2 ^ 16 * 2 ^ 32)

/-! ## Holdings that change -/

/-- Threads of a tile whose TKREQ waits for its target go on when the holding has reached it (R368). -/
def State.wakeTokens (s : State) (cid : Nat) : State :=
  (List.range 16).foldl (fun s k =>
    match (s.slot cid k).st with
    | .parked (.tokens d) =>
      if s.target cid ≤ s.holding cid then (s.modSlot cid k (·.wg d (s.tileWord cid))).goOn cid k (.go (s.slot cid k).npc) else s
    | _ => s) s

/-- A tile's target becomes t: R364 where it rises above holding and shortfall, R365 where it falls. -/
def State.retarget (s : State) (cid t : Nat) : State :=
  if !Config.hasMatrix cid || s.isDead cid then s
  else
    let die := Config.dieOf cid
    let c := s.core cid
    let h := c.grant + 1
    let s :=
      if h + c.short < t then
        let need := t - h - c.short
        let g := min need (s.freeTokens die)
        let s := s.giveTokens cid g
        s.modCore cid fun c =>
          { c with
            short := c.short + (need - g)
            queuedAt := if need - g = 0 then c.queuedAt else some (c.queuedAt.getD s.clk) }
      else
        let short := min c.short (t - h)
        let s := s.modCore cid fun c => { c with short, queuedAt := if short = 0 then none else c.queuedAt }
        if h ≤ t then s
        else (s.modCore cid fun c => { c with grant := t - 1 }).sendSoon (.holding cid)
    (s.settleZone die).wakeTokens cid

/-- BROKER_CLASS_UPDATE (R363 to R366), for the message that the event names. -/
def execBrokerClassUpdate (s : State) : Out :=
  match s.takeMsg s.ev.id with
  | (some (.classUpdate cid t), s) => .next (s.retarget cid t)
  | _ => .next s

/-- A message is a class update of a tile. -/
def MsgBody.updates (b : MsgBody) (cid : Nat) : Bool :=
  match b with
  | .classUpdate c _ => c == cid
  | _ => false

/-- A message is a class update that the broker of a die has received before an instruction which tile `cid` issues now (R366): those of the
tile itself, and those of tiles with lower source numbers that arrive in this clk, each behind the earlier ones of its tile. -/
def State.precedes (s : State) (cid : Nat) (m : Msg) : Bool :=
  match m.body with
  | .classUpdate c _ =>
    c == cid || (m.due ≤ s.clk && c < cid && Config.coreDie c == Config.coreDie cid
      && !s.msgs.any fun x => x.id < m.id && s.clk < x.due && x.body.updates c)
  | _ => false

/-- Class updates put in the order of their tiles, those of one tile in the order of their sending. -/
def insertUpdate (id c t : Nat) : List (Nat × Nat × Nat) → List (Nat × Nat × Nat)
  | [] => [(id, c, t)]
  | x :: l => if c < x.2.1 then (id, c, t) :: x :: l else x :: insertUpdate id c t l

/-- The broker applies what it has received before an instruction of a tile. -/
def State.catchUp (s : State) (cid : Nat) : State :=
  let ups := (s.msgs.filter (s.precedes cid)).foldl (fun l m => match m.body with
    | .classUpdate c t => insertUpdate m.id c t l
    | _ => l) []
  ups.foldl (fun s u => (s.takeMsg u.1).2.retarget u.2.1 u.2.2) s

/-- HOLDING_CHANGE (R247, R366): a change of h reaches the tile and is in force from the next clk on. -/
def execHoldingChange (s : State) : Out :=
  match s.takeMsg s.ev.id with
  | (some (.holding cid), s) => .next ((s.modCore cid fun c => { c with extra := c.grant }).wakeTokens cid)
  | _ => .next s

/-- REVOCATION_NOTICE_EXPIRY (R371), for the tile that the event names: the amounts whose notices are over leave its holding and join its
shortfall. -/
def execRevocationNoticeExpiry (s : State) : Out :=
  let cid := s.ev.core
  let ready := (s.core cid).notices.filter fun n => n.due ≤ s.clk
  if ready.isEmpty then .next s
  else
    let k := min (ready.map (·.amount)).sum (s.core cid).grant
    let s := s.modCore cid fun c =>
      { c with
        notices := c.notices.filter fun n => !(n.due ≤ s.clk), grant := c.grant - k, short := c.short + k
        queuedAt := if k = 0 then c.queuedAt else some (c.queuedAt.getD s.clk) }
    .next ((s.sendSoon (.holding cid)).settleZone (Config.dieOf cid))

/-! ## Instructions (R367 to R373) -/

/-- The reply of a broker releases the running thread with a result (R366, R367). -/
def State.brokerReply (s : State) (d : Option G) (x : Word) (c : Ctl) : State :=
  let q := s.request
  (q.2.park s.cur.core s.cur.slot (.reply q.1 20 d c)).sendSoon (.done s.cur.core s.cur.slot q.1 x)

/-- A slot's explicit level is changed, with what follows at the broker. -/
def State.setExplicit (s : State) (f : Nat → Nat) : State :=
  let s := s.modMe fun t => { t with explicit := f t.explicit }
  s.retarget s.cur.core (s.target s.cur.core)

/-- What an all-or-nothing request to level L would need (R368). -/
def State.needFor (s : State) (cid L : Nat) : Nat :=
  max (s.target cid) L - s.holding cid - (s.core cid).short

/-- TKREQ (R368). The class updates of the tile come first (R366). With wait = 1 the thread, once the reply is back, waits for its target. -/
def execTkreq (d a : G) (wait all : Bool) (s : State) : Out :=
  let cid := s.cur.core
  let f := Config.fullRate cid
  let L := (s.me.rg a).toNat
  if !s.me.stash.isEmpty then
    let s := s.modMe fun t => { t with stash := [] }
    if s.target cid ≤ s.holding cid then .next (s.doneWith (·.wg d (s.tileWord cid)))
    else .next (s.park cid s.cur.slot (.tokens d))
  else if f = 0 then .next (s.trapMe (ownTrap cEngine 0xB2 0))
  else if L = 0 || f < L then .next (s.trapMe (ownTrap cEngine 0xB1 0))
  else
    let s := s.catchUp cid
    if all && s.freeTokens (Config.dieOf cid) < s.needFor cid L then
      .next (s.brokerReply (some d) (s.tileWord cid ||| 0x8000000000000000) (.go s.me.npc))
    else
      let s := s.setExplicit (max L)
      if wait then .next ((s.modMe fun t => { t with stash := [1] }).brokerReply none 0 (.rerun (.tkreq d a wait all)))
      else .next (s.brokerReply (some d) (s.tileWord cid) (.go s.me.npc))

/-- TKRET (R369). -/
def execTkret (d a : G) (s : State) : Out :=
  let cid := s.cur.core
  let f := Config.fullRate cid
  let L := (s.me.rg a).toNat
  if f = 0 then .next (s.trapMe (ownTrap cEngine 0xB2 0))
  else if f < L then .next (s.trapMe (ownTrap cEngine 0xB1 0))
  else
    let s := (s.catchUp cid).setExplicit (min L)
    .next (s.brokerReply (some d) (s.tileWord cid) (.go s.me.npc))

/-- TKQ (R372). -/
def execTkq (d : G) (sel : Fin 4) (s : State) : Out :=
  let cid := s.cur.core
  let s := s.catchUp cid
  let x := match sel.val with
    | 0 => s.tileWord cid
    | 1 => s.zoneWord (Config.coreDie cid)
    | _ => s.loanWord (Config.coreDie cid)
  .next (s.brokerReply (some d) x (.go s.me.npc))

/-- ECSET (R373). -/
def execEcset (d a : G) (cls : Fin 8) (s : State) : Out :=
  let cid := s.cur.core
  let h := s.me.rg a
  let job := s.me.tag
  let reply (s : State) (x : Word) : Out := .next (s.brokerReply (some d) x (.go s.me.npc))
  if h = 0 then
    let s := (s.catchUp cid).modMe fun t => { t with occ := t.occ.map fun o => { o with cls := cls.val } }
    reply (s.retarget cid (s.target cid)) 0
  else if !handleBad 1 (s.tableSize job) h then
    match s.record job (handleNumber h) (handleSerial h) with
    | some r =>
      let r := { r with occ := { r.occ with cls := cls.val } }
      reply (s.modJob job fun j => { j with recs := SMap.set none j.recs (handleNumber h) (some r) }) 0
    | none => reply s 2
  else if !handleBad 2 launchEntries h then
    match s.launchAt job (handleNumber h) (handleSerial h) with
    | some l =>
      let desc := l.desc - dField l.desc 404 3 * 2 ^ 404 + cls.val * 2 ^ 404
      -- the indices of a keyed launch that have their records but have not started take the class there
      let of (r : CRec) : Bool := r.occ.launch == handleNumber h && r.occ.index.isSome
      let s := s.modJob job fun j =>
        { j with recs := j.recs.map fun x => (x.1, x.2.map fun r => if of r then { r with occ := { r.occ with cls := cls.val } } else r) }
      reply (s.modLaunch job (handleNumber h) fun l => { l with desc }) 0
    | none => reply s 2
  else .next (s.trapMe (ownTrap cEngine 0xA7 0))

/-! ## Loans (R370) -/

/-- The direction of a neighbouring die. -/
def directionOf (die other : Nat) : Option (Fin 4) := (List.finRange 4).find? fun k => Config.neighbour die k.val == some other

/-- The state with a zone's loans to one neighbour changed. -/
def State.modLoan (s : State) (die : Nat) (k : Fin 4) (f : Loan → Loan) : State :=
  s.modDie die fun d => { d with loans := d.loans.set k (f d.loans[k]) }

/-- The checks of TKLEND (R370, R367), and the neighbour's direction. Supervisor software runs in no job, so no zone_ctl bit binds it. -/
def State.lendChecks (s : State) (x n : Word) : Except Trap (Nat × Fin 4) :=
  let cid := s.cur.core
  let die := Config.coreDie cid
  let allowed := hmode s.me.flags || isSup cid || ((s.job s.me.tag).ctx.any fun c => c.zoneCtl)
  if !allowed then .error privTrap
  else
    match if x.toNat < 64 then directionOf die x.toNat else none with
    | none => .error (ownTrap cEngine 0xB3 0)
    | some k =>
      if (s.die x.toNat).fenced then .error (ownTrap cEngine 0xB3 0)
      else if n = 0 || n.toNat > 7680 then .error (ownTrap cEngine 0xB4 0)
      else .ok (x.toNat, k)

/-- TKLEND, lend form (R370). -/
def execTklendLend (d a b : G) (s : State) : Out :=
  match s.lendChecks (s.me.rg a) (s.me.rg b) with
  | .error t => .next (s.trapMe t)
  | .ok (nb, k) =>
    let die := Config.coreDie s.cur.core
    let n := (s.me.rg b).toNat
    let s := s.catchUp s.cur.core
    let z := s.die die
    if s.freeTokens die < n || z.pool - s.floors die < z.lentAll + n then .next (s.brokerReply (some d) 1 (.go s.me.npc))
    else
      let s := ((s.modLoan die k fun l => { l with lent := l.lent + n }).settleZone die).sendSoon (.loan die nb n 0 false)
      .next (s.brokerReply (some d) 0 (.go s.me.npc))

/-- TKLEND, recall form (R370): the thread parks until the tokens have come back. -/
def execTklendRecall (d a b : G) (s : State) : Out :=
  match s.lendChecks (s.me.rg a) (s.me.rg b) with
  | .error t => .next (s.trapMe t)
  | .ok (nb, k) =>
    let die := Config.coreDie s.cur.core
    let n := (s.me.rg b).toNat
    let s := s.catchUp s.cur.core
    let l := (s.die die).loans[k]
    if l.lent - l.recalling < n then .next (s.brokerReply (some d) 2 (.go s.me.npc))
    else
      let q := s.request
      let s := q.2.modLoan die k fun l => { l with recalling := l.recalling + n }
      .next ((s.park s.cur.core s.cur.slot (.reply q.1 20 (some d) (.go s.me.npc))).sendSoon (.loan die nb n q.1 true))

/-- LOAN_MESSAGE (R370), for the message that the event names. -/
def execLoanMessage (s : State) : Out :=
  match s.takeMsg s.ev.id with
  | (some (.loan src dst n id back), s) =>
    match directionOf dst src with
    | none => .next s
    | some k =>
      let s := s.modLoan dst k fun l => { l with borrowed := if back then l.borrowed - n else l.borrowed + n }
      let s := if back then s.modDie dst fun d => { d with returning := d.returning ++ [⟨k.val, id, n, s.clk + 64 + 2048⟩] } else s
      .next (s.settleZone dst)
  | _ => .next s

/-- A thread that waits for a reply, by request number. -/
def State.replyWaiter (s : State) (id : Nat) : Option (Nat × Nat) :=
  s.cores.findSome? fun x => ((List.range 16).find? fun k =>
    match (x.2.slot k).st with
    | .parked (.reply n ..) => n == id
    | _ => false).map fun k => (x.1, k)

/-- A reply to a scheduler, broker or persistence request reaches its thread (R130); one that is not waited for any more is dropped. -/
def State.takeReply (s : State) (cid k id : Nat) (x : Word) : State :=
  match (s.slot cid k).st with
  | .parked (.reply n _ d c) =>
    if n ≠ id then s
    else
      (match d with
        | some d => s.modSlot cid k (·.wg d x)
        | none => s).goOn cid k c
  | _ => s

/-- RECALL_RETURN (R370), for the message that the event names. -/
def execRecallReturn (s : State) : Out :=
  match s.takeMsg s.ev.id with
  | (some (.returned src dst n id), s) =>
    match directionOf dst src with
    | none => .next s
    | some k =>
      let s := (s.modLoan dst k fun l => { l with lent := l.lent - n, recalling := l.recalling - n }).settleZone dst
      match s.replyWaiter id with
      | some (cid, j) => .next (s.takeReply cid j id 0)
      | none => .next s
  | _ => .next s

/-- A message between the brokers of two dies, one of them this one. -/
def MsgBody.loanOf (die : Nat) : MsgBody → Bool
  | .loan a b .. => a == die || b == die
  | .returned a b .. => a == die || b == die
  | _ => false

/-- A die is fenced off: its loans end at once (R370). Recalls from it are complete. -/
def State.endLoans (s : State) (die : Nat) : State :=
  let recalls := (s.msgs.filterMap fun m => match m.body with
    | .loan _ b _ id true => if b = die then some id else none
    | .returned a _ _ id => if a = die then some id else none
    | _ => none) ++ (s.die die).returning.map (·.id)
  let s : State := { s with msgs := s.msgs.filter fun m => !m.body.loanOf die }
  let s := s.modDie die fun d => { d with loans := Vector.replicate 4 { }, returning := [] }
  let s := (List.finRange 4).foldl (fun s k =>
    match Config.neighbour die k.val with
    | none => s
    | some n =>
      match directionOf n die with
      | none => s
      | some j =>
        let s := (s.modLoan n j fun _ => { }).modDie n fun d => { d with returning := d.returning.filter fun r => r.dir != j.val }
        s.settleZone n) s
  recalls.foldl (fun s id =>
    match s.replyWaiter id with
    | some (cid, k) => s.takeReply cid k id 0
    | none => s) s

/-- POOL_WRITE (R360, R371): the supervisor software writes the pool of die `core`. -/
def execPoolWrite (s : State) : Out :=
  let die := s.ev.core
  let x := s.ev.value.toNat % 2 ^ 13
  .next ((s.modDie die fun d => { d with pool := min x 7680 }).settleZone die)

end Sys2Proof.Machine
end

