-- ==== Sys2Proof/Machine/Registers.lean ====
section
/-!
DEFINITION. The registers of space 0x7 as they read (R87): the network blocks (R293), the broker's (R360), the sequence home's (R388), the
command blocks (R398), and die 0's power control, boot control, semaphore, port tags, capability list, event ring and attestation
registers (R375, R406, R413 to R418). An offset that no chapter lists reads as zero.
-/
namespace Sys2Proof.Machine

/-! ## Blocks of one core and one die -/

/-- The core whose network block holds a register offset (R293), and the offset within the block. -/
def netBlock (die off : Nat) : Option (Nat × Nat) :=
  let o := off - 0x01000000
  if off < 0x01000000 || o ≥ 2 * 0x80000 || o % 0x80000 ≥ 96 * 0x1000 then none
  else some (Config.snOf die (o / 0x80000) (o % 0x80000 / 0x1000), o % 0x1000)

/-- A network register (R293, Table 1). -/
def State.netRead (s : State) (cid o : Nat) : Word :=
  let c := s.core cid
  if o = 0 then BitVec.ofNat 64 (c.role % 4)
  else if o = 8 then match c.pend with
    | some r => BitVec.ofNat 64 (4 + r % 4)
    | none => 0
  else if o = 0x10 then c.ovf
  else if 0x100 ≤ o && o < 0x200 then SMap.get 0 c.roleTab ((o - 0x100) / 8)
  else if 0x200 ≤ o && o < 0x220 then c.win[(Fin.ofNat 4 ((o - 0x200) / 8) : Fin 4)]
  else if 0x300 ≤ o && o < 0x500 then
    let t := s.tree cid ((o - 0x300) / 0x80)
    match o % 0x80 / 8 with
    | 0 => t.cfg
    | 1 => t.parent
    | n => if n < 10 then SMap.get 0 t.kids (n - 2) else 0
  else 0

/-- A broker register (R360, Table 1). -/
def State.zoneRead (s : State) (die o : Nat) : Word :=
  let d := s.die die
  if o = 0 then BitVec.ofNat 64 d.pool
  else if o = 8 then s.zoneWord die
  else if o = 0x10 then s.loanWord die
  else if 0x18 ≤ o && o < 0x38 then
    let l := d.loans[(Fin.ofNat 4 ((o - 0x18) / 8) : Fin 4)]
    BitVec.ofNat 64 (l.lent % 2 ^ 16 + l.borrowed % 2 ^ 16 * 2 ^ 16)
  else 0

/-- A register of the sequence home (R388, Table 1). -/
def State.homeRead (s : State) (o : Nat) : Word :=
  let t := o % 0x800 / 8
  if t = 0 || t ≥ 255 then 0
  else
    match o / 0x800 with
    | 0 => SMap.get 0 s.dseq t
    | 1 => SMap.get 0 s.lseq t
    | 2 => SMap.get 0 s.lword t
    | _ => 0

/-- A register of the command block (R398, Tables 1 and 2). -/
def State.commandRead (s : State) (die o : Nat) : Word :=
  let d := s.die die
  if 0x08 ≤ o && o ≤ 0x18 then d.op.toList.getD (o / 8 - 1) 0
  else if o = 0x20 then
    BitVec.ofNat 64 ((if d.cmd.isSome then 2 ^ 63 else 0) + (if d.lost then 2 ^ 8 else 0) + d.result % 256)
  else 0

/-! ## The capability list (R416, R418) -/

/-- Ids of the capability entries (R416, Table 7). -/
def capIds : List Nat := [1, 2, 3, 4, 5, 6, 7]

/-- Bytes of the public key that entry 6 holds first, and of the signature that is placed in it (R416, R417). -/
def keyBytes : Nat := 2592
/-- Bytes of a report's signature (R417). -/
def signatureBytes : Nat := 4627

/-- Exact length of a payload in bytes: that of its items where the spec states them (R418), else a free length of at least its word 0, and for
entry 6 of its key and signature too, and at most 255 units of 256 (R416). -/
def capSize (id : Nat) : Nat :=
  match id with
  | 2 => 8 + ((List.range 64).map fun die => 4 + ((List.range 192).filter fun i => Config.hasMatrix (192 * die + i)).length).sum
  | 3 => 8 + 64
  | 6 => 8 + keyBytes + signatureBytes + Config.capLength id % (65273 - keyBytes - signatureBytes)
  | id => 8 + Config.capLength id % 65273

/-- Where the registers of die 0 stand that the capability list must leave free: offset and size. -/
def takenPlaces : List (Nat × Nat) :=
  [(0, 0x100), (0xFF8, 0x1008), (0x2000, 0x48), (0x01000000, 0x100000), (0x02000000, 0x38), (0x03000000, 0x1800), (0x03400000, 0x28)]

/-- The places of entries 1 to 6 and of payloads 0 to 6, in that order, that `place` gives; entry 0 stands at 0x0100. -/
def capPlaces (place : Nat → Nat) : List (Nat × Nat) :=
  (0x100, 16) :: ((List.range 6).map fun i => (place (i + 1) % 2 ^ 23 * 8, 16))
    ++ (List.range 7).map fun i => (place (i + 16) % 2 ^ 23 * 8, capSize (i + 1))

/-- Two ranges of registers do not meet. -/
def placesApart (x y : Nat × Nat) : Bool := x.1 + x.2 ≤ y.1 || y.1 + y.2 ≤ x.1

/-- Each range of a list lies within the registers and meets no later one. -/
def allApart : List (Nat × Nat) → Bool
  | [] => true
  | x :: t => x.1 + x.2 ≤ 2 ^ 26 && t.all (placesApart x) && allApart t

/-- A place for everything: entries one after another, payloads 64 KiB apart. -/
def plainPlace (i : Nat) : Nat := if i < 16 then 32 + 2 * i else 0x2000 * (i - 15)

/-- Places of entries 1 to 6, by number, and of payloads 0 to 6, by 16 + number: free ones, so long as nothing meets anything (log 13). -/
def capPlace (i : Nat) : Nat :=
  (if allApart (takenPlaces ++ capPlaces Config.capPlace) then Config.capPlace i else plainPlace i) % 2 ^ 23 * 8

/-- Where entry i stands: the first at 0x0100, the others at free places. -/
def capOffset (i : Nat) : Nat := if i = 0 then 0x100 else capPlace i

/-- Where the payload of entry i stands. -/
def capPayload (i : Nat) : Nat := capPlace (i + 16)

/-- A tile is shown live by the census of the last boot. -/
def State.inCensus (s : State) (sn : Nat) : Bool := !s.census.contains sn

/-- A die's record in the census (R418). -/
def State.censusRecord (s : State) (die : Nat) : List Nat :=
  let live (k : Nat) : Nat := ((List.range 192).filter fun i => kindOfTile (192 * die + i) == k && s.inCensus (192 * die + i)).length
  let arrays := ((List.range 192).map (192 * die + ·)).filter Config.hasMatrix
  (List.range 4).map live ++ arrays.map fun sn => if s.inCensus sn then s.widthL6 sn else 0

/-- The items of the census and memory payloads (R418), as bytes; none where the spec states no layout. -/
def State.capItems (s : State) (id : Nat) : Option (List Nat) :=
  match id with
  | 2 => some ((List.range 64).flatMap s.censusRecord)
  | 3 =>
    let up (h : Nat) : Nat := if s.stacksDown.contains h then 0 else 1
    some ((List.range 8).map (fun i => s.hshare / 256 ^ i % 256) ++ (List.range 48).map (fun n => up (20000 + n))
      ++ (List.range 8).map fun n => up (30000 + n))
  | _ => none

/-- What a payload without a stated layout is to tell (R416, Table 7). -/
def State.capFacts (s : State) (id : Nat) : List Nat :=
  match id with
  | 1 => [deviceId.toNat, s.bootCount, match s.bootState with
      | .booting => 0
      | .ready => 1
      | .hold => 2]
  | 4 => [s.linksRetired, if s.logFull then 1 else 0, if s.signatureFailed then 1 else 0]
      ++ s.failures.length :: (s.failures.flatMap fun f => [f.1, f.2]) ++ s.stacksDown.length :: s.stacksDown
      ++ s.eccFailed.length :: s.eccFailed ++ s.supFailed.length :: s.supFailed ++ s.pathFailed
  | 5 => s.fieldLog.flatMap (fun e => [e.tile, e.column, e.cause, e.boot]) ++ s.pending.map (·.1)
  | 6 => s.attest.map (·.toNat)
  | _ => ((List.range 64).map fun d => (s.die d).pool) ++ [s.powerState]

/-- A word of bytes, lowest first. -/
def wordOf (l : List Nat) : Nat := l.foldr (fun b acc => b + 256 * acc) 0

/-- A word of the capability list, if the offset lies in it (R416). -/
def State.capRead (s : State) (off : Nat) : Option Word :=
  let n := capIds.length
  match (List.range n).find? fun i => off == capOffset i || off == capOffset i + 8 with
  | some i =>
    let id := i + 1
    if off = capOffset i then
      some (BitVec.ofNat 64 (id + (Config.capVersion id).toNat * 2 ^ 16 + (capSize id + 255) / 256 * 2 ^ 24
        + if i + 1 < n then capOffset (i + 1) * 2 ^ 32 else 0))
    else some (BitVec.ofNat 64 (7 * 2 ^ 60 + capPayload i))
  | none =>
    match (List.range n).find? fun i => capPayload i ≤ off && off < capPayload i + capSize (i + 1) with
    | some i =>
      let id := i + 1
      let o := off - capPayload i
      if o = 0 then some (BitVec.ofNat 64 (capSize id))
      else
        match s.capItems id with
        | some l => some (BitVec.ofNat 64 (wordOf ((l.drop (o - 8)).take 8)))
        | none => some (Config.capWord id (o / 8) (if id = 6 && o / 8 ≤ keyBytes / 8 then [] else s.capFacts id))
    | none => none

/-! ## Die 0 -/

/-- Code of the device's state (R406). -/
def bootCode : BootState → Nat
  | .booting => 0
  | .ready => 1
  | .hold => 2

/-- The boot control word (R406). -/
def State.bootWord (s : State) : Word := BitVec.ofNat 64 (s.bootShare % 64 * 8 + bootCode s.bootState * 2 + if s.bootFull then 1 else 0)

/-- The power control word (R375, Table 7). -/
def State.powerWord (s : State) : Word :=
  BitVec.ofNat 64 (s.latTol % 2 ^ 32 + s.idleHold % 2 ^ 24 * 2 ^ 32 + s.powerState * 2 ^ 56 + if s.deepOk then 2 ^ 63 else 0)

/-- The ownership semaphore (R415). -/
def ownerCode : Option Port → Nat
  | none => 0
  | some .A => 1
  | some .B => 2

/-- A register of die 0's own. -/
def State.rootRead (s : State) (off : Nat) : Word :=
  if off = 0x40 then s.powerWord
  else if off = 0x80 then s.bootWord
  else if off = 0x90 then BitVec.ofNat 64 (ownerCode s.owner)
  else if off = 0xA0 then BitVec.ofNat 64 s.portA.tag.toNat
  else if off = 0xA8 then BitVec.ofNat 64 s.portB.tag.toNat
  else if off = 0xFF8 then s.ringCount
  else if 0x1000 ≤ off && off < 0x2000 then SMap.get 0 s.ring ((off - 0x1000) / 8)
  else if 0x2000 ≤ off && off < 0x2040 then s.nonce[(Fin.ofNat 8 ((off - 0x2000) / 8) : Fin 8)]
  else if off = 0x2040 then if s.attesting.isSome then 1 else 0
  else (s.capRead off).getD 0

/-- A register of space 0x7 as it reads (R87). -/
def State.regRead (s : State) (die off : Nat) : Word :=
  match netBlock die off with
  | some (cid, o) => s.netRead cid o
  | none =>
    if 0x02000000 ≤ off && off < 0x02000038 then s.zoneRead die (off - 0x02000000)
    else if 0x03000000 ≤ off && off < 0x03001800 && die = s.seqDie then s.homeRead (off - 0x03000000)
    else if 0x03400000 ≤ off && off < 0x03400028 then s.commandRead die (off - 0x03400000)
    else if die = 0 then s.rootRead off
    else 0

/-- A register as it reads, by its cell. -/
def State.regCellRead (s : State) (cell : Nat) : Word := s.regRead (cell / 2 ^ 26 % 64) (cell % 2 ^ 26)

end Sys2Proof.Machine
end

