-- ==== Sys2Proof/Machine/Persist.lean ====
section
/-!
DEFINITION. Accesses at their homes and the answers that return (R13, R94, R107, R131, R166, R224, R233), fences (R118, R119), wake messages
(R105, R222), combining (R120, R316); and the persistence engine: acceptance queues, the sequence home and its instructions (R378 to
R396).
-/
namespace Sys2Proof.Machine

/-! ## A part of an access at its home -/

/-- What a home has done with the units of a part. -/
structure HomeSum where
  results : List (Nat × Nat) := []
  refusals : List Refusal1 := []
  held : Option AUnit := none
deriving DecidableEq, Repr

/-- The units of a part, one after another: the target checks, then the operation (R99, R100, R107, R403). -/
def State.homeUnits (s : State) (a : Access) : List AUnit → HomeSum → State × HomeSum
  | [], h => (s, h)
  | u :: t, h =>
    match s.targetCheck a.core a.job a.op.kind u.cell u.n with
    | some (c, d) =>
      let s := if c = cContained && d = 0x61 then s.consumeError u.cell else s
      s.homeUnits a t { h with refusals := h.refusals ++ [⟨u.idx, c, d, u.failAddr c⟩] }
    | none =>
      if u.cell / 2 ^ 60 = 7 then s.homeUnits a t { h with results := h.results ++ [(u.idx, (s.regCellRead u.cell).toNat)] }
      else
      match s.homeOp a.job a.op u with
      | (s, .ok rs) => s.homeUnits a t { h with results := h.results ++ rs }
      | (s, .fail c d) => s.homeUnits a t { h with refusals := h.refusals ++ [⟨u.idx, c, d, u.failAddr c⟩] }
      | (s, .held) => s.homeUnits a t { h with held := some u }

/-- Units of a part that its home performs now, and those that it performs later: the units of one access have no order among themselves (R94,
R207), but for those of one address, which keep theirs. -/
def State.pickUnits (s : State) (late : List Nat) : List AUnit → State × List AUnit × List AUnit
  | [] => (s, [], [])
  | u :: t =>
    let d := s.drawChoice 2
    let now := d.1 == 0 && !late.contains u.cell
    let q := d.2.pickUnits (if now then late else u.cell :: late) t
    if now then (q.1, u :: q.2.1, q.2.2) else (q.1, q.2.1, u :: q.2.2)

/-- A part of an access is performed at its home, which answers, or holds the request. Of several units, some may be performed first: the
message `msg` stays with the others, in its place among the messages, and comes at a later time. -/
def State.performPart (s : State) (msg id home : Nat) : State :=
  match SMap.get none s.accesses id with
  | none => s
  | some a =>
    let units := ((a.parts.find? fun p => p.1 == home).map (·.2)).getD []
    let pick := if units.length ≤ 1 then (s, units, []) else s.pickUnits [] units
    let r := pick.1.homeUnits a pick.2.1 {}
    let s := r.1
    match r.2.held with
    | some u => s.hold id home u
    | none =>
      if !pick.2.2.isEmpty then
        let parts := a.parts.map fun p => if p.1 == home then (home, pick.2.2) else p
        let a' := { a with parts, results := a.results ++ r.2.results, refusals := a.refusals ++ r.2.refusals }
        { s with accesses := SMap.set none s.accesses id (some a') }.sendAgain msg (.access id home)
      else
      let a' := { a with parts := a.parts.filter fun p => p.1 != home }
      let s := { s with accesses := SMap.set none s.accesses id (some a') }
      let s := s.answer id home r.2.results r.2.refusals
      if a.op.fills then units.foldl (fun s u => s.serveWord u.cell) s else s

/-- The message that the event names is an access to a home, which performs it. -/
def State.accessEvent (s : State) : Out :=
  match s.takeMsg s.ev.id with
  | (some (.access id home), t) => .next (t.performPart s.ev.id id home)
  | _ => .next s

/-- Tags 0x00 and 0xFF have no sequence numbers (R388). -/
def seqTag (t : Nat) : Bool := 1 ≤ t && t ≤ 254

/-- The value that a read of the sequence home returns (R393, R394). -/
def State.seqValue (s : State) (tag kind : Nat) : Word :=
  if !seqTag tag then 0
  else
    match kind with
    | 1 => SMap.get 0 s.dseq tag
    | 2 => SMap.get 0 s.lseq tag
    | _ => SMap.get 0 s.lword tag

/-- REMOTE_ACCESS (R13, R99, R107), for the message that the event names. A read of the sequence home is answered too (R393). -/
def execRemoteAccess (s : State) : Out :=
  match s.takeMsg s.ev.id with
  | (some (.seq cid k id tag kind), s') =>
    if kind = 0 || (s.die s.seqDie).fenced then .next s else .next (s'.send (.done cid k id (s'.seqValue tag kind)))
  | _ => s.accessEvent

/-- CONCORD_INIT (R224). -/
def execConcordInit (s : State) : Out := s.accessEvent

/-- CONCORD_ARRIVAL (R224, R227). -/
def execConcordArrival (s : State) : Out := s.accessEvent

/-- CONCORD_EXPECTATION (R224, R226). -/
def execConcordExpectation (s : State) : Out := s.accessEvent

/-! ## The order of messages -/

/-- Units of an access that one of its messages carries. -/
def Access.unitsAt (a : Access) (home : Nat) : List AUnit := ((a.parts.find? fun p => p.1 == home).map (·.2)).getD []

/-- Two messages, the earlier one first, whose order is kept: accesses of one thread, or of one of its requests, that share a line (R109); an
update of a concord by a thread and the later arrival of a request that it pushed (R239, Table 8); an access of a thread before its IFLUSH
and a fetch after it (R149); words of one channel (R295); messages between two brokers, or of one tile to its broker (R366). -/
def State.keepsOrder (s : State) (x y : MsgBody) : Bool :=
  match x, y with
  | .access i h, .access j l =>
    match SMap.get none s.accesses i, SMap.get none s.accesses j with
    | some a, some b =>
      a.core == b.core && a.slot == b.slot && (a.engine == b.engine || a.engine.isNone && a.op.updates && b.op.updates)
        && (a.unitsAt h).any fun u => (b.unitsAt l).any fun v => u.cell / 64 == v.cell / 64
    | _, _ => false
  | .access i _, .fetch c k _ =>
    match SMap.get none s.accesses i with
    | some a => a.core == c && a.slot == k && a.engine.isNone && i < (s.slot c k).flushed
    | none => false
  | .word c k ch .., .word d l ch' .. => c == d && k == l && ch == ch'
  | .loan a b .., .loan c d .. => a == c && b == d
  | .classUpdate c _, .classUpdate d _ => c == d
  | _, _ => false

/-- A message follows an earlier one whose order binds it. -/
def State.bound (s : State) (m : Msg) : Bool := s.msgs.any fun x => x.id < m.id && s.keepsOrder x.body m.body

/-! ## Combining (R120, R316) -/

/-- Operations that routers may combine. -/
def AccOp.combines : AccOp → Bool
  | .load => true
  | .atomic .add _ _ => true
  | .atomic .and _ _ => true
  | .atomic .or _ _ => true
  | .atomic .xor _ _ => true
  | .atomic .min _ _ => true
  | .atomic .max _ _ => true
  | _ => false

/-- The word of space 0x2 and the job of a request that may be combined, for an access on its way: a plain load or atomic without an acquire
or release ordering (R120). -/
def State.combineKey (s : State) (b : MsgBody) : Option (Nat × Nat) :=
  match b with
  | .access id home =>
    match SMap.get none s.accesses id with
    | some a =>
      match ((a.parts.find? fun p => p.1 == home).map (·.2)).getD [] with
      | [u] => if a.op.combines && !a.ord && u.cell / 2 ^ 60 = 2 && u.n ≤ 8 && a.job ≠ 0 then some (u.cell / 8, a.job) else none
      | _ => none
    | none => none
  | _ => none

/-- COMBINE_WINDOW_EXPIRY (R120, R316): up to 8 requests of one job to the word of the event's message, which are at most 16 clk apart,
reach the home as one: each takes its place in turn. A request that follows another of its thread to the word is not among them (R109). -/
def execCombineWindowExpiry (s : State) : Out :=
  match s.msgs.find? fun m => m.id == s.ev.id with
  | none => .next s
  | some m =>
    match s.combineKey m.body with
    | none => .next s
    | some key =>
      let group := (s.msgs.filter fun x => s.combineKey x.body == some key && x.due ≤ m.due + 16 && !s.bound x).take 8
      .next (group.foldl (fun s x =>
        match s.takeMsg x.id with
        | (some (.access id home), s) => s.performPart x.id id home
        | (_, s) => s) s)

/-! ## Answers -/

/-- A posted write of a thread has been acknowledged: a thread that waits for that goes on (R131, R161). -/
def State.ackThread (s : State) (cid k : Nat) : State :=
  let t := s.slot cid k
  match t.st with
  | .parked (.posted r c failed) => if t.posted < 16 then s.startAccess cid k r [] c failed else s
  | .parked .exitDrain => if t.posted = 0 then s.goOn cid k .exit else s
  | _ => s

/-- POSTED_WRITE_ACK (R131, R142), for the message that the event names. -/
def execPostedWriteAck (s : State) : Out :=
  match s.takeMsg s.ev.id with
  | (some (.reply id home), s) =>
    match SMap.get none s.accesses id with
    | some a => .next ((s.closePart id home).ackThread a.core a.slot)
    | none => .next s
  | _ => .next s

/-- A request has failed: its thread traps (R13). A failed steal gives up its reservation. -/
def State.takeFailure (s : State) (cid k id cause detail : Nat) : State :=
  let s := s.modCore cid fun c => { c with steals := c.steals.filter fun x => x.1 != id }
  let mine := match (s.slot cid k).st with
    | .parked (.steal n _) => n == id
    | .parked (.reply n ..) => n == id
    | _ => false
  if mine then s.trapEnter cid k cause detail 0 (s.slot cid k).pc false else s

/-- REMOTE_REPLY (R130), for the message that the event names. -/
def execRemoteReply (s : State) : Out :=
  match s.takeMsg s.ev.id with
  | (some (.reply id home), s) => .next (s.closePart id home)
  | (some (.done cid k id x), s) => .next (s.takeReply cid k id x)
  | (some (.failed cid k id c d), s) => .next (s.takeFailure cid k id c d)
  | _ => .next s

/-! ## Held requests (R233, R234) -/

/-- WAITER_RESEND (R233): a request that its home's full table refused is sent again. -/
def execWaiterResend (s : State) : Out :=
  match s.takeMsg s.ev.id with
  | (some (.resend id home), s) =>
    match SMap.get none s.accesses id with
    | some a =>
      let parts := match a.held with
        | some u => (home, [u]) :: a.parts.filter fun p => p.1 != home
        | none => a.parts
      let s := { s with accesses := SMap.set none s.accesses id (some { a with parts, held := none }) }
      if isLocal a.core home then .next (s.performPart s.ev.id id home) else .next (s.send (.access id home))
    | none => .next s
  | _ => .next s

/-- WAITER_CANCEL (R234): a cancellation reaches the home; a request that is not served yet is abandoned (Table 2, row 2). -/
def execWaiterCancel (s : State) : Out :=
  match s.takeMsg s.ev.id with
  | (some (.cancelWaiter id home), s) =>
    match SMap.get none s.accesses id with
    | some a =>
      let served := s.msgs.any fun m => m.body == .reply id home
      if served || !a.waiting.contains home then .next s else .next ((s.dropAccess id).abandon a.core a.slot 2)
    | none => .next s
  | _ => .next s

/-- The end of a clk for the held CCWAIT and CMWAIT requests (R230, R236): those whose condition holds are answered. -/
def State.wakeConcords (s : State) : List (Nat × Nat) → State
  | [] => s
  | (home, id) :: t =>
    match SMap.get none s.accesses id with
    | some a =>
      match a.op, a.held with
      | .ccwait ph, some u =>
        if ccPhase (s.ccRead u.cell).1 != ph % 256 then ((s.dropWaiter id).answer id home [] []).wakeConcords t else s.wakeConcords t
      | .cmwait ph m, some u =>
        if cmHolds (s.ccRead u.cell) m ph then ((s.dropWaiter id).answer id home [] []).wakeConcords t else s.wakeConcords t
      | _, _ => s.wakeConcords t
    | none => s.wakeConcords t

/-! ## Fences (R118, R119) -/

/-- An access of the thread is on its way to a home of the die, or held there. -/
def State.accessPending (s : State) (cid k : Nat) (p : Nat → Bool) : Bool :=
  s.msgs.any fun m => match m.body with
    | .access id home => p home && (match SMap.get none s.accesses id with
        | some a => a.core == cid && a.slot == k
        | none => false)
    | _ => false

/-- An arrival of a request of the thread, on path G for a gather and on path C for any other, is not yet performed (R229). -/
def State.arrivalPending (s : State) (cid k : Nat) (gather : Bool) : Bool :=
  s.accesses.any fun x => x.2.any fun a => a.core == cid && a.slot == k && a.engine.isSome && a.gather == gather

/-- Every earlier event of the thread on a path is performed, as far as the probed die sees it (R118, R119, R396). -/
def State.pathQuiet (s : State) (cid k die : Nat) (path : Path) : Bool :=
  let c := s.core cid
  match path with
  | .t => !s.accessPending cid k fun h => homeDie h == die
  | .c => ((c.copyFifo ++ c.copyBusy).all fun r => r.slot != k || r.op == 1) && !s.arrivalPending cid k false
  | .g => ((c.copyFifo ++ c.copyBusy).all fun r => r.slot != k || r.op != 1) && !s.arrivalPending cid k true
  | .m => (c.mxQueue.all fun j => j.slot != k) && c.mxRun.all fun r => r.job.slot != k
  | .l => (c.lxQueue.all fun j => j.slot != k) && c.lxRun.all fun r => r.job.slot != k
  | .n => !s.accessPending cid k (fun _ => true) && !s.msgs.any fun m => match m.body with
      | .word a b .. => a == cid && b == k
      | _ => false
  | .p => !s.accessPending cid k fun h => 30000 ≤ h && h < 40000

/-- FENCE_PROBE (R118, R119): the die echoes once the thread's earlier events are performed; until then the probe stays. -/
def execFenceProbe (s : State) : Out :=
  match s.takeMsg s.ev.id with
  | (some (.probe cid k die path), s') =>
    if s.pathQuiet cid k die path then .next (s'.send (.echo cid k die path)) else .next s
  | _ => .next s

/-- FENCE_ECHO (R118): the last echo clears the mask and releases the thread. -/
def execFenceEcho (s : State) : Out :=
  match s.takeMsg s.ev.id with
  | (some (.echo cid k die path), s) =>
    match (s.slot cid k).st with
    | .parked (.fence scope pending clears c) =>
      let pending := pending.filter (· != (die, path))
      if !pending.isEmpty then .next (s.modSlot cid k fun t => { t with st := .parked (.fence scope pending clears c) })
      else
        let s := if clears then s.modSlot cid k fun t => { t with touched := 0 } else s
        match c with
        | .go c => .next (s.goOn cid k c)
        | .rerun i => .next (s.goOn cid k (.rerun i))
    | _ => .next s
  | _ => .next s

/-! ## Wake messages (R105, R131, R222) -/

/-- A wake for a copy request that waits on a page (R222). -/
def State.wakeCopy (s : State) (cid id status : Nat) : State :=
  s.modCore cid fun c =>
    { c with copyBusy := c.copyBusy.map fun q =>
        if q.id = id then
          match q.blocked with
          | some a => { q with blocked := none, status := status, lostAt := if status = 0 then q.lostAt else a }
          | none => q
        else q }

/-- A wake for the executing matrix or lexicon instruction. -/
def State.wakeEngine (s : State) (cid id status : Nat) : State :=
  match (s.core cid).mxRun.filter fun r => r.job.id == id && r.blocked.isSome with
  | some r => if status = 0 then s.setMx cid (some { r with blocked := none }) else s.mxLost cid r status (r.blocked.getD 0)
  | none =>
    match (s.core cid).lxRun.filter fun r => r.job.id == id && r.blocked.isSome with
    | some r =>
      if status = 0 then (s.modCore cid fun c => { c with lxRun := some { r with blocked := none } }).lxGo cid
      else s.lxLost cid r status (r.blocked.getD 0)
    | none => s.wakeCopy cid id status

/-- A wake for a thread. -/
def State.wakeThread (s : State) (cid k status : Nat) : State :=
  let t := s.slot cid k
  match t.st with
  | .parked (.pageFault a) =>
    if status = 0 then s.modSlot cid k fun t => { t with st := .ready }
    else (s.dropReserved cid k).trapEnter cid k cPage status a t.pc false
  | .parked (.postedFault ask failed _) =>
    let now_ := failed.getLast?
    let ask := if status = 0 then ask else { ask with elems := ask.elems.filter fun e => !now_.any fun r => r.idx == e.1 }
    let failed := failed.dropLast ++ (if status = 0 then [] else (now_.map fun r => { r with detail := status }).toList)
    match s.checkAsk cid k ask with
    | (s, .ok r) => s.startAccess cid k r [] (.go t.pc) failed
    | (s, .fault idx reason at_) =>
      (s.report { die := Config.coreDie cid, core := cid, slot := k, cause := cPage, detail := reason, addr := at_ }).park cid k (.postedFault ask (failed ++ [⟨idx, cPage, reason, at_⟩]) at_)
    | (s, .consumed cell) => s.consumeError cell
    | (s, .trap e) =>
      let s := s.modSlot cid k fun t => { t.addReport ⟨s.nextAcc, e.cause, e.detail, e.addr⟩ with st := .ready }
      { s with nextAcc := s.nextAcc + 1 }
  | .parked (.treeWrite a es vals) =>
    if status = 0 then s.finishResult cid k a es vals
    else (s.resultFailed cid k ((t.occ.map (·.uid)).getD 0) cPage status a).goOn cid k (.go t.npc)
  | .parked (.stopping _) => s.modSlot cid k fun t => { t with wakeStatus := some status, wakePc := t.pc, wakeMode := hmode t.flags }
  | .stopped =>
    let m := SMap.get [] s.images (s.imageKey cid k)
    let w := BitVec.ofNat 64 (wfield (SMap.get 0 m 56).toNat 0 2 + 4 + status % 256 * 256 + wfield (SMap.get 0 m 56).toNat 16 8 * 65536)
    { s with images := SMap.set [] s.images (s.imageKey cid k) (SMap.set 0 m 56 w) }
  | _ => s

/-! ## The persistence engine -/

/-- Granule writes that an acceptance queue holds (R382). -/
def queueRoom : Nat := 8192

/-- Granules that a part of an access would enter. -/
def granulesOf (us : List AUnit) : Nat := (us.map fun u => (u.cell % 16 + u.n + 15) / 16).sum

/-- PERSIST_ACCEPT (R378 to R382), for the message that the event names: the controller accepts the write, or the queue is full and it
waits on the link. -/
def execPersistAccept (s : State) : Out :=
  match s.msgs.find? fun m => m.id == s.ev.id with
  | some ⟨_, _, .access id home⟩ =>
    let units := ((SMap.get none s.accesses id).bind fun a => (a.parts.find? fun p => p.1 == home).map (·.2)).getD []
    if (SMap.get [] s.nvq (home - 30000)).length + granulesOf units ≤ queueRoom then s.accessEvent else .next s
  | _ => .next s

/-- MEDIA_WRITE (R382): the controller of stack `id` writes its oldest accepted granule to the media. -/
def execMediaWrite (s : State) : Out :=
  .next { s with nvq := SMap.set [] s.nvq s.ev.id ((SMap.get [] s.nvq s.ev.id).drop 1) }

/-- Sends a request to the sequence home; its thread parks for the reply (rows 17 and 18). -/
def State.askSeq (s : State) (d : G) (row kind : Nat) : State :=
  let cid := s.cur.core
  let k := s.cur.slot
  let q := s.request
  (q.2.park cid k (.reply q.1 row (some d) (.go s.me.npc))).send (.seq cid k q.1 s.me.tag kind)

/-- PBAR (R391). -/
def execPbar (d : G) (sg : S) (s : State) : Out :=
  if lacks rPersist (segRights s.me.s[sg]) then .next (s.trapMe (ownTrap cSegment 0x12 0))
  else .next (s.fenceThen .dur (.pbar d sg) fun s => s.askSeq d 18 0)

/-- PSEQ (R393). -/
def execPseq (d : G) (s : State) : Out := .next (s.askSeq d 17 1)

/-- PLOSS (R394). -/
def execPloss (d : G) (sel : Fin 4) (s : State) : Out := .next (s.askSeq d 17 (2 + sel.val))

/-- SEQ_INCREMENT (R387), for the message that the event names; while the home's die is fenced off it waits. -/
def execSeqIncrement (s : State) : Out :=
  match s.takeMsg s.ev.id with
  | (some (.seq cid k id tag 0), s') =>
    if (s.die s.seqDie).fenced then .next s
    else
      let x := if seqTag tag then SMap.get 0 s.dseq tag + 1 else 0
      let s' := if seqTag tag then { s' with dseq := SMap.set 0 s'.dseq tag x } else s'
      .next (s'.send (.done cid k id x))
  | _ => .next s

end Sys2Proof.Machine
end

