-- ==== Sys2Proof/Machine/Contain.lean ====
section
/-!
DEFINITION. Containment of a core, restart of its clauses, and the end of a job (R402 to R405, R340, R346).
-/
namespace Sys2Proof.Machine

/-- A thread leaves its slot without ending its clause: its open packets close (R141), what it has under way no longer concerns it, and
what the engines hold for it goes. -/
def State.dropThread (s : State) (cid k : Nat) : State :=
  let t := s.slot cid k
  let s := ((s.performLeft cid k fun _ => true).dropReserved cid k).closePackets cid k
  let uid := (t.occ.map (·.uid)).getD 0
  let mine := s.accesses.filterMap fun x => x.2.bind fun a => if a.core = cid && a.slot = k && a.engine.isNone then some (x.1, a) else none
  let s := mine.foldl (fun s x =>
    if s.waiters.any fun w => w.2 == x.1 then s.dropAccess x.1
    else { s with accesses := SMap.set none s.accesses x.1 (some { x.2 with engine := some uid, counted := false }) }) s
  let s := s.modCore cid fun c =>
    { c with
      mxQueue := c.mxQueue.filter fun j => j.slot != k
      mxRun := c.mxRun.filter fun r => r.job.slot != k
      lxQueue := c.lxQueue.filter fun j => j.slot != k
      lxRun := c.lxRun.filter fun r => r.job.slot != k }
  let s := s.modSlot cid k fun t =>
    { t with
      st := .free, occ := none, explicit := 0, buf := [], want := none, pre := none, retry := false, stopReq := none, reports := []
      homeHold := false, touched := 0, posted := 0, banks := { }, halves := [], stash := [], wakeStatus := none, abandoned := 0 }
  let s := s.leaveTrees cid k
  (s.tellBroker cid).answerCtxsv cid k none 1

/-- RESTART (R404): a clause enters a ready queue again from the copy of its record; its counter does not change. -/
def State.restart (s : State) (o : Occ) (sn : Nat) : State :=
  s.enqueueAt sn ⟨o.job, .again o, o.prio, s.clk, sn, o.phase⟩

/-- A clause of a retired tile restarts at the ring successor (R404, R346). Where its job has no tile left, it is reported and lost. -/
def State.restartAway (s : State) (o : Occ) (sn : Nat) : State :=
  match s.fitTile o.job sn false with
  | some (t, _) => s.restart o t
  | none => s.report ⟨Config.dieOf sn, sn, 0, 0, 0, o.code, none⟩

/-- The entries of a retired tile move to the ring successors of their jobs in queue order, taking new enqueue clks in that order (R346). -/
def State.moveEntries (s : State) (sn : Nat) (q : List QEntry) : State :=
  (q.zip (List.range q.length)).foldl (fun s x =>
    match s.fitTile x.1.job sn false with
    | some (t, _) => s.enqueueAt t { x.1 with clk := s.clk + x.2 }
    | none => s.modCore sn fun c => { c with ready := c.ready ++ [x.1] }) s

/-- An out channel of a contained core is sealed (R403): words under way are lost, an open packet ends as it stands, and where the receiver's
in channel is bound to it, an error message takes the place of the next word. -/
def State.sealChannel (s : State) (cid k ch : Nat) : State :=
  let c := (s.slot cid k).ch ch
  if !chOut c then s
  else
    let s := { s with msgs := s.msgs.filter fun m => !m.body.isWordOf cid k ch }
    let dst := cellTile (chField c 0 32)
    let dslot := chField c 54 4
    let dch := chField c 58 3
    let back := (s.slot dst dslot).ch dch
    let bound := chIn back && cellTile (chField back 0 32) == cid && chField back 54 4 == k && chField back 58 3 == ch
    let open_ := (s.core dst).pkts.filter fun p => p.src == cid && p.slot == dslot && p.ch == dch && !p.ended && !p.err
    let s := open_.foldl (fun s p => s.endPkt dst p) s
    let q := s.request
    let note : Pkt :=
      { id := q.1, slot := dslot, ch := dch, job := (s.slot cid k).tag, words := [], count := 0, read := 0, ended := false, overAt := none
        src := cid, err := true }
    let s := if bound then q.2.modCore dst fun x => { x with pkts := x.pkts ++ [note] } else s
    s.wakeReceiver dst dslot dch

/-- The out channels of every slot of a contained core are sealed; those of a free slot are the ones that its last clause left bound. -/
def State.sealChannels (s : State) (cid : Nat) : State :=
  (List.range 16).foldl (fun s k => (List.range 8).foldl (fun s ch => s.sealChannel cid k ch) s) s

/-- Requests held at a contained tile are answered with an error message (R13, R403). -/
def State.failHeld (s : State) (cid : Nat) : State :=
  (s.waiters.filter fun w => w.1 == cid).foldl (fun s w =>
    let u := (SMap.get none s.accesses w.2).bind (·.held)
    (s.dropWaiter w.2).answer w.2 cid [] [⟨(u.map (·.idx)).getD 0, cContained, 0x62, (u.map (·.va)).getD 0⟩]) s

/-- The operations of a contained core's trees fail at every member (R403). -/
def State.failTrees (s : State) (cid : Nat) : State :=
  (List.range 4).foldl (fun s t =>
    let x := s.tree cid t
    if !x.member then s
    else
      let s := s.treeFailed cid t x.no cContained 0x62
      -- neighbours that have gone on without it learn of it too
      (x.children.map (·.2) ++ if x.root then [] else [coreOfBase x.parent]).foldl (fun s n => s.treeGo n t 32) s) s

/-- What a contained tile held leaves it (R403): its copy requests are abandoned, its clauses restart elsewhere, its queue and its phrases
move to the ring successor. -/
def State.emptyTile (s : State) (cid : Nat) : State :=
  let s := s.dropCopies cid fun _ => true
  let occs := (List.range 16).filterMap fun k => if (s.slot cid k).st = .free then none else some (k, (s.slot cid k).occ)
  let s := occs.foldl (fun s x => s.dropThread cid x.1) s
  let s := s.modCore cid fun c => { c with mxQueue := [], mxRun := none, lxQueue := [], lxRun := none, steals := [] }
  let q := (s.core cid).ready
  let s := (s.modCore cid fun c => { c with ready := [] }).moveEntries cid q
  let s := occs.foldl (fun s x => match x.2 with
    | some o => if o.job = 0 then s else s.restartAway { o with uid := 0 } cid
    | none => s) s
  let ps := (s.core cid).deque
  (s.modCore cid fun c => { c with deque := [] }).movePhrases cid ps

/-- An entry of the field retirement log (R408); a full log adds nothing more. -/
def State.logEntry (s : State) (tile column cause : Nat) : State :=
  if s.fieldLog.length < 1024 then { s with fieldLog := s.fieldLog ++ [⟨tile, column, cause, s.bootCount⟩] }
  else { s with logFull := true }

/-- A contained tile is placed on the pending list, or with a full list in the field log (R409). -/
def State.addPending (s : State) (cid cause : Nat) : State :=
  if s.pending.any fun p => p.1 == cid then s
  else if s.pending.length < 256 then { s with pending := s.pending ++ [(cid, cause)] }
  else s.logEntry cid 0xFF cause

/-- CONTAINMENT of a core that is dead from now on (R403), with its cause: 0x02 checker, 0x03 known-answer tester, 0x04 uncorrectable
error, 0x05 die fenced. -/
def State.containDead (s : State) (cid cause : Nat) : State :=
  let s := s.event 0x01 (Config.coreDie cid) (coreBase cid) (BitVec.ofNat 64 cause)
  -- a core error that the known-answer tester finds goes to the die's supervisor core too (R128)
  let s := if cause = 0x03 then s.report ⟨Config.coreDie cid, cid, 0, cContained, 0, coreBase cid, none⟩ else s
  if isSup cid then
    (List.range 16).foldl (fun s k => if (s.slot cid k).st = .free then s else s.dropThread cid k) (s.dropCopies cid fun _ => true)
  else
    let s := if cause = 0x05 then s else s.addPending cid cause
    let s := s.sealChannels cid
    let s := s.failHeld cid
    let s := s.failTrees cid
    let s := s.emptyTile cid
    (s.modCore cid fun c => { c with grant := 0, extra := 0, short := 0, queuedAt := none, notices := [] }).settleZone (Config.dieOf cid)

/-- Containment of one core (R403), as one step: the tile becomes dead for this boot. -/
def State.contain (s : State) (cid cause : Nat) : State :=
  if isSup cid then s.containDead cid cause
  else if s.isDead cid then s
  else ({ s with dead := s.dead ++ [cid] }).containDead cid cause

/-- A die is fenced off (R399, R340, R370): its cores are contained, its loans end, its distributors drop out. -/
def State.fenceDie (s : State) (die : Nat) : State :=
  if (s.die die).fenced then s
  else
    let tiles := ((List.range 192).map (192 * die + ·)).filter fun sn => !s.isDead sn
    let s := { s with dead := s.dead ++ tiles }.modDie die fun d => { d with fenced := true, cmd := none, timer := none }
    let s := s.endLoans die
    let s := tiles.foldl (fun s sn => s.containDead sn 0x05) s
    let s := s.containDead (Config.supCore die) 0x05
    s.jobs.foldl (fun s j => (s.launchesOf j.1).foldl (fun s l => s.loseDie j.1 l.1 die) s) s

/-- ENDING A JOB (R405): its clauses stop without being saved, its queued work goes, its counters are 0 and its cancelled bits set. -/
def State.endJob (s : State) (tag : Nat) : State :=
  let s := s.cores.foldl (fun s x =>
    let mine := (List.range 16).filter fun k => (x.2.slot k).st != .free && (x.2.slot k).tag == tag
    let s := mine.foldl (fun s k => s.dropThread x.1 k) s
    let s := s.dropCopies x.1 fun r => r.job == tag
    s.modCore x.1 fun c => { c with ready := c.ready.filter fun e => e.job != tag }) s
  let done (x : Nat × Option Launch) : Nat × Option Launch := (x.1, x.2.map fun l =>
    { l with counter := 0, cancelled := true, counted := false, next := dCount l.desc, back := [], held := [], ranges := [] })
  let s := s.modJob tag fun j => { j with recs := [], launches := j.launches.map done, cancelled := true }
  let s := { s with cancels := s.cancels.filter fun c => c.job != tag }
  s.event 0x02 0 0 (BitVec.ofNat 64 tag)

/-- An uncorrectable error that the scrubber finds (R402): the line is poisoned, the job that owns it ends, and the event is reported. -/
def State.poisonLine (s : State) (a : Nat) : State :=
  let tag := (s.line a).tag.toNat
  let space := a / 2 ^ 60
  let shown := if space = 0 then a / 64 * 64 else space * 2 ^ 60 + a % 2 ^ 60 / 64 * 64
  let s := s.modLine a fun m => { m with poisoned := true }
  let s := s.event 0x08 (homeDie (s.homeOf a)) (if space = 0 then Config.tileBase (cellTile a) else 0) (BitVec.ofNat 64 shown)
  if 1 ≤ tag && tag ≤ 254 then s.endJob tag else s

/-- SCRUB (R401, R402), for the cell that the event names. -/
def execScrub (s : State) : Out :=
  let a := s.ev.addr.toNat
  let s := s.correctBytes (a / 64 * 64) 64
  if (s.line a).double != 0 && !(s.line a).poisoned then .next (s.poisonLine a) else .next s

/-- MEMORY_ERROR (R98, R100): an error arises in the 8-byte word of the cell that the event names, or with `more` in the metadata of its
line. `flag`: SEC-DED cannot correct it; nor can it correct a second error of a word. -/
def execMemoryError (s : State) : Out :=
  let a := s.ev.addr.toNat
  let w : BitVec 9 := if s.ev.more then 0x100 else BitVec.ofNat 9 (2 ^ (a % 64 / 8))
  .next (s.modLine a fun m =>
    if s.ev.flag || (m.single ||| m.double) &&& w != 0 then { m with single := m.single &&& ~~~w, double := m.double ||| w }
    else { m with single := m.single ||| w })

end Sys2Proof.Machine
end

