-- ==== Sys2Proof/Machine/Supervisor.lean ====
section
/-!
DEFINITION. The command block of a supervisor engine (R398, R399): each command's operands, checks and effect; job context records
(R400); the event ring's register form is with the registers.
-/
namespace Sys2Proof.Machine

/-! ## The command block (R398) -/

/-- Operand i of the command that a die carries out. -/
def State.cmdOp (s : State) (die i : Nat) : Word := (((s.die die).cmd.map fun c => c.2.toList).getD []).getD i 0

/-- A command ends with a result. -/
def State.cmdDone (s : State) (die result : Nat) : Out := .next (s.modDie die fun d => { d with cmd := none, result })

/-- A die carries out a command of a code. -/
def State.cmdIs (s : State) (die code : Nat) : Bool := (s.die die).cmd.any fun c => c.1 == code

/-- A write of cmd (R398): it starts a command, or is lost while one is carried out. -/
def State.giveCommand (s : State) (die : Nat) (x : Word) : State :=
  s.modDie die fun d =>
    match d.cmd with
    | some _ => { d with lost := true }
    | none => { d with cmd := some (x.toNat / 2 ^ 56, d.op) }

/-- COMMAND_UNASSIGNED (R399): codes 0x00 and 0x0D to 0xFF. -/
def execCommandUnassigned (s : State) : Out :=
  if (s.die s.ev.core).cmd.any fun c => c.1 == 0 || c.1 ≥ 0x0D then s.cmdDone s.ev.core 3 else .next s

/-! ## TAG, TBINV, SAVEAREA -/

/-- The cell of a physical line address of spaces 0x0 to 0x3 (R397, R399), if it lies in its region and names no dead tile. -/
def State.physLine (s : State) (a : Nat) : Option Nat :=
  let off := a % 2 ^ 60
  match a / 2 ^ 60 with
  | 0 =>
    match s.sramPlace a with
    | .ok c => some c
    | .error _ => none
  | 1 => if off + 64 ≤ s.linSize then some (linCell off) else none
  | 2 => if off + 64 ≤ s.hashSize then some (hashCell off) else none
  | 3 => if off + 64 ≤ nvSize then some (nvCell off) else none
  | _ => none

/-- Sets the owner tag of lines; a TAG of a poisoned line opens it to the supervisor core's clearing write (R402). -/
def State.tagLines (s : State) (a tag : Nat) : Nat → State
  | 0 => s
  | n + 1 =>
    (match s.physLine a with
      | some c => s.modLine c fun m =>
          { m with tag := BitVec.ofNat 8 tag, wiped := if m.poisoned then some 0 else m.wiped
                   single := m.single &&& 0xFF, double := m.double &&& 0xFF }
      | none => s).tagLines (a + 64) tag n

/-- Every line of a range is one that TAG may set. -/
def State.linesOk (s : State) (a : Nat) : Nat → Bool
  | 0 => true
  | n + 1 => (s.physLine a).isSome && s.linesOk (a + 64) n

/-- TAG (R399). -/
def execTag (s : State) : Out :=
  let die := s.ev.core
  let a := (s.cmdOp die 0).toNat
  let n := (s.cmdOp die 1).toNat
  if !s.cmdIs die 0x01 then .next s
  else if a % 64 != 0 || n = 0 || n > 2 ^ 32 || !s.linesOk a n then s.cmdDone die 1
  else (s.tagLines a ((s.cmdOp die 2).toNat % 256) n).cmdDone die 0

/-- TBINV (R106, R399). -/
def execTbinv (s : State) : Out :=
  let die := s.ev.core
  let c := (s.cmdOp die 0).toNat % 256
  let job := (s.cmdOp die 2).toNat % 256
  if !s.cmdIs die 0x02 then .next s
  else if c ≥ 128 && c != 0xFF then s.cmdDone die 1
  else ({ s with tlb := s.tlb.filter fun e => !((c == 0xFF || e.clu == c) && e.job == job) }).cmdDone die 0

/-- The core and slot that an operand "tile base OR slot" names. -/
def State.slotOperand (s : State) (x : Word) : Option (Nat × Nat) :=
  if x.toNat / 2 ^ 60 != 0 || wfield x.toNat 4 14 != 0 then none
  else
    match s.sramPlace (x.toNat / 2 ^ 18 * 2 ^ 18) with
    | .ok a => some (cellTile a, x.toNat % 16)
    | .error _ => none

/-- SAVEAREA (R143, R399). -/
def execSavearea (s : State) : Out :=
  let die := s.ev.core
  let a := (s.cmdOp die 1).toNat
  if !s.cmdIs die 0x03 then .next s
  else
    match s.slotOperand (s.cmdOp die 0) with
    | none => s.cmdDone die 1
    | some (cid, k) =>
      if a % 8192 != 0 || a + 8192 > s.linSize then s.cmdDone die 1
      else ({ s with saveAreas := SMap.set 0 s.saveAreas (ctxKey cid k) (a + 1) }).cmdDone die 0

/-! ## JOBCTX (R400) -/

/-- The allocation that a record names: every tile, or the source numbers that its map marks; no answer where the map cannot be read. -/
def State.readAlloc (s : State) (r : Nat) : State × Option (Option (List Nat)) :=
  if dField r 405 1 = 1 then (s, some none)
  else
    match s.ownRead (linCell (dField r 406 42 * 64)) 1536 with
    | (s, some m) => (s, some (some ((List.range Config.tiles).filter fun sn => m.testBit sn)))
    | (s, none) => (s, none)

/-- The refusals of a record (R400). -/
def State.ctxBad (s : State) (r tag : Nat) : Bool :=
  let plimit := dField r 64 32
  let pbase := dField r 144 48
  let amap := dField r 406 42 * 64
  let aall := dField r 405 1 == 1
  tag == 0 || tag == 0xFF || dField r 389 16 != 0 || dField r 129 15 != 0 || dField r 96 32 != 0
    || dField r 384 5 < 10 || dField r 384 5 > 20
    || plimit % 2 ^ 16 != 0 || plimit < 2 ^ 16 || plimit > 2 ^ 24
    || pbase % 2 ^ 16 != 0 || pbase + 196608 * plimit > 2 ^ 48
    || (aall && amap != 0) || (!aall && amap + 1536 > s.linSize)

/-- A tag is bound to the record of bytes `r` (R331, R400): the open phase and the counters of graph, phase and job become 0, and the
cancelled bits clear. -/
def State.bindTag (s : State) (tag a r : Nat) (alloc : Option (List Nat)) : State :=
  s.modJob tag fun j =>
    { j with
      ctx := some (ctxOf a r alloc), openPhase := 0, cancelledGraphs := [], cancelledPhases := [], cancelled := false
      launches := j.launches.map fun x => (x.1, x.2.map fun l => { l with counted := false }) }

/-- JOBCTX (R399, R400). A record or a map that shows an uncorrectable error is refused (log 79). -/
def execJobctx (s : State) : Out :=
  let die := s.ev.core
  let a := (s.cmdOp die 0).toNat
  let tag := (s.cmdOp die 2).toNat % 256
  if !s.cmdIs die 0x04 then .next s
  else if a % 64 != 0 || a + 64 > s.linSize then s.cmdDone die 1
  else
    match s.ownRead (linCell a) 64 with
    | (s, none) => s.cmdDone die 1
    | (s, some r) =>
      if s.ctxBad r tag then s.cmdDone die 1
      else
        match s.readAlloc r with
        | (s, some alloc) => (s.bindTag tag a r alloc).cmdDone die 0
        | (s, none) => s.cmdDone die 1

/-! ## ENGSV and ENGLD (R399) -/

/-- Words of an engine save area: 32 KiB. -/
def engWords : Nat := 4096

/-- The matrix and lexicon state of a core. -/
def Core.engImage (c : Core) : EngImage :=
  { mxActive := c.mxActive, mxShadow := c.mxShadow, acc := c.acc, mxSticky := c.mxSticky, hf := c.hf, lt := c.lt, rh := c.rh,
    lxSticky := c.lxSticky }

/-- A core with an engine state loaded. -/
def Core.loadEng (c : Core) (e : EngImage) : Core :=
  { c with
    mxActive := e.mxActive, mxShadow := e.mxShadow, acc := e.acc, mxSticky := e.mxSticky, hf := e.hf, lt := e.lt, rh := e.rh
    lxSticky := e.lxSticky }

/-- The engines of a core are idle. -/
def Core.enginesIdle (c : Core) : Bool := c.mxQueue.isEmpty && c.mxRun.isNone && c.lxQueue.isEmpty && c.lxRun.isNone

/-- The words of an area of linear HBM; no answer where it shows an uncorrectable error. -/
def State.areaWords (s : State) (a n : Nat) : State × Option (List Word) :=
  match s.ownRead (linCell a) (8 * n) with
  | (s, some x) => (s, some (wordsOf n x))
  | (s, none) => (s, none)

/-- Free words for an area whose layout the spec does not state. -/
def State.drawWords (s : State) : Nat → List Word × State
  | 0 => ([], s)
  | n + 1 =>
    let d := s.drawWord
    let r := d.2.drawWords n
    (d.1 :: r.1, r.2)

/-- The tile of an ENGSV or ENGLD command and its area, if its operands are allowed. -/
def State.engOperands (s : State) (die : Nat) : Option (Nat × Nat) :=
  let a := (s.cmdOp die 1).toNat
  match s.tileBaseBad (s.cmdOp die 0) with
  | some _ => none
  | none =>
    let cid := cellTile (s.cmdOp die 0).toNat
    if a % 32768 != 0 || a + 32768 > s.linSize || !(s.core cid).enginesIdle then none else some (cid, a)

/-- ENGSV (R399): the area's layout is not stated, so its words are free, and what they stand for is kept. A line that cannot be written,
being poisoned, is a consumed error (R402), and the command is refused (log 79). -/
def execEngsv (s : State) : Out :=
  let die := s.ev.core
  if !s.cmdIs die 0x05 || (s.cmdOp die 2).getLsbD 0 then .next s
  else
    match s.engOperands die with
    | none => s.cmdDone die 1
    | some (cid, a) =>
      match (linePieces (linCell a) 32768).find? fun p => s.badBytes p.1 p.2 .write with
      | some p => (s.consumeError p.1).cmdDone die 1
      | none =>
      let r := s.drawWords engWords
      let s := (r.1.zip (List.range engWords)).foldl (fun s x => s.writePlain (linCell (a + 8 * x.2)) 8 x.1.toNat) r.2
      ({ s with engImages := (a, r.1, (s.core cid).engImage) :: s.engImages.filter fun x => x.1 != a }).cmdDone die 0

/-- ENGLD (R399): an area that still holds what ENGSV wrote gives that state back; any other words stand for a free state. -/
def execEngld (s : State) : Out :=
  let die := s.ev.core
  if !s.cmdIs die 0x05 || !(s.cmdOp die 2).getLsbD 0 then .next s
  else
    match s.engOperands die with
    | none => s.cmdDone die 1
    | some (cid, a) =>
      match s.areaWords a engWords with
      | (s, none) => s.cmdDone die 1
      | (s, some ws) =>
        let e := match s.engImages.find? fun x => x.2.1 == ws with
          | some x => x.2.2
          | none => Config.engineState ws
        (s.modCore cid (·.loadEng e)).cmdDone die 0

/-! ## SLOT (R399, R404) -/

/-- The stopped clause that a SLOT command names. -/
def State.stoppedSlot (s : State) (die action : Nat) : Option (Nat × Nat) :=
  if !s.cmdIs die 0x06 || (s.cmdOp die 2).toNat % 4 != action then none
  else (s.slotOperand (s.cmdOp die 0)).filter fun x => (s.slot x.1 x.2).st == .stopped

/-- A SLOT command of this action is under way. -/
def State.slotCommand (s : State) (die action : Nat) : Bool := s.cmdIs die 0x06 && (s.cmdOp die 2).toNat % 4 == action

/-- SLOT_END (R161, R399): a stopped clause ends as by EXIT; the device closes its open packets as they stand (R141). -/
def execSlotEnd (s : State) : Out :=
  let die := s.ev.core
  match s.stoppedSlot die 0 with
  | some (cid, k) =>
    ((s.closePackets cid k).endThread cid k).cmdDone die 0
  | none => if s.slotCommand die 0 then s.cmdDone die 1 else .next s

/-- SLOT_RESTORE (R146, R399). -/
def execSlotRestore (s : State) : Out :=
  let die := s.ev.core
  match s.stoppedSlot die 1 with
  | some (cid, k) => (s.restoreSlot cid k).cmdDone die 0
  | none => if s.slotCommand die 1 then s.cmdDone die 1 else .next s

/-- SLOT_RESTART (R399, R404): a stopped clause of a live tile enters that tile's ready queue again. The action code 3 is refused. -/
def execSlotRestart (s : State) : Out :=
  let die := s.ev.core
  match s.stoppedSlot die 2 with
  | some (cid, k) =>
    match (s.slot cid k).occ with
    | some o => ((s.dropThread cid k).restart { o with uid := 0 } cid).cmdDone die 0
    | none => s.cmdDone die 1
  | none => if s.slotCommand die 2 || s.slotCommand die 3 then s.cmdDone die 1 else .next s

/-! ## FENCE, HOME, SHUTDOWN, TIMER, SERVICE, START -/

/-- FENCE (R399). -/
def execFenceCommand (s : State) : Out :=
  let die := s.ev.core
  let x := (s.cmdOp die 0).toNat % 64
  if !s.cmdIs die 0x07 then .next s else (s.fenceDie x).cmdDone die 0

/-- HOME (R387, R399). -/
def execHome (s : State) : Out :=
  let die := s.ev.core
  let x := (s.cmdOp die 0).toNat % 64
  if !s.cmdIs die 0x08 then .next s
  else if !((List.range 8).any fun n => Config.nvDie n == x) || (s.die x).fenced then s.cmdDone die 1
  else ({ s with seqDie := x }).cmdDone die 0

/-- Every clause that is ready or parked has ended, and every acceptance queue is drained (R412). -/
def State.quiesced (s : State) : Bool :=
  s.nvq.isEmpty && s.cores.all fun x => isSup x.1 || x.2.slots.toList.all fun t => t.st == .free || t.st == .stopped

/-- SHUTDOWN (R412): clause starts stop at once; the command ends when it has drained the queues, and sets the orderly mark. -/
def execShutdown (s : State) : Out :=
  let die := s.ev.core
  if !s.cmdIs die 0x09 then .next s
  else
    let s := { s with closed := true }
    if s.quiesced then ({ s with orderly := true }).cmdDone die 0 else .next s

/-- clk of a microsecond (R5). -/
def clkPerUs : Nat := 2100

/-- TIMER (R399). -/
def execTimer (s : State) : Out :=
  let die := s.ev.core
  let n := (s.cmdOp die 0).toNat
  if !s.cmdIs die 0x0A then .next s
  else if n ≥ 2 ^ 32 then s.cmdDone die 1
  else (s.modDie die fun d => { d with timer := if n = 0 then none else some (s.clk + n * clkPerUs) }).cmdDone die 0

/-- SERVICE (R411): a field log entry is removed, or a mismatch of the signature, the device, the boot count or the entry refuses the command.
What a signed command's body names is a free value of its words, of which the command may have as many as an ENGSV area, up to the end of
the region. -/
def execService (s : State) : Out :=
  let die := s.ev.core
  if !s.cmdIs die 0x0B then .next s
  else
    let a := (s.cmdOp die 0).toNat
    let n := min engWords ((s.linSize - a) / 8)
    match if n = 0 then (s, some []) else s.areaWords a n with
    | (s, none) => s.cmdDone die 2
    | (s, some ws) =>
      match Config.serviceBody ws with
      | none => s.cmdDone die 2
      | some b =>
        if b.device = deviceId && b.boot = s.bootCount && s.fieldLog.contains b.entry then
          ({ s with fieldLog := s.fieldLog.erase b.entry }).cmdDone die 0
        else s.cmdDone die 2

/-- START (R351, R399): on completion op0 holds the handle. Operands that show an uncorrectable error are refused (log 79). The segment
registers are made from the image as R89 lays them out. -/
def execStart (s : State) : Out :=
  let die := s.ev.core
  let a := (s.cmdOp die 0).toNat
  let b := (s.cmdOp die 1).toNat
  let tag := (s.cmdOp die 2).toNat % 256
  if !s.cmdIs die 0x0C then .next s
  else if a % 64 != 0 || a + 64 > s.linSize || b + 128 > s.linSize || (s.job tag).ctx.isNone then s.cmdDone die 1
  else
    match s.ownRead (linCell a) 64 with
    | (s, none) => s.cmdDone die 1
    | (s, some desc) =>
      if (s.launchBad tag (Config.supCore die) desc).isSome then s.cmdDone die 1
      else
        match s.ownRead (linCell b) 128 with
        | (s, none) => s.cmdDone die 1
        | (s, some segs) =>
          let r := s.createLaunch tag (Config.supCore die) 0 desc ((List.range 8).map fun i => segReg (BitVec.ofNat 128 (segs / 2 ^ (128 * i))))
          (r.2.modDie die fun d => { d with op := d.op.set 0 r.1 }).cmdDone die 0

/-- TIMER_EXPIRY (R376, R399): the supervisor core of die `core` is woken. -/
def execTimerExpiry (s : State) : Out :=
  let die := s.ev.core
  match (s.die die).timer with
  | some t =>
    if s.clk < t then .next s
    else
      let cid := Config.supCore die
      let s := s.modDie die fun d => { d with timer := none }
      let s := (List.range 16).foldl (fun s k => (s.wakeSlot cid 0 k).1) s
      if s.powerState = 1 || s.powerState = 2 then .next { s with exitAt := some (s.exitAt.getD s.clk) } else .next s
  | none => .next s

end Sys2Proof.Machine
end

