-- ==== Sys2Proof/Machine/Device.lean ====
section
/-!
DEFINITION. The device as its hosts see it: register writes (R87, R293, R360, R388, R398, R406, R414, R415), host accesses (R419), the
ownership semaphore, attestation (R417), power states (R375 to R377), interruptions and boots (R383 to R389, R406 to R411), and the
wake messages of the supervisor software (R105).
-/
namespace Sys2Proof.Machine

/-! ## Register writes -/

/-- A write of a network register (R293). -/
def State.netWrite (s : State) (cid o : Nat) (x : Word) : State :=
  if o = 0 then s.modCore cid fun c => { c with role := x.toNat % 4 }
  else if o = 0x10 then s.modCore cid fun c => { c with ovf := x &&& 0x800000000003E000 }
  else if 0x100 ≤ o && o < 0x200 then
    s.modCore cid fun c => { c with roleTab := SMap.set 0 c.roleTab ((o - 0x100) / 8) (x &&& 0xDFE00000FFFFFFFF) }
  else if 0x200 ≤ o && o < 0x220 then
    s.modCore cid fun c => { c with win := c.win.set (Fin.ofNat 4 ((o - 0x200) / 8) : Fin 4) (x &&& 0xE001FFFFFF) }
  else if 0x300 ≤ o && o < 0x500 then
    let t := (o - 0x300) / 0x80
    match o % 0x80 / 8 with
    | 0 => s.modTree cid t fun r => { r with cfg := x &&& 0xF3 }
    | 1 => s.modTree cid t fun r => { r with parent := x &&& 0xFFFC0000 }
    | n => if n < 10 then s.modTree cid t fun r => { r with kids := SMap.set 0 r.kids (n - 2) (x &&& 0xFFFC0000) } else s
  else s

/-- A write of a register of the sequence home (R388). -/
def State.homeWrite (s : State) (o : Nat) (x : Word) : State :=
  let t := o % 0x800 / 8
  if t = 0 || t ≥ 255 then s
  else
    match o / 0x800 with
    | 0 => { s with dseq := SMap.set 0 s.dseq t x }
    | 1 => { s with lseq := SMap.set 0 s.lseq t x }
    | 2 => { s with lword := SMap.set 0 s.lword t (x &&& 0x1FFFFFFFFFF) }
    | _ => s

/-- A write of the command block (R398). -/
def State.commandWrite (s : State) (die o : Nat) (x : Word) : State :=
  if o = 0 then s.giveCommand die x
  else if o ≤ 0x18 then s.modDie die fun d => { d with op := d.op.setIfInBounds (o / 8 - 1) x }
  else if x.getLsbD 8 then s.modDie die fun d => { d with lost := false }
  else s

/-- A write comes from the port that owns the device (R415). -/
def State.owns (s : State) (port : Option Port) : Bool := port.isSome && port == s.owner

/-- Boot control may be written: by either port in Hold or before reset is released, else by the owning port (R406, R415). -/
def State.mayWriteBoot (s : State) (port : Option Port) : Bool := port.isSome && (s.bootState != .ready || port == s.owner)

/-- A write of die 0's own registers (R375, R406, R414, R415, R417). Registers with behaviour of their own act at once, as the next move
of the schedule. -/
def State.rootWrite (s : State) (port : Option Port) (off : Nat) (x : Word) : State :=
  if off = 0x40 then s.push (.event .powerControlWrite { value := x })
  else if off = 0x80 then
    if s.mayWriteBoot port then { s with bootShare := wfield x.toNat 3 6, bootFull := x.getLsbD 0 } else s
  else if off = 0x90 then
    match port with
    | none => s
    | some p =>
      if x = 1 then s.push (.event .semaphoreClaim { port := p })
      else if x = 0 then s.push (.event .semaphoreRelease { port := p })
      else s
  else if off = 0xA0 then if s.owns port then { s with portA := { s.portA with tag := x.truncate 8 } } else s
  else if off = 0xA8 then if s.owns port then { s with portB := { s.portB with tag := x.truncate 8 } } else s
  else if 0x2000 ≤ off && off < 0x2040 then
    if port.isSome then { s with nonce := s.nonce.set (Fin.ofNat 8 ((off - 0x2000) / 8) : Fin 8) x } else s
  else if off = 0x2040 then
    match port with
    | some p => if x = 1 then s.push (.event .attestGo { port := p }) else s
    | none => s
  else s

/-- A write of a register of space 0x7 (R87): by a port, or by software on a core, which `bySup` tells to be a supervisor core. Only
supervisor software writes the pool (R360); it and the owning port alone write command blocks (R415, log 98). -/
def State.regWrite (s : State) (port : Option Port) (bySup : Bool) (die off : Nat) (x : Word) : State :=
  match netBlock die off with
  | some (cid, o) => s.netWrite cid o x
  | none =>
    if off = 0x02000000 then if bySup then s.push (.event .poolWrite { core := die, value := x }) else s
    else if 0x03000000 ≤ off && off < 0x03001800 && die = s.seqDie then s.homeWrite (off - 0x03000000) x
    else if 0x03400000 ≤ off && off < 0x03400028 then
      if s.owns port || (port.isNone && bySup) then s.commandWrite die (off - 0x03400000) x else s
    else if die = 0 then s.rootWrite port off x
    else s

/-- REGISTER_WRITE (R87): the store of a core's thread, named by its message, reaches the registers of a die. -/
def execRegisterWrite (s : State) : Out :=
  match s.takeMsg s.ev.id with
  | (some (.access id home), s) =>
    match SMap.get none s.accesses id with
    | some a =>
      let units := ((a.parts.find? fun p => p.1 == home).map (·.2)).getD []
      let value (u : AUnit) : Word := match a.op with
        | .store data => BitVec.ofNat 64 (((data.find? fun d => d.1 == u.idx).map (·.2)).getD 0)
        | _ => 0
      let s := units.foldl (fun s u => s.regWrite none (isSup a.core) (u.cell / 2 ^ 26 % 64) (u.cell % 2 ^ 26) (value u)) s
      let s := { s with accesses := SMap.set none s.accesses id (some { a with parts := a.parts.filter fun p => p.1 != home }) }
      .next (s.answer id home [] [])
    | none => .next s
  | _ => .next s

/-! ## Ownership (R415) -/

/-- The other port. -/
def otherPort : Port → Port
  | .A => .B
  | .B => .A

/-- SEMAPHORE_CLAIM (R415). `more`: both ports claim in this clk; the port that lost the previous tie wins, port A the first one. -/
def execSemaphoreClaim (s : State) : Out :=
  match s.owner with
  | some _ => .next s
  | none =>
    let winner := if s.ev.more then s.lastLoser.getD .A else s.ev.port
    .next { s with owner := some winner, lastLoser := if s.ev.more then some (otherPort winner) else s.lastLoser }

/-- SEMAPHORE_RELEASE (R415). -/
def execSemaphoreRelease (s : State) : Out := .next { s with owner := if s.owner = some s.ev.port then none else s.owner }

/-- A port's registers. -/
def State.portState (s : State) : Port → PortState
  | .A => s.portA
  | .B => s.portB

/-- A port's registers, changed. -/
def State.modPort (s : State) (p : Port) (f : PortState → PortState) : State :=
  match p with
  | .A => { s with portA := f s.portA }
  | .B => { s with portB := f s.portB }

/-- LINK_DOWN (R415). -/
def execLinkDown (s : State) : Out := .next (s.modPort s.ev.port fun p => { p with downAt := some (p.downAt.getD s.clk) })

/-- LINK_UP (R415). -/
def execLinkUp (s : State) : Out := .next (s.modPort s.ev.port fun p => { p with downAt := none })

/-- The owner's link has been down for 1 ms. -/
def State.linkTimedOut (s : State) : Bool :=
  match s.owner with
  | some p => (s.portState p).downAt.any fun d => d + 1000 * clkPerUs ≤ (s.clk : Int)
  | none => false

/-- LINK_DOWN_TIMEOUT (R415). -/
def execLinkDownTimeout (s : State) : Out := .next (if s.linkTimedOut then { s with owner := none } else s)

/-! ## Host accesses (R414, R419) -/

/-- Cluster index at whose memory port a host port's accesses are translated (R419). -/
def portCluster : Port → Nat
  | .A => 6
  | .B => 121

/-- Entry die of a port (R21). -/
def portDie : Port → Nat
  | .A => Config.portADie
  | .B => Config.portBDie

/-- What a host access comes to. -/
inductive HostCheck where
  | ok (cells : List (Nat × Nat))             -- cell and size of each piece
  | refused (cause detail : Nat)
  | fault (reason : Nat) (addr : Word)        -- a walk failure, which the supervisor software answers
  | consumed (cell : Nat)
deriving DecidableEq, Repr

/-- The target checks of one piece of n bytes for a host (R99, R303, R403). -/
def State.hostTarget (s : State) (job : Nat) (k : AKind) (c n : Nat) : Option (Nat × Nat) :=
  if !tagAllows (s.line c).tag.toNat job false k then some (cOwner, 0x31)
  else if c / 2 ^ 60 = 0 && !s.windowsAllow (cellTile c) (c % 2 ^ 18) k then some (cRefused, 0x41)
  else if s.badBytes c n k then some (cContained, 0x61)
  else none

/-- Translation of the pieces of a host access, in order. -/
def State.hostCells (s : State) (port : Port) (job : Nat) (ctx : JobCtx) (wr : Bool) :
    List (Word × Nat) → State × Except (Nat × Word) (List (Nat × Nat))
  | [] => (s, .ok [])
  | (a, n) :: t =>
    let space := spaceOf a
    match s.translate (portCluster port) job ctx space (a.toNat % 2 ^ 60) wr with
    | (s, .error r) => (s, .error (r, a))
    | (s, .ok p) =>
      let q := s.hostCells port job ctx wr t
      (q.1, q.2.map ((physCell space p, n) :: ·))

/-- The checks of a host access to spaces 0x0 to 0x3 (R419, Table 8). -/
def State.hostCheck (s : State) (q : HostAsk) : State × HostCheck :=
  let job := (s.portState q.port).tag.toNat
  let kind : AKind := if q.write then .write else .read
  let pieces := (pieces8 q.addr q.size).map fun p => (q.addr + BitVec.ofNat 64 p.1, p.2)
  let space := spaceOf q.addr
  let finish (s : State) (cs : List (Nat × Nat)) : State × HostCheck :=
    match cs.findSome? fun c => (s.hostTarget job kind c.1 c.2).map fun e => (c.1, e) with
    | some (c, e) => if e.1 = cContained then (s, .consumed c) else (s, .refused e.1 e.2)
    | none => (s, .ok cs)
  if space > 3 then (s, .refused cAddress 0x01)
  else if space = 0 then
    match pieces.findSome? fun p => match s.sramPlace p.1.toNat with
        | .error d => some d
        | .ok _ => none with
    | some d => (s, .refused cAddress d)
    | none => if job = 0 then (s, .refused cOwner 0x31) else finish s (pieces.map fun p => (p.1.toNat, p.2))
  else if q.addr.toNat % 2 ^ 60 + q.size > 2 ^ 48 then (s, .refused cAddress 0x02)
  else if job = 0 then (s, .refused cOwner 0x31)
  else
    match (s.job job).ctx with
    | none => (s, .refused cPage 0x51)
    | some ctx =>
      -- the job's private region is reached by no address of space 0x1 (R84)
      if space = 1 && ctx.pbase < q.addr.toNat % 2 ^ 60 + q.size && q.addr.toNat % 2 ^ 60 < ctx.pbase + 196608 * ctx.plimit then
        (s, .refused cAddress 0x05)
      else
      match s.hostCells q.port job ctx q.write pieces with
      | (s, .error (r, a)) => (s, .fault r a)
      | (s, .ok cs) => finish s cs

/-- The completion of a host access. -/
def State.hostAnswer (s : State) (q : HostAsk) (data : Nat) (refusal : Option (Nat × Nat)) : State :=
  { s with hostOut := s.hostOut ++ [⟨q.id, q.port, data, refusal⟩] }

/-- Reads the pieces of an access, lowest first. -/
def State.readPiecesAt (s : State) : List (Nat × Nat) → Nat
  | [] => 0
  | (c, n) :: t => s.readN c n + 2 ^ (8 * n) * s.readPiecesAt t

/-- Writes the pieces of an access. -/
def State.writePiecesAt (s : State) (x : Nat) : List (Nat × Nat) → State
  | [] => s
  | (c, n) :: t => ((s.accept c n).writePlain c n (x % 2 ^ (8 * n))).writePiecesAt (x / 2 ^ (8 * n)) t

/-- A write of space 0x3 finds room in its acceptance queues (R382). -/
def State.hostRoom (s : State) (write : Bool) (cs : List (Nat × Nat)) : Bool :=
  !write || cs.all fun c => c.1 / 2 ^ 60 != 3 || (SMap.get [] s.nvq (c.1 % 2 ^ 60 / Config.nvStack)).length + cs.length ≤ queueRoom

/-- A host access to memory (R419). `onWay`: it was accepted before, so that a tile retired since answers with the contained error. -/
def State.hostMemory (s : State) (q : HostAsk) (onWay : Bool) : State :=
  match s.hostCheck q with
  | (s, .refused c d) => s.hostAnswer q 0 (some (if onWay && c = cAddress && d = 0x04 then (cContained, 0x62) else (c, d)))
  | (s, .consumed cell) => (s.consumeError cell).hostAnswer q 0 (some (cContained, 0x61))
  | (s, .fault r a) =>
    let die := portDie q.port
    { s with hostHeld := s.hostHeld ++ [(q, HostWait.page)] }.report ⟨die, Config.supCore die, 0, cPage, r, a, none⟩
  | (s, .ok cs) =>
    if !s.hostRoom q.write cs then { s with hostHeld := s.hostHeld ++ [(q, .room)] }
    else
      let s := cs.foldl (fun s c => s.correctBytes c.1 c.2) s
      if q.write then (s.writePiecesAt q.data cs).hostAnswer q 0 none
      else s.hostAnswer q (s.readPiecesAt cs) none

/-- Registers that this chapter and R375 name, which the port that does not own the device reaches too (R414). -/
def sharedRegister (s : State) (die off : Nat) : Bool :=
  (0x03400000 ≤ off && off < 0x03400028)
    || (die == 0 && (off == 0x40 || off == 0x80 || off == 0x90 || off == 0xA0 || off == 0xA8 || off == 0xFF8
      || (0x1000 ≤ off && off ≤ 0x2040) || (s.capRead off).isSome))

/-- A host access to space 0x7 (R414, R415, R419). -/
def State.hostRegister (s : State) (q : HostAsk) : State :=
  let a := q.addr.toNat % 2 ^ 60
  let die := a / 2 ^ 26 % 64
  let off := a % 2 ^ 26
  if a ≥ 2 ^ 32 then s.hostAnswer q 0 (some (cAddress, 0x02))
  else if q.size ≠ 8 || off % 8 ≠ 0 then s.hostAnswer q 0 (some (cAlign, 0x21))
  else if s.owner ≠ some q.port && !sharedRegister s die off then s.hostAnswer q 0 none
  else if q.write then (s.regWrite (some q.port) false die off (BitVec.ofNat 64 q.data)).hostAnswer q 0 none
  else s.hostAnswer q (s.regRead die off).toNat none

/-- A host access is one to the power control register, which always-on logic serves (R375). -/
def toPowerControl (a : Word) : Bool := a.toNat == 7 * 2 ^ 60 + 0x40

/-- A host access is one to the boot control register, which always-on logic holds (R406). -/
def toBootControl (a : Word) : Bool := a.toNat == 7 * 2 ^ 60 + 0x80

/-- A host access is served: a register at once, memory at once or, for a live tile, at a free time after its acceptance (R13, log 81). -/
def State.hostServe (s : State) (q : HostAsk) : State :=
  if spaceOf q.addr = 7 then s.hostRegister q
  else
    let d := if spaceOf q.addr = 0 && (s.sramPlace q.addr.toNat).isOk then s.drawChoice 2 else (0, s)
    if d.1 = 0 then d.2.hostMemory q false else { d.2 with hostHeld := d.2.hostHeld ++ [(q, .way)] }

/-- HOST_ACCESS (R414, R419): by port `port`, a read or with `flag` a write of `size` bytes at `addr`, the data in `value`. In a lower
power state it is held while the device comes back to Active (R376); before the boot is done, all but the always-on registers wait for it. -/
def execHostAccess (s : State) : Out :=
  let e := s.ev
  let q : HostAsk := { id := s.nextHost, port := e.port, write := e.flag, addr := e.addr, size := e.size, data := e.value.toNat }
  let s := { s with nextHost := s.nextHost + 1 }
  if s.powerState ≠ 0 && !toPowerControl e.addr then
    .next { s with hostHeld := s.hostHeld ++ [(q, .exit)], exitAt := some (s.exitAt.getD s.clk) }
  else if s.bootState = .booting && !toPowerControl e.addr && !toBootControl e.addr then .next { s with hostHeld := s.hostHeld ++ [(q, .exit)] }
  else .next ({ s with idleFrom := if s.powerState = 0 then s.clk + 1 else s.idleFrom }.hostServe q)

/-- A held host access goes on: one that waited for the exit is served; one on its way arrives at a free time; one that waited for room tries
again; one that faulted waits for its answer. -/
def State.hostResume (s : State) (h : HostAsk × HostWait) : State :=
  match h.2 with
  | .exit => s.hostServe h.1
  | .way =>
    let d := s.drawChoice 2
    if d.1 = 0 then d.2.hostMemory h.1 true else { d.2 with hostHeld := d.2.hostHeld ++ [h] }
  | .room => s.hostMemory h.1 false
  | .page => { s with hostHeld := s.hostHeld ++ [h] }

/-- The held host accesses in Active, once the device has booted: they are in flight, so that it is not idle (R376). -/
def State.resumeHosts (s : State) : State :=
  if s.powerState ≠ 0 || s.bootState == .booting || s.hostHeld.isEmpty then s
  else s.hostHeld.foldl State.hostResume { s with hostHeld := [], idleFrom := s.clk + 1 }

/-- The answer of the supervisor software to the page fault of a host access (R419). -/
def State.wakeHost (s : State) (id status : Nat) : State :=
  match s.hostHeld.find? fun h => h.1.id == id with
  | none => s
  | some h =>
    let s := { s with hostHeld := s.hostHeld.filter fun x => x.1.id != id }
    if status = 0 then s.hostMemory h.1 true else s.hostAnswer h.1 0 (some (cPage, status))

/-- WAKE_MESSAGE (R105, R222, R419): the status in `value`. For a host access with `flag`; for an engine of the core with `more`, `id`
being the request's number; else for the thread of the core and slot. -/
def execWakeMessage (s : State) : Out :=
  let e := s.ev
  let status := e.value.toNat % 256
  if e.flag then .next (s.wakeHost e.id status)
  else if e.more then .next (s.wakeEngine e.core e.id status)
  else .next (s.wakeThread e.core e.slot status)

/-! ## Attestation (R417) -/

/-- ATTEST_GO (R417): a go while a report is in progress is ignored. -/
def execAttestGo (s : State) : Out := .next { s with attesting := some (s.attesting.getD s.ev.port) }

/-- The digests of a report (R417): of the firmware image, the fuse map and the field log, 8 words each. -/
def State.digests (s : State) : List Word :=
  let word (which : Nat) (l : List Nat) : List Word := (List.range 8).map (Config.digest which l)
  word 0 [] ++ word 1 (s.fuseDead ++ 0xFFFFFFFF :: s.fuseCols.flatMap fun c => [c.1, c.2])
    ++ word 2 (s.fieldLog.flatMap fun e => [e.tile, e.column, e.cause, e.boot])

/-- ATTEST_REPORT_READY (R417): nonce, boot count, port, the digests, and the signature of 4,627 bytes, whose words are free (log 9). -/
def execAttestReportReady (s : State) : Out :=
  match s.attesting with
  | none => .next s
  | some p =>
    let r := s.drawWords 579
    .next { r.2 with
      attesting := none
      attest := s.nonce.toList ++ [BitVec.ofNat 64 s.bootCount, BitVec.ofNat 64 (ownerCode (some p))] ++ s.digests ++ r.1 }

/-! ## Power states (R375 to R377) -/

/-- POWER_CONTROL_WRITE (R375): the RW fields; it is in force at the next entry decision. -/
def execPowerControlWrite (s : State) : Out :=
  let x := s.ev.value.toNat
  .next { s with deepOk := s.ev.value.getLsbD 63, idleHold := wfield x 32 24, latTol := wfield x 0 32 }

/-- The device is idle (R376). -/
def State.idle (s : State) : Bool :=
  s.hostHeld.isEmpty && (s.dies.all fun d => d.2.cmd.isNone) && s.cores.all fun x =>
    let c := x.2
    (c.slots.toList.all fun t => t.st == .free) && c.ready.isEmpty && c.enginesIdle && c.copyFifo.isEmpty && c.copyBusy.isEmpty

/-- Exit latency of a power state in clk (R375, Table 6). -/
def exitClk (state : Nat) : Nat := [0, 4200, 315000, 84000000].getD state 0

/-- Exit latency of a power state in ns. -/
def exitNs (state : Nat) : Nat := [0, 2000, 150000, 40000000].getD state 0

/-- The lowest state that the tolerance allows (R376). -/
def State.allowedState (s : State) : Nat :=
  ((List.range 4).filter fun p => exitNs p ≤ s.latTol && (p != 3 || s.deepOk)).foldl max 0

/-- Cells that a map keeps: those of a space that `keep` allows. -/
def keepCells {α : Type} (keep : Nat → Bool) (scale : Nat) (m : SMap α) : SMap α := m.filter fun x => keep (x.1 * scale / 2 ^ 60)

/-- A port when the clk count starts again: the time for which its link has been down goes on (R415). -/
def PortState.since (p : PortState) (clk : Nat) : PortState := { p with downAt := p.downAt.map (· - (clk : Int)) }

/-- The state after a loss of everything but what R377 keeps: HBM and the always-on registers stay with `deep`, the non-volatile tier, the
sequence home's values and the logs always (R377, R383, R406 to R409). The outside's inputs and what it has been told stay too. -/
def State.lose (s : State) (deep : Bool) : State :=
  let keep (space : Nat) : Bool := space == 3 || (deep && (space == 1 || space == 2))
  let s0 : State :=
    { draws := s.draws, inputs := s.inputs, hostOut := s.hostOut, nextHost := s.nextHost, facts := s.facts, laterFacts := s.laterFacts
      mem := keepCells keep 1 s.mem, lines := keepCells keep 64 s.lines
      dseq := s.dseq, lseq := s.lseq, lword := s.lword, orderly := s.orderly, drained := s.drained
      hostHeld := if deep then s.hostHeld else [], engImages := if deep then s.engImages else []
      fieldLog := s.fieldLog, pending := s.pending, fuseDead := s.fuseDead, fuseCols := s.fuseCols, bootCount := s.bootCount
      bootState := .booting, hshare := s.hshare, supply := s.supply }
  if deep then
    { s0 with
      bootFull := s.bootFull, bootShare := s.bootShare, deepOk := s.deepOk, idleHold := s.idleHold, latTol := s.latTol
      owner := s.owner, portA := s.portA.since s.clk, portB := s.portB.since s.clk, powerState := s.powerState }
  else s0

/-- IDLE_HOLD_EXPIRY (R376): after idle_hold µs of idleness, the lowest allowed state; Deep only once every queue is drained (R383). After an
orderly shutdown the device stays in Active (R412). -/
def execIdleHoldExpiry (s : State) : Out :=
  let p := s.allowedState
  if s.powerState ≠ 0 || s.closed || !s.idle || s.clk < s.idleFrom + s.idleHold * clkPerUs || p = 0 || (p = 3 && !s.nvq.isEmpty) then .next s
  else if p = 3 then
    .next { s.lose true with
      powerState := 3, clk := s.clk, phase := s.phase, agenda := s.agenda, idleFrom := s.clk, portA := s.portA, portB := s.portB }
  else .next { s with powerState := p }

/-- Every tile returns to its floor (R376). -/
def State.toFloors (s : State) : State :=
  let s := (s.cores.map (·.1)).foldl (fun s cid =>
    s.modCore cid fun c => { c with grant := 0, extra := 0, short := 0, queuedAt := none, notices := [] }) s
  (s.dies.map (·.1)).foldl State.settleZone s

/-- POWER_STATE_EXIT (R376, R377): back to Active, every tile at its floor; the exit from Deep is a boot. -/
def execPowerStateExit (s : State) : Out :=
  if s.powerState = 3 then .next { s.lose true with powerState := 0, agenda := .event .boot {} :: s.agenda }
  else .next { s.toFloors with powerState := 0, exitAt := none, idleFrom := s.clk }

/-! ## Interruption and boot (R383 to R389, R406 to R410) -/

/-- Undoes queued granules that a failing hold-up store did not write, newest first: they hold their earlier contents, with the typed and
full/empty bits that their writes set (R380), and their lines' metadata are uncorrectable (R386). -/
def State.undoGranules (s : State) : List (Nat × Nat × LineMeta) → State
  | [] => s
  | (g, old, m) :: t => ((s.undoGranules t).writeN g 16 old).modLine g fun x => { x with typed := m.typed, fe := m.fe, double := x.double ||| 0x100 }

/-- The drain of one acceptance queue at an interruption (R383, R386): whole, or with a failing hold-up store after `n` granules,
oldest first (log 96). -/
def State.drainStack (s : State) (stack n : Nat) (fails : Bool) : State :=
  let q := SMap.get [] s.nvq stack
  let s := { s with nvq := SMap.set [] s.nvq stack [] }
  if fails then s.undoGranules (q.drop n) else s

/-- An interruption (R383): every queue is drained on hold-up energy, but for the stacks whose bits in `fails` are set, which write no more than
`n` granules. Which were drained, and whether a SHUTDOWN had come before, waits for the boot (R389). -/
def State.interrupt (s : State) (fails n : Nat) : State :=
  let bad (i : Nat) : Bool := fails / 2 ^ i % 2 == 1 && n < (SMap.get [] s.nvq i).length
  let t := (List.range 8).foldl (fun s i => s.drainStack i n (bad i)) s
  { t with drained := some (((List.range 8).map fun i => if bad i then 0 else 2 ^ i).sum, !s.orderly) }

/-- INTERRUPTION (R383): the supply is lost. `value` names the stacks whose hold-up fails, after `size` granules. -/
def execInterruption (s : State) : Out :=
  .next { (s.interrupt s.ev.value.toNat s.ev.size).lose false with supply := false }

/-- A loss word after an interruption (R388, R389). -/
def lossWord (w : Word) (abrupt : Bool) (drained : Nat) : Word :=
  let count := min (wfield w.toNat 0 32 + 1) (2 ^ 32 - 1)
  BitVec.ofNat 64 (count + drained % 256 * 2 ^ 32 + if abrupt then 2 ^ 40 else 0)

/-- The loss record of every tag is updated for an interruption that is not yet recorded (R389, step 6 of R407). -/
def State.recordLoss (s : State) : State :=
  match s.drained with
  | none => s
  | some (d, abrupt) =>
    ((List.range 254).map (· + 1)).foldl (fun s t =>
      { s with
        lseq := SMap.set 0 s.lseq t (SMap.get 0 s.dseq t)
        lword := SMap.set 0 s.lword t (lossWord (SMap.get 0 s.lword t) abrupt d) }) { s with drained := none }

/-- POWER_UP (R412): the orderly mark is cleared, and a boot follows once reset is released, before which a port may write boot control
(R406, log 99). -/
def execPowerUp (s : State) : Out := .next { s with orderly := false, supply := true, agenda := [] }

/-- DEVICE_RESET (R383, R389, R410): an interruption that keeps what Deep keeps, and a boot. -/
def execDeviceReset (s : State) : Out :=
  .next { (s.interrupt s.ev.value.toNat s.ev.size).lose true with powerState := 0, hostHeld := [], agenda := [.event .powerUp {}] }

/-- Stack and byte of an HBM cell for a share H (R85). -/
def hbmPlace (hshare cell : Nat) : Nat × Nat :=
  let l := Config.hbmStack - hshare * 2 ^ 30
  let p := cell % 2 ^ 60
  if cell / 2 ^ 60 = 1 then (p / l, p % l) else (hashStack p, l + 64 * (p / 64 / 48) + p % 64)

/-- The cell of a stack and byte for a share H (R85). -/
def hbmCell (hshare stack byte : Nat) : Nat :=
  let l := Config.hbmStack - hshare * 2 ^ 30
  if byte < l then linCell (stack * l + byte)
  else
    let row := (byte - l) / 64
    let f := (Nat.xor (Nat.xor row (row / 2 ^ 6)) (row / 2 ^ 12)) % 48
    hashCell ((row * 48 + (stack + 48 - f) % 48) * 64 + (byte - l) % 64)

/-- A map of HBM contents under another share: each entry keeps its physical place. -/
def rekey {α : Type} (old new scale : Nat) (m : SMap α) : SMap α :=
  m.foldl (fun acc x =>
    let c := x.1 * scale
    if c / 2 ^ 60 = 1 || c / 2 ^ 60 = 2 then
      let p := hbmPlace old c
      SMap.insert (hbmCell new p.1 p.2 / scale) x.2 acc
    else SMap.insert x.1 x.2 acc) []

/-- The share of boot control comes into force (R85, R406). -/
def State.setShare (s : State) : State :=
  let new := min s.bootShare 48
  if new = s.hshare then s
  else { s with hshare := new, mem := rekey s.hshare new 1 s.mem, lines := rekey s.hshare new 64 s.lines }

/-- A tile or column is in the field log. -/
def State.logged (s : State) (tile column : Nat) : Bool := s.fieldLog.any fun e => e.tile == tile && e.column == column

/-- The self-tests of a full boot (R407 to R409): a pending tile that passes leaves the list; what fails enters the field log, or with a
full log is dead for this boot only. The answer is what the log could not take. -/
def State.selfTests (s : State) : State × List (Nat × Nat) :=
  let s := { s with pending := [] }
  s.facts.faulty.foldl (fun acc f =>
    let s := acc.1
    if s.fuseDead.contains f.1 || s.logged f.1 0xFF || s.logged f.1 f.2 || s.fuseCols.contains f then acc
    else (s.logEntry f.1 f.2 0x01, if s.fieldLog.length < 1024 then acc.2 else acc.2 ++ [f])) (s, [])

/-- The retired columns known at a boot (R241). -/
def State.columns (s : State) (extra : List (Nat × Nat)) : List (Nat × Nat) :=
  (s.fuseCols ++ (s.fieldLog.filterMap fun e => if e.column = 0xFF then none else some (e.tile, e.column))
    ++ extra.filter fun f => f.2 != 0xFF).eraseDups

/-- The dead tiles of a boot (R13, R241, R407 step 5). -/
def State.deadSet (s : State) (extra cols : List (Nat × Nat)) : List Nat :=
  let twice := (cols.map (·.1)).filter fun t => (cols.filter fun c => c.1 == t).length ≥ 2
  (s.fuseDead ++ (s.fieldLog.filterMap fun e => if e.column = 0xFF then some e.tile else none) ++ s.pending.map (·.1)
    ++ (extra.filterMap fun f => if f.2 = 0xFF then some f.1 else none) ++ twice).eraseDups

/-- Some die has no live tile of a kind present on it (R407, step 5). -/
def kindLost (dead : List Nat) : Bool :=
  (List.range 64).any fun die => (List.range 4).any fun kind =>
    let all := ((List.range 192).map (192 * die + ·)).filter fun sn => kindOfTile sn == kind
    !all.isEmpty && all.all dead.contains

/-- The clock counters of the dies start, at most 32 clk apart (R179): the lead of each is free (log 7). -/
def State.startCounters (s : State) : State :=
  (List.range 64).foldl (fun s d => s.modDie d fun x => { x with lead := Config.skew d % 33 }) s

/-- BOOT (R407): the steps in order, by the facts that the boot finds. What failed stays for the test report (R416). -/
def execBoot (s : State) : Out :=
  let f := s.laterFacts.head?.getD s.facts
  let first := f.eccBad.isEmpty && f.supervisorsBad.isEmpty && f.stacksDown.isEmpty
  let s := { s with
    facts := f, laterFacts := s.laterFacts.drop 1
    bootCount := s.bootCount + 1, logFull := false, linksRetired := 0, failures := [], stacksDown := f.stacksDown
    eccFailed := f.eccBad, supFailed := f.supervisorsBad, signatureFailed := first && !f.signatureOk
    pathFailed := if first && f.signatureOk then f.pathless else [] }.startCounters.setShare
  if !first || !f.signatureOk then .next { s with bootState := .hold }
  else if !f.pathless.isEmpty then .next { s with bootState := .hold, linksRetired := f.linksDown }
  else
    let t := if s.bootFull then s.selfTests else (s, [])
    let cols := t.1.columns t.2
    let dead := t.1.deadSet t.2 cols
    let s := { t.1 with linksRetired := f.linksDown, failures := if s.bootFull then f.faulty else [], dead, deadCols := cols, census := dead }
    if kindLost dead then .next { s with bootState := .hold }
    else .next { s.recordLoss with bootState := .ready, bootFull := false }

end Sys2Proof.Machine
end

