-- ==== Sys2Proof/Machine/Dispatch.lean ====
section
/-!
DEFINITION. One arm for each constructor of Instr: the meaning of every step of the machine.
-/
namespace Sys2Proof.Machine

/-- The meaning of an instruction or event in a state. -/
def exec (i : Instr) (s : State) : Host.Outcome State Fault Refusal :=
  match i with
  | .add w d a b => Sys2Proof.Machine.execAdd w d a b s
  | .addImm w d a imm => Sys2Proof.Machine.execAddImm w d a imm s
  | .sub w d a b => Sys2Proof.Machine.execSub w d a b s
  | .subImm w d a imm => Sys2Proof.Machine.execSubImm w d a imm s
  | .mul w d a b => Sys2Proof.Machine.execMul w d a b s
  | .mulImm w d a imm => Sys2Proof.Machine.execMulImm w d a imm s
  | .mulh w d a b => Sys2Proof.Machine.execMulh w d a b s
  | .mulhImm w d a imm => Sys2Proof.Machine.execMulhImm w d a imm s
  | .mulhu w d a b => Sys2Proof.Machine.execMulhu w d a b s
  | .mulhuImm w d a imm => Sys2Proof.Machine.execMulhuImm w d a imm s
  | .div w d a b => Sys2Proof.Machine.execDiv w d a b s
  | .divImm w d a imm => Sys2Proof.Machine.execDivImm w d a imm s
  | .divu w d a b => Sys2Proof.Machine.execDivu w d a b s
  | .divuImm w d a imm => Sys2Proof.Machine.execDivuImm w d a imm s
  | .rem w d a b => Sys2Proof.Machine.execRem w d a b s
  | .remImm w d a imm => Sys2Proof.Machine.execRemImm w d a imm s
  | .remu w d a b => Sys2Proof.Machine.execRemu w d a b s
  | .remuImm w d a imm => Sys2Proof.Machine.execRemuImm w d a imm s
  | .and w d a b => Sys2Proof.Machine.execAnd w d a b s
  | .andImm w d a imm => Sys2Proof.Machine.execAndImm w d a imm s
  | .or w d a b => Sys2Proof.Machine.execOr w d a b s
  | .orImm w d a imm => Sys2Proof.Machine.execOrImm w d a imm s
  | .xor w d a b => Sys2Proof.Machine.execXor w d a b s
  | .xorImm w d a imm => Sys2Proof.Machine.execXorImm w d a imm s
  | .andn w d a b => Sys2Proof.Machine.execAndn w d a b s
  | .andnImm w d a imm => Sys2Proof.Machine.execAndnImm w d a imm s
  | .orn w d a b => Sys2Proof.Machine.execOrn w d a b s
  | .ornImm w d a imm => Sys2Proof.Machine.execOrnImm w d a imm s
  | .shl w d a b => Sys2Proof.Machine.execShl w d a b s
  | .shlImm w d a imm => Sys2Proof.Machine.execShlImm w d a imm s
  | .shr w d a b => Sys2Proof.Machine.execShr w d a b s
  | .shrImm w d a imm => Sys2Proof.Machine.execShrImm w d a imm s
  | .sar w d a b => Sys2Proof.Machine.execSar w d a b s
  | .sarImm w d a imm => Sys2Proof.Machine.execSarImm w d a imm s
  | .rol w d a b => Sys2Proof.Machine.execRol w d a b s
  | .rolImm w d a imm => Sys2Proof.Machine.execRolImm w d a imm s
  | .ror w d a b => Sys2Proof.Machine.execRor w d a b s
  | .rorImm w d a imm => Sys2Proof.Machine.execRorImm w d a imm s
  | .clz w d a => Sys2Proof.Machine.execClz w d a s
  | .ctz w d a => Sys2Proof.Machine.execCtz w d a s
  | .popc w d a => Sys2Proof.Machine.execPopc w d a s
  | .min w d a b => Sys2Proof.Machine.execMin w d a b s
  | .minImm w d a imm => Sys2Proof.Machine.execMinImm w d a imm s
  | .minu w d a b => Sys2Proof.Machine.execMinu w d a b s
  | .minuImm w d a imm => Sys2Proof.Machine.execMinuImm w d a imm s
  | .max w d a b => Sys2Proof.Machine.execMax w d a b s
  | .maxImm w d a imm => Sys2Proof.Machine.execMaxImm w d a imm s
  | .maxu w d a b => Sys2Proof.Machine.execMaxu w d a b s
  | .maxuImm w d a imm => Sys2Proof.Machine.execMaxuImm w d a imm s
  | .bfx w d a b c => Sys2Proof.Machine.execBfx w d a b c s
  | .bfi w d a b c => Sys2Proof.Machine.execBfi w d a b c s
  | .sel w d a b c => Sys2Proof.Machine.execSel w d a b c s
  | .selImm w d a c imm => Sys2Proof.Machine.execSelImm w d a c imm s
  | .li d imm => Sys2Proof.Machine.execLi d imm s
  | .mov w d a => Sys2Proof.Machine.execMov w d a s
  | .cmp cond skip a b => Sys2Proof.Machine.execCmp cond skip a b s
  | .cmpi cond skip a imm => Sys2Proof.Machine.execCmpi cond skip a imm s
  | .b off => Sys2Proof.Machine.execB off s
  | .bl d off => Sys2Proof.Machine.execBl d off s
  | .bi a => Sys2Proof.Machine.execBi a s
  | .bli d a => Sys2Proof.Machine.execBli d a s
  | .nop => Sys2Proof.Machine.execNop s
  | .exit => Sys2Proof.Machine.execExit s
  | .ld w sg d a m => Sys2Proof.Machine.execLd w sg d a m s
  | .st w sg d a m => Sys2Proof.Machine.execSt w sg d a m s
  | .ldx w sg d a b m => Sys2Proof.Machine.execLdx w sg d a b m s
  | .stx w sg d a b m => Sys2Proof.Machine.execStx w sg d a b m s
  | .aadd w sg d a b m => Sys2Proof.Machine.execAadd w sg d a b m s
  | .aand w sg d a b m => Sys2Proof.Machine.execAand w sg d a b m s
  | .aor w sg d a b m => Sys2Proof.Machine.execAor w sg d a b m s
  | .axor w sg d a b m => Sys2Proof.Machine.execAxor w sg d a b m s
  | .amin w sg d a b m => Sys2Proof.Machine.execAmin w sg d a b m s
  | .amax w sg d a b m => Sys2Proof.Machine.execAmax w sg d a b m s
  | .aswp w sg d a b m => Sys2Proof.Machine.execAswp w sg d a b m s
  | .acas w sg d a b c m => Sys2Proof.Machine.execAcas w sg d a b c m s
  | .fence sc => Sys2Proof.Machine.execFence sc s
  | .fencex sc p1 p2 => Sys2Proof.Machine.execFencex sc p1 p2 s
  | .segldNarrow d a b c => Sys2Proof.Machine.execSegldNarrow d a b c s
  | .segldAbs d a b => Sys2Proof.Machine.execSegldAbs d a b s
  | .segrd d a half => Sys2Proof.Machine.execSegrd d a half s
  | .sysrd d num => Sys2Proof.Machine.execSysrd d num s
  | .syswr num a => Sys2Proof.Machine.execSyswr num a s
  | .trap code => Sys2Proof.Machine.execTrap code s
  | .rte => Sys2Proof.Machine.execRte s
  | .yield => Sys2Proof.Machine.execYield s
  | .sleep a => Sys2Proof.Machine.execSleep a s
  | .wake d a => Sys2Proof.Machine.execWake d a s
  | .iflush => Sys2Proof.Machine.execIflush s
  | .ctxsv d a => Sys2Proof.Machine.execCtxsv d a s
  | .ctxld d a => Sys2Proof.Machine.execCtxld d a s
  | .idrd d sel => Sys2Proof.Machine.execIdrd d sel s
  | .clkrd d => Sys2Proof.Machine.execClkrd d s
  | .pair x y => Sys2Proof.Machine.execPair x y s
  | .vfadd ty rm p d a b => Sys2Proof.Machine.execVfadd ty rm p d a b s
  | .vfsub ty rm p d a b => Sys2Proof.Machine.execVfsub ty rm p d a b s
  | .vfmul ty rm p d a b => Sys2Proof.Machine.execVfmul ty rm p d a b s
  | .vfma ty rm p d a b c => Sys2Proof.Machine.execVfma ty rm p d a b c s
  | .vfms ty rm p d a b c => Sys2Proof.Machine.execVfms ty rm p d a b c s
  | .vfnma ty rm p d a b c => Sys2Proof.Machine.execVfnma ty rm p d a b c s
  | .vfdiv ty rm p d a b => Sys2Proof.Machine.execVfdiv ty rm p d a b s
  | .vfsqrt ty rm p d a => Sys2Proof.Machine.execVfsqrt ty rm p d a s
  | .vfmin ty p d a b => Sys2Proof.Machine.execVfmin ty p d a b s
  | .vfmax ty p d a b => Sys2Proof.Machine.execVfmax ty p d a b s
  | .vfabs ty p d a => Sys2Proof.Machine.execVfabs ty p d a s
  | .vfneg ty p d a => Sys2Proof.Machine.execVfneg ty p d a s
  | .vfcmp ty cond p d a b => Sys2Proof.Machine.execVfcmp ty cond p d a b s
  | .vfexp2 ty p d a => Sys2Proof.Machine.execVfexp2 ty p d a s
  | .vflog2 ty p d a => Sys2Proof.Machine.execVflog2 ty p d a s
  | .vfsin ty p d a => Sys2Proof.Machine.execVfsin ty p d a s
  | .vfcos ty p d a => Sys2Proof.Machine.execVfcos ty p d a s
  | .vftanh ty p d a => Sys2Proof.Machine.execVftanh ty p d a s
  | .vfrcp ty rm p d a => Sys2Proof.Machine.execVfrcp ty rm p d a s
  | .vfrsq ty rm p d a => Sys2Proof.Machine.execVfrsq ty rm p d a s
  | .vadd ty p d a b => Sys2Proof.Machine.execVadd ty p d a b s
  | .vsub ty p d a b => Sys2Proof.Machine.execVsub ty p d a b s
  | .vmul ty p d a b => Sys2Proof.Machine.execVmul ty p d a b s
  | .vmulh ty p d a b => Sys2Proof.Machine.execVmulh ty p d a b s
  | .vmulhu ty p d a b => Sys2Proof.Machine.execVmulhu ty p d a b s
  | .vand ty p d a b => Sys2Proof.Machine.execVand ty p d a b s
  | .vor ty p d a b => Sys2Proof.Machine.execVor ty p d a b s
  | .vxor ty p d a b => Sys2Proof.Machine.execVxor ty p d a b s
  | .vshl ty p d a b => Sys2Proof.Machine.execVshl ty p d a b s
  | .vshr ty p d a b => Sys2Proof.Machine.execVshr ty p d a b s
  | .vsar ty p d a b => Sys2Proof.Machine.execVsar ty p d a b s
  | .vmin ty p d a b => Sys2Proof.Machine.execVmin ty p d a b s
  | .vminu ty p d a b => Sys2Proof.Machine.execVminu ty p d a b s
  | .vmax ty p d a b => Sys2Proof.Machine.execVmax ty p d a b s
  | .vmaxu ty p d a b => Sys2Proof.Machine.execVmaxu ty p d a b s
  | .vabs ty p d a => Sys2Proof.Machine.execVabs ty p d a s
  | .vcmp ty cond p d a b => Sys2Proof.Machine.execVcmp ty cond p d a b s
  | .vadds ty p d a b => Sys2Proof.Machine.execVadds ty p d a b s
  | .vaddsu ty p d a b => Sys2Proof.Machine.execVaddsu ty p d a b s
  | .vsubs ty p d a b => Sys2Proof.Machine.execVsubs ty p d a b s
  | .vsubsu ty p d a b => Sys2Proof.Machine.execVsubsu ty p d a b s
  | .vcvt ty src toU fromU part rm p d a => Sys2Proof.Machine.execVcvt ty src toU fromU part rm p d a s
  | .vqlns part p d a b => Sys2Proof.Machine.execVqlns part p d a b s
  | .vdqlns part rm p d a b => Sys2Proof.Machine.execVdqlns part rm p d a b s
  | .vbmax ty p d a => Sys2Proof.Machine.execVbmax ty p d a s
  | .vwhile ty d a b => Sys2Proof.Machine.execVwhile ty d a b s
  | .pand p d a b => Sys2Proof.Machine.execPand p d a b s
  | .por p d a b => Sys2Proof.Machine.execPor p d a b s
  | .pxor p d a b => Sys2Proof.Machine.execPxor p d a b s
  | .pnot p d a => Sys2Proof.Machine.execPnot p d a s
  | .pcnt ty p d a => Sys2Proof.Machine.execPcnt ty p d a s
  | .vqlen ty d => Sys2Proof.Machine.execVqlen ty d s
  | .vmov ty p d a => Sys2Proof.Machine.execVmov ty p d a s
  | .vdup ty p d a => Sys2Proof.Machine.execVdup ty p d a s
  | .vext ty d a b => Sys2Proof.Machine.execVext ty d a b s
  | .vperm ty p d a b => Sys2Proof.Machine.execVperm ty p d a b s
  | .vslide ty p d a b => Sys2Proof.Machine.execVslide ty p d a b s
  | .vcompress ty p d a => Sys2Proof.Machine.execVcompress ty p d a s
  | .vnzx ty part p d a b c => Sys2Proof.Machine.execVnzx ty part p d a b c s
  | .vsel ty p d a b c => Sys2Proof.Machine.execVsel ty p d a b c s
  | .vradd ty rm p d a => Sys2Proof.Machine.execVradd ty rm p d a s
  | .vraddo ty rm p d a b => Sys2Proof.Machine.execVraddo ty rm p d a b s
  | .vrmin ty p d a => Sys2Proof.Machine.execVrmin ty p d a s
  | .vrminu ty p d a => Sys2Proof.Machine.execVrminu ty p d a s
  | .vrmax ty p d a => Sys2Proof.Machine.execVrmax ty p d a s
  | .vrmaxu ty p d a => Sys2Proof.Machine.execVrmaxu ty p d a s
  | .vld ty p sg d a m => Sys2Proof.Machine.execVld ty p sg d a m s
  | .vst ty p sg d a m => Sys2Proof.Machine.execVst ty p sg d a m s
  | .vldg ty p sg d a b m => Sys2Proof.Machine.execVldg ty p sg d a b m s
  | .vsts ty p sg d a b m => Sys2Proof.Machine.execVsts ty p sg d a b m s
  | .vldt sg d a b m => Sys2Proof.Machine.execVldt sg d a b m s
  | .vstt sg d a b m => Sys2Proof.Machine.execVstt sg d a b m s
  | .cpq a => Sys2Proof.Machine.execCpq a s
  | .cpqn d a => Sys2Proof.Machine.execCpqn d a s
  | .ccinit map sg a m => Sys2Proof.Machine.execCcinit map sg a m s
  | .ccexp sg d a b m => Sys2Proof.Machine.execCcexp sg d a b m s
  | .ccarr sg a b c m => Sys2Proof.Machine.execCcarr sg a b c m s
  | .ccwait sg a b m => Sys2Proof.Machine.execCcwait sg a b m s
  | .cctest sg d a b m => Sys2Proof.Machine.execCctest sg d a b m s
  | .cmwait sg a b c m => Sys2Proof.Machine.execCmwait sg a b c m s
  | .cmtest sg d a b c m => Sys2Proof.Machine.execCmtest sg d a b c m s
  | .lde sg d a m => Sys2Proof.Machine.execLde sg d a m s
  | .ldc sg d a m => Sys2Proof.Machine.execLdc sg d a m s
  | .stf sg d a m => Sys2Proof.Machine.execStf sg d a m s
  | .fewEmpty sg a m => Sys2Proof.Machine.execFewEmpty sg a m s
  | .fewFull sg a m => Sys2Proof.Machine.execFewFull sg a m s
  | .mldw ty west comp sg d a b c => Sys2Proof.Machine.execMldw ty west comp sg d a b c s
  | .mswap => Sys2Proof.Machine.execMswap s
  | .mstrm ty tr sg d a b c => Sys2Proof.Machine.execMstrm ty tr sg d a b c s
  | .mdrain ty cols clr sg d a b c => Sys2Proof.Machine.execMdrain ty cols clr sg d a b c s
  | .mtile sg a m => Sys2Proof.Machine.execMtile sg a m s
  | .mqw d sel => Sys2Proof.Machine.execMqw d sel s
  | .mclr a b shadow => Sys2Proof.Machine.execMclr a b shadow s
  | .lxfam d a b => Sys2Proof.Machine.execLxfam d a b s
  | .lxtab d sg a b init => Sys2Proof.Machine.execLxtab d sg a b init s
  | .lxins d sg a b c => Sys2Proof.Machine.execLxins d sg a b c s
  | .lxdel d sg a b c => Sys2Proof.Machine.execLxdel d sg a b c s
  | .lxprb d a => Sys2Proof.Machine.execLxprb d a s
  | .lxrhStart fo fn sg a b => Sys2Proof.Machine.execLxrhStart fo fn sg a b s
  | .lxrhStep d count => Sys2Proof.Machine.execLxrhStep d count s
  | .lxst d sel idx => Sys2Proof.Machine.execLxst d sel idx s
  | .send ch a sg last => Sys2Proof.Machine.execSend ch a sg last s
  | .recv d ch => Sys2Proof.Machine.execRecv d ch s
  | .chst d ch => Sys2Proof.Machine.execChst d ch s
  | .recast a b sg => Sys2Proof.Machine.execRecast a b sg s
  | .nred ty op tree sg a b c => Sys2Proof.Machine.execNred ty op tree sg a b c s
  | .nbmax d a sg tree => Sys2Proof.Machine.execNbmax d a sg tree s
  | .nbar sg tree => Sys2Proof.Machine.execNbar sg tree s
  | .winWrite idx a => Sys2Proof.Machine.execWinWrite idx a s
  | .winRead d idx => Sys2Proof.Machine.execWinRead d idx s
  | .spawn d a b c => Sys2Proof.Machine.execSpawn d a b c s
  | .join d a => Sys2Proof.Machine.execJoin d a s
  | .clend a => Sys2Proof.Machine.execClend a s
  | .launch sg d a m => Sys2Proof.Machine.execLaunch sg d a m s
  | .waitcWait level d a => Sys2Proof.Machine.execWaitcWait level d a s
  | .waitcTest level d a => Sys2Proof.Machine.execWaitcTest level d a s
  | .cancel level d a => Sys2Proof.Machine.execCancel level d a s
  | .dqpush d a b => Sys2Proof.Machine.execDqpush d a b s
  | .dqpop d c => Sys2Proof.Machine.execDqpop d c s
  | .dqsteal d a => Sys2Proof.Machine.execDqsteal d a s
  | .dqcnt d clr => Sys2Proof.Machine.execDqcnt d clr s
  | .tkreq d a wait all => Sys2Proof.Machine.execTkreq d a wait all s
  | .tklendLend d a b => Sys2Proof.Machine.execTklendLend d a b s
  | .tklendRecall d a b => Sys2Proof.Machine.execTklendRecall d a b s
  | .tkret d a => Sys2Proof.Machine.execTkret d a s
  | .tkq d sel => Sys2Proof.Machine.execTkq d sel s
  | .ecset d a cls => Sys2Proof.Machine.execEcset d a cls s
  | .pbar d sg => Sys2Proof.Machine.execPbar d sg s
  | .pseq d => Sys2Proof.Machine.execPseq d s
  | .ploss d sel => Sys2Proof.Machine.execPloss d sel s
  | .skipAnnul => Sys2Proof.Machine.execSkipAnnul s
  | .fenceProbe => Sys2Proof.Machine.execFenceProbe s
  | .fenceEcho => Sys2Proof.Machine.execFenceEcho s
  | .sleepTimeout => Sys2Proof.Machine.execSleepTimeout s
  | .fetchBlock => Sys2Proof.Machine.execFetchBlock s
  | .checkerRetry => Sys2Proof.Machine.execCheckerRetry s
  | .knownAnswerTest => Sys2Proof.Machine.execKnownAnswerTest s
  | .tcontAccess => Sys2Proof.Machine.execTcontAccess s
  | .asyncTrapTaken => Sys2Proof.Machine.execAsyncTrapTaken s
  | .stop => Sys2Proof.Machine.execStop s
  | .remoteAccess => Sys2Proof.Machine.execRemoteAccess s
  | .remoteReply => Sys2Proof.Machine.execRemoteReply s
  | .postedWriteAck => Sys2Proof.Machine.execPostedWriteAck s
  | .wakeMessage => Sys2Proof.Machine.execWakeMessage s
  | .combineWindowExpiry => Sys2Proof.Machine.execCombineWindowExpiry s
  | .copyRequestStart => Sys2Proof.Machine.execCopyRequestStart s
  | .copy => Sys2Proof.Machine.execCopy s
  | .gather => Sys2Proof.Machine.execGather s
  | .scatter => Sys2Proof.Machine.execScatter s
  | .convert => Sys2Proof.Machine.execConvert s
  | .fill => Sys2Proof.Machine.execFill s
  | .concordInit => Sys2Proof.Machine.execConcordInit s
  | .concordArrival => Sys2Proof.Machine.execConcordArrival s
  | .concordExpectation => Sys2Proof.Machine.execConcordExpectation s
  | .waiterResend => Sys2Proof.Machine.execWaiterResend s
  | .waiterCancel => Sys2Proof.Machine.execWaiterCancel s
  | .matrixDispatch => Sys2Proof.Machine.execMatrixDispatch s
  | .mtileChunkResume => Sys2Proof.Machine.execMtileChunkResume s
  | .lexiconDispatch => Sys2Proof.Machine.execLexiconDispatch s
  | .packetWordArrival => Sys2Proof.Machine.execPacketWordArrival s
  | .channelStallTimeout => Sys2Proof.Machine.execChannelStallTimeout s
  | .recastMessage => Sys2Proof.Machine.execRecastMessage s
  | .recastAdopt => Sys2Proof.Machine.execRecastAdopt s
  | .treePartial => Sys2Proof.Machine.execTreePartial s
  | .treeResult => Sys2Proof.Machine.execTreeResult s
  | .stealArrival => Sys2Proof.Machine.execStealArrival s
  | .stealReply => Sys2Proof.Machine.execStealReply s
  | .joinAtHome => Sys2Proof.Machine.execJoinAtHome s
  | .cancelAtHome => Sys2Proof.Machine.execCancelAtHome s
  | .clauseStart => Sys2Proof.Machine.execClauseStart s
  | .launchEligible => Sys2Proof.Machine.execLaunchEligible s
  | .distributorRequest => Sys2Proof.Machine.execDistributorRequest s
  | .rangeHandout => Sys2Proof.Machine.execRangeHandout s
  | .generationSweep => Sys2Proof.Machine.execGenerationSweep s
  | .brokerClassUpdate => Sys2Proof.Machine.execBrokerClassUpdate s
  | .holdingChange => Sys2Proof.Machine.execHoldingChange s
  | .revocationNoticeExpiry => Sys2Proof.Machine.execRevocationNoticeExpiry s
  | .loanMessage => Sys2Proof.Machine.execLoanMessage s
  | .recallReturn => Sys2Proof.Machine.execRecallReturn s
  | .poolWrite => Sys2Proof.Machine.execPoolWrite s
  | .powerControlWrite => Sys2Proof.Machine.execPowerControlWrite s
  | .idleHoldExpiry => Sys2Proof.Machine.execIdleHoldExpiry s
  | .powerStateExit => Sys2Proof.Machine.execPowerStateExit s
  | .persistAccept => Sys2Proof.Machine.execPersistAccept s
  | .seqIncrement => Sys2Proof.Machine.execSeqIncrement s
  | .interruption => Sys2Proof.Machine.execInterruption s
  | .powerUp => Sys2Proof.Machine.execPowerUp s
  | .boot => Sys2Proof.Machine.execBoot s
  | .deviceReset => Sys2Proof.Machine.execDeviceReset s
  | .tag => Sys2Proof.Machine.execTag s
  | .tbinv => Sys2Proof.Machine.execTbinv s
  | .savearea => Sys2Proof.Machine.execSavearea s
  | .jobctx => Sys2Proof.Machine.execJobctx s
  | .engsv => Sys2Proof.Machine.execEngsv s
  | .engld => Sys2Proof.Machine.execEngld s
  | .slotEnd => Sys2Proof.Machine.execSlotEnd s
  | .slotRestore => Sys2Proof.Machine.execSlotRestore s
  | .slotRestart => Sys2Proof.Machine.execSlotRestart s
  | .fenceCommand => Sys2Proof.Machine.execFenceCommand s
  | .home => Sys2Proof.Machine.execHome s
  | .shutdown => Sys2Proof.Machine.execShutdown s
  | .timer => Sys2Proof.Machine.execTimer s
  | .timerExpiry => Sys2Proof.Machine.execTimerExpiry s
  | .service => Sys2Proof.Machine.execService s
  | .start => Sys2Proof.Machine.execStart s
  | .commandUnassigned => Sys2Proof.Machine.execCommandUnassigned s
  | .scrub => Sys2Proof.Machine.execScrub s
  | .hostAccess => Sys2Proof.Machine.execHostAccess s
  | .semaphoreClaim => Sys2Proof.Machine.execSemaphoreClaim s
  | .semaphoreRelease => Sys2Proof.Machine.execSemaphoreRelease s
  | .linkDownTimeout => Sys2Proof.Machine.execLinkDownTimeout s
  | .attestGo => Sys2Proof.Machine.execAttestGo s
  | .attestReportReady => Sys2Proof.Machine.execAttestReportReady s
  | .registerWrite => Sys2Proof.Machine.execRegisterWrite s
  | .illegalEncoding => Sys2Proof.Machine.execIllegalEncoding s
  | .issueCreditStart => Sys2Proof.Machine.execIssueCreditStart s
  | .memoryError => Sys2Proof.Machine.execMemoryError s
  | .mediaWrite => Sys2Proof.Machine.execMediaWrite s
  | .linkDown => Sys2Proof.Machine.execLinkDown s
  | .linkUp => Sys2Proof.Machine.execLinkUp s

end Sys2Proof.Machine
end

