-- ==== Sys2Proof/Machine/Schedule.lean ====
section
/-!
DEFINITION. The schedule (log 4): a clk has four parts, and each part starts with the list of moves that the state asks for. Part 0 offers
issue positions, part 1 delivers the messages that are due, part 2 runs engines and commands, part 3 holds the waits that end with the clk
and what the outside does.
-/
namespace Sys2Proof.Machine

/-- An event as a move. -/
def moveOf (i : Instr) (a : EvArg) : Turn := .event i a

/-! ## Part 0 -/

/-- A core has a thread in some slot. -/
def Core.busy (c : Core) : Bool := c.slots.toList.any fun t => t.st != .free

/-- Part 0: the issue position of every core that has a thread (R121). -/
def State.positionTurns (s : State) : List Turn := (s.cores.filter fun c => c.2.busy).map fun c => .position c.1

/-! ## Part 1: deliveries -/

/-- The messages that may be delivered in this clk: those due that follow no earlier one whose order binds them. -/
def State.dueMsgs (s : State) : List Msg := s.msgs.filter fun m => m.due ≤ s.clk && !s.bound m

/-- Place of an operation among those that reach a concord in one clk (R224): CCINIT, arrivals, expectations, tests and waits. -/
def AccOp.place : AccOp → Nat
  | .ccinit _ => 1
  | .ccarr .. => 2
  | .ccexp _ => 3
  | .cctest _ => 4
  | .ccwait _ => 4
  | .cmtest .. => 4
  | .cmwait .. => 4
  | _ => 0

/-- The operation of an access under way. -/
def State.accessOp (s : State) (id : Nat) : AccOp :=
  match SMap.get none s.accesses id with
  | some a => a.op
  | none => .load

/-- Place of a message among those of one clk. -/
def State.msgClass (s : State) (b : MsgBody) : Nat :=
  match b with
  | .access id _ => (s.accessOp id).place
  | _ => 0

/-- The core that a message comes from, for the order of those that reach one place in one clk. -/
def State.msgSource (s : State) (b : MsgBody) : Nat :=
  match b with
  | .access id _ => ((SMap.get none s.accesses id).map (·.core)).getD 0
  | .word c .. => c
  | .treePart c .. => c
  | .join c .. => c
  | .steal _ c .. => c
  | .seq c .. => c
  | .distRequest _ _ _ die _ => die
  | .classUpdate c _ => c
  | .loan src .. => Config.supCore src
  | .returned src .. => Config.supCore src
  | _ => 0

/-- Puts a message in its place: by class, then source, then age. -/
def State.insertMsg (s : State) (m : Msg) : List Msg → List Msg
  | [] => [m]
  | x :: t =>
    let key (y : Msg) := [s.msgClass y.body, s.msgSource y.body, y.id]
    if decide (key m < key x) then m :: x :: t else x :: s.insertMsg m t

/-- The event that performs a part of an access at its home. -/
def State.accessInstr (s : State) (id home : Nat) (combine : Bool) : Instr :=
  let op := s.accessOp id
  match op with
  | .recast _ => .recastMessage
  | _ =>
    if 40000 ≤ home && op.kind == .write then .registerWrite
    else if 30000 ≤ home && home < 40000 && op.kind.writes then .persistAccept
    else
      match op with
      | .ccinit _ => .concordInit
      | .ccarr .. => .concordArrival
      | .ccexp _ => .concordExpectation
      | _ => if combine then .combineWindowExpiry else .remoteAccess

/-- The event that a message's delivery is. -/
def State.msgTurn (s : State) (m : Msg) (combine : Bool) : Turn :=
  let a : EvArg := { id := m.id }
  match m.body with
  | .access id home => moveOf (s.accessInstr id home combine) a
  | .reply id _ => moveOf (if (SMap.get none s.accesses id).any fun x => x.posted then .postedWriteAck else .remoteReply) a
  | .probe .. => moveOf .fenceProbe a
  | .echo .. => moveOf .fenceEcho a
  | .fetch c k b => moveOf .fetchBlock { core := c, slot := k, addr := b, more := true }
  | .word .. => moveOf .packetWordArrival a
  | .treePart .. => moveOf .treePartial a
  | .treeDown .. => moveOf .treeResult a
  | .treeFail .. => moveOf .treeResult a
  | .resend .. => moveOf .waiterResend a
  | .cancelWaiter .. => moveOf .waiterCancel a
  | .done .. => moveOf .remoteReply a
  | .failed .. => moveOf .remoteReply a
  | .join .. => moveOf .joinAtHome a
  | .cancel .. => moveOf .cancelAtHome a
  | .steal .. => moveOf .stealArrival a
  | .stolen .. => moveOf .stealReply a
  | .distRequest .. => moveOf .rangeHandout a
  | .distRange .. => moveOf .rangeHandout a
  | .sweep .. => moveOf .generationSweep a
  | .classUpdate .. => moveOf .brokerClassUpdate a
  | .holding _ => moveOf .holdingChange a
  | .loan .. => moveOf .loanMessage a
  | .returned .. => moveOf .recallReturn a
  | .seq _ _ _ _ kind => moveOf (if kind = 0 then .seqIncrement else .remoteAccess) a

/-- The moves of a list of messages; routers may combine a request with others (R120), by a free choice. -/
def State.msgTurns (s : State) : List Msg → State × List Turn
  | [] => (s, [])
  | m :: t =>
    let c := if (s.combineKey m.body).isSome then s.drawChoice 2 else (0, s)
    let q := c.2.msgTurns t
    (q.1, s.msgTurn m (c.1 == 1) :: q.2)

/-- The message is a fetch, which its event does not take by number. -/
def MsgBody.isFetch : MsgBody → Bool
  | .fetch .. => true
  | _ => false

/-- The message tells a tile its holding. -/
def MsgBody.isHolding : MsgBody → Bool
  | .holding _ => true
  | _ => false

/-- What the broker tells tiles in this clk: it comes to bear in the next one (R247), and so is taken with the end of the clk. -/
def State.holdingTurns (s : State) : List Turn :=
  (s.dueMsgs.filter fun m => m.body.isHolding).map fun m => s.msgTurn m false

/-- Part 1. -/
def State.startDeliveries (s : State) : State :=
  let due := (s.dueMsgs.filter fun m => !m.body.isHolding).foldl (fun l m => s.insertMsg m l) []
  let q := s.msgTurns due
  let gone := (due.filter fun m => m.body.isFetch).map (·.id)
  { q.1 with msgs := q.1.msgs.filter fun m => !gone.contains m.id, agenda := q.2 }

/-! ## Part 2: engines, commands and controllers -/

/-- The event that carries out a copy request (R212). -/
def copyInstr (op : Nat) : Instr :=
  match op with
  | 0 => .copy
  | 1 => .gather
  | 2 => .scatter
  | 3 => .convert
  | _ => .fill

/-- The blocks that a core's threads fetch ahead (R147). -/
def State.fetchTurns (s : State) (cid : Nat) (c : Core) : List Turn :=
  (List.range 16).filterMap fun k =>
    let t := c.slot k
    match t.pre with
    | some b =>
      let asked := s.msgs.any fun m => match m.body with
        | .fetch d j a => d == cid && j == k && blockOf a == b
        | _ => false
      if asked || t.st == .free || t.st == .stopped then none else some (moveOf .fetchBlock { core := cid, slot := k, addr := b })
    | none => none

/-- The matrix engine's moves (R244, R260). -/
def Core.matrixTurns (c : Core) (a : EvArg) : List Turn :=
  match c.mxRun with
  | none => if c.mxQueue.isEmpty then [] else [moveOf .matrixDispatch a]
  | some r =>
    if r.blocked.isSome then []
    else
      match r.stage with
      | .start => [moveOf .matrixDispatch a]
      | .vector _ xs => if xs.isEmpty then [moveOf .matrixDispatch a] else []
      | .drain .. => [moveOf (match r.job.op with
          | .mtile .. => .mtileChunkResume
          | _ => .matrixDispatch) a]
      | .round _ _ vs paid => if paid < vs.length * recPasses r.job.op.record then [] else [moveOf .matrixDispatch a]
      | _ => [moveOf .mtileChunkResume a]

/-- The lexicon engine's moves (R278). -/
def Core.lexiconTurns (c : Core) (a : EvArg) : List Turn :=
  if c.lxRun.any (fun r => r.blocked.isNone) || (c.lxRun.isNone && !c.lxQueue.isEmpty) then [moveOf .lexiconDispatch a] else []

/-- Moves of which each is made in this clk or later, by a free choice. -/
def State.someOf (s : State) : List Turn → State × List Turn
  | [] => (s, [])
  | t :: l =>
    let c := s.drawChoice 2
    let q := c.2.someOf l
    (q.1, if c.1 = 0 then t :: q.2 else q.2)

/-- The moves of a live core's engines. Where accesses of a higher kind want a bank (R96), the matrix or the lexicon engine may lose the
clk; those of the copy engine come at free times anyway (log 5). -/
def State.engineTurns (s : State) (cid : Nat) (c : Core) : State × List Turn :=
  let a : EvArg := { core := cid }
  let busy := c.bankBusy s.clk
  let m := if busy then s.someOf (c.matrixTurns a) else (s, c.matrixTurns a)
  let l := if busy || c.mxRun.isSome then m.1.someOf (c.lexiconTurns a) else (m.1, c.lexiconTurns a)
  (l.1, s.fetchTurns cid c
    ++ (if c.copyFifo.isEmpty then [] else [moveOf .copyRequestStart a])
    ++ ((c.copyBusy.filter (c.copyReady s.clk)).map fun r => moveOf (copyInstr r.op) { core := cid, id := r.id })
    ++ m.2 ++ l.2
    ++ (if c.mxRun.isSome || c.lxRun.isSome || c.debt != 0 then [moveOf .issueCreditStart a] else [])
    ++ (if c.pend.isSome then [moveOf .recastAdopt a] else []))

/-- The moves of several cores' engines. -/
def State.allEngineTurns (s : State) : List (Nat × Core) → State × List Turn
  | [] => (s, [])
  | c :: t =>
    let x := s.engineTurns c.1 c.2
    let y := x.1.allEngineTurns t
    (y.1, x.2 ++ y.2)

/-- The event of a command's code (R399). -/
def commandInstr (code action : Nat) : Instr :=
  match code with
  | 1 => .tag
  | 2 => .tbinv
  | 3 => .savearea
  | 4 => .jobctx
  | 5 => if action % 2 = 0 then .engsv else .engld
  | 6 =>
    match action % 4 with
    | 0 => .slotEnd
    | 1 => .slotRestore
    | _ => .slotRestart
  | 7 => .fenceCommand
  | 8 => .home
  | 9 => .shutdown
  | 10 => .timer
  | 11 => .service
  | 12 => .start
  | _ => .commandUnassigned

/-- The commands that dies carry out (R398). -/
def State.commandTurns (s : State) : List Turn :=
  s.dies.filterMap fun d => d.2.cmd.map fun c => moveOf (commandInstr c.1 (c.2[2]).toNat) { core := d.1 }

/-- The launches of mode 3 that dies may ask ranges of (R339). -/
def State.rangeTurns (s : State) : List Turn :=
  s.jobs.flatMap fun j => (s.launchesOf j.1).flatMap fun x =>
    if x.2.eligible && !x.2.cancelled && x.2.more && dMode x.2.desc == 3 then
      (s.maskDies x.2).map fun d => moveOf .distributorRequest { core := d, size := j.1, id := x.1 }
    else []

/-- Moves whose time the spec leaves to the device: commands, writes to the media (R382), the scrubber (R401), attestation (R417), requests
of distributors. -/
def State.looseTurns (s : State) : List Turn :=
  s.commandTurns ++ (s.nvq.map fun q => moveOf .mediaWrite { id := q.1 }) ++ s.rangeTurns
    ++ ((s.lines.filter fun l => !l.2.sound).map fun l => moveOf .scrub { addr := BitVec.ofNat 64 (l.1 * 64) })
    ++ (if s.attesting.isSome then [moveOf .attestReportReady {}] else [])

/-- Part 2. -/
def State.startEngines (s : State) : State :=
  let e := s.allEngineTurns (s.cores.filter fun c => !s.isDead c.1)
  let q := e.1.someOf s.looseTurns
  { q.1 with agenda := e.2 ++ q.2 }

/-! ## Part 3: the end of the clk -/

/-- The waits of a slot that end by time, and its stop (R97, R144, R175, R298). -/
def State.slotTurns (s : State) (cid k : Nat) (t : Slot) : List Turn :=
  let a : EvArg := { core := cid, slot := k }
  (match t.st with
    | .parked (.sleep (some dl)) => if dl ≤ s.clk then [moveOf .sleepTimeout a] else []
    | .parked (.send ..) => if s.stalled t then [moveOf .channelStallTimeout a] else []
    | .parked (.tree _) => if s.stalled t then [moveOf .channelStallTimeout a] else []
    | _ => [])
    ++ (if t.stopReq.isSome then [moveOf .stop a] else [])

/-- A core has T-cont accesses to serve (R97). -/
def Core.tconts (c : Core) : Bool := c.slots.toList.any fun t => !t.banks.cont.isEmpty || t.st == .parked .tcont

/-- The moves of every slot, after one clk of T-cont service. -/
def State.allSlotTurns (s : State) : List Turn :=
  ((s.cores.filter fun c => c.2.tconts).map fun c => moveOf .tcontAccess { core := c.1 })
    ++ s.cores.flatMap fun c => (List.range 16).flatMap fun k => s.slotTurns c.1 k (c.2.slot k)

/-- The conditions that are evaluated at the end of a clk: WAITC (R352), held concord waits (R230), launch entries (R319), recalls whose time
is over (R370), and the idleness of the device (R376). -/
def State.settle (s : State) : State :=
  let s := (s.cores.map (·.1)).foldl State.wakeWaitc s
  let s := s.wakeConcords s.waiters
  let s := (s.jobs.map (·.1)).foldl State.freeLaunches s
  let late := s.dies.filter fun d => d.2.returning.any fun r => r.due ≤ s.clk
  let s := (late.map (·.1)).foldl State.settleZone s
  if s.idle then s else { s with idleFrom := s.clk + 1 }

/-- The launches that may become eligible (R331). -/
def State.eligibleTurns (s : State) : List Turn :=
  s.jobs.flatMap fun j => (s.launchesOf j.1).filterMap fun x =>
    if s.mayBegin j.1 x.2 then some (moveOf .launchEligible { size := j.1, id := x.1 }) else none

/-- Timers that expire (R399). -/
def State.timerTurns (s : State) : List Turn :=
  (s.dies.filter fun d => d.2.timer.any fun t => t ≤ s.clk).map fun d => moveOf .timerExpiry { core := d.1 }

/-- Clause starts (R321), notices (R371) and timers (R399) that are due. -/
def State.dueTurns (s : State) : List Turn :=
  ((s.cores.filter fun c => !c.2.ready.isEmpty).map fun c => moveOf .clauseStart { core := c.1 })
    ++ ((s.cores.filter fun c => c.2.notices.any fun n => n.due ≤ s.clk).map fun c => moveOf .revocationNoticeExpiry { core := c.1 })
    ++ s.timerTurns

/-- The device's own time limits (R376, R415); an exit from a power state is complete when its latency has passed, at the latest. -/
def State.deviceTurns (s : State) : State × List Turn :=
  let c := if s.exitAt.isSome then s.drawChoice 2 else (0, s)
  (c.2,
    (if s.linkTimedOut then [moveOf .linkDownTimeout {}] else [])
      ++ (if s.powerState = 0 && s.idle then [moveOf .idleHoldExpiry {}] else [])
      ++ (if s.exitAt.any fun t => c.1 = 1 || t + exitClk s.powerState ≤ s.clk then [moveOf .powerStateExit {}] else []))

/-- What the outside does in this clk. -/
def State.takeInput (s : State) : State × List Turn :=
  match s.inputs with
  | x :: t => ({ s with inputs := t }, [.event x.1 x.2])
  | [] => (s, [])

/-- The tiles, the engines and the rest of the device run: it has booted, and is in Active (R375, R410). -/
def State.running (s : State) : Bool := s.bootState == .ready && s.powerState == 0

/-- The device's reset is released, and its boot begins: at a free time while the outside has something to do before, else now (R406, log 99). -/
def State.bootTurns (s : State) : State × List Turn :=
  if s.bootState != .booting || s.powerState != 0 then (s, [])
  else if s.inputs.isEmpty then (s, [.event .boot {}])
  else
    let c := s.drawChoice 2
    (c.2, if c.1 = 0 then [.event .boot {}] else [])

/-- Part 3. In a power state below Active, and in Hold, nothing runs but what the outside and the device's own logic do (R375, R376, R410);
timers go on in Clock-idle and Retain (R399). -/
def State.startEnd (s : State) : State :=
  let s := s.resumeHosts
  let d := s.deviceTurns
  let x := d.1.takeInput
  let b := x.1.bootTurns
  { b.1 with
    agenda := (if s.running then s.holdingTurns ++ s.allSlotTurns ++ [.settle, .close] else if s.bootState == .ready then s.timerTurns else [])
      ++ d.2 ++ x.2 ++ b.2 }

/-- The last moves of a clk: launches that have become eligible, clause starts and what is due. -/
def State.close (s : State) : State := { s with agenda := s.eligibleTurns ++ s.dueTurns ++ s.agenda }

/-! ## The parts in order -/

/-- With the supply off, the outside brings it back, or nothing more happens. -/
def State.dark (s : State) : Out :=
  if s.inputs.any fun x => x.1 == .powerUp then
    .next { s with inputs := (s.inputs.dropWhile fun x => x.1 != .powerUp).drop 1, agenda := [moveOf .powerUp {}] }
  else .fault .powerOff

/-- The next part of the clk, or the next clk. Where the clocks of the tiles and engines are stopped, only the last part has moves. -/
def State.nextPart (s : State) : Out :=
  if !s.supply then s.dark
  else
    let run := s.running
    match s.phase with
    | 0 => .next (if run then { s with phase := 1 }.startDeliveries else { s with phase := 1 })
    | 1 => .next (if run then { s with phase := 2 }.startEngines else { s with phase := 2 })
    | 2 => .next { s with phase := 3 }.startEnd
    | _ =>
      let s := { s with phase := 0, clk := s.clk + 1 }
      .next { s with agenda := if run then s.positionTurns else [] }

end Sys2Proof.Machine
end

