-- ==== Sys2Proof/Machine/Step.lean ====
section
/-!
DEFINITION. One step of the machine: the first move of the agenda, or, when it is empty, the moves of the next part of the clk. And
`State.withFetchWord`, which puts one instruction where the next step fetches.
-/
namespace Sys2Proof.Machine

/-- A position's outcome: a state of the schedule, or the meaning of the instruction that issues. -/
def Served.outcome : Served → Host.Outcome State Fault Refusal
  | .turn s => .next s
  | .run i s => exec i s

/-- One step. -/
def step (s : State) : Host.Outcome State Fault Refusal :=
  match s.agenda with
  | [] => s.nextPart
  | .position c :: rest => (State.position { s with agenda := rest } c).outcome
  | .spare c :: rest => (State.spare { s with agenda := rest } c).outcome
  | .contain c x :: rest => .next (State.contain { s with agenda := rest } c x)
  | .resume c k i :: rest => exec i { s with agenda := rest, cur := ⟨c, k⟩ }
  | .settle :: rest => .next { s with agenda := rest }.settle
  | .close :: rest => .next { s with agenda := rest }.close
  | .event i a :: rest => exec i { s with agenda := rest, ev := a }

/-- The tile whose slot 0 runs a placed instruction: a sparse tile, which has every engine (R11). -/
def probeTile : Nat := 5

/-- `s` with an instruction placed where the next step fetches it: slot 0 of tile 5 holds a ready thread of job 1 whose pc is the
start of that tile's slice, whose s0 lets it fetch there and whose buffer and memory hold the word; its home position is the next
move of the schedule. The bits above `nbits` are 0. -/
def State.withFetchWord (s : State) (nbits w : Nat) : State :=
  let a := sramCell probeTile 0
  let clk := s.clk / 16 * 16 + (16 - (s.die (Config.coreDie probeTile)).lead % 16) % 16
  let bits := w % 2 ^ nbits % 2 ^ 256
  let s := (s.writePlain a 32 bits).modLine a fun m => { m with tag := 1 }
  let s := s.modSlot probeTile 0 fun t =>
    { t with
      st := .ready
      occ := some { job := 1 }
      pc := BitVec.ofNat 64 a
      s := t.s.set 0 (mkSeg a (2 ^ 18) rExec)
      flags := withSkip t.flags 0
      reports := []
      buf := [⟨BitVec.ofNat 64 a, bits⟩]
      want := none, pre := none, homeHold := false, retry := false, stopReq := none
      banks := { }, halves := [], wakeStatus := none
      last := (clk : Int) - 8
      dist := 8 }
  { s with clk, phase := 0, bootState := .ready, powerState := 0, agenda := [.position probeTile] }

end Sys2Proof.Machine
end

