-- ==== Sys2Proof/Safety.lean ====
section
/-!
DEFINITION. The terms in which claims speak of a step: that it answers a next state, that the running thread exists, and what stays as
it was.
-/
namespace Sys2Proof.Machine

/-- The machine goes on. -/
def Goes (s : State) : Prop := ∃ t, step s = .next t

/-- The running thread is one of the 16 of its core (R12). -/
abbrev Runs (s : State) : Prop := s.cur.slot < 16

/-- The running thread after an instruction that writes one general register and flags: it goes on at the next word, and nothing
else of the slot has changed. -/
def Slot.wrote (t : Slot) (d : G) (x flags : Word) : Slot := { t.wg d x with flags := flags, pc := t.npc, st := .ready }

/-- A slot after a trap that does not escalate, as R140 lists it: trap state, hmode, skip_pend and pc; nothing else changes. -/
def Slot.trapped (t : Slot) (cause detail : Nat) (addr resume : Word) (async : Bool) : Slot :=
  { t with
    trapPc := resume, trapFlags := t.flags, trapAddr := addr
    trapCause := BitVec.ofNat 64 ((if async then 1 else 0) <<< 16 ||| cause <<< 8 ||| detail)
    flags := (t.flags ||| 0x80000) &&& ~~~(0x30000 : Word)
    pc := t.hbase + BitVec.ofNat 64 (32 * cause), st := .ready }

/-- A thread takes traps: it is in program mode and has a handler (R140). -/
abbrev Slot.takesTraps (t : Slot) : Prop := t.flags.getLsbD 19 = false ∧ t.hbase ≠ 0

/-- An escalated slot (R141): the trap state describes the trap, with trap_pc at the trapping word, and the thread is stopping. -/
def Slot.escalated (t : Slot) (cause detail : Nat) (addr : Word) (async : Bool) : Slot :=
  { t with
    trapPc := t.pc, trapFlags := t.flags, trapAddr := addr
    trapCause := BitVec.ofNat 64 ((if async then 1 else 0) <<< 16 ||| cause <<< 8 ||| detail)
    st := .parked .escalated, stopReq := some .escalation }

/-- Between `s` and `t`, slot `k` of core `c` alone may differ: memory, line metadata, every other slot, core, die and job, the
messages under way and everything else are the same. -/
structure OnlySlot (s t : State) (c k : Nat) : Prop where
  rest : t = { s with cores := t.cores }
  cores : ∀ d, d ≠ c → t.core d = s.core d
  core : t.core c = { s.core c with slots := (t.core c).slots }
  slots : ∀ j, j ≠ k → t.slot c j = s.slot c j

/-- Between `s` and `t`, the running thread's slot alone may differ. -/
abbrev OnlyMe (s t : State) : Prop := OnlySlot s t s.cur.core s.cur.slot

/-- The cores of `t` are those of `s` but for slot `k` of core `c`; what else differs is said beside it. -/
structure CoresBut (s t : State) (c k : Nat) : Prop where
  cores : ∀ d, d ≠ c → t.core d = s.core d
  core : t.core c = { s.core c with slots := (t.core c).slots }
  slots : ∀ j, j ≠ k → t.slot c j = s.slot c j

/-- The cores of `t` are those of `s` but for core `c`. -/
def OthersSame (s t : State) (c : Nat) : Prop := ∀ d, d ≠ c → t.core d = s.core d

/-- The messages under way are those of `kept`, and new ones that carry these bodies, each delivered in a later clk. -/
def Sent (s t : State) (kept : List Msg) (bodies : List MsgBody) : Prop :=
  ∃ new, t.msgs = kept ++ new ∧ new.map (·.body) = bodies ∧ ∀ m ∈ new, s.clk < m.due

/-- The messages of `s` without the one that the event names. -/
def State.untaken (s : State) : List Msg := s.msgs.filter fun m => m.id != s.ev.id

/-- The message that the event names is there, and carries this body. -/
abbrev Carries (s : State) (b : MsgBody) : Prop := (s.msgs.find? fun m => m.id == s.ev.id).map (·.body) = some b

/-- Between `s` and `t`, slot `k` of core `c` and the messages under way may differ: those of `kept` are there, and new ones with these
bodies; nothing else has changed. -/
structure SlotSends (s t : State) (c k : Nat) (kept : List Msg) (bodies : List MsgBody) : Prop extends CoresBut s t c k where
  rest : t = { s with cores := t.cores, msgs := t.msgs, nextMsg := t.nextMsg, draws := t.draws }
  sent : Sent s t kept bodies

/-- The checks of R90 send an access of the running thread, at an offset of a segment, to cell c (of a space that is not translated). -/
def Reaches (s : State) (sg : BitVec 128) (off : Int) (n : Nat) (op : AccOp) (reg : Bool) (c : Nat) : Prop :=
  ∃ a, segAddr sg off n n op.rights reg = .ok a ∧ s.checkSpace (s.agent s.cur.core s.cur.slot) a = .ok (.cell c)

/-- Cell c lies in the running tile's own SRAM, the checks made there (R94, R99, R100) let an access of a kind pass, and its line has
no error. -/
structure InOwnSlice (s : State) (k : AKind) (c : Nat) : Prop where
  core : s.cur.core < 12352
  own : s.homeOf c = s.cur.core
  target : ∀ n, s.targetCheck s.cur.core s.me.tag k c n = none
  clean : (s.line c).sound = true
  whole : (s.line c).wiped = none

/-- The n bytes from cell c on hold x, lowest first (R4), and the typed bit of their line is as given (R76); no other byte and no other
line has changed. -/
structure StoredAs (s t : State) (c n x : Nat) (typed : Bool) : Prop where
  byte : ∀ a, t.byte a = if c ≤ a ∧ a < c + n then BitVec.ofNat 8 (x / 256 ^ (a - c)) else s.byte a
  line : ∀ a, t.line a = if a / 64 = c / 64 then { s.line a with typed := typed } else s.line a

/-- A plain store: the line is no longer typed. -/
abbrev Stored (s t : State) (c n x : Nat) : Prop := StoredAs s t c n x false

/-- The running thread's slot, bytes of memory and line metadata may differ; nothing else does. What memory does is said beside it. -/
structure OnlyMeAndMemory (s t : State) : Prop extends CoresBut s t s.cur.core s.cur.slot where
  rest : t = { s with cores := t.cores, mem := t.mem, lines := t.lines }

/-- Every byte of memory and the metadata of every line is the same (R81, R98). -/
def SameMemory (s t : State) : Prop := (∀ a, t.byte a = s.byte a) ∧ ∀ a, t.line a = s.line a

end Sys2Proof.Machine
end

