-- ==== Sys2Proof/Certificates/Slice0/Obligations.lean ====
section
/-!
DEFINITION. The statements for the provers. Each says what instructions of one shape do, for every state and operands that meet its
hypotheses, and that nothing else changes; `OnlyMe` and its kin (Safety.lean) are the frames.
-/
namespace Sys2Proof.Machine

/-! ## Integer instructions -/

/-- A row of Table 9 (R154) with a register and an immediate form: what it computes on W-bit operands, and whether it divides. -/
structure IntRow where
  reg : Width → G → G → G → Instr
  imm : Width → G → G → Imm → Instr
  op : (n : Nat) → BitVec n → BitVec n → BitVec n
  divides : Bool := false

/-- The rows of Table 9 that have an immediate form (R46, R154, R155). -/
def intRows : List IntRow := [
  { reg := .add, imm := .addImm, op := fun _ x y => x + y },
  { reg := .sub, imm := .subImm, op := fun _ x y => x - y },
  { reg := .mul, imm := .mulImm, op := fun _ x y => x * y },
  { reg := .mulh, imm := .mulhImm, op := fun n x y => BitVec.ofInt n (x.toInt * y.toInt / 2 ^ n) },
  { reg := .mulhu, imm := .mulhuImm, op := fun n x y => BitVec.ofNat n (x.toNat * y.toNat / 2 ^ n) },
  { reg := .div, imm := .divImm, op := fun n x y => if y = 0 then BitVec.allOnes n else x.sdiv y, divides := true },
  { reg := .divu, imm := .divuImm, op := fun n x y => if y = 0 then BitVec.allOnes n else x.udiv y, divides := true },
  { reg := .rem, imm := .remImm, op := fun _ x y => if y = 0 then x else x.srem y, divides := true },
  { reg := .remu, imm := .remuImm, op := fun _ x y => if y = 0 then x else x.umod y, divides := true },
  { reg := .and, imm := .andImm, op := fun _ x y => x &&& y },
  { reg := .or, imm := .orImm, op := fun _ x y => x ||| y },
  { reg := .xor, imm := .xorImm, op := fun _ x y => x ^^^ y },
  { reg := .andn, imm := .andnImm, op := fun _ x y => x &&& ~~~y },
  { reg := .orn, imm := .ornImm, op := fun _ x y => x ||| ~~~y },
  { reg := .shl, imm := .shlImm, op := fun n x y => x <<< (y.toNat % n) },
  { reg := .shr, imm := .shrImm, op := fun n x y => x >>> (y.toNat % n) },
  { reg := .sar, imm := .sarImm, op := fun n x y => x.sshiftRight (y.toNat % n) },
  { reg := .rol, imm := .rolImm, op := fun n x y => x.rotateLeft (y.toNat % n) },
  { reg := .ror, imm := .rorImm, op := fun n x y => x.rotateRight (y.toNat % n) },
  { reg := .min, imm := .minImm, op := fun _ x y => if x.slt y then x else y },
  { reg := .minu, imm := .minuImm, op := fun _ x y => if x.ult y then x else y },
  { reg := .max, imm := .maxImm, op := fun _ x y => if x.slt y then y else x },
  { reg := .maxu, imm := .maxuImm, op := fun _ x y => if x.ult y then y else x }]

/-- dz (R58), which a divisor of 0 sets (R155). -/
def dzWhen (c : Bool) (flags : Word) : Word := if c then flags ||| 2 else flags

end Sys2Proof.Machine

open Sys2Proof Sys2Proof.Machine

/-- R153 to R155: every row of Table 9 with two source registers, in both widths. g[d] is the row's result on the low W bits of the
sources, sign-extended from W bits; dz is set by a divisor of 0 and no other flag changes; nothing else changes. -/
def Obligations.IntegerRegisterForms : Prop :=
  ∀ r ∈ intRows, ∀ w ∈ [Width.w64, Width.w32], ∀ (d a b : G) (s : State), Runs s →
    let x := (s.me.rg a).setWidth w.bits
    let y := (s.me.rg b).setWidth w.bits
    ∃ t, exec (r.reg w d a b) s = .next t ∧ OnlyMe s t ∧
      t.me = s.me.wrote d ((r.op w.bits x y).signExtend 64) (dzWhen (r.divides && y == 0) s.me.flags)

/-- R153, R46: the immediate form of every row of Table 9 that has one: the sign-extended immediate, modulo 2^W, takes the place of
g[b]. -/
def Obligations.IntegerImmediateForms : Prop :=
  ∀ r ∈ intRows, ∀ w ∈ [Width.w64, Width.w32], ∀ (d a : G) (imm : Imm) (s : State), Runs s →
    let x := (s.me.rg a).setWidth w.bits
    let y := BitVec.ofInt w.bits imm.val
    ∃ t, exec (r.imm w d a imm) s = .next t ∧ OnlyMe s t ∧
      t.me = s.me.wrote d ((r.op w.bits x y).signExtend 64) (dzWhen (r.divides && y == 0) s.me.flags)

/-- R154, R156: CLZ, CTZ, POPC, BFX, BFI, SEL in both forms, LI and MOV. `field` is the field of R156: its position and, when it
lies within W bits, its length. -/
def Obligations.BitFieldsAndMoves : Prop :=
  ∀ w ∈ [Width.w64, Width.w32], ∀ (d a b c : G) (imm : Imm) (s : State), Runs s →
    let x := (s.me.rg a).setWidth w.bits
    let y := (s.me.rg b).setWidth w.bits
    let old := (s.me.rg d).setWidth w.bits
    let pos := ((s.me.rg b).extractLsb' 0 6).toNat
    let len := ((s.me.rg c).extractLsb' 0 7).toNat
    let within (j : Nat) : Bool := pos ≤ j && j < pos + len
    let done (i : Instr) (r : BitVec w.bits) : Prop :=
      ∃ t, exec i s = .next t ∧ OnlyMe s t ∧ t.me = s.me.wrote d (r.signExtend 64) s.me.flags
    done (.clz w d a) x.clz ∧ done (.ctz w d a) x.ctz ∧ done (.popc w d a) x.cpop ∧ done (.mov w d a) x ∧
    done (.sel w d a b c) (if s.me.rg c ≠ 0 then x else y) ∧
    done (.selImm w d a c imm) (if s.me.rg c ≠ 0 then x else BitVec.ofInt w.bits imm.val) ∧
    (∃ r, done (.bfx w d a b c) r ∧ ∀ j < w.bits, r.getLsbD j = (decide (j < len) && x.getLsbD (pos + j))) ∧
    (∃ r, done (.bfi w d a b c) r ∧ ∀ j < w.bits, r.getLsbD j = if within j then x.getLsbD (j - pos) else old.getLsbD j) ∧
    ∃ t, exec (.li d imm) s = .next t ∧ OnlyMe s t ∧ t.me = s.me.wrote d (BitVec.ofInt 64 imm.val) s.me.flags

/-! ## Compare, skip and control -/

/-- The compare conditions (R37, Table 7). -/
def Sys2Proof.Machine.condTrue (c : Cond) (x y : Word) : Bool :=
  match c with
  | .eq => x == y
  | .ne => x != y
  | .lt => x.slt y
  | .ge => !x.slt y
  | .ltu => x.ult y
  | .geu => !x.ult y
  | .tz => x &&& y == 0
  | .tnz => x &&& y != 0

/-- R157: CMP and CMPI compare all 64 bits. A false compare sets skip_pend to the skip count; a true one leaves it; no register and
no other flag changes. -/
def Obligations.CompareAndSkip : Prop :=
  ∀ (cond : Cond) (skip : Fin 4) (a b : G) (imm : Imm) (s : State), skip ≠ 0 → Runs s →
    let after (holds : Bool) : Slot := { s.me with
      flags := if holds then s.me.flags else s.me.flags &&& ~~~(0x30000 : Word) ||| BitVec.ofNat 64 skip.val <<< 16
      pc := s.me.npc, st := .ready }
    (∃ t, exec (.cmp cond skip a b) s = .next t ∧ OnlyMe s t ∧ t.me = after (condTrue cond (s.me.rg a) (s.me.rg b))) ∧
    ∃ t, exec (.cmpi cond skip a imm) s = .next t ∧ OnlyMe s t ∧
      t.me = after (condTrue cond (s.me.rg a) (BitVec.ofInt 64 imm.val))

/-- R158 to R160: B, BL, BI, BLI and NOP. A branch goes to its target; BL and BLI write the address of the next word to g[d] after the
target is read; nothing else changes. -/
def Obligations.ControlTransfers : Prop :=
  ∀ (off : Imm) (a d : G) (s : State), Runs s →
    let target : Word := s.me.pc + 4 * BitVec.ofInt 64 off.val
    (∃ t, exec (.b off) s = .next t ∧ OnlyMe s t ∧ t.me = { s.me with pc := target, st := .ready }) ∧
    (∃ t, exec (.bl d off) s = .next t ∧ OnlyMe s t ∧ t.me = { s.me.wg d s.me.npc with pc := target, st := .ready }) ∧
    (∃ t, exec .nop s = .next t ∧ OnlyMe s t ∧ t.me = { s.me with pc := s.me.npc, st := .ready }) ∧
    ((s.me.rg a).extractLsb' 0 2 = 0 →
      (∃ t, exec (.bi a) s = .next t ∧ OnlyMe s t ∧ t.me = { s.me with pc := s.me.rg a, st := .ready }) ∧
      ∃ t, exec (.bli d a) s = .next t ∧ OnlyMe s t ∧ t.me = { s.me.wg d s.me.npc with pc := s.me.rg a, st := .ready }) ∧
    ((s.me.rg a).extractLsb' 0 2 ≠ 0 → s.me.takesTraps → ∀ i ∈ [Instr.bi a, .bli d a],
      ∃ t, exec i s = .next t ∧ OnlyMe s t ∧ t.me = s.me.trapped 0x01 0 0 s.me.pc false)

/-! ## Traps -/

/-- The tile base of a core (R81, R178). -/
abbrev Sys2Proof.Machine.baseOf (sn : Nat) : Nat := Config.tileBase sn

/-- An entry of die 0's event ring (R413): at twice the count modulo 256 stand its word 0, made of code, die and tile base, and its word 1;
the count has gone up by one, and every other word of the ring stays. -/
def Sys2Proof.Machine.RingTakes (s t : State) (code die base : Nat) (word1 : Word) : Prop :=
  let n := s.ringCount.toNat % 256
  t.ringCount = s.ringCount + 1 ∧
  SMap.get 0 t.ring (2 * n) = BitVec.ofNat 64 (code * 2 ^ 56 + die * 2 ^ 40 + base) ∧ SMap.get 0 t.ring (2 * n + 1) = word1 ∧
  ∀ i, i ≠ 2 * n → i ≠ 2 * n + 1 → SMap.get 0 t.ring i = SMap.get 0 s.ring i

/-- R140, R172, R49, R142: taking a trap. TRAP resumes at the next word; a decode stop resumes at its own word; an asynchronous report is
taken with async set, at the instruction where the thread stands, and is no longer pending, nor is a retry of that instruction (R151). R141: in
handler mode, or without a handler, a trap escalates: the thread stops at the trapping word with the trap state written, the die's supervisor
core receives the report, and die 0's event ring takes an entry of code 0x04 with the tile base (0 for a supervisor core, R413), and the
owner tag, the slot and the trap_cause of the trap in its word 1. -/
def Obligations.Traps : Prop :=
  (∀ (code : BitVec 8) (s : State), Runs s → s.me.takesTraps →
      (∃ t, exec (.trap code) s = .next t ∧ OnlyMe s t ∧ t.me = s.me.trapped 0x10 code.toNat 0 s.me.npc false) ∧
      (∃ t, exec .illegalEncoding s = .next t ∧ OnlyMe s t ∧ (s.ev.value.toNat < 256 →
        t.me = if s.ev.flag then s.me.trapped 0x01 0 0 s.me.pc false else s.me.trapped 0x02 s.ev.value.toNat 0 s.me.pc false)) ∧
      ∀ (c k : Nat) (r : Report) (rest : List Report), s.ev.core = c → s.ev.slot = k → k < 16 → (s.slot c k).takesTraps →
        (s.slot c k).st = .ready → (s.slot c k).reports = r :: rest → r.cause < 256 → r.detail < 256 →
        ∃ t, exec .asyncTrapTaken s = .next t ∧ OnlySlot s t c k ∧
          t.slot c k = { s.slot c k with reports := rest, retry := false }.trapped r.cause r.detail r.addr (s.slot c k).pc true) ∧
  ∀ (code : BitVec 8) (die : Nat) (s : State), Runs s → ¬ s.me.takesTraps → die < 64 →
      (s.cur.core < 12288 ∧ die = s.cur.core / 192 ∨ s.cur.core = 12288 + die) →
      ∃ t, exec (.trap code) s = .next t ∧ CoresBut s t s.cur.core s.cur.slot ∧ SameMemory s t ∧
        t.me = s.me.escalated 0x10 code.toNat 0 false ∧
        t.reports = s.reports ++ [⟨die, s.cur.core, s.cur.slot, 0x10, code.toNat, 0, none⟩] ∧
        RingTakes s t 4 die (if s.cur.core < 12288 then baseOf s.cur.core else 0)
          (BitVec.ofNat 64 (s.me.tag <<< 40 ||| s.cur.slot <<< 32 ||| 0x10 <<< 8 ||| code.toNat)) ∧
        t = { s with cores := t.cores, reports := t.reports, ring := t.ring, ringCount := t.ringCount }

/-- R173: RTE takes pc and every field of flags from the trap state, and no reserved bit of it (so read, log 72). R135: in program mode RTE, CTXSV, CTXLD, the absolute form of SEGLD,
and SYSRD and SYSWR of the registers 0x001 to 0x004 raise the privilege trap at their own word, with no other effect. -/
def Obligations.ReturnAndPrivilege : Prop :=
  (∀ (s : State), Runs s → s.me.flags.getLsbD 19 = true → s.me.trapPc.extractLsb' 0 2 = 0 →
      ∃ t, exec .rte s = .next t ∧ OnlyMe s t ∧
        t.me = { s.me with pc := s.me.trapPc, flags := s.me.trapFlags &&& 0xB03FF, st := .ready }) ∧
  ∀ (d a b : G) (sg : S) (num : BitVec 12) (s : State), Runs s → s.me.takesTraps → 1 ≤ num.toNat → num.toNat ≤ 4 →
      ∀ i ∈ [Instr.rte, .ctxsv d a, .ctxld d a, .segldAbs sg a b, .sysrd d num, .syswr num a],
        ∃ t, exec i s = .next t ∧ OnlyMe s t ∧ t.me = s.me.trapped 0x03 0 0 s.me.pc false

/-! ## System instructions -/

/-- R136, Table 5: the value of a system register, zero-extended. -/
def Sys2Proof.Machine.sysReg (s : State) (num : Nat) : Word :=
  [s.me.flags, s.me.trapPc, s.me.trapFlags, s.me.trapCause, s.me.trapAddr, s.me.hbase, s.me.touched,
    s.me.stallTimeout.setWidth 64, (s.core s.cur.core).chkCount, s.me.issueCount].getD num 0

/-- R169 to R171: SEGLD narrowing within its parent and, in handler mode, absolute; SEGRD; SYSRD of every register of Table 5; SYSWR
of each register with an RW field, which leaves RSV and RO bits; trap_flags holds all 64 bits written (the model's choice, log 72). -/
def Obligations.SegmentAndSystemRegisters : Prop :=
  ∀ (d a b : G) (sd sc : S) (half : Bool) (num : BitVec 12) (s : State), Runs s →
    let x := s.me.rg a
    let y := s.me.rg b
    let limit := (y.extractLsb' 0 48).toNat
    let rights := y.extractLsb' 48 6
    let parent := s.me.s[sc]
    let new : BitVec 128 := (0 : BitVec 10) ++ rights ++ y.extractLsb' 0 48 ++ x
    let loaded : Slot := { s.me with s := s.me.s.set sd new, pc := s.me.npc, st := .ready }
    let wellFormed : Prop := x.extractLsb' 0 6 = 0 ∧ y.extractLsb' 54 10 = 0
    let inParent : Prop := (parent.extractLsb' 0 64).toNat ≤ x.toNat ∧
      x.toNat + limit ≤ (parent.extractLsb' 0 64).toNat + (parent.extractLsb' 64 48).toNat ∧
      rights &&& ~~~parent.extractLsb' 112 6 = 0
    (wellFormed → inParent → ∃ t, exec (.segldNarrow sd a b sc) s = .next t ∧ OnlyMe s t ∧ t.me = loaded) ∧
    (wellFormed → ¬ inParent → s.me.takesTraps →
      ∃ t, exec (.segldNarrow sd a b sc) s = .next t ∧ OnlyMe s t ∧ t.me = s.me.trapped 0x04 0x15 0 s.me.pc false) ∧
    (wellFormed → hmode s.me.flags → ∃ t, exec (.segldAbs sd a b) s = .next t ∧ OnlyMe s t ∧ t.me = loaded) ∧
    (∃ t, exec (.segrd d sc half) s = .next t ∧ OnlyMe s t ∧
      t.me = s.me.wrote d (if half then parent.extractLsb' 64 64 else parent.extractLsb' 0 64) s.me.flags) ∧
    (num.toNat ≤ 9 → (hmode s.me.flags ∨ num.toNat = 0 ∨ 4 < num.toNat) →
      (∃ t, exec (.sysrd d num) s = .next t ∧ OnlyMe s t ∧ t.me = s.me.wrote d (sysReg s num.toNat) s.me.flags) ∧
      ∃ t, exec (.syswr num a) s = .next t ∧ OnlyMe s t ∧ t.me = { (match num.toNat with
        | 0 => { s.me with flags := s.me.flags.extractLsb' 10 54 ++ x.extractLsb' 0 10 }
        | 1 => { s.me with trapPc := x }
        | 2 => { s.me with trapFlags := x }
        | 3 => { s.me with trapCause := (x.extractLsb' 0 17).setWidth 64 }
        | 4 => { s.me with trapAddr := x }
        | 7 => { s.me with stallTimeout := x.extractLsb' 0 32 }
        | _ => s.me : Slot) with pc := s.me.npc, st := .ready })

/-- R174 to R176, R178 to R180: YIELD, SLEEP, SLEEP_TIMEOUT, WAKE with each status, IFLUSH, IDRD on a tile, and CLKRD. WAKE of a sleeper
makes it ready (0); of a thread that does not sleep, the issuer among them, it sets the wake-pending bit, which for a stopped thread is bit
1 of the state word of its image (1); a slot that is free, or whose thread is of another job, is left alone (2). IFLUSH empties the buffer and
drops the thread's fetches under way, and later fetches follow the accesses made so far. -/
def Obligations.WaitingAndIdentity : Prop :=
  ∀ (d a : G) (s : State), Runs s →
    let goes (i : Instr) (me : Slot) : Prop := ∃ t, exec i s = .next t ∧ OnlyMe s t ∧ t.me = me
    let on (me : Slot) : Slot := { me with pc := s.me.npc, st := .ready }
    let n := (s.me.rg a).toNat
    let other := s.slot s.cur.core n
    goes .yield (on { s.me with homeHold := true }) ∧
    (∃ t, exec .iflush s = .next t ∧ CoresBut s t s.cur.core s.cur.slot ∧
      t.me = on { s.me with buf := [], want := none, pre := none, halves := [], flushed := s.nextAcc } ∧
      t = { s with cores := t.cores, msgs := t.msgs } ∧
      ∀ m, m ∈ t.msgs ↔ m ∈ s.msgs ∧ ∀ h, m.body ≠ .fetch s.cur.core s.cur.slot h) ∧
    (s.me.wakePend = true → goes (.sleep a) (on { s.me with wakePend := false })) ∧
    (s.me.wakePend = false →
      goes (.sleep a) { s.me with st := .parked (.sleep (if n = 0 then none else some (s.clk + n))), parkClk := s.clk }) ∧
    (∀ k dl, s.ev.core = s.cur.core → s.ev.slot = k → k < 16 → dl ≤ s.clk → (s.slot s.cur.core k).st = .parked (.sleep (some dl)) →
      ∃ t, exec .sleepTimeout s = .next t ∧ OnlySlot s t s.cur.core k ∧
        t.slot s.cur.core k = { s.slot s.cur.core k with pc := (s.slot s.cur.core k).npc, st := .ready }) ∧
    (∀ dl, n < 16 → n ≠ s.cur.slot → (s.slot s.cur.core n).tag = s.me.tag → (s.slot s.cur.core n).st = .parked (.sleep dl) →
      ∃ t, exec (.wake d a) s = .next t ∧ t.me = s.me.wrote d 0 s.me.flags ∧
        t.slot s.cur.core n = { s.slot s.cur.core n with pc := (s.slot s.cur.core n).npc, st := .ready } ∧
        (∀ j, j ≠ n → j ≠ s.cur.slot → t.slot s.cur.core j = s.slot s.cur.core j) ∧ OthersSame s t s.cur.core ∧
        t = { s with cores := t.cores }) ∧
    (n < 16 → n ≠ s.cur.slot → other.tag = s.me.tag → other.st ≠ .free → other.st ≠ .stopped → (∀ dl, other.st ≠ .parked (.sleep dl)) →
      ∃ t, exec (.wake d a) s = .next t ∧ t.me = s.me.wrote d 1 s.me.flags ∧ t.slot s.cur.core n = { other with wakePend := true } ∧
        (∀ j, j ≠ n → j ≠ s.cur.slot → t.slot s.cur.core j = s.slot s.cur.core j) ∧ OthersSame s t s.cur.core ∧
        t = { s with cores := t.cores }) ∧
    (n = s.cur.slot → s.me.st = .ready → goes (.wake d a) ({ s.me with wakePend := true }.wrote d 1 s.me.flags)) ∧
    (n < 16 → n ≠ s.cur.slot → other.tag = s.me.tag → other.st = .stopped →
      ∃ t, exec (.wake d a) s = .next t ∧ CoresBut s t s.cur.core s.cur.slot ∧ t.me = s.me.wrote d 1 s.me.flags ∧
        t = { s with cores := t.cores, images := t.images } ∧
        ∀ key i, SMap.get 0 (SMap.get [] t.images key) i =
          if key = s.imageKey s.cur.core n ∧ i = 56 then SMap.get 0 (SMap.get [] s.images key) i ||| 2
          else SMap.get 0 (SMap.get [] s.images key) i) ∧
    (15 < n ∨ other.st = .free ∨ other.tag ≠ s.me.tag → goes (.wake d a) (s.me.wrote d 2 s.me.flags)) ∧
    goes (.idrd d 1) (s.me.wrote d (BitVec.ofNat 64 s.cur.slot) s.me.flags) ∧
    (∀ die cl row col, s.cur.core = 192 * die + 96 * cl + 12 * row + col → die < 64 → cl < 2 → row < 8 → col < 12 →
      goes (.idrd d 0) (s.me.wrote d (BitVec.ofNat 64 (die <<< 26 ||| cl <<< 25 ||| (12 * row + col) <<< 18)) s.me.flags) ∧
      goes (.idrd d 2) (s.me.wrote d (if col < 5 then 0 else if col < 8 then 1 else if col < 10 then 2 else 3) s.me.flags) ∧
      goes (.idrd d 3) (s.me.wrote d (BitVec.ofNat 64 s.me.tag) s.me.flags)) ∧
    goes (.idrd d 4) (s.me.wrote d (0x64000000 + Config.stepping.zeroExtend 64 <<< 8) s.me.flags) ∧
    goes (.clkrd d) (s.me.wrote d (BitVec.ofNat 64 (s.clk + (s.die (Config.coreDie s.cur.core)).lead)) s.me.flags)

/-! ## Loads, stores and atomics -/

/-- R162, R163, R94: LD and LDX of bytes in the own slice complete in the issuing tile: g[d] is their value, sign-extended; nothing else
of the machine changes but when the tile's banks are free again. -/
def Obligations.LocalLoads : Prop :=
  ∀ (w : Width) (sg : S) (d a b : G) (m : Mem) (c : Nat) (s : State), Runs s → (memRelease m = none ∨ s.me.touched = 0) →
    InOwnSlice s .read c →
    let loads (i : Instr) : Prop := ∃ t, exec i s = .next t ∧ OnlyMe s t ∧
      t.me = { s.me.wrote d (BitVec.ofInt 64 (sextN w.bits (s.readN c w.bytes))) s.me.flags with banks := t.me.banks }
    (Reaches s s.me.s[sg] (s.me.rg a + BitVec.ofInt 64 m.disp.val).toInt w.bytes .load true c → loads (.ld w sg d a m)) ∧
    (Reaches s s.me.s[sg] (s.me.rg a + s.me.rg b * BitVec.ofNat 64 w.bytes + BitVec.ofInt 64 m.disp.val).toInt w.bytes .load true c →
      loads (.ldx w sg d a b m))

/-- R162, R163, R76: ST and STX to the own slice write the low bytes of g[d] at once and clear the line's typed bit; no other byte,
line, register or flag changes. -/
def Obligations.LocalStores : Prop :=
  ∀ (w : Width) (sg : S) (d a b : G) (m : Mem) (c : Nat) (s : State), Runs s → (memRelease m = none ∨ s.me.touched = 0) →
    InOwnSlice s .write c →
    let x := (s.me.rg d).toNat % 2 ^ w.bits
    let stores (i : Instr) : Prop := ∃ t, exec i s = .next t ∧ OnlyMeAndMemory s t ∧ Stored s t c w.bytes x ∧
      t.me = { s.me with pc := s.me.npc, st := .ready, banks := t.me.banks }
    (Reaches s s.me.s[sg] (s.me.rg a + BitVec.ofInt 64 m.disp.val).toInt w.bytes (.store [(0, x)]) true c → stores (.st w sg d a m)) ∧
    (Reaches s s.me.s[sg] (s.me.rg a + s.me.rg b * BitVec.ofNat 64 w.bytes + BitVec.ofInt 64 m.disp.val).toInt w.bytes (.store [(0, x)])
      true c → stores (.stx w sg d a b m))

/-- The new value of an atomic (R165, Table 12) on signed W-bit operands; ACAS writes only where the old value is the expected one. -/
def Sys2Proof.Machine.atomicRows (n : Nat) : List ((Width → S → G → G → G → Mem → Instr) × AtomicOp × (BitVec n → BitVec n → BitVec n)) := [
  (.aadd, .add, fun x y => x + y), (.aand, .and, fun x y => x &&& y), (.aor, .or, fun x y => x ||| y), (.axor, .xor, fun x y => x ^^^ y),
  (.amin, .min, fun x y => if y.slt x then y else x), (.amax, .max, fun x y => if x.slt y then y else x), (.aswp, .swp, fun _ y => y)]

/-- R165, R166, R76: the eight atomics in the own slice, in every width: g[d] is the old value, sign-extended, and the operand in
memory becomes the new one (for ACAS only where the old value is that of g[c]). -/
def Obligations.LocalAtomics : Prop :=
  ∀ (w : Width) (sg : S) (d a b c : G) (m : Mem) (at_ : Nat) (s : State), Runs s → (memRelease m = none ∨ s.me.touched = 0) →
    InOwnSlice s .rmw at_ →
    let off := (s.me.rg a + BitVec.ofInt 64 m.disp.val).toInt
    let old := BitVec.ofNat w.bits (s.readN at_ w.bytes)
    let y := (s.me.rg b).setWidth w.bits
    let cmp := (s.me.rg c).setWidth w.bits
    let after (t : State) : Slot := { s.me.wrote d (old.signExtend 64) s.me.flags with banks := t.me.banks }
    (∀ r ∈ atomicRows w.bits, Reaches s s.me.s[sg] off w.bytes (.atomic r.2.1 y.toNat 0) false at_ →
      ∃ t, exec (r.1 w sg d a b m) s = .next t ∧ OnlyMeAndMemory s t ∧ Stored s t at_ w.bytes (r.2.2 old y).toNat ∧ t.me = after t) ∧
    (Reaches s s.me.s[sg] off w.bytes (.atomic .cas y.toNat cmp.toNat) false at_ →
      ∃ t, exec (.acas w sg d a b c m) s = .next t ∧ t.me = after t ∧
        if old = cmp then OnlyMeAndMemory s t ∧ Stored s t at_ w.bytes y.toNat else OnlyMe s t)

/-! ## Vector instructions -/

/-- Element j of a vector register on e-bit elements, as e bits (R181). -/
def Sys2Proof.Machine.elem (t : Slot) (a : V) (e j : Nat) : BitVec e := BitVec.ofNat e (lane (t.rv a) e j)

/-- The OR of what the active elements raise (R58, R183). -/
def Sys2Proof.Machine.raised (s : State) (e : Nat) (p : P) (f : Nat → Fl) : Fl :=
  ((List.range (Config.vecBits s.cur.core / e)).filter fun j => active (s.me.rp (Config.vecBits s.cur.core) p) e j).foldl
    (fun acc j => acc ||| f j) 0

/-- The running thread after an instruction that writes v[d] and raises flags: it goes on at the next word. -/
def Sys2Proof.Machine.Slot.wroteV (t : Slot) (d : V) (x : BitVec 2048) (fl : Fl) : Slot :=
  { t.wv d x with flags := t.flags ||| fl.setWidth 64, pc := t.npc, st := .ready }

/-- A lane-wise result (R181, R183): element j of v[d] is `f j` where the predicate is active and keeps its value elsewhere; nothing
above the engine's width is set; the flags raised join the sticky ones; nothing else changes. -/
def Sys2Proof.Machine.LaneWise (i : Instr) (s : State) (e : Nat) (p : P) (d : V) (f : Nat → Nat) (fl : Fl) : Prop :=
  let w := Config.vecBits s.cur.core
  ∃ t x, exec i s = .next t ∧ OnlyMe s t ∧ t.me = s.me.wroteV d x fl ∧ x.toNat < 2 ^ w ∧
    ∀ j < w / e, lane x e j = if active (s.me.rp w p) e j then f j % 2 ^ e else lane (s.me.rv d) e j

/-- Rows of Table 7 of R192 with two sources, on e-bit elements. -/
def Sys2Proof.Machine.vecIntRows : List ((VType → P → V → V → V → Instr) × ((n : Nat) → BitVec n → BitVec n → BitVec n)) := [
  (.vadd, fun _ x y => x + y), (.vsub, fun _ x y => x - y), (.vmul, fun _ x y => x * y),
  (.vmulh, fun n x y => BitVec.ofInt n (x.toInt * y.toInt / 2 ^ n)), (.vmulhu, fun n x y => BitVec.ofNat n (x.toNat * y.toNat / 2 ^ n)),
  (.vand, fun _ x y => x &&& y), (.vor, fun _ x y => x ||| y), (.vxor, fun _ x y => x ^^^ y),
  (.vshl, fun n x y => x <<< (y.toNat % n)), (.vshr, fun n x y => x >>> (y.toNat % n)), (.vsar, fun n x y => x.sshiftRight (y.toNat % n)),
  (.vmin, fun _ x y => if y.slt x then y else x), (.vminu, fun _ x y => if y.ult x then y else x),
  (.vmax, fun _ x y => if x.slt y then y else x), (.vmaxu, fun _ x y => if x.ult y then y else x)]

/-- The saturating rows of R192: their exact result, and whether it is clamped to the unsigned range. -/
def Sys2Proof.Machine.vecSatRows : List ((VType → P → V → V → V → Instr) × Bool × ((n : Nat) → BitVec n → BitVec n → Int)) := [
  (.vadds, false, fun _ x y => x.toInt + y.toInt), (.vaddsu, true, fun _ x y => x.toNat + y.toNat),
  (.vsubs, false, fun _ x y => x.toInt - y.toInt), (.vsubsu, true, fun _ x y => (x.toNat : Int) - y.toNat)]

/-- The least and the greatest value of n bits (R55). -/
def Sys2Proof.Machine.rangeOf (uns : Bool) (n : Nat) : Int × Int :=
  if uns then (0, 2 ^ n - 1) else (-2 ^ (n - 1), 2 ^ (n - 1) - 1)

/-- R192, R181 to R183, R55: vector integer arithmetic of every integer type, on every width of engine. The saturating forms clamp to
the range and set sat where they do; VABS of the least value is itself. -/
def Obligations.VectorInteger : Prop :=
  ∀ (ty : VType) (p : P) (d a b : V) (s : State), ty.isInt = true → Runs s →
    let x := elem s.me a ty.bits
    let y := elem s.me b ty.bits
    (∀ r ∈ vecIntRows, LaneWise (r.1 ty p d a b) s ty.bits p d (fun j => (r.2 ty.bits (x j) (y j)).toNat) 0) ∧
    (∀ r ∈ vecSatRows,
      let lo := (rangeOf r.2.1 ty.bits).1
      let hi := (rangeOf r.2.1 ty.bits).2
      let v (j : Nat) := r.2.2 ty.bits (x j) (y j)
      LaneWise (r.1 ty p d a b) s ty.bits p d (fun j => (BitVec.ofInt ty.bits (max lo (min hi (v j)))).toNat)
        (raised s ty.bits p fun j => if lo ≤ v j ∧ v j ≤ hi then 0 else Fl.sat)) ∧
    LaneWise (.vabs ty p d a) s ty.bits p d (fun j => (BitVec.ofInt ty.bits (x j).toInt.natAbs).toNat) 0

/-- Floating-point rows with a rounding field and two sources (R187), by their operation. -/
def Sys2Proof.Machine.vecFp2Rows : List ((VType → Fin 8 → P → V → V → V → Instr) × (Fmt → RMode → Nat → Nat → Nat × Fl)) := [
  (.vfadd, fpAdd), (.vfsub, fpSub), (.vfmul, fpMul), (.vfdiv, fpDiv)]

/-- Rows with one source and a rounding field (R187, R188). -/
def Sys2Proof.Machine.vecFp1Rows : List ((VType → Fin 8 → P → V → V → Instr) × (Fmt → RMode → Nat → Nat × Fl)) := [
  (.vfsqrt, fpSqrt), (.vfrcp, fpRcp), (.vfrsq, fpRsq)]

/-- Rows with one source and no rounding (R188, R189, R190). -/
def Sys2Proof.Machine.vecFpRows : List ((VType → P → V → V → Instr) × (Fmt → Nat → Nat × Fl)) := [
  (.vfabs, fpAbs), (.vfneg, fpNeg), (.vfexp2, fpExp2), (.vflog2, fpLog2), (.vfsin, fun f => fpTrig f false),
  (.vfcos, fun f => fpTrig f true), (.vftanh, fpTanh)]

/-- The rounding direction of an instruction (R39, R61): its field, or rnd_mode of the thread for code 0. -/
def Sys2Proof.Machine.roundingOf (s : State) (rm : Fin 8) : RMode :=
  match rm.val with
  | 0 => [RMode.rne, .rtz, .rup, .rdn].getD (s.me.flags.extractLsb' 8 2).toNat .rne
  | 1 => .rne
  | 2 => .rtz
  | 3 => .rup
  | _ => .rdn

/-- R187 to R190, R183, R58, R61: every floating-point instruction works element by element in the format of its type with the rounding
direction of its field or of rnd_mode; the flags of the active elements join the sticky ones. -/
def Obligations.VectorFloat : Prop :=
  ∀ (ty : VType) (rm : Fin 8) (p : P) (d a b c : V) (s : State), ty.isFp = true → rm.val ≤ 4 → Runs s →
    let f := fmtOf ty
    let m := roundingOf s rm
    let x (j : Nat) := (elem s.me a ty.bits j).toNat
    let y (j : Nat) := (elem s.me b ty.bits j).toNat
    let z (j : Nat) := (elem s.me c ty.bits j).toNat
    let does (i : Instr) (r : Nat → Nat × Fl) : Prop := LaneWise i s ty.bits p d (fun j => (r j).1) (raised s ty.bits p fun j => (r j).2)
    (∀ r ∈ vecFp2Rows, does (r.1 ty rm p d a b) fun j => r.2 f m (x j) (y j)) ∧
    (∀ r ∈ vecFp1Rows, does (r.1 ty rm p d a) fun j => r.2 f m (x j)) ∧
    (∀ r ∈ vecFpRows, does (r.1 ty p d a) fun j => r.2 f (x j)) ∧
    does (.vfma ty rm p d a b c) (fun j => fpFma f m false false (x j) (y j) (z j)) ∧
    does (.vfms ty rm p d a b c) (fun j => fpFma f m false true (x j) (y j) (z j)) ∧
    does (.vfnma ty rm p d a b c) (fun j => fpFma f m true false (x j) (y j) (z j)) ∧
    does (.vfmin ty p d a b) (fun j => fpMinMax f false (x j) (y j)) ∧
    does (.vfmax ty p d a b) fun j => fpMinMax f true (x j) (y j)

/-- The running thread after an instruction that writes p[d] and raises flags. -/
def Sys2Proof.Machine.Slot.wroteP (t : Slot) (d : P) (x : BitVec 256) (fl : Fl) : Slot :=
  { t.wp d x with flags := t.flags ||| fl.setWidth 64, pc := t.npc, st := .ready }

/-- A predicate result (R182): each of the e/8 bits of element j is `f j`; no bit above w/8 is set. -/
def Sys2Proof.Machine.PredBits (w e : Nat) (x : BitVec 256) (f : Nat → Bool) : Prop :=
  x.toNat < 2 ^ (w / 8) ∧ ∀ j < w / e, ∀ i < e / 8, x.getLsbD (j * (e / 8) + i) = f j

/-- VFCMP's conditions (R191, Table 6) on decoded operands. -/
def Sys2Proof.Machine.fcondTrue (c : FCond) (x y : FVal) : Bool :=
  let un := x.isNaN || y.isNaN
  match c with
  | .eq => !un && valEq x y
  | .ne => un || !valEq x y
  | .lt => !un && valLt x y
  | .ge => !un && !valLt x y
  | .le => !un && !valLt y x
  | .gt => !un && valLt y x
  | .uo => un
  | .ord => !un

/-- R191, R197 to R200: VCMP and VFCMP with every condition, VWHILE, the predicate logic, PCNT and VQLEN. VFCMP sets nv for a signalling
NaN, and under lt, ge, le and gt for any NaN; no other flag is set. -/
def Obligations.VectorCompareAndPredicates : Prop :=
  ∀ (ty : VType) (cond : Cond) (fc : FCond) (p d q r : P) (a b : V) (ga gb gd : G) (s : State), ty.notL6 = true → Runs s →
    let w := Config.vecBits s.cur.core
    let on (j : Nat) : Bool := active (s.me.rp w p) ty.bits j
    let x := elem s.me a ty.bits
    let y := elem s.me b ty.bits
    let fx (j : Nat) := (fmtOf ty).dec (x j).toNat
    let fy (j : Nat) := (fmtOf ty).dec (y j).toNat
    let setsP (i : Instr) (fl : Fl) (ok : BitVec 256 → Prop) : Prop :=
      ∃ t z, exec i s = .next t ∧ OnlyMe s t ∧ t.me = s.me.wroteP d z fl ∧ ok z
    (ty.isInt = true → setsP (.vcmp ty cond p d a b) 0 fun z => PredBits w ty.bits z fun j =>
      on j && condHolds cond ty.bits (x j).toNat (y j).toNat) ∧
    (ty.isFp = true → setsP (.vfcmp ty fc p d a b)
      (raised s ty.bits p fun j =>
        if (fx j).isSig || (fy j).isSig || ([FCond.lt, .ge, .le, .gt].contains fc && ((fx j).isNaN || (fy j).isNaN)) then Fl.nv else 0)
      fun z => PredBits w ty.bits z fun j => on j && fcondTrue fc (fx j) (fy j)) ∧
    setsP (.vwhile ty d ga gb) 0 (fun z => PredBits w ty.bits z fun j => decide ((s.me.rg ga).toInt + j < (s.me.rg gb).toInt)) ∧
    setsP (.pand p d q r) 0 (fun z => z = s.me.rp w q &&& s.me.rp w r &&& s.me.rp w p) ∧
    setsP (.por p d q r) 0 (fun z => z = (s.me.rp w q ||| s.me.rp w r) &&& s.me.rp w p) ∧
    setsP (.pxor p d q r) 0 (fun z => z = (s.me.rp w q ^^^ s.me.rp w r) &&& s.me.rp w p) ∧
    setsP (.pnot p d q) 0 (fun z => z = ~~~s.me.rp w q &&& allTrue w &&& s.me.rp w p) ∧
    (∃ t, exec (.pcnt ty p gd q) s = .next t ∧ OnlyMe s t ∧ t.me = s.me.wrote gd
      (BitVec.ofNat 64 (((List.range (w / ty.bits)).filter fun j => on j && active (s.me.rp w q) ty.bits j).length)) s.me.flags) ∧
    ∃ t, exec (.vqlen ty gd) s = .next t ∧ OnlyMe s t ∧ t.me = s.me.wrote gd (BitVec.ofNat 64 (w / ty.bits)) s.me.flags

/-- R61, R62: the integer nearest to ±m × 2^e in a rounding direction. -/
def Sys2Proof.Machine.roundedInt (d : RMode) (neg : Bool) (m : Nat) (e : Int) : Int :=
  let unit : Int := 2 ^ (-e).toNat
  let v : Int := (if neg then -(m : Int) else m) * 2 ^ e.toNat
  let below := v / unit
  let twice := 2 * (v % unit)
  match d with
  | .rdn => below
  | .rup => -(-v / unit)
  | .rtz => if neg then -(-v / unit) else below
  | .rne => if twice < unit then below else if unit < twice then below + 1 else if below % 2 = 0 then below else below + 1

/-- R62, Table 3: what a conversion of one element x gives, from type src to type dst. -/
def Sys2Proof.Machine.Converts (src dst : VType) (fromU toU : Bool) (d : RMode) (x : Nat) (r : Nat × Fl) : Prop :=
  let value : Int := if fromU then (x % 2 ^ src.bits : Nat) else (BitVec.ofNat src.bits x).toInt
  let pattern (v : Int) : Nat := (BitVec.ofInt dst.bits v).toNat
  let lo := (rangeOf toU dst.bits).1
  let hi := (rangeOf toU dst.bits).2
  (src.isFp = true → dst.isFp = true → match (fmtOf src).dec x with
    | .nan signalling => r = ((fmtOf dst).defNaN, if signalling then Fl.nv else 0)
    | .inf neg => r = ((fmtOf dst).inf neg, 0)
    | .fin neg m e => r = if m = 0 then ((fmtOf dst).zero neg, 0) else roundPack (fmtOf dst) d neg m e false) ∧
  (src.isFp = true → dst.isInt = true → match (fmtOf src).dec x with
    | .nan _ => r = (0, Fl.nv)
    | .inf neg => r = (pattern (if neg then lo else hi), Fl.nv)
    | .fin neg m e =>
      let v := roundedInt d neg m e
      if v < lo then r = (pattern lo, Fl.nv) else if hi < v then r = (pattern hi, Fl.nv)
      else r = (pattern v, if m % 2 ^ (-e).toNat = 0 then 0 else Fl.nx)) ∧
  (src.isInt = true → dst.isFp = true →
    r = if value = 0 then (0, 0) else roundPack (fmtOf dst) d (value < 0) value.natAbs 0 false) ∧
  (src.isInt = true → dst.isInt = true → r = (pattern value, 0))

/-- The three binary formats (R56, Table 1). -/
def Sys2Proof.Machine.formats : List Fmt := [fp32, fp16, bf16]

/-- The thresholds M of R66, Table 5. -/
def Sys2Proof.Machine.thresholds : List Nat := [0x8B95C2, 0xA5FED7, 0xC5672B, 0xEAC0C7]

/-- R67 to R69: quantisation to LNS6, back from it, and the scale rule. A finite nonzero FP32 element ±n × 2^g has m = n × 2^j with
2^23 ≤ m < 2^24, E = g − σ − j + 23, k thresholds at or below m, and e = 4E + k. -/
def Sys2Proof.Machine.LnsRules : Prop :=
  (∀ (x : Nat) (sigma : Int), -127 ≤ sigma → sigma ≤ 127 → match fp32.dec x with
    | .nan _ => quantL6 x sigma = (0x20, Fl.nv ||| Fl.nal)
    | .inf _ => quantL6 x sigma = (0x20, Fl.nv ||| Fl.nal)
    | .fin neg n g => (n = 0 → quantL6 x sigma = (0, 0)) ∧ ∀ j : Nat, 2 ^ 23 ≤ n * 2 ^ j → n * 2 ^ j < 2 ^ 24 →
      let k := (thresholds.filter (· ≤ n * 2 ^ j)).length
      let e : Int := 4 * (g - sigma - j + 23) + k
      let sign := if neg then 32 else 0
      quantL6 x sigma = if 15 < e then (sign + 31, Fl.sat ||| Fl.nx) else if e < -15 then (0, Fl.uf ||| Fl.nx)
        else (sign + (e + 16).toNat, if k = 0 ∧ n * 2 ^ j = 2 ^ 23 then 0 else Fl.nx)) ∧
  (∀ (d : RMode) (c : Nat) (sigma : Int), c < 64 →
    (c = 0x20 → dequantL6 d c sigma = (0x7FC00000, Fl.nal)) ∧ (c = 0 → dequantL6 d c sigma = (0, 0)) ∧
    (c ≠ 0x20 → c ≠ 0 → ∀ (q : Int) (k : Nat), k < 4 → 4 * q + k = ((c % 32 : Nat) : Int) - 16 →
      dequantL6 d c sigma = roundPack fp32 d (32 ≤ c) ([0x800000, 0x9837F0, 0xB504F3, 0xD744FD].getD k 0) (q + sigma - 23) false)) ∧
  ∀ f ∈ formats, ∀ xs : List Nat,
    let mag (x : Nat) : Option (Nat × Int) := match f.dec x with
      | .fin _ n g => some (n, g)
      | _ => none
    ((∃ x ∈ xs, f.dec x = .inf false ∨ f.dec x = .inf true) → scaleOf f xs = 127) ∧
    ((∀ x ∈ xs, (f.dec x).isNaN = true ∨ (mag x).map (·.1) = some 0) → scaleOf f xs = 0) ∧
    ∀ a ∈ xs, ∀ (n : Nat) (g : Int) (j : Nat), mag a = some (n, g) → 2 ^ 23 ≤ n * 2 ^ j → n * 2 ^ j < 2 ^ 24 → (∀ x ∈ xs, f.dec x ≠ .inf false ∧ f.dec x ≠ .inf true) →
      (∀ x ∈ xs, ∀ n' g', mag x = some (n', g') → valLt (.fin false n g) (.fin false n' g') = false) →
      scaleOf f xs = min (max (g - j + 23 - 3 + if 0xEAC0C7 ≤ n * 2 ^ j then 1 else 0) (-127)) 127

/-- R193 to R196, R62, R67 to R69: conversions between every two types, quantisation to and from LNS6 and the scale rule. A group of
lanes is written and the others keep their values; a scale beyond −127 to 127 is a data fault with no other effect. What one element becomes
is said by `Converts` and `LnsRules`. -/
def Obligations.VectorConversions : Prop :=
  (∀ (ty src : VType) (fromU toU : Bool) (d : RMode) (x : Nat), ty.notL6 = true → src.notL6 = true →
    Converts src ty fromU toU d x (convertElem src ty fromU toU d x)) ∧
  LnsRules ∧
  ∀ (ty src : VType) (toU fromU : Bool) (part rm : Fin 8) (p : P) (d a : V) (ga gd : G) (s : State), Runs s →
    let w := Config.vecBits s.cur.core
    let on (e j : Nat) : Bool := active (s.me.rp w p) e j
    let sigma := (s.me.rg ga).toInt
    let setsV (i : Instr) (fl : Fl) (ok : BitVec 2048 → Prop) : Prop :=
      ∃ t x, exec i s = .next t ∧ OnlyMe s t ∧ t.me = s.me.wroteV d x fl ∧ ok x
    let wide := max ty.bits src.bits
    let m := w / wide
    let from_ (j : Nat) : Nat := if ty.bits < src.bits then j else part.val * m + j
    let into (j : Nat) : Nat := if ty.bits < src.bits then part.val * m + j else j
    let cv (j : Nat) := convertElem src ty fromU toU (roundingOf s rm) (lane (s.me.rv a) src.bits (from_ j))
    (vcvtOk ty src toU fromU part rm = true → setsV (.vcvt ty src toU fromU part rm p d a) (raised s wide p fun j => (cv j).2) fun x =>
      (∀ j < m, on wide j = true → lane x ty.bits (into j) = (cv j).1 % 2 ^ ty.bits) ∧
      ∀ k < w / ty.bits, (∀ j < m, on wide j = true → k ≠ into j) → lane x ty.bits k = lane (s.me.rv d) ty.bits k) ∧
    (part.val ≤ 3 → -127 ≤ sigma → sigma ≤ 127 →
      setsV (.vqlns part p d a ga) (raised s 32 p fun j => (quantL6 (lane (s.me.rv a) 32 j) sigma).2) (fun x => ∀ k < w / 8,
        lane x 8 k = if part.val * (w / 32) ≤ k ∧ k < (part.val + 1) * (w / 32) ∧ on 32 (k - part.val * (w / 32))
          then (quantL6 (lane (s.me.rv a) 32 (k - part.val * (w / 32))) sigma).1 else lane (s.me.rv d) 8 k) ∧
      (rm.val ≤ 4 → LaneWise (.vdqlns part rm p d a ga) s 32 p d
        (fun j => (dequantL6 (roundingOf s rm) (lane (s.me.rv a) 8 (part.val * (w / 32) + j) % 64) sigma).1)
        (raised s 32 p fun j => (dequantL6 (roundingOf s rm) (lane (s.me.rv a) 8 (part.val * (w / 32) + j) % 64) sigma).2))) ∧
    (¬(-127 ≤ sigma ∧ sigma ≤ 127) → s.me.takesTraps → ∀ i ∈ [Instr.vqlns part p d a ga, .vdqlns part rm p d a ga],
      ∃ t, exec i s = .next t ∧ OnlyMe s t ∧ t.me = s.me.trapped 0x0A 0x03 0 s.me.pc false) ∧
    (ty.isFp = true → ∃ t, exec (.vbmax ty p gd a) s = .next t ∧ OnlyMe s t ∧ t.me = s.me.wrote gd
      (BitVec.ofInt 64 (scaleOf (fmtOf ty) (((List.range (w / ty.bits)).filter (on ty.bits)).map (lane (s.me.rv a) ty.bits)))) s.me.flags)

/-- R201 to R203: the moves and permutes, VCOMPRESS and the non-zero scan. -/
def Obligations.VectorMoves : Prop :=
  ∀ (ty : VType) (part : Fin 8) (p pc : P) (d a b : V) (ga gb gd : G) (s : State), ty.notL6 = true → Runs s →
    let w := Config.vecBits s.cur.core
    let e := ty.bits
    let n := w / e
    let x (j : Nat) := lane (s.me.rv a) e j
    let on (j : Nat) : Bool := active (s.me.rp w p) e j
    LaneWise (.vmov ty p d a) s e p d x 0 ∧
    LaneWise (.vdup ty p d ga) s e p d (fun _ => (s.me.rg ga).toNat) 0 ∧
    LaneWise (.vsel ty p d a b pc) s e p d (fun j => if active (s.me.rp w pc) e j then x j else lane (s.me.rv b) e j) 0 ∧
    (ty.isInt = true → LaneWise (.vperm ty p d a b) s e p d
      (fun j => if lane (s.me.rv b) e j < n then x (lane (s.me.rv b) e j) else 0) 0) ∧
    LaneWise (.vslide ty p d a ga) s e p d
      (fun j => if 0 ≤ (s.me.rg ga).toInt + j ∧ (s.me.rg ga).toInt + j < n then x ((s.me.rg ga).toInt + j).toNat else 0) 0 ∧
    (∃ t, exec (.vext ty gd a gb) s = .next t ∧ OnlyMe s t ∧ t.me = s.me.wrote gd
      (if 0 ≤ (s.me.rg gb).toInt ∧ (s.me.rg gb).toInt < n then
        if ty.isInt then (BitVec.ofNat e (x (s.me.rg gb).toInt.toNat)).signExtend 64 else BitVec.ofNat 64 (x (s.me.rg gb).toInt.toNat)
       else 0) s.me.flags) ∧
    (∃ t z, exec (.vcompress ty p d a) s = .next t ∧ OnlyMe s t ∧ t.me = s.me.wroteV d z 0 ∧ z.toNat < 2 ^ w ∧
      ∀ j < n, lane z e j = (((List.range n).filter on).map x).getD j 0) ∧
    (part.val < max 1 (32 / e) →
      let m := min n (w / 32)
      let found := ((List.range m).map (part.val * m + ·)).filter fun j => on j && (if ty.isFp then x j % 2 ^ (e - 1) != 0 else x j != 0)
      ∃ t z, exec (.vnzx ty part p d a gb gd) s = .next t ∧ OnlyMe s t ∧ z.toNat < 2 ^ w ∧
        t.me = { (s.me.wv d z).wg gd (BitVec.ofNat 64 found.length) with pc := s.me.npc, st := .ready } ∧
        ∀ k < w / 32, lane z 32 k = (found.map fun j => ((s.me.rg gb).toNat + j) % 2 ^ 32).getD k 0)

/-- R204, R79: the reductions. An active element enters in ascending order; the pairwise tree of VRADD takes an inactive one as zero; a
minimum or maximum of none is the greatest or least value (for floating point an infinity), and of NaNs alone the default NaN. -/
def Obligations.VectorReductions : Prop :=
  ∀ (ty : VType) (rm : Fin 8) (p : P) (gd ga : G) (a : V) (s : State), ty.notL6 = true → Runs s →
    let w := Config.vecBits s.cur.core
    let e := ty.bits
    let f := fmtOf ty
    let xs := ((List.range (w / e)).filter (active (s.me.rp w p) e)).map (lane (s.me.rv a) e)
    let nums := xs.filter fun x => !(f.dec x).isNaN
    let nv := if xs.any fun x => (f.dec x).isSig then Fl.nv else 0
    let gives (i : Instr) (x : Word) (fl : Fl) : Prop :=
      ∃ t, exec i s = .next t ∧ OnlyMe s t ∧ t.me = s.me.wrote gd x (s.me.flags ||| fl.setWidth 64)
    (ty.isInt = true →
      gives (.vradd ty 0 p gd a) ((BitVec.ofNat e xs.sum).signExtend 64) 0 ∧
      (∀ x, (∀ y ∈ xs, sextN e x ≤ sextN e y) → x ∈ xs → gives (.vrmin ty p gd a) (BitVec.ofInt 64 (sextN e x)) 0) ∧
      (∀ x, (∀ y ∈ xs, sextN e y ≤ sextN e x) → x ∈ xs → gives (.vrmax ty p gd a) (BitVec.ofInt 64 (sextN e x)) 0) ∧
      (∀ x, (∀ y ∈ xs, x ≤ y) → x ∈ xs → gives (.vrminu ty p gd a) (BitVec.ofNat 64 x) 0) ∧
      (∀ x, (∀ y ∈ xs, y ≤ x) → x ∈ xs → gives (.vrmaxu ty p gd a) (BitVec.ofNat 64 x) 0) ∧
      (xs = [] → gives (.vrmin ty p gd a) (BitVec.ofInt 64 (2 ^ (e - 1) - 1)) 0 ∧ gives (.vrmax ty p gd a) (BitVec.ofInt 64 (-2 ^ (e - 1))) 0 ∧
        gives (.vrminu ty p gd a) (BitVec.ofInt 64 (2 ^ e - 1)) 0 ∧ gives (.vrmaxu ty p gd a) 0 0)) ∧
    (ty.isFp = true → rm.val ≤ 4 →
      let tree := treeSum (fpAdd f (roundingOf s rm)) (Nat.log2 (w / e))
        ((List.range (w / e)).map fun j => if active (s.me.rp w p) e j then lane (s.me.rv a) e j else 0)
      let steps := xs.foldl (fun acc x => let q := fpAdd f (roundingOf s rm) acc.1 x; (q.1, acc.2 ||| q.2))
        ((s.me.rg ga).toNat % 2 ^ e, (0 : Fl))
      let minOf (isMax : Bool) : Nat :=
        if xs = [] then f.inf isMax
        else match nums with
          | [] => f.defNaN
          | x :: l => l.foldl (fun acc y => (fpMinMax f isMax acc y).1) x
      gives (.vradd ty rm p gd a) (BitVec.ofNat 64 tree.1) tree.2 ∧
      gives (.vraddo ty rm p gd a ga) (BitVec.ofNat 64 steps.1) steps.2 ∧
      (∀ i ∈ [Instr.vrmin ty p gd a, .vrminu ty p gd a], gives i (BitVec.ofNat 64 (minOf false)) nv) ∧
      ∀ i ∈ [Instr.vrmax ty p gd a, .vrmaxu ty p gd a], gives i (BitVec.ofNat 64 (minOf true)) nv)

/-- The active elements of an access of type ty, ascending (R182, R205). -/
def Sys2Proof.Machine.activeOf (s : State) (e : Nat) (p : P) : List Nat :=
  let w := Config.vecBits s.cur.core
  (List.range (w / e)).filter (active (s.me.rp w p) e)

/-- The bank of a byte of a slice (R95). -/
def Sys2Proof.Machine.bankAt (c : Nat) : Nat := Nat.xor (c / 16 % 16) (c / 256 % 16)

/-- Element j needs its bank again (R97): it lies in another row than the first of the elements that use the bank. -/
def Sys2Proof.Machine.again (js : List Nat) (c : Nat → Nat) (j : Nat) : Bool :=
  (js.find? fun i => bankAt (c i) == bankAt (c j)).any fun i => c i / 16 != c j / 16

/-- What an access to the own slice has left for T-cont (R97): the elements that need their bank again. -/
def Sys2Proof.Machine.Leaves (b : BankUse) (js : List Nat) (c : Nat → Nat) (n : Nat) (op : AccOp) (done : Done) : Prop :=
  b.left.map (fun u => (u.idx, u.cell, u.n)) = (js.filter (again js c)).map (fun j => (j, c j, n)) ∧
  (b.left ≠ [] → b.op = op ∧ b.done = done)

/-- R205, R207, R183, R76, R96, R97: VLD and VLDG with every active element in the own slice load into their lanes, at their issue, the elements
that need no bank again, and leave the other lanes; VST and VSTS store those elements in ascending order, so that the last of two at one place
stays; the elements that need a bank again are left for T-cont, which AnnulmentAndChecker says how it performs them; nothing else changes. -/
def Obligations.VectorMemory : Prop :=
  ∀ (ty : VType) (p : P) (sg : S) (d b : V) (a : G) (m : Mem) (c : Nat → Nat) (s : State), ty.notL6 = true → Runs s →
    (memRelease m = none ∨ s.me.touched = 0) →
    let e := ty.bits
    let js := activeOf s e p
    let base := s.me.rg a + BitVec.ofInt 64 m.disp.val
    let strided (j : Nat) : Int := (base + BitVec.ofNat 64 (j * (e / 8))).toInt
    let indexed (j : Nat) : Int := (base + BitVec.ofNat 64 (lane (s.me.rv b) e j * (e / 8))).toInt
    let reach (off : Nat → Int) (op : AccOp) : Prop :=
      ∀ j ∈ js, Reaches s s.me.s[sg] (off j) (e / 8) op false (c j) ∧ InOwnSlice s op.kind (c j)
    let first := js.filter fun j => !again js c j
    let loads (i : Instr) : Prop := ∃ t x, exec i s = .next t ∧ OnlyMe s t ∧
      t.me = { s.me.wv d x with pc := s.me.npc, st := .ready, banks := t.me.banks } ∧
      (∀ j < 2048 / e, lane x e j = if j ∈ first then s.readN (c j) (e / 8) else lane (s.me.rv d) e j) ∧
      Leaves t.me.banks js c (e / 8) .load (.lanes d e)
    let stores (i : Instr) : Prop := ∃ t, exec i s = .next t ∧ OnlyMeAndMemory s t ∧
      t.me = { s.me with pc := s.me.npc, st := .ready, banks := t.me.banks } ∧
      Leaves t.me.banks js c (e / 8) (.store (js.map fun j => (j, lane (s.me.rv d) e j))) .none ∧
      let u := first.foldl (fun u j => u.writePlain (c j) (e / 8) (lane (s.me.rv d) e j)) s
      t.mem = u.mem ∧ t.lines = u.lines
    (reach strided .load → loads (.vld ty p sg d a m)) ∧ (reach indexed .load → loads (.vldg ty p sg d a b m)) ∧
    (reach strided (.store []) → stores (.vst ty p sg d a m)) ∧ (reach indexed (.store []) → stores (.vsts ty p sg d a b m))

/-- R206, R70 to R74, R76: VLDT reads a typed line of the own slice into byte lanes, and its format and scale bytes into g[b]; a line that
does not decode is a data fault. VSTT writes a typed LNS6 dense line of the first min(80, w/8) byte lanes, with its typed bit; a scale
beyond −127 to 127 is a data fault and writes nothing. -/
def Obligations.TypedLines : Prop :=
  ∀ (sg : S) (d : V) (a b : G) (m : Mem) (c : Nat) (s : State), Runs s → (memRelease m = none ∨ s.me.touched = 0) →
    let w := Config.vecBits s.cur.core
    let off := (s.me.rg a + BitVec.ofInt 64 m.disp.val).toInt
    let line := s.readN c 64
    let sigma := (s.me.rg b).toInt
    (Reaches s s.me.s[sg] off 64 .tload false c → InOwnSlice s .read c →
      (typedFault (s.line c).typed none line = none →
        ∃ t x, exec (.vldt sg d a b m) s = .next t ∧ OnlyMe s t ∧
          t.me = { (s.me.wv d x).wg b (BitVec.ofNat 64 (lineFormat line * 256 + lineByte line 1)) with
            pc := s.me.npc, st := .ready, banks := t.me.banks } ∧
          ∀ j < 256, lane x 8 j =
            if lineFormat line = 0x01 then if j < min 80 (w / 8) then lineElem line j else 0
            else if j < min 62 (w / 8) then (maskOf (lineByte line (2 + j))).getD 0 else 0) ∧
      ∀ x, x < 256 → typedFault (s.line c).typed none line = some x → s.me.takesTraps →
        ∃ t, exec (.vldt sg d a b m) s = .next t ∧ OnlyMe s t ∧
          t.me = { s.me.trapped 0x0A x (BitVec.ofInt 64 (segBase s.me.s[sg] + off)) s.me.pc false with
            banks := t.me.banks }) ∧
    (Reaches s s.me.s[sg] off 64 (.tstore 0) false c → InOwnSlice s .write c →
      (-127 ≤ sigma → sigma ≤ 127 → ∃ t x, exec (.vstt sg d a b m) s = .next t ∧ OnlyMeAndMemory s t ∧ StoredAs s t c 64 x true ∧
        t.me = { s.me with pc := s.me.npc, st := .ready, banks := t.me.banks } ∧
        lineFormat x = 0x01 ∧ lineScale x = sigma ∧ lineByte x 62 = 0 ∧ lineByte x 63 = 0 ∧ x < 2 ^ 512 ∧
        ∀ j < 80, lineElem x j = if j < w / 8 then lane (s.me.rv d) 8 j % 64 else 0) ∧
      (¬(-127 ≤ sigma ∧ sigma ≤ 127) → s.me.takesTraps → ∃ t, exec (.vstt sg d a b m) s = .next t ∧ OnlyMe s t ∧
        t.me = s.me.trapped 0x0A 0x03 0 s.me.pc false))

/-- Twice the exact value of a magnitude is less than (or equal to) the sum of two finite values, where an infinity stands for the value one
place beyond the greatest finite one (IEEE 754-2019, which R57 follows): the sign of `2v − (x + y)`. -/
def Sys2Proof.Machine.midpoint (f : Fmt) (v x y : FVal) : Int :=
  let fin (z : FVal) : Bool × Nat × Int := match z with
    | .fin a m e => (a, m, e)
    | .inf a => (a, 1, (f.bias : Int) + 1)
    | .nan _ => (false, 0, 0)
  let v := fin v
  let x := fin x
  let y := fin y
  let q := min v.2.2 (min x.2.2 y.2.2)
  2 * alignTo v.1 v.2.1 v.2.2 q - (alignTo x.1 x.2.1 x.2.2 q + alignTo y.1 y.2.1 y.2.2 q)

/-- The signed integer of a magnitude. -/
def Sys2Proof.Machine.signed (neg : Bool) (m : Nat) : Int := if neg then -(m : Int) else m

/-- R57: an exact sum ±v × 2^q, rounded; an exact zero has the operands' common sign, or else is negative only toward −∞. -/
def Sys2Proof.Machine.exactSum (f : Fmt) (d : RMode) (x y : Bool) (v q : Int) : Nat × Fl :=
  if v = 0 then (f.zero (if x = y then x else d == .rdn), 0) else roundPack f d (v < 0) v.natAbs q false

/-- R187, R188, R57: the arithmetic on finite operands ±m × 2^e gives the exact result, rounded once: sums and products as exact integers
at any exponent not above the operands'; quotients, roots and reciprocals by a magnitude of at least two bits more than the format holds,
with the news whether more lies below it. -/
def Sys2Proof.Machine.FiniteArithmetic (f : Fmt) (d : RMode) : Prop :=
  ∀ (a b c : Nat) (sa sb sc : Bool) (ma mb mc : Nat) (ea eb ec : Int),
    f.dec a = .fin sa ma ea → f.dec b = .fin sb mb eb → f.dec c = .fin sc mc ec →
    (∀ q, q ≤ ea → q ≤ eb →
      let x := signed sa (ma * 2 ^ (ea - q).toNat)
      let y := signed sb (mb * 2 ^ (eb - q).toNat)
      fpAdd f d a b = exactSum f d sa sb (x + y) q ∧ fpSub f d a b = exactSum f d sa (!sb) (x - y) q) ∧
    fpMul f d a b = (if ma * mb = 0 then (f.zero (sa != sb), 0) else roundPack f d (sa != sb) (ma * mb) (ea + eb) false) ∧
    (∀ q, q ≤ ea + eb → q ≤ ec → ∀ np nc : Bool,
      let x := signed ((sa != sb) != np) (ma * mb * 2 ^ (ea + eb - q).toNat)
      let z := signed (sc != nc) (mc * 2 ^ (ec - q).toNat)
      fpFma f d np nc a b c = exactSum f d ((sa != sb) != np) (sc != nc) (x + z) q) ∧
    (ma ≠ 0 → mb ≠ 0 → ∃ k : Nat, 2 ^ (f.fbits + 1) * mb ≤ ma * 2 ^ k ∧
      fpDiv f d a b = roundPack f d (sa != sb) (ma * 2 ^ k / mb) (ea - eb - k) (ma * 2 ^ k % mb != 0)) ∧
    (ma ≠ 0 → sa = false → ∃ k r : Nat, (ea - k) % 2 = 0 ∧ r * r ≤ ma * 2 ^ k ∧ ma * 2 ^ k < (r + 1) * (r + 1) ∧ 2 ^ (f.fbits + 1) ≤ r ∧
      fpSqrt f d a = roundPack f d false r ((ea - k) / 2) (r * r != ma * 2 ^ k)) ∧
    (ma ≠ 0 → ∃ k : Nat, 2 ^ (f.fbits + 1) * ma ≤ 2 ^ k ∧ fpRcp f d a = roundPack f d sa (2 ^ k / ma) (-ea - k) (2 ^ k % ma != 0)) ∧
    (ma ≠ 0 → sa = false → ∃ k r : Nat, (ea + k) % 2 = 0 ∧ r * r * ma ≤ 2 ^ k ∧ 2 ^ k < (r + 1) * (r + 1) * ma ∧ 2 ^ (f.fbits + 1) ≤ r ∧
      fpRsq f d a = roundPack f d false r (-((ea + k) / 2)) (r * r * ma != 2 ^ k))

/-- A pattern is what a real number rounds to, to nearest (R57, R61): no finite value of the format is nearer; it is an infinity exactly where
the number lies at least half a unit beyond the greatest finite value. -/
def Sys2Proof.Machine.Nearest (f : Fmt) (v : ℝ) (r : Nat) : Prop :=
  let value (y : Nat) : ℝ := match f.dec y with
    | .fin neg m e => (if neg then -1 else 1) * (m : ℝ) * (2 : ℝ) ^ e
    | _ => 0
  let finite (y : Nat) : Prop := (f.dec y).isNaN = false ∧ f.dec y ≠ .inf false ∧ f.dec y ≠ .inf true
  let edge : ℝ := (2 : ℝ) ^ (f.bias + 1 : Int) - (2 : ℝ) ^ ((f.bias : Int) - f.fbits - 1)
  r < 2 ^ f.width ∧ (f.dec r).isNaN = false ∧
  (f.dec r = .inf false → edge ≤ v) ∧ (f.dec r = .inf true → v ≤ -edge) ∧
  (finite r → |v| ≤ edge ∧ ∀ y < 2 ^ f.width, finite y → |value r - v| ≤ |value y - v|)

/-- Step 3 of R190: the reduced argument n × 2^−s rounded to 64 significant bits, to nearest with ties to even. -/
def Sys2Proof.Machine.Rounds64 (n : Int) (s : Nat) (r : ℝ) : Prop :=
  (n.natAbs < 2 ^ 64 → r = n / 2 ^ s) ∧
  ∀ k : Nat, 0 < k → 2 ^ (63 + k) ≤ n.natAbs → n.natAbs < 2 ^ (64 + k) → r = (roundedInt .rne (n < 0) n.natAbs (-(k : Int)) : ℝ) * 2 ^ k / 2 ^ s

/-- R189, R190: the special functions of a finite operand x = ±m × 2^e give the value of the format nearest the exact one, and set nx, with of
exactly where it is an infinity, unless the precision of log 11 does not decide the rounding, when the default NaN results. VFSIN and VFCOS take
k and the reduced argument by the constant Π of R190. -/
def Sys2Proof.Machine.SpecialFunctions (f : Fmt) : Prop :=
  ∀ (a : Nat) (neg : Bool) (m : Nat) (e : Int), f.dec a = .fin neg m e → m ≠ 0 →
    let x : ℝ := (if neg then -1 else 1) * (m : ℝ) * (2 : ℝ) ^ e
    let rounds (v : ℝ) (r : Nat × Fl) : Prop := r.1 = f.defNaN ∨
      Nearest f v r.1 ∧ r.2 &&& ~~~Fl.uf = if f.dec r.1 = .inf false ∨ f.dec r.1 = .inf true then Fl.of ||| Fl.nx else Fl.nx
    ((∀ n : Int, x ≠ n) → rounds ((2 : ℝ) ^ x) (fpExp2 f a)) ∧
    (neg = false → (∀ n : Int, x ≠ (2 : ℝ) ^ n) → rounds (Real.logb 2 x) (fpLog2 f a)) ∧
    rounds (Real.tanh x) (fpTanh f a) ∧
    (|x| < 2 ^ 30 → ∃ (k n : Int) (s : Nat) (r : ℝ),
      let halfPi : ℝ := (0xC90FDAA22168C234C4C6628B80DC1CD1 : ℝ) / 2 ^ 127
      x - k * halfPi = n / 2 ^ s ∧ |x - k * halfPi| ≤ halfPi / 2 ∧ Rounds64 n s r ∧
      rounds (if k % 4 = 0 then Real.sin r else if k % 4 = 1 then Real.cos r else if k % 4 = 2 then -Real.sin r else -Real.cos r)
        (fpTrig f false a) ∧
      rounds (if k % 4 = 0 then Real.cos r else if k % 4 = 1 then -Real.sin r else if k % 4 = 2 then -Real.cos r else Real.sin r)
        (fpTrig f true a))

/-- R57, R61: the one rounding of every floating-point result, in each format and direction, for every exact nonzero value v = ±m × 2^e.
Toward −∞ it gives the greatest value of the format that is not above v, toward +∞ the least that is not below it, toward zero the one
of these that is nearer zero, and to nearest the one nearer v, the even pattern on a tie; nx is raised exactly where the result is not
v itself. A magnitude below which more lies rounds as every magnitude between it and the next one does. R57, R58: of is raised exactly where the
value, rounded with an exponent of any size, lies beyond the greatest finite one; uf exactly where the result is inexact and the value, rounded
so, lies below the least normal one (tininess after rounding); no other flag is. R187, R188: each arithmetic instruction on finite operands gives
its exact result, rounded so (`FiniteArithmetic`). R189, R190: so do the special functions (`SpecialFunctions`). -/
def Obligations.FloatRounding : Prop :=
  ∀ f ∈ formats, (∀ d, FiniteArithmetic f d) ∧ SpecialFunctions f ∧ ∀ (neg : Bool) (m : Nat) (e : Int), m ≠ 0 →
    let v := FVal.fin neg m e
    let r (d : RMode) : Nat := (roundPack f d neg m e false).1
    let inexact (d : RMode) : Bool := (roundPack f d neg m e false).2 &&& Fl.nx != 0
    let flags (d : RMode) : Fl := (roundPack f d neg m e false).2
    let top : Int := e + Nat.log2 m
    let raised (d : RMode) : Bool := (roundedInt d neg m (f.fbits - Nat.log2 m)).natAbs == 2 ^ (f.fbits + 1)
    (∀ d, r d < 2 ^ f.width ∧ (f.dec (r d)).isNaN = false ∧ inexact d = !valEq v (f.dec (r d)) ∧ flags d &&& ~~~(Fl.of ||| Fl.uf ||| Fl.nx) = 0 ∧
      (flags d &&& Fl.of ≠ 0 ↔ f.bias < top ∨ top = f.bias ∧ raised d = true) ∧
      (flags d &&& Fl.uf ≠ 0 ↔ inexact d = true ∧ top < 1 - f.bias ∧ ¬(top = -f.bias ∧ raised d = true))) ∧
    (valLt v (f.dec (r .rdn)) = false ∧
      ∀ y < 2 ^ f.width, (f.dec y).isNaN = false → valLt v (f.dec y) = false → valLt (f.dec (r .rdn)) (f.dec y) = false) ∧
    (valLt (f.dec (r .rup)) v = false ∧
      ∀ y < 2 ^ f.width, (f.dec y).isNaN = false → valLt (f.dec y) v = false → valLt (f.dec y) (f.dec (r .rup)) = false) ∧
    r .rtz = (if neg then r .rup else r .rdn) ∧
    (r .rne =
      if 0 < midpoint f v (f.dec (r .rdn)) (f.dec (r .rup)) then r .rup
      else if midpoint f v (f.dec (r .rdn)) (f.dec (r .rup)) < 0 then r .rdn
      else if r .rdn % 2 = 0 then r .rdn else r .rup) ∧
    (2 ^ (f.fbits + 1) ≤ m → ∀ (d : RMode) (k n : Nat), m * 2 ^ k < n → n < (m + 1) * 2 ^ k → roundPack f d neg m e true = roundPack f d neg n (e - k) false)

/-- R57, R58, R188: NaNs, invalid operations, infinities and zeros of the arithmetic, for all operands of the three formats: a NaN result is
the default NaN, a signalling operand sets nv, an invalid operation sets nv, a division of a finite nonzero number by zero sets dz. R189, Table 5:
the special values and the exact cases of the special functions; R190: VFSIN and VFCOS of a magnitude of 2^30 or more give the default NaN and
set range alone. A minimum
or maximum takes the number where one operand is a NaN, and has −0 below +0; VFABS and VFNEG work on the sign bit alone. -/
def Obligations.FloatSpecials : Prop :=
  ∀ f ∈ formats, ∀ (d : RMode) (a b c : Nat),
    let x := f.dec a
    let y := f.dec b
    let z := f.dec c
    let nan (c : Bool) : Nat × Fl := (f.defNaN, if c then Fl.nv else 0)
    let isInf (v : FVal) : Bool := match v with
      | .inf _ => true
      | _ => false
    let isZero (v : FVal) : Bool := match v with
      | .fin _ m _ => m == 0
      | _ => false
    let neg (v : FVal) : Bool := match v with
      | .fin s _ _ => s
      | .inf s => s
      | .nan _ => false
    let finite (v : FVal) : Bool := !v.isNaN && !isInf v
    let minMax (isMax : Bool) (r : Nat) (fl : Fl) : Prop := fpMinMax f isMax a b = (r, fl) ∧ fpMinMax f isMax b a = (r, fl)
    (x.isNaN || y.isNaN → ∀ op ∈ [fpAdd, fpSub, fpMul, fpDiv], op f d a b = nan (x.isSig || y.isSig)) ∧
    (x.isNaN → ∀ op ∈ [fpSqrt, fpRcp, fpRsq], op f d a = nan x.isSig) ∧
    (x.isNaN → ∀ op ∈ [fpExp2, fpLog2, fpTanh, fun f a => fpTrig f false a, fun f a => fpTrig f true a], op f a = nan x.isSig) ∧
    (let one : Nat := f.bias * 2 ^ f.fbits
      let minusOne : Nat := 2 ^ (f.width - 1) + one
      let isExactly (r : Nat × Fl) (n : Int) : Prop := r.2 = 0 ∧ valEq (f.dec r.1) (.fin (n < 0) n.natAbs 0)
      valEq (f.dec one) (.fin false 1 0) ∧ valEq (f.dec minusOne) (.fin true 1 0) ∧
      (isZero x → fpExp2 f a = (one, 0) ∧ fpLog2 f a = (f.inf true, Fl.dz) ∧ fpTrig f false a = (f.zero (neg x), 0) ∧ fpTrig f true a = (one, 0) ∧
        fpTanh f a = (f.zero (neg x), 0)) ∧
      (isInf x → fpExp2 f a = (if neg x then f.zero false else f.inf false, 0) ∧ fpLog2 f a = (if neg x then nan true else (f.inf false, 0)) ∧
        fpTrig f false a = nan true ∧ fpTrig f true a = nan true ∧ fpTanh f a = (if neg x then minusOne else one, 0)) ∧
      (finite x → isZero x = false → neg x → fpLog2 f a = nan true) ∧
      (∀ m e, (x = .fin false m e ∨ x = .fin true m e) → valLt (.fin false m e) (.fin false 1 30) = false →
        fpTrig f false a = (f.defNaN, Fl.range) ∧ fpTrig f true a = (f.defNaN, Fl.range)) ∧
      (∀ n : Int, 1 - (f.bias : Int) - f.fbits ≤ n → n ≤ f.bias → valEq x (.fin (n < 0) n.natAbs 0) →
        (fpExp2 f a).2 = 0 ∧ valEq (f.dec (fpExp2 f a).1) (.fin false 1 n)) ∧
      (∀ n : Int, valEq x (.fin (n < 0) n.natAbs 0) → (f.bias < n → fpExp2 f a = (f.inf false, Fl.of ||| Fl.nx)) ∧
        (n < 1 - (f.bias : Int) - f.fbits → fpExp2 f a = (f.zero false, Fl.uf ||| Fl.nx))) ∧
      ∀ n : Int, valEq x (.fin false 1 n) → isExactly (fpLog2 f a) n) ∧
    (isInf x → isInf y → neg x ≠ neg y → fpAdd f d a b = nan true) ∧ (isInf x → isInf y → neg x = neg y → fpSub f d a b = nan true) ∧
    (isInf x → isZero y → fpMul f d a b = nan true ∧ fpMul f d b a = nan true ∧ (¬z.isSig → fpFma f d false false a b c = nan true)) ∧
    (isInf x → isInf y → fpDiv f d a b = nan true) ∧ (isZero x → isZero y → fpDiv f d a b = nan true) ∧
    (isInf x → finite y → fpAdd f d a b = (f.inf (neg x), 0) ∧ fpDiv f d a b = (f.inf (neg x != neg y), 0) ∧
      fpDiv f d b a = (f.zero (neg x != neg y), 0)) ∧
    (finite x → isZero x = false → isZero y → fpDiv f d a b = (f.inf (neg x != neg y), Fl.dz)) ∧
    (isZero x → fpRcp f d a = (f.inf (neg x), Fl.dz) ∧ fpRsq f d a = (f.inf (neg x), Fl.dz) ∧ fpSqrt f d a = (f.zero (neg x), 0)) ∧
    (isInf x → fpRcp f d a = (f.zero (neg x), 0)) ∧
    (¬x.isNaN → isZero x = false → neg x → fpSqrt f d a = nan true ∧ fpRsq f d a = nan true) ∧
    (isInf x → neg x = false → fpSqrt f d a = (f.posInf, 0) ∧ fpRsq f d a = (0, 0)) ∧
    (x.isNaN → y.isNaN = false → ∀ m, minMax m b (if x.isSig then Fl.nv else 0)) ∧
    (x.isNaN → y.isNaN → ∀ m, minMax m f.defNaN (if x.isSig || y.isSig then Fl.nv else 0)) ∧
    (x.isNaN = false → y.isNaN = false → valLt x y → minMax false a 0 ∧ minMax true b 0) ∧
    (isZero x → isZero y → neg x → neg y = false → minMax false a 0 ∧ minMax true b 0) ∧
    (a < 2 ^ f.width → (fpAbs f a).2 = 0 ∧ (fpNeg f a).2 = 0 ∧
      ∀ i, (fpAbs f a).1.testBit i = (a.testBit i && i != f.width - 1) ∧ (fpNeg f a).1.testBit i = (a.testBit i != (i == f.width - 1)))

/-! ## Pairs -/

/-- R40, R41, R43, R58: a pair of an integer half and a vector half reads every source before either half writes, both results are
written, and the flags that both halves raise join the sticky ones. The vector halves are the integer and floating-point rows, which raise
flags; VDUP and VSLIDE, whose general register may be the one that the integer half writes and is read before; and VLD, whose base register
may be that one too (its elements that need a bank again follow as T-cont, R97). When the vector half traps, neither half has any effect. -/
def Obligations.Pairs : Prop :=
  ∀ r ∈ intRows, ∀ w ∈ [Width.w64, Width.w32], ∀ (ty : VType) (p : P) (d a b ga : G) (part rm : Fin 8) (vd va vb : V) (sg : S) (m : Mem)
    (c : Nat → Nat) (s : State), Runs s →
    let x := (s.me.rg a).setWidth w.bits
    let y := (s.me.rg b).setWidth w.bits
    let vw := Config.vecBits s.cur.core
    let e := ty.bits
    let f := fmtOf ty
    let vx := elem s.me va e
    let vy := elem s.me vb e
    let after (z : BitVec 2048) (fl : Fl) : Slot := { (s.me.wg d ((r.op w.bits x y).signExtend 64)).wv vd z with
      flags := dzWhen (r.divides && y == 0) s.me.flags ||| fl.setWidth 64, pc := s.me.npc, st := .ready }
    let both (i : Instr) (res : Nat → Nat) (fl : Fl) : Prop := ∃ t z, exec (.pair (r.reg w d a b) i) s = .next t ∧ OnlyMe s t ∧
      z.toNat < 2 ^ vw ∧ t.me = after z fl ∧
      ∀ j < vw / e, lane z e j = if active (s.me.rp vw p) e j then res j % 2 ^ e else lane (s.me.rv vd) e j
    (ty.isInt = true →
      (∀ q ∈ vecIntRows, both (q.1 ty p vd va vb) (fun j => (q.2 e (vx j) (vy j)).toNat) 0) ∧
      ∀ q ∈ vecSatRows,
        let lo := (rangeOf q.2.1 e).1
        let hi := (rangeOf q.2.1 e).2
        let v (j : Nat) := q.2.2 e (vx j) (vy j)
        both (q.1 ty p vd va vb) (fun j => (BitVec.ofInt e (max lo (min hi (v j)))).toNat)
          (raised s e p fun j => if lo ≤ v j ∧ v j ≤ hi then 0 else Fl.sat)) ∧
    (ty.isFp = true → rm.val ≤ 4 → ∀ q ∈ vecFp2Rows,
      both (q.1 ty rm p vd va vb) (fun j => (q.2 f (roundingOf s rm) (vx j).toNat (vy j).toNat).1)
        (raised s e p fun j => (q.2 f (roundingOf s rm) (vx j).toNat (vy j).toNat).2)) ∧
    (ty.notL6 = true →
      both (.vdup ty p vd ga) (fun _ => (s.me.rg ga).toNat) 0 ∧
      both (.vslide ty p vd va ga) (fun j =>
        if 0 ≤ (s.me.rg ga).toInt + j ∧ (s.me.rg ga).toInt + j < (vw / e : Nat) then lane (s.me.rv va) e ((s.me.rg ga).toInt + j).toNat else 0) 0 ∧
      let js := activeOf s e p
      let base := s.me.rg ga + BitVec.ofInt 64 m.disp.val
      ((memRelease m = none ∨ s.me.touched = 0) →
        (∀ j ∈ js, Reaches s s.me.s[sg] (base + BitVec.ofNat 64 (j * (e / 8))).toInt (e / 8) .load false (c j) ∧ InOwnSlice s .read (c j)) →
        ∃ t z, exec (.pair (r.reg w d a b) (.vld ty p sg vd ga m)) s = .next t ∧ OnlyMe s t ∧ t.me = { after z 0 with banks := t.me.banks } ∧
          (∀ j < 2048 / e, lane z e j = if j ∈ js ∧ again js c j = false then s.readN (c j) (e / 8) else lane (s.me.rv vd) e j) ∧
          Leaves t.me.banks js c (e / 8) .load (.lanes vd e))) ∧
    (¬(-127 ≤ (s.me.rg a).toInt ∧ (s.me.rg a).toInt ≤ 127) → s.me.takesTraps →
      ∃ t, exec (.pair (r.reg w d a b) (.vqlns part p vd va a)) s = .next t ∧ OnlyMe s t ∧ t.me = s.me.trapped 0x0A 0x03 0 s.me.pc false)

/-! ## Fences -/

/-- The dies that a touched-bank mask names, ascending (R118). -/
def Sys2Proof.Machine.touchedDies (m : BitVec 64) : List Nat := (List.range 64).filter fun d => m.getLsbD d

/-- The thread's events on a path are performed, as far as a die sees it (R118, R119, Table 13): for T none of its accesses is on its way
to a home of the die; for C and G none of the copy requests it pushed waits, runs or has an arrival under way (G is a gather's); for M and
L the engine holds no instruction of it; for N no access and no packet word of it is on its way; for P none of its accesses is on its way to
a controller of the non-volatile tier. -/
def Sys2Proof.Machine.PathPerformed (s : State) (cid k die : Nat) (path : Path) : Prop :=
  let noAccess (to_ : Nat → Prop) : Prop := ∀ m ∈ s.msgs, ∀ id h acc, m.body = .access id h → SMap.get none s.accesses id = some acc →
    acc.core = cid → acc.slot = k → ¬ to_ h
  let noArrival (gather : Bool) : Prop := ∀ x ∈ s.accesses, ∀ acc, x.2 = some acc → acc.core = cid → acc.slot = k → acc.engine.isSome →
    acc.gather ≠ gather
  let c := s.core cid
  match path with
  | .t => noAccess fun h => homeDie h = die
  | .c => (∀ r ∈ c.copyFifo ++ c.copyBusy, r.slot = k → r.op = 1) ∧ noArrival false
  | .g => (∀ r ∈ c.copyFifo ++ c.copyBusy, r.slot = k → r.op ≠ 1) ∧ noArrival true
  | .m => (∀ j ∈ c.mxQueue, j.slot ≠ k) ∧ ∀ r, c.mxRun = some r → r.job.slot ≠ k
  | .l => (∀ j ∈ c.lxQueue, j.slot ≠ k) ∧ ∀ r, c.lxRun = some r → r.job.slot ≠ k
  | .n => noAccess (fun _ => True) ∧
      ∀ m ∈ s.msgs, ∀ ch dst dslot dch job uid pkt data first last, m.body ≠ .word cid k ch dst dslot dch job uid pkt data first last
  | .p => noAccess fun h => 30000 ≤ h ∧ h < 40000

/-- R118, R119, R396: FENCE and FENCEX. With a zero mask a fence of path T completes at once; else the thread parks and a probe goes to each
die of the mask. The other paths probe the thread's own die, and the paths N and P those of the mask too. A die echoes a probe once the
thread's earlier events of the path are performed there (`PathPerformed`); until then the probe stays. An echo takes its path off what the
thread waits for; the last one lets it go on, with its mask cleared for path T (for a FENCEX the model's choice, log 71). -/
def Obligations.Fences : Prop :=
  (∀ (sc : Scope) (p1 p2 : Path) (s : State), Runs s →
      let cid := s.cur.core
      let k := s.cur.slot
      let dies := touchedDies s.me.touched
      let own := Config.coreDie cid
      let probes (path : Path) : List (Nat × Path) :=
        match path with
        | .t => dies.map fun d => (d, Path.t)
        | .n => dies.map (fun d => (d, Path.t)) ++ [(own, Path.n)]
        | .p => dies.map (fun d => (d, Path.t)) ++ [(own, Path.p)]
        | path => [(own, path)]
      let parks (i : Instr) (path : Path) : Prop := ∃ t, exec i s = .next t ∧
        SlotSends s t cid k s.msgs ((probes path).map fun x => .probe cid k x.1 x.2) ∧
        t.me = { s.me with st := .parked (.fence sc (probes path) (path == .t) (.go (.go s.me.npc))), parkClk := s.clk }
      let passes (i : Instr) : Prop := ∃ t, exec i s = .next t ∧ OnlyMe s t ∧ t.me = { s.me with pc := s.me.npc, st := .ready }
      (dies = [] → passes (.fence sc) ∧ (p1 = .t → passes (.fencex sc p1 p2))) ∧
      (dies ≠ [] → parks (.fence sc) .t) ∧ (dies ≠ [] ∨ p1 ≠ .t → parks (.fencex sc p1 p2) p1)) ∧
  ∀ (cid k die : Nat) (path : Path) (s : State), k < 16 →
      (Carries s (.probe cid k die path) →
        (PathPerformed s cid k die path → ∃ t, exec .fenceProbe s = .next t ∧ Sent s t s.untaken [.echo cid k die path] ∧
          t = { s with msgs := t.msgs, nextMsg := t.nextMsg, draws := t.draws }) ∧
        (¬ PathPerformed s cid k die path → exec .fenceProbe s = .next s)) ∧
      (∀ sc pending clears pc, Carries s (.echo cid k die path) →
        (s.slot cid k).st = .parked (.fence sc pending clears (.go (.go pc))) →
        let left := pending.filter (· != (die, path))
        ∃ t, exec .fenceEcho s = .next t ∧ SlotSends s t cid k s.untaken [] ∧
          t.slot cid k = if left = []
            then { s.slot cid k with touched := if clears then 0 else (s.slot cid k).touched, pc := pc, st := .ready }
            else { s.slot cid k with st := .parked (.fence sc left clears (.go (.go pc))) })

/-! ## Stops and contexts -/

/-- A thread that neither is free nor has stopped. -/
abbrev Sys2Proof.Machine.Slot.alive (t : Slot) : Prop := t.st ≠ .free ∧ t.st ≠ .stopped

/-- The messages under way are those of `kept`, and to the broker of a tile with a matrix array the tile's target as it is now (R366). -/
def Sys2Proof.Machine.TellsBroker (s t : State) (kept : List Msg) (c : Nat) : Prop :=
  Sent s t kept (if Config.hasMatrix c then [.classUpdate c (t.target c)] else [])

/-- R177, R144, R146: CTXSV and CTXLD with each status, the request of a stop, and the save of a thread that stands at an instruction
boundary with nothing outstanding: its image is kept and its slot is stopped, with mask and buffers cleared. CTXSV parks its thread, and the
save that it asked for completes it with status 0; other threads that wait for that slot get 1, and of several that wait where something else
asked for the stop the lowest slot gets 0 (the model's choice, log 84). CTXLD of a stopped thread of the job, whose image holds an aligned pc,
restores it into its slot and answers 0; of a thread that is not stopped, the issuer too, 1. R143 to R146, Table 8: a context that is saved and
restored is the same thread: every general, segment, channel, predicate and vector register as the engine of width w holds it, pc, flags, trap
state, handler base, stall timeout, issue count, the wake-pending bit and the pending reports. -/
def Obligations.StopsAndContexts : Prop :=
  (∀ (d a : G) (s : State), Runs s →
      let cid := s.cur.core
      let n := (s.me.rg a).toNat
      let x := s.slot cid n
      let image := SMap.get [] s.images (s.imageKey cid n)
      let gives (i : Instr) (v : Word) : Prop := ∃ t, exec i s = .next t ∧ OnlyMe s t ∧ t.me = s.me.wrote d v s.me.flags
      (hmode s.me.flags = true →
        (15 < n ∨ n = s.cur.slot → gives (.ctxsv d a) 2) ∧ (15 < n → gives (.ctxld d a) 2) ∧
        (n = s.cur.slot → s.me.st = .ready → gives (.ctxld d a) 1) ∧
        (n ≤ 15 → n ≠ s.cur.slot → x.st = .free → gives (.ctxsv d a) 1 ∧ gives (.ctxld d a) 1) ∧
        (n ≤ 15 → n ≠ s.cur.slot → x.st ≠ .free → x.tag ≠ s.me.tag → gives (.ctxsv d a) 2 ∧ gives (.ctxld d a) 2) ∧
        (n ≤ 15 → n ≠ s.cur.slot → x.st = .stopped → x.tag = s.me.tag → gives (.ctxsv d a) 1 ∧
          ((SMap.get 0 image 48).extractLsb' 0 2 = 0 → s.me.st = .ready →
            ∃ t, exec (.ctxld d a) s = .next t ∧ t.me = s.me.wrote d 0 s.me.flags ∧
              t.slot cid n = restoreImage (Config.vecBits cid) s.clk image x ∧ (t.slot cid n).st = .ready ∧
              (∀ j, j ≠ n → j ≠ s.cur.slot → t.slot cid j = s.slot cid j) ∧ OthersSame s t cid ∧
              t.core cid = { s.core cid with slots := (t.core cid).slots } ∧ TellsBroker s t s.msgs cid ∧
              t = { s with cores := t.cores, msgs := t.msgs, nextMsg := t.nextMsg, draws := t.draws })) ∧
        (n ≤ 15 → n ≠ s.cur.slot → x.alive → x.tag = s.me.tag → gives (.ctxld d a) 1 ∧
          ∃ t, exec (.ctxsv d a) s = .next t ∧ t = { s with cores := t.cores } ∧ OthersSame s t cid ∧
            t.me = { s.me with st := .parked (.ctxsv n d), parkClk := s.clk } ∧
            t.slot cid n = { x with stopReq := some (x.stopReq.getD (.ctxsv s.cur.slot)) } ∧
            ∀ j, j ≠ n → j ≠ s.cur.slot → t.slot cid j = s.slot cid j)) ∧
      ∀ c k, s.ev.core = c → s.ev.slot = k → k < 16 →
        let y := s.slot c k
        let waits (i : Nat) : Option G := match (s.slot c i).st with
          | .parked (.ctxsv j d) => if j = k then some d else none
          | _ => none
        (s.ev.more = true → y.alive → ∃ t, exec .stop s = .next t ∧ OnlySlot s t c k ∧
          t.slot c k = { y with stopReq := some (y.stopReq.getD (if s.ev.flag then .supervisor else .scheduler)) }) ∧
        (∀ rq, s.ev.more = false → (y.st = .ready ∨ y.st = .parked .escalated) → y.stopReq = some rq → y.inPacket = false → y.posted = 0 → y.banks.cont = [] →
          (∀ e ∈ s.accesses, ∀ acc, e.2 = some acc → acc.core = c → acc.slot ≠ k) →
          let isFirst (i : Nat) : Prop := match rq with
            | .ctxsv j => i = j
            | _ => ∀ h < i, waits h = none
          ∃ t, exec .stop s = .next t ∧ OthersSame s t c ∧ t.core c = { s.core c with slots := (t.core c).slots } ∧
            t = { s with cores := t.cores, images := t.images, msgs := t.msgs, nextMsg := t.nextMsg, draws := t.draws } ∧
            TellsBroker s t s.msgs c ∧
            (∀ key, SMap.get [] t.images key =
              if key = s.imageKey c k then imageMap (saveImage (Config.vecBits c) y) else SMap.get [] s.images key) ∧
            t.slot c k = { y with st := .stopped, stopReq := none, touched := 0, buf := [], want := none, pre := none, halves := [], retry := false } ∧
            ∀ i < 16, i ≠ k →
              (waits i = none → t.slot c i = s.slot c i) ∧
              ∀ d, waits i = some d →
                (isFirst i → t.slot c i = { (s.slot c i).wg d 0 with pc := (s.slot c i).npc, st := .ready }) ∧
                (¬ isFirst i → t.slot c i = { (s.slot c i).wg d 1 with pc := (s.slot c i).npc, st := .ready }))) ∧
  ∀ (w clk : Nat) (t u : Slot), (w = 1024 ∨ w = 2048) → t.reports.length ≤ 24 → (∀ r ∈ t.reports, r.cause < 256 ∧ r.detail < 256) →
      (∀ i : V, (t.rv i).toNat < 2 ^ w) → (∀ i : P, (t.rp w i).toNat < 2 ^ (w / 8)) →
      let r := restoreImage w clk (imageMap (saveImage w t)) u
      (∀ i : G, r.rg i = t.rg i) ∧ r.s = t.s ∧ r.c = t.c ∧ (∀ i : P, r.rp w i = t.rp w i) ∧ r.v = t.v ∧
      r.pc = t.pc ∧ r.flags = t.flags ∧ r.trapPc = t.trapPc ∧ r.trapFlags = t.trapFlags ∧ r.trapCause = t.trapCause ∧
      r.trapAddr = t.trapAddr ∧ r.hbase = t.hbase ∧ r.stallTimeout = t.stallTimeout ∧ r.issueCount = t.issueCount ∧
      r.wakePend = t.wakePend ∧
      r.reports.map (fun x => (x.cause, x.detail, x.addr)) = t.reports.map fun x => (x.cause, x.detail, x.addr)

/-! ## The thread engine -/

/-- R44, R45, R126: one word of a pending skip count is annulled: pc passes the word, one is taken off the count, and when the count is used
up the home position is withheld; otherwise the annulment goes on in the same position. A filler is passed without counting. R97, R128, R150
to R152, R403: the checker's first mismatch counts and makes the word reissue at its own distance, the second is a core error; the known-answer
tester changes nothing unless the answer differs, a core error. R96, R97: in a clk each bank serves one T-cont access, of the oldest
instruction, unless a T-issue access uses the bank, and with it the elements in the first row that the instruction has left there are loaded
or stored; a thread parked for its T-cont accesses goes on after the last of them. -/
def Obligations.AnnulmentAndChecker : Prop :=
  (∀ (c k avail w : Nat) (s : State), k < 16 → s.ev.core = c → s.ev.slot = k → (s.slot c k).st = .ready →
      (s.slot c k).wakeStatus = none → (s.slot c k).fetched = .word avail w →
      let x := s.slot c k
      let n := (x.flags.extractLsb' 16 2).toNat
      let again : Turn := .event .skipAnnul { core := c, slot := k }
      (1 ≤ n → w % 4 ≠ 3 → wordLength w ≤ avail → ∃ t, exec .skipAnnul s = .next t ∧ CoresBut s t c k ∧
        t = { s with cores := t.cores, agenda := if n = 1 then s.agenda else again :: s.agenda } ∧
        t.slot c k = { x with pc := x.pc + BitVec.ofNat 64 (wordLength w), homeHold := x.homeHold || n == 1
                              flags := x.flags &&& ~~~(0x30000 : Word) ||| BitVec.ofNat 64 (n - 1) <<< 16 }) ∧
      (1 ≤ n → w % 4 = 3 → ∃ t, exec .skipAnnul s = .next t ∧ CoresBut s t c k ∧ t = { s with cores := t.cores, agenda := again :: s.agenda } ∧
        t.slot c k = { x with pc := blockOf x.pc + 32 })) ∧
  (∀ (c k : Nat) (s : State), k < 16 → s.ev.core = c → s.ev.slot = k →
      let x := s.slot c k
      let contains (cause : Nat) (i : Instr) : Prop := exec i s = .next { s with agenda := .contain c cause :: s.agenda }
      (∀ avail w i n, x.st = .ready → x.retry = false → x.fetched = .word avail w → decodeWord (enginesOf c) avail w = .instr i n →
        ∃ t, exec .checkerRetry s = .next t ∧ t = { s with cores := t.cores } ∧ OthersSame s t c ∧
        t.slot c k = { x with retry := true, last := s.clk, dist := distanceOf c i } ∧
        t.core c = { s.core c with slots := (t.core c).slots
                                   chkCount := if (s.core c).chkCount = BitVec.allOnes 64 then (s.core c).chkCount else (s.core c).chkCount + 1 } ∧
        ∀ j, j ≠ k → t.slot c j = s.slot c j) ∧
      (x.st = .ready → x.retry = true → contains 0x02 .checkerRetry) ∧
      (s.ev.flag = true → contains 0x03 .knownAnswerTest) ∧ (s.ev.flag = false → exec .knownAnswerTest s = .next s)) ∧
  ∀ (c : Nat) (s : State), s.ev.core = c →
      let at_ (k : Nat) : BankUse := (s.slot c k).banks
      let wants (k b : Nat) : Prop := (at_ k).clk < s.clk ∧ b ∈ (at_ k).cont
      let served (k b : Nat) : Prop := b < 16 ∧ wants k b ∧ (∀ j < 16, (at_ j).clk = s.clk → b ∉ (at_ j).issue) ∧
        ∀ j < 16, j ≠ k → wants j b → (at_ k).clk < (at_ j).clk ∨ (at_ k).clk = (at_ j).clk ∧ k < j
      let clean (u : AUnit) : Prop := u.n ∈ [1, 2, 4, 8] ∧ u.cell % u.n = 0 ∧ (s.line u.cell).sound = true ∧ (s.line u.cell).wiped = none
      -- of slot k: the elements that this clk serves, those that it leaves, and what else the clk does to the slot
      let Ends (k : Nat) (now_ left : List AUnit) : Prop :=
        (∀ u, u ∈ now_ ↔ u ∈ (at_ k).left ∧ served k (bankAt u.cell) ∧
          ((at_ k).left.find? fun v => bankAt v.cell == bankAt u.cell).any (fun v => v.cell / 16 == u.cell / 16) = true) ∧
        now_.Sublist (at_ k).left ∧ left = (at_ k).left.filter fun u => !now_.contains u
      let becomes (t : State) (k : Nat) (v : Vector (BitVec 2048) 16) (left : List AUnit) : Prop := ∃ rest : List Nat,
        (∀ b, (served k b → rest.count b + 1 = (at_ k).cont.count b) ∧ (¬ served k b → rest.count b = (at_ k).cont.count b)) ∧
        t.slot c k = { s.slot c k with
          v, banks := { at_ k with cont := rest, left }
          st := if (s.slot c k).st = .parked .tcont ∧ rest = [] then .ready else (s.slot c k).st }
      let frame (t : State) : Prop := OthersSame s t c ∧ t.core c = { s.core c with slots := (t.core c).slots }
      ((∀ k < 16, (at_ k).left = []) → ∃ t, exec .tcontAccess s = .next t ∧ t = { s with cores := t.cores } ∧ frame t ∧
        ∀ k < 16, becomes t k (s.slot c k).v []) ∧
      ∀ k < 16, (∀ j < 16, j ≠ k → (at_ j).left = []) → (∀ u ∈ (at_ k).left, clean u) → (at_ k).left.Nodup → ∃ now_ left, Ends k now_ left ∧
        (∀ d e, (at_ k).op = .load → (at_ k).done = .lanes d e → (e = 8 ∨ e = 16 ∨ e = 32 ∨ e = 64) →
          (∀ u ∈ (at_ k).left, 8 * u.n = e ∧ u.idx < 2048 / e) → ((at_ k).left.map (·.idx)).Nodup →
          ∃ t x, exec .tcontAccess s = .next t ∧ t = { s with cores := t.cores } ∧ frame t ∧
            becomes t k ((s.slot c k).v.set d x) left ∧
            (∀ u ∈ now_, lane x e u.idx = s.readN u.cell u.n) ∧
            (∀ j < 2048 / e, (∀ u ∈ now_, u.idx ≠ j) → lane x e j = lane (s.slot c k).v[d] e j) ∧
            ∀ j < 16, j ≠ k → becomes t j (s.slot c j).v []) ∧
        ∀ data, (at_ k).op = .store data → (at_ k).done = .none → (∀ u ∈ (at_ k).left, u.cell / 2 ^ 60 ≠ 3) →
          ∃ t, exec .tcontAccess s = .next t ∧ t = { s with cores := t.cores, mem := t.mem, lines := t.lines } ∧ frame t ∧
            SameMemory (now_.foldl (fun m u => m.writePlain u.cell u.n (((data.find? fun x => x.1 == u.idx).map (·.2)).getD 0)) s) t ∧
            becomes t k (s.slot c k).v left ∧ ∀ j < 16, j ≠ k → becomes t j (s.slot c j).v []

/-- R92, R94, R147 to R149: FETCH_BLOCK. The two 16-byte halves of a block are read each as one unit: in the thread's own slice, with no
access from before its latest IFLUSH still under way, both now, or one now while the other is on its way (the model's free choice, log 29);
else a message goes for each. A half that has arrived is kept until the other is there too, and then the block enters the buffer. A
demanded block that s0 does not let the thread execute traps at the word that it would issue; where the tile of a block under way has been
retired, that trap is the contained error 0x62 (R13). R92: the place of a block is checked against s0:
within its limit, with the execute right, in its space, aligned. -/
def Obligations.Fetching : Prop :=
  (∀ (c k cell : Nat) (s : State), k < 16 → s.ev.core = c → s.ev.slot = k → (s.slot c k).alive →
      let x := s.slot c k
      let a := blockOf s.ev.addr
      let others := x.halves.filter fun y => blockOf y.1 != a
      let readable (h : Word) : Prop := s.targetCheck c x.tag .read (cell + (h - a).toNat) 16 = none ∧ (s.line (cell + (h - a).toNat)).sound = true
      let value (h : Word) : Nat := s.readN (cell + (h - a).toNat) 16
      let buffered (t : State) (bits : Nat) (wantsIt : Bool) : Prop :=
        (a = blockOf x.pc ∨ a = blockOf x.pc + 32 → bufFind (t.slot c k).buf a = some ⟨a, bits⟩) ∧
        t.slot c k = { x with buf := (t.slot c k).buf, halves := others
                              want := if wantsIt then none else x.want
                              pre := if x.pre = some a then none else x.pre }
      let pending : Prop := ∃ m ∈ s.msgs, ∃ id home acc, m.body = .access id home ∧ id < x.flushed ∧
        SMap.get none s.accesses id = some acc ∧ acc.core = c ∧ acc.slot = k ∧ acc.engine = none
      (s.ev.more = false → s.ev.addr = a → s.fetchPlace c k a = .ok (.cell cell) →
        (s.homeOf cell = c → ¬ pending → readable a → readable (a + 16) → (s.ev.flag = true ∨ x.pre = some a) →
          ∃ t, exec .fetchBlock s = .next t ∧
            ((t = { s with cores := t.cores, draws := t.draws } ∧ CoresBut s t c k ∧
                buffered t (value a + 2 ^ 128 * value (a + 16)) (s.ev.flag || x.want == some a)) ∨
              ∃ now_ later, [now_, later] ∈ [[a, a + 16], [a + 16, a]] ∧ SlotSends s t c k s.msgs [.fetch c k later] ∧
                t.slot c k = { x with halves := (now_, value now_) :: others, want := if s.ev.flag then some a else x.want })) ∧
        (s.homeOf cell ≠ c ∨ pending → ∃ t, exec .fetchBlock s = .next t ∧ SlotSends s t c k s.msgs [.fetch c k a, .fetch c k (a + 16)] ∧
          t.slot c k = { x with halves := others, want := if s.ev.flag then some a else x.want })) ∧
      (∀ h other, [h, other] ∈ [[a, a + 16], [a + 16, a]] → s.ev.more = true → s.ev.addr = h → (x.want = some a ∨ x.pre = some a) →
        s.fetchPlace c k a = .ok (.cell cell) → readable h →
        (∀ v, x.halves.find? (·.1 == other) = some (other, v) → ∃ t, exec .fetchBlock s = .next t ∧ OnlySlot s t c k ∧
          buffered t (if h = a then value h + 2 ^ 128 * v else v + 2 ^ 128 * value h) (x.want == some a)) ∧
        (x.halves.find? (·.1 == other) = none → ∃ t, exec .fetchBlock s = .next t ∧ OnlySlot s t c k ∧
          t.slot c k = { x with halves := (h, value h) :: x.halves.filter fun y => y.1 != h })) ∧
      (∀ cause detail, s.ev.more = false → cause < 256 → detail < 256 → s.fetchPlace c k a = .error (cause, detail) → s.ev.flag = true →
        x.takesTraps → ∃ t, exec .fetchBlock s = .next t ∧ OnlySlot s t c k ∧
          t.slot c k = { x with want := none, pre := none, halves := [] }.trapped cause detail x.pc x.pc false) ∧
      (s.ev.more = true → x.want = some a → s.fetchPlace c k a = .error (0x06, 0x04) → x.takesTraps → ∃ t, exec .fetchBlock s = .next t ∧
        OnlySlot s t c k ∧ t.slot c k = { x with want := none, pre := none, halves := [] }.trapped 0x0B 0x62 x.pc x.pc false)) ∧
  ∀ (c k : Nat) (a : Word) (s : State),
      let sg := (s.slot c k).s[0]
      let base := (sg.extractLsb' 0 64).toNat
      let limit := (sg.extractLsb' 64 48).toNat
      (a.toNat < base ∨ base + limit < a.toNat + 32 → s.fetchPlace c k a = .error (0x04, 0x11)) ∧
      (base ≤ a.toNat → a.toNat + 32 ≤ base + limit →
        (sg.getLsbD 114 = false → s.fetchPlace c k a = .error (0x04, 0x12)) ∧
        (sg.getLsbD 114 = true → a.extractLsb' 60 4 ≠ sg.extractLsb' 60 4 → s.fetchPlace c k a = .error (0x04, 0x13)) ∧
        (sg.getLsbD 114 = true → a.extractLsb' 60 4 = 7 → sg.extractLsb' 60 4 = 7 → s.fetchPlace c k a = .error (0x06, 0x02)) ∧
        (sg.getLsbD 114 = true → a.extractLsb' 60 4 = sg.extractLsb' 60 4 → a.extractLsb' 60 4 ≠ 7 → a.extractLsb' 0 5 = 0 →
          ∀ p, s.checkSpace (s.agent c k) a = .ok p → s.fetchPlace c k a = .ok p))

/-! ## Accesses to other homes -/

/-- The die that holds a home (R118): a tile's, a stack controller's, or that of the registers. -/
abbrev Sys2Proof.Machine.dieOfHome (h : Nat) : Nat := homeDie h

/-- R118, R130, R131, R163: an access to a home elsewhere. A load sends its request and parks its thread; a store is a posted write that
the thread does not wait for, unless 16 of them are unacknowledged, when it parks with nothing sent; each marks the home's die in the
touched mask; no byte of memory changes yet. -/
def Obligations.RemoteRequests : Prop :=
  ∀ (w : Width) (sg : S) (d a : G) (m : Mem) (c : Nat) (s : State), Runs s → (memRelease m = none ∨ s.me.touched = 0) →
    s.homeOf c ≠ s.cur.core → c / 2 ^ 60 ≠ 7 →
    let cid := s.cur.core
    let k := s.cur.slot
    let off := (s.me.rg a + BitVec.ofInt 64 m.disp.val).toInt
    let x := (s.me.rg d).toNat % 2 ^ w.bits
    let at_ : Word := BitVec.ofInt 64 (segBase s.me.s[sg] + off)
    let home := s.homeOf c
    let asks (t : State) (acc : Access) : Prop :=
      SMap.get none t.accesses s.nextAcc = some acc ∧ (∀ j, j ≠ s.nextAcc → SMap.get none t.accesses j = SMap.get none s.accesses j) ∧
      t.nextAcc = s.nextAcc + 1 ∧ Sent s t s.msgs [.access s.nextAcc home] ∧ CoresBut s t cid k ∧
      t = { s with cores := t.cores, accesses := t.accesses, nextAcc := t.nextAcc, msgs := t.msgs, nextMsg := t.nextMsg, draws := t.draws }
    let request (op : AccOp) (done : Done) (posted : Bool) : Access :=
      { core := cid, slot := k, job := s.me.tag, op, done, posted, ord := m.ord != .plain, counted := posted, addr := at_
        parts := [(home, [⟨0, at_, c, w.bytes⟩])], waiting := [home], results := [], refusals := [] }
    let mask := s.me.touched ||| (1#64 <<< dieOfHome home)
    (Reaches s s.me.s[sg] off w.bytes .load true c →
      ∃ t undo, exec (.ld w sg d a m) s = .next t ∧ asks t (request .load (.g d w.bits) false) ∧
        t.me = { s.me with touched := mask, st := .parked (.remote s.nextAcc undo (.go s.me.npc)), parkClk := s.clk
                           banks := t.me.banks }) ∧
    (Reaches s s.me.s[sg] off w.bytes (.store [(0, x)]) true c →
      (s.me.posted < 16 → ∃ t, exec (.st w sg d a m) s = .next t ∧ asks t (request (.store [(0, x)]) .none true) ∧
        t.me = { s.me with touched := mask, posted := s.me.posted + 1, pc := s.me.npc, st := .ready, banks := t.me.banks }) ∧
      (16 ≤ s.me.posted → ∃ t r, exec (.st w sg d a m) s = .next t ∧ OnlyMe s t ∧
        t.me = { s.me with st := .parked (.posted r (.go s.me.npc) []), parkClk := s.clk }))

/-- R94, R99, R100, R107, R165: REMOTE_ACCESS at its home. When the home's checks pass, a scalar load reads, a store writes, an atomic does
both (a failed ACAS writes nothing), and the result or the acknowledgement goes back; when the owner tag or the windows refuse, nothing is
written and the refusal goes back. R207: of several elements of one access some may be performed first, by free choice, those of one address
in their order; the message then stays with the others. -/
def Obligations.AccessAtHome : Prop :=
  (∀ (id home : Nat) (a : Access) (us : List AUnit) (s : State), Carries s (.access id home) → SMap.get none s.accesses id = some a →
    a.parts = [(home, us)] → a.core ≠ home → us.Nodup → 2 ≤ us.length →
    (∀ u ∈ us, u.cell / 2 ^ 60 ≠ 7 ∧ u.cell / 2 ^ 60 ≠ 3 ∧ (s.line u.cell).sound = true ∧ (s.line u.cell).wiped = none ∧
      s.targetCheck a.core a.job a.op.kind u.cell u.n = none) →
    let does (kept : List (Nat × Nat) → List (Nat × Nat)) (memory : State → List AUnit → Prop) : Prop :=
      ∃ (t : State) (now_ later : List AUnit), exec .remoteAccess s = .next t ∧ now_.Sublist us ∧ later.Sublist us ∧ (∀ u ∈ us, u ∈ now_ ↔ u ∉ later) ∧
        (∀ (i j : Nat) (u v : AUnit), i < j → us[i]? = some u → us[j]? = some v → u.cell = v.cell → v ∈ now_ → u ∈ now_) ∧ memory t now_ ∧
        (∀ j, j ≠ id → SMap.get none t.accesses j = SMap.get none s.accesses j) ∧
        t = { s with mem := t.mem, lines := t.lines, accesses := t.accesses, msgs := t.msgs, nextMsg := t.nextMsg, draws := t.draws } ∧
        SMap.get none t.accesses id = some { a with
          parts := (if later = [] then [] else [(home, later)])
          results := a.results ++ kept (now_.map fun u => (u.idx, s.readN u.cell u.n)) } ∧
        if later = [] then Sent s t s.untaken [.reply id home]
        else ∃ due, s.clk < due ∧ t.msgs = s.untaken ++ [⟨s.ev.id, due, .access id home⟩]
    (a.op = .load → does (fun rs => rs) fun t _ => SameMemory s t) ∧
    ∀ data, a.op = .store data → does (fun _ => []) fun t now_ =>
      SameMemory (now_.foldl (fun m u => m.writePlain u.cell u.n (((data.find? fun x => x.1 == u.idx).map (·.2)).getD 0)) s) t) ∧
  ∀ (id home : Nat) (a : Access) (u : AUnit) (s : State), Carries s (.access id home) → SMap.get none s.accesses id = some a →
    a.parts = [(home, [u])] → a.core ≠ home → u.cell / 2 ^ 60 ≠ 7 → u.cell / 2 ^ 60 ≠ 3 →
    (s.line u.cell).sound = true → (s.line u.cell).wiped = none →
    let old := s.readN u.cell u.n
    let answers (t : State) (rs : List (Nat × Nat)) (fs : List Refusal1) : Prop :=
      SMap.get none t.accesses id = some { a with parts := [], results := a.results ++ rs, refusals := a.refusals ++ fs } ∧
      (∀ j, j ≠ id → SMap.get none t.accesses j = SMap.get none s.accesses j) ∧ Sent s t s.untaken [.reply id home] ∧
      t = { s with mem := t.mem, lines := t.lines, accesses := t.accesses, msgs := t.msgs, nextMsg := t.nextMsg, draws := t.draws }
    (s.targetCheck a.core a.job a.op.kind u.cell u.n = none →
      (a.op = .load → ∃ t, exec .remoteAccess s = .next t ∧ SameMemory s t ∧ answers t [(u.idx, old)] []) ∧
      (∀ x, a.op = .store [(u.idx, x)] → ∃ t, exec .remoteAccess s = .next t ∧ Stored s t u.cell u.n x ∧ answers t [] []) ∧
      (∀ op y cmp z, a.op = .atomic op y cmp → atomicNew op (8 * u.n) old (y % 2 ^ (8 * u.n)) (cmp % 2 ^ (8 * u.n)) = some z →
        ∃ t, exec .remoteAccess s = .next t ∧ Stored s t u.cell u.n z ∧ answers t [(u.idx, old)] []) ∧
      (∀ y cmp, a.op = .atomic .cas y cmp → old ≠ cmp % 2 ^ (8 * u.n) →
        ∃ t, exec .remoteAccess s = .next t ∧ SameMemory s t ∧ answers t [(u.idx, old)] [])) ∧
    (∀ cause detail, s.targetCheck a.core a.job a.op.kind u.cell u.n = some (cause, detail) → cause = 0x07 ∨ cause = 0x08 →
      ∃ t, exec .remoteAccess s = .next t ∧ SameMemory s t ∧ answers t [] [⟨u.idx, cause, detail, u.va⟩])

/-- R130, R131, R142: the answers of an access return. The last reply of a load writes the destination and lets the thread go on; a refusal
traps at the load with no other effect. An acknowledgement takes one off the posted writes; a refused posted write is reported as an
asynchronous trap with its cause, detail and address. R211, R222: a refused arrival of a request is reported for the concord's address, to the
thread if it still runs the clause that pushed the request, else to the die's supervisor core. -/
def Obligations.AnswersReturn : Prop :=
  ∀ (id home : Nat) (a : Access) (s : State), Carries s (.reply id home) → SMap.get none s.accesses id = some a →
    a.waiting = [home] → a.slot < 16 →
    let x := s.slot a.core a.slot
    let ends (t : State) : Prop :=
      SMap.get none t.accesses id = none ∧ (∀ j, j ≠ id → SMap.get none t.accesses j = SMap.get none s.accesses j) ∧
      CoresBut s t a.core a.slot ∧ t = { s with cores := t.cores, accesses := t.accesses, msgs := s.untaken }
    (∀ pc d bits v, a.posted = false → x.st = .parked (.remote id [] (.go pc)) → a.done = .g d bits → a.results = [(0, v)] →
      (a.refusals = [] → ∃ t, exec .remoteReply s = .next t ∧ ends t ∧
        t.slot a.core a.slot = { x.wg d (BitVec.ofInt 64 (sextN bits v)) with pc := pc, st := .ready }) ∧
      (∀ r, a.refusals = [r] → r.cause < 256 → r.detail < 256 → x.takesTraps → ∃ t, exec .remoteReply s = .next t ∧ ends t ∧
        t.slot a.core a.slot = x.trapped r.cause r.detail r.addr x.pc false)) ∧
    (a.posted = true → a.counted = true → a.engine = none → x.st = .ready →
      (a.refusals = [] → ∃ t, exec .postedWriteAck s = .next t ∧ ends t ∧ t.slot a.core a.slot = { x with posted := x.posted - 1 }) ∧
      (∀ r, a.refusals = [r] → x.reports = [] → ∃ t, exec .postedWriteAck s = .next t ∧ ends t ∧
        t.slot a.core a.slot = { x with posted := x.posted - 1, reports := [⟨id, r.cause, r.detail, r.addr⟩] })) ∧
    ∀ uid r, a.posted = true → a.counted = false → a.engine = some uid → a.refusals = [r] →
      (∀ q c f, x.st ≠ .parked (.posted q c f)) → x.st ≠ .parked .exitDrain →
      let runs : Prop := x.st ≠ .free ∧ x.st ≠ .stopped ∧ x.occ.map (·.uid) = some uid
      (runs → x.reports = [] → ∃ t, exec .postedWriteAck s = .next t ∧ ends t ∧
        t.slot a.core a.slot = { x with reports := [⟨id, r.cause, r.detail, r.addr⟩] }) ∧
      (¬runs → ∃ t, exec .postedWriteAck s = .next t ∧ t = { s with
        accesses := t.accesses, msgs := s.untaken
        reports := s.reports ++ [⟨Config.coreDie a.core, a.core, a.slot, r.cause, r.detail, r.addr, some (a.job, a.addr)⟩] } ∧
        SMap.get none t.accesses id = none ∧ ∀ j, j ≠ id → SMap.get none t.accesses j = SMap.get none s.accesses j)

/-! ## The copy engine -/

/-- R91: the rights of a destination, and of a concord, in a space; in space 0x3 persist is needed too. -/
def Sys2Proof.Machine.needsWrite (space : Nat) : Nat := if space = 3 then rWrite ||| rPersist else rWrite

/-- R91: the rights of a read-modify-write in a space. -/
def Sys2Proof.Machine.needsAll (space : Nat) : Nat := rRead ||| rAtomic ||| needsWrite space

/-- R214, R213, R212: the checks of a push, in their order, on the four request words: the first that fails is the trap, and a request that
passes them all is made of the words, with the segments and the rounding direction as they are now. -/
def Sys2Proof.Machine.PushChecks (s : State) (a : G) : Prop :=
  let w (i : Nat) : Word := requestWord s.me a i
  let field (lo n : Nat) : Nat := (w 0).toNat / 2 ^ lo % 2 ^ n
  let op := field 60 4
  let es := 2 ^ field 45 3
  let stype := field 41 4
  let dtype := field 37 4
  let count := field 0 32
  let cc := (w 0).getLsbD 33
  let fe := (w 0).getLsbD 32
  let b := if op = 1 ∨ op = 2 then count * es else if op = 3 then count * codeBytes dtype else count
  let seg (lo : Nat) : BitVec 128 := s.me.s.toList.getD (field lo 3) 0
  let unused : Prop := op = 4 ∧ field 57 3 ≠ 0 ∨ (op = 0 ∨ op = 3 ∨ op = 4) ∧ field 51 3 ≠ 0 ∨ (op = 0 ∨ op = 3) ∧ field 45 3 ≠ 0 ∨
    op ≠ 3 ∧ (stype ≠ 0 ∨ dtype ≠ 0 ∨ field 34 3 ≠ 0) ∨ cc = false ∧ (field 48 3 ≠ 0 ∨ w 3 ≠ 0)
  let malformed : Prop := unused ∨ (op = 1 ∨ op = 2) ∧ 6 < field 45 3 ∨ op = 4 ∧ 3 < field 45 3 ∨
    fe = true ∧ (op = 2 ∧ field 45 3 < 3 ∨ op ≠ 2 ∧ ((w 2).toNat % 8 ≠ 0 ∨ b % 8 ≠ 0)) ∨ op = 4 ∧ count % es ≠ 0
  let wrongTypes : Prop := op = 3 ∧ (stype = 3 ∨ 8 ≤ stype ∨ dtype = 3 ∨ 8 ≤ dtype ∨ stype = dtype ∨ 5 ≤ field 34 3)
  let range (sg : BitVec 128) (off : Word) (n al : Nat) (need : Nat → Nat) : List Trap :=
    match segAddr sg off.toInt n al need false with
    | .error (c, d) => [⟨7, c, d, BitVec.ofInt 64 (segBase sg + off.toInt)⟩]
    | .ok y => match s.checkSpace (s.agent s.cur.core s.cur.slot) y with
      | .error d => [⟨7, 0x06, d, y⟩]
      | .ok _ => []
  let holds (sg : BitVec 128) (need : Nat) : List Trap :=
    if need &&& segRights sg = need then [] else [⟨7, 0x04, 0x12, BitVec.ofInt 64 (segBase sg)⟩]
  let base := segBase (seg 54)
  let failures : List Trap :=
    (match op with
      | 0 => range (seg 57) (w 1) count 1 fun _ => rRead
      | 1 => holds (seg 57) rRead ++ range (seg 51) (w 1) (4 * count) 4 fun _ => rRead
      | 2 => range (seg 57) (w 1) (count * es) es (fun _ => rRead) ++ range (seg 51) (w 2) (4 * count) 4 fun _ => rRead
      | 3 => range (seg 57) (w 1) (count * codeBytes stype) (codeBytes stype) fun _ => rRead
      | _ => []) ++
    (if op = 2 then
      holds (seg 54) (needsWrite (base / 2 ^ 60)) ++ if base / 2 ^ 60 = 7 then [⟨7, 0x05, 0x21, BitVec.ofInt 64 base⟩] else []
     else range (seg 54) (w 2) b (if op = 0 then 1 else if op = 3 then codeBytes dtype else es) needsWrite) ++
    if cc then range (seg 48) (w 3) 16 16 needsAll else []
  let request : CopyReq :=
    { id := 0, core := s.cur.core, slot := s.cur.slot, uid := (s.me.occ.map (·.uid)).getD 0, job := s.me.tag, op
      src := seg 57, dst := seg 54, idx := seg 51, cseg := seg 48, esize := field 45 3, stype, dtype
      rm := if field 34 3 = 0 then (s.me.flags.extractLsb' 8 2).toNat + 1 else field 34 3
      cc, fe, count, w1 := w 1, w2 := w 2, w3 := w 3 }
  (5 ≤ op → s.pushed a = .error ⟨7, 0x0F, 0x71, 0⟩) ∧
  (op < 5 → malformed → s.pushed a = .error ⟨7, 0x0F, 0x72, 0⟩) ∧
  (op < 5 → ¬ malformed → wrongTypes → s.pushed a = .error ⟨7, 0x0F, 0x73, 0⟩) ∧
  (op < 5 → ¬ malformed → ¬ wrongTypes →
    (∀ x rest, failures = x :: rest → s.pushed a = .error x) ∧ (failures = [] → s.pushed a = .ok request))

/-- R209, R210, R214, R235: CPQ and CPQN of a request that passes the push checks (`PushChecks`) take the last place of the command FIFO; with
16 requests there CPQ parks its thread and CPQN answers 1 without a request. A request that fails a check is a trap at the push. The
oldest request starts while fewer than four are in progress. The trap address of a right that no address is formed for is the model's choice
(log 26). -/
def Obligations.CopyQueue : Prop :=
  ∀ (a d : G) (r : CopyReq) (s : State), Runs s →
    let cid := s.cur.core
    let core := s.core cid
    let full := 16 ≤ core.copyFifo.length
    let queues (i : Instr) (me : Slot) : Prop := ∃ t, exec i s = .next t ∧
      t = { s with cores := t.cores, nextReq := s.nextReq + 1 } ∧ OthersSame s t cid ∧ t.me = me ∧
      t.core cid = { core with slots := (t.core cid).slots, copyFifo := core.copyFifo ++ [{ r with id := s.nextReq }] } ∧
      ∀ j, j ≠ s.cur.slot → t.slot cid j = s.slot cid j
    PushChecks s a ∧
    (s.pushed a = .ok r →
      (¬full → queues (.cpq a) { s.me with pc := s.me.npc, st := .ready } ∧ queues (.cpqn d a) (s.me.wrote d 0 s.me.flags)) ∧
      (full → (∃ t, exec (.cpq a) s = .next t ∧ OnlyMe s t ∧ t.me = { s.me with st := .parked (.fifo r), parkClk := s.clk }) ∧
        ∃ t, exec (.cpqn d a) s = .next t ∧ OnlyMe s t ∧ t.me = s.me.wrote d 1 s.me.flags)) ∧
    (∀ x, s.pushed a = .error x → x.cause < 256 → x.detail < 256 → s.me.takesTraps → ∀ i ∈ [Instr.cpq a, .cpqn d a],
      ∃ t, exec i s = .next t ∧ OnlyMe s t ∧ t.me = s.me.trapped x.cause x.detail x.addr s.me.pc false) ∧
    ∀ c q rest, s.ev.core = c → (s.core c).copyFifo = q :: rest → (s.core c).copyBusy.length < 4 →
      (∀ j < 16, ∀ y, (s.slot c j).st ≠ .parked (.fifo y)) →
      ∃ t due, exec .copyRequestStart s = .next t ∧ s.clk < due ∧ OthersSame s t c ∧
        t.core c = { s.core c with copyFifo := rest, copyBusy := (s.core c).copyBusy ++ [{ q with due := due }] } ∧
        t = { s with cores := t.cores, draws := t.draws }

/-- What one unit of a request reads and writes: the pieces it reads, lowest first, each an address and a size, or no address for zeros that
nothing is read for; where it writes, and how many bytes; and whether it is a whole line that moves with its typed bit (R76). -/
structure Sys2Proof.Machine.CopyUnit where
  reads : List (Option Word × Nat)
  into : Word
  n : Nat
  whole : Bool := false

/-- Offset and size of unit i of n bytes from an address on: single bytes up to the first multiple of 8, the aligned 8-byte words, and the
single bytes that are left (R215). -/
def Sys2Proof.Machine.wordPiece (a n i : Nat) : Nat × Nat :=
  let lead := min n ((8 - a % 8) % 8)
  let words := (n - lead) / 8
  if i < lead then (i, 1) else if i < lead + words then (lead + 8 * (i - lead), 8) else (i + 7 * words, 1)

/-- The address at an offset of a segment (R89, R90). -/
def Sys2Proof.Machine.addrAt (sg : BitVec 128) (off : Int) : Word := BitVec.ofInt 64 ((sg.extractLsb' 0 64).toNat + off)

/-- The limit of a segment (R89). -/
def Sys2Proof.Machine.limitOf (sg : BitVec 128) : Nat := (sg.extractLsb' 64 48).toNat

/-- Elements that one unit holds: one; with fe, of a gather, convert or fill with elements below 8 bytes, those of an 8-byte word (R221). -/
def Sys2Proof.Machine.perUnit (r : CopyReq) : Nat :=
  let width := if r.op = 3 then codeBytes r.dtype else 2 ^ r.esize
  if r.fe = true ∧ r.op ≠ 2 ∧ width < 8 then 8 / width else 1

/-- Unit i of a request, where k gives the index elements (R215 to R221). A copy moves lines where source, destination and count are all
multiples of 64; words and single bytes at equal alignment; with fe, 8-byte destination words; else single bytes. An element of a gather beyond
the source's limit is zeros. -/
def Sys2Proof.Machine.unitOf (r : CopyReq) (k : Nat → Nat) (i : Nat) : CopyUnit :=
  let src (o : Nat) : Word := addrAt r.src (r.w1.toInt + o)
  let dst (o : Nat) : Word := addrAt r.dst (r.w2.toInt + o)
  let es := 2 ^ r.esize
  let per := perUnit r
  match r.op with
  | 0 =>
    if (src 0).toNat % 64 = 0 ∧ (dst 0).toNat % 64 = 0 ∧ r.count % 64 = 0 then ⟨[(some (src (64 * i)), 64)], dst (64 * i), 64, true⟩
    else if (src 0).toNat % 8 = (dst 0).toNat % 8 then
      let q := wordPiece (dst 0).toNat r.count i
      ⟨[(some (src q.1), q.2)], dst q.1, q.2, false⟩
    else if r.fe then ⟨(List.range 8).map fun j => (some (src (8 * i + j)), 1), dst (8 * i), 8, false⟩
    else ⟨[(some (src i), 1)], dst i, 1, false⟩
  | 1 => ⟨(List.range per).map fun j =>
      (if limitOf r.src < k (per * i + j) * es + es then none else some (addrAt r.src (k (per * i + j) * es : Nat)), es),
      dst (es * per * i), es * per, r.esize == 6⟩
  | 2 => ⟨[(some (src (es * i)), es)], addrAt r.dst (k i * es : Nat), es, r.esize == 6⟩
  | 3 => ⟨(List.range per).map fun j => (some (src (codeBytes r.stype * (per * i + j))), codeBytes r.stype),
      dst (codeBytes r.dtype * per * i), codeBytes r.dtype * per, false⟩
  | _ => ⟨[], dst (es * per * i), es * per, false⟩

/-- The value that unit u of a request writes, and the flags it raises, where x gives the values of its pieces: the bytes read, side by side; of
a convert each element converted by R62 (`Converts`) in the request's direction; of a fill the pattern of 2^esize bytes, as often as it goes
in. -/
def Sys2Proof.Machine.unitValue (r : CopyReq) (u : CopyUnit) (x : Nat → Nat) : Nat × Fl :=
  let es := 2 ^ r.esize
  let side (width : Nat) (y : Nat → Nat) (n : Nat) : Nat := ((List.range n).map fun j => y j * 256 ^ (width * j)).sum
  let mode : RMode := [RMode.rne, .rtz, .rup, .rdn].getD (r.rm - 1) .rne
  match r.op with
  | 3 => match tyOf r.stype, tyOf r.dtype with
    | some a, some b => (side (codeBytes r.dtype) (fun j => (convertElem a b false false mode (x j)).1) u.reads.length,
        (List.range u.reads.length).foldl (fun f j => f ||| (convertElem a b false false mode (x j)).2) 0)
    | _, _ => (0, 0)
  | 4 => (side es (fun _ => r.w1.toNat % 256 ^ es) (u.n / es), 0)
  | _ => (side ((u.reads.head?.map (·.2)).getD 0) x u.reads.length, 0)

/-- b, the bytes of the destination (R213, Table 2). -/
def Sys2Proof.Machine.totalOf (r : CopyReq) : Nat :=
  if r.op = 1 ∨ r.op = 2 then r.count * 2 ^ r.esize else if r.op = 3 then r.count * codeBytes r.dtype else r.count

/-- n bytes from an address on map to a chunk bit (R228). -/
def Sys2Proof.Machine.mapsTo (a : Word) (n q : Nat) : Prop := ∃ j < n, (a.toNat + j) / 512 % 64 = q

/-- The chunk bits that an arrival part of a request carries, with the units `left` still to be made, and `done` those of a scatter's elements
made so far (R222, R228): of a scatter all that its elements map to, with its last part once nothing is left; of the others each bit to
which bytes of the request map, all of them written, that no earlier part carried. -/
def Sys2Proof.Machine.ChunkBits (r : CopyReq) (left : List Nat) (done : Nat → Prop) (bits : Nat) : Prop :=
  bits < 2 ^ 64 ∧ ∀ q < 64, bits.testBit q = true ↔
    if r.op = 2 then left = [] ∧ (r.chunks.testBit q = true ∨ done q)
    else mapsTo (addrAt r.dst r.w2.toInt) (totalOf r) q ∧ r.chunks.testBit q = false ∧
      ∀ i ∈ left, ¬ mapsTo (unitOf r (fun _ => 0) i).into (unitOf r (fun _ => 0) i).n q

/-- The status bits [62:57] that a request adds to its concord (R219, R222, R223): err, and the flags of its conversions. -/
def Sys2Proof.Machine.statusOf (err : Bool) (f : Fl) : Nat :=
  (if err then 32 else 0) + (if f &&& Fl.nv ≠ 0 then 8 else 0) + (if f &&& Fl.of ≠ 0 then 4 else 0)
    + (if f &&& Fl.uf ≠ 0 then 2 else 0) + (if f &&& Fl.nx ≠ 0 then 1 else 0)

/-- An engine's address leads to a cell, whatever has become of the bytes of memory meanwhile (R101, R222). -/
def Sys2Proof.Machine.EngineFinds (s : State) (ag : Agent) (a : Word) (wr : Bool) (cell : Nat) : Prop :=
  ∀ u : State, u = { s with mem := u.mem, lines := u.lines, draws := u.draws } → u.engCell ag a wr = (u, .ok cell)

/-- An arrival part of n bytes, with chunk and status bits, is on its way to the home of a request's concord (R224, R229). -/
def Sys2Proof.Machine.ArrivalSent (s t : State) (r : CopyReq) (id concord n chunks status : Nat) : Prop :=
  let at_ := addrAt r.cseg r.w3.toInt
  SMap.get none t.accesses id = some {
    core := r.core, slot := r.slot, job := r.job, op := .ccarr n chunks status, done := .none, posted := true, counted := false
    parts := [(s.homeOf concord, [⟨0, at_, concord, 16⟩])], waiting := [s.homeOf concord], results := [], refusals := [], engine := some r.uid
    gather := r.op == 1, addr := at_ } ∧
  (∀ j, j ≠ id → SMap.get none t.accesses j = SMap.get none s.accesses j) ∧ t.nextAcc = id + 1 ∧ Sent s t s.msgs [.access id (s.homeOf concord)]

/-- The slots of a core and the supervisor software's reports after a request has reported faults (cause, detail, address), in this order (R211):
the pushing thread holds them if it still runs the clause that pushed the request, else the die's supervisor core has them, with the
job and the concord's address. -/
def Sys2Proof.Machine.CopyReported (s t : State) (r : CopyReq) (faults : List (Nat × Nat × Word)) : Prop :=
  let x := s.slot r.core r.slot
  let runs : Prop := x.st ≠ .free ∧ x.st ≠ .stopped ∧ x.occ.map (·.uid) = some r.uid
  (∀ j, j ≠ r.slot → t.slot r.core j = s.slot r.core j) ∧
  (runs ∧ x.reports = [] → t.reports = s.reports ∧
    t.slot r.core r.slot = { x with reports := faults.mapIdx fun j f => ⟨s.nextAcc + j, f.1, f.2.1, f.2.2⟩ }) ∧
  (¬runs → t.slot r.core r.slot = x ∧ t.reports = s.reports ++ faults.map fun f =>
    ⟨Config.coreDie r.core, r.core, r.slot, f.1, f.2.1, f.2.2, some (r.job, if r.cc then addrAt r.cseg r.w3.toInt else 0)⟩)

/-- A request leaves its engine (R222, R229): its faults are reported; with cc its last arrival part carries the bytes that no earlier one did,
with chunk bits as `chunks` says and these status bits; nothing else changes but memory, of which more is said beside it. -/
def Sys2Proof.Machine.CopyEnds (s t : State) (r : CopyReq) (concord : Nat) (faults : List (Nat × Nat × Word)) (chunks : Nat → Prop) (status : Nat) :
    Prop :=
  CopyReported s t r faults ∧ OthersSame s t r.core ∧
  t.core r.core = { s.core r.core with
    slots := (t.core r.core).slots, copyBusy := (s.core r.core).copyBusy.filter fun q => q.id != r.id } ∧
  t = { s with cores := t.cores, mem := t.mem, lines := t.lines, draws := t.draws, reports := t.reports, accesses := t.accesses, msgs := t.msgs
               nextMsg := t.nextMsg, nextAcc := t.nextAcc } ∧
  if r.cc then ∃ bits, chunks bits ∧ ArrivalSent s t r (s.nextAcc + faults.length) concord (totalOf r - r.sent) bits status
  else t.accesses = s.accesses ∧ t.msgs = s.msgs ∧ t.nextMsg = s.nextMsg ∧ t.nextAcc = s.nextAcc + faults.length

/-- R215 to R222, R228, R229: what the copy engine does for a request in its last unit, whose index elements are read: the bytes that the unit
reads, at the addresses of `unitOf`, are written at its destination as `unitValue` says, with fe full marks on its words (R221); a
typed line takes its source's typed bit with it (R218). A scatter's element beyond the limit is not written, and a gather's is zeros; the lowest
such element is reported, and err set (R216, R217). The request then leaves the engine, with its last arrival part. A unit that a check refuses
is not written: the request is abandoned and reports it, with err (R222); so is one for whose page the supervisor software answers another
status than 0x00; until that answer comes the request waits. Arrival parts before the last one (R229), shown on a fill with two units left:
by free choice one of them is made, and the part then sent carries the bytes written so far and the chunk bits whose bytes are all written. -/
def Obligations.CopyOperations : Prop :=
  ∀ x ∈ [(Instr.copy, 0), (.gather, 1), (.scatter, 2), (.convert, 3), (.fill, 4)], ∀ (r : CopyReq) (k : Nat → Nat) (concord : Nat) (s : State),
    let c := s.core s.ev.core
    (c.copyBusy.find? fun q => q.id == s.ev.id) = some r → c.copyReady s.clk r = true → r.core = s.ev.core → r.slot < 16 → r.op = x.2 →
    r.fail = none → r.dropped = false → r.ending = false → r.chunks < 2 ^ 64 →
    (x.2 = 3 → (tyOf r.stype).isSome ∧ (tyOf r.dtype).isSome ∧ 1 ≤ r.rm ∧ r.rm ≤ 4) →
    (r.cc = true → EngineFinds s r.agent (addrAt r.cseg r.w3.toInt) true concord) →
    let es := 2 ^ r.esize
    let checked (kind : AKind) (cell n : Nat) : Option (Nat × Nat) := s.targetCheck r.core r.job kind cell n
    let told : List (Nat × Nat × Word) := r.overAt.toList.map fun o => (0x04, 0x11, o.2)
    -- the elements of unit i, and their index elements
    let elems (i : Nat) : List Nat := if x.2 = 1 then (List.range (perUnit r)).map (perUnit r * i + ·) else [i]
    let indexed (i : Nat) : Prop := (x.2 = 1 ∨ x.2 = 2) → ∀ e ∈ elems i, r.got.find? (fun y => y.1 == e) = some (e, k e)
    let beyond (e : Nat) : Bool := decide (x.2 = 1 ∧ limitOf r.src < k e * es + es ∨ x.2 = 2 ∧ limitOf r.dst < k e * es + es)
    let overAt (e : Nat) : Word := addrAt (if x.2 = 1 then r.src else r.dst) (k e * es : Nat)
    -- the pieces of unit i are found at the cells `from_`, its destination at `into`
    let found (i : Nat) (from_ : Nat → Nat) (into : Nat) : Prop :=
      (∀ j a n, (unitOf r k i).reads[j]? = some (some a, n) → EngineFinds s r.agent a false (from_ j)) ∧
      EngineFinds s r.agent (unitOf r k i).into true into
    let sound (i : Nat) (from_ : Nat → Nat) : Prop := ∀ j a n, (unitOf r k i).reads[j]? = some (some a, n) →
      checked .read (from_ j) n = none ∧ (s.line (from_ j)).sound = true
    let plain (into n : Nat) : Prop := into / 2 ^ 60 ≠ 3 ∧ into % 64 + n ≤ 64 ∧ (s.line into).sound = true ∧ (s.line into).wiped = none ∧ checked .write into n = none
    (∀ (i into : Nat) (from_ : Nat → Nat), r.todo = some [i] → r.status = 0 → indexed i →
      let u := unitOf r k i
      let value := unitValue r u fun j => if ((u.reads[j]?).bind (·.1)).isSome then s.readN (from_ j) ((u.reads[j]?.map (·.2)).getD 0) else 0
      let now_ := (elems i).filter beyond
      let first : Option (Nat × Word) := match r.overAt, now_ with
        | some o, e :: _ => some (if e < o.1 then (e, overAt e) else o)
        | some o, [] => some o
        | none, e :: _ => some (e, overAt e)
        | none, [] => none
      let outside : List (Nat × Nat × Word) := first.toList.map fun o => (0x04, 0x11, o.2)
      (found i from_ into → ¬(x.2 = 2 ∧ beyond i = true) → sound i from_ → plain into u.n → (r.fe = true → s.waiters = []) →
        ∃ t, exec x.1 s = .next t ∧
          CopyEnds s t r concord outside (ChunkBits r [] (mapsTo u.into u.n)) (statusOf first.isSome (r.flags ||| value.2)) ∧
          (∀ a, t.byte a = if into ≤ a ∧ a < into + u.n then BitVec.ofNat 8 (value.1 / 256 ^ (a - into)) else s.byte a) ∧
          ∀ a, t.line a = if a / 64 = into / 64 then { s.line a with
              typed := u.whole && u.reads.any (·.1.isSome) && (s.line (from_ 0)).typed
              fe := if r.fe then (List.range (u.n / 8)).foldl (fun m j => m ||| 1 <<< ((into + 8 * j) % 64 / 8)) (s.line a).fe else (s.line a).fe }
            else s.line a) ∧
      (x.2 = 2 → beyond i = true → ∃ t, exec x.1 s = .next t ∧ SameMemory s t ∧
        CopyEnds s t r concord outside (ChunkBits r [] fun _ => False) (statusOf true r.flags)) ∧
      (∀ cause detail at_, ¬(x.2 = 2 ∧ beyond i = true) → ¬(cause = 0x0B ∧ detail = 0x61) →
        (found i from_ into ∧ sound i from_ ∧ at_ = u.into ∧ checked .write into u.n = some (cause, detail) ∨
          found i from_ into ∧ (∃ n rest, u.reads = (some at_, n) :: rest ∧ checked .read (from_ 0) n = some (cause, detail)) ∨
          (∀ j a n, u.reads[j]? = some (some a, n) → EngineFinds s r.agent a false (from_ j)) ∧ at_ = u.into ∧
            ∀ v : State, v = { s with mem := v.mem, lines := v.lines, draws := v.draws } →
              v.engCell r.agent at_ true = (v, .error (.fault cause detail at_))) →
        ∃ t, exec x.1 s = .next t ∧ SameMemory s t ∧
          CopyEnds s t r concord (told ++ [(cause, detail, at_)]) (ChunkBits r [i] fun _ => False) (statusOf true r.flags)) ∧
      (∀ reason, ¬(x.2 = 2 ∧ beyond i = true) → (∀ j a n, u.reads[j]? = some (some a, n) → EngineFinds s r.agent a false (from_ j)) →
        (∀ v : State, v = { s with mem := v.mem, lines := v.lines, draws := v.draws } →
          v.engCell r.agent u.into true = (v, .error (.page reason u.into))) →
        ∃ t, exec x.1 s = .next t ∧ t = { s with cores := t.cores, reports := t.reports, draws := t.draws } ∧ OthersSame s t r.core ∧
          t.core r.core = { c with copyBusy := c.copyBusy.map fun q => if q.id = r.id then { r with blocked := some u.into } else q } ∧
          t.reports = s.reports ++ [⟨Config.coreDie r.core, r.core, r.slot, 0x09, reason, u.into, none⟩])) ∧
    (∀ left, r.status ≠ 0 → r.todo = some left → ∃ t, exec x.1 s = .next t ∧ SameMemory s t ∧
      CopyEnds s t r concord (told ++ [(0x09, r.status, r.lostAt)]) (ChunkBits r left fun _ => False) (statusOf true r.flags)) ∧
    ∀ (i j : Nat) (into : Nat → Nat), x.2 = 4 → r.todo = some [i, j] → i ≠ j → r.status = 0 → r.cc = true → r.fe = false → r.overAt = none →
      (∀ y ∈ [i, j], EngineFinds s r.agent (unitOf r k y).into true (into y) ∧ plain (into y) (unitOf r k y).n) →
      let value (y : Nat) : Nat := (unitValue r (unitOf r k y) fun _ => 0).1
      ∃ t, exec .fill s = .next t ∧
        ((CopyEnds s t r concord [] (ChunkBits r [] fun _ => False) (statusOf false r.flags) ∧
          ∃ one other u, [one, other] ∈ [[i, j], [j, i]] ∧ Stored s u (into one) (unitOf r k one).n (value one) ∧
            Stored u t (into other) (unitOf r k other).n (value other)) ∨
        ∃ one other due, [one, other] ∈ [[i, j], [j, i]] ∧ s.clk < due ∧ Stored s t (into one) (unitOf r k one).n (value one) ∧ OthersSame s t r.core ∧
          t = { s with cores := t.cores, mem := t.mem, lines := t.lines, draws := t.draws, accesses := t.accesses, msgs := t.msgs
                       nextMsg := t.nextMsg, nextAcc := t.nextAcc } ∧
          ∃ sent chunks, t.core r.core = { c with copyBusy := c.copyBusy.map fun q =>
              if q.id = r.id then { r with todo := some [other], due, sent, chunks } else q } ∧
            (sent = r.sent ∧ chunks = r.chunks ∧ t.accesses = s.accesses ∧ t.msgs = s.msgs ∧ t.nextMsg = s.nextMsg ∧ t.nextAcc = s.nextAcc ∨
              ∃ bits, ChunkBits r [other] (fun _ => False) bits ∧ sent = totalOf r - (unitOf r k other).n ∧ r.sent < sent ∧
                chunks = r.chunks ||| bits ∧ ArrivalSent s t r s.nextAcc concord (sent - r.sent) bits 0))

/-! ## Concords and full/empty words -/

/-- A concord by its fields (R223, Table 4): map, the sticky bits [62:57], pending, phase and the chunk map. -/
structure Sys2Proof.Machine.ConcordFields where
  map : Bool
  sticky : BitVec 6
  pending : Int
  phase : BitVec 8
  chunks : BitVec 64
deriving DecidableEq, Repr

/-- The concord that the 16 bytes from a cell on hold. -/
def Sys2Proof.Machine.concordAt (s : State) (c : Nat) : ConcordFields :=
  let w0 := BitVec.ofNat 64 (s.readN c 8)
  { map := w0.getLsbD 63, sticky := w0.extractLsb' 57 6, pending := (w0.extractLsb' 8 40).toInt, phase := w0.extractLsb' 0 8
    chunks := BitVec.ofNat 64 (s.readN (c + 8) 8) }

/-- complete (R224), where pending was q before the update. -/
def Sys2Proof.Machine.completed (q : Int) (x : ConcordFields) : ConcordFields :=
  if q ≠ 0 ∧ x.pending = 0 then { x with phase := x.phase + 1, chunks := 0 } else x

/-- R224 to R227, R231, R76: the three updates of a concord at its home. CCINIT clears all but its map bit; an arrival takes its bytes
off pending, ORs its status and, with map = 1, its chunk bits, and completes the phase where pending reaches zero from elsewhere, unless it
would take pending below −2^39, when only aovf is set; an expectation adds its bytes and answers with the phase before it, or on overflow
changes nothing and answers with the concord-overflow trap. The typed bit of the line is cleared; no other byte changes. The answer goes back
by a message; to a thread of the home's own core it is there at once, and lets the thread go on or traps. -/
def Obligations.ConcordUpdates : Prop :=
  ∀ (id home : Nat) (a : Access) (u : AUnit) (s : State), Carries s (.access id home) → SMap.get none s.accesses id = some a →
    a.parts = [(home, [u])] → u.n = 16 → u.cell / 2 ^ 60 ≠ 7 → u.cell / 2 ^ 60 ≠ 3 → u.cell % 16 = 0 →
    (s.line u.cell).sound = true → (s.line u.cell).wiped = none → s.targetCheck a.core a.job a.op.kind u.cell 16 = none →
    let old := concordAt s u.cell
    let x := s.slot a.core a.slot
    let answers (t : State) (rs : List (Nat × Nat)) (fs : List Refusal1) : Prop :=
      (∀ j, j ≠ id → SMap.get none t.accesses j = SMap.get none s.accesses j) ∧
      (a.core ≠ home →
        SMap.get none t.accesses id = some { a with parts := [], results := a.results ++ rs, refusals := a.refusals ++ fs } ∧
        Sent s t s.untaken [.reply id home] ∧
        t = { s with mem := t.mem, lines := t.lines, accesses := t.accesses, msgs := t.msgs, nextMsg := t.nextMsg, draws := t.draws }) ∧
      (a.core = home → a.waiting = [home] → a.results = [] → a.refusals = [] →
        (a.posted = true → a.counted = false → SMap.get none t.accesses id = none ∧
          t = { s with mem := t.mem, lines := t.lines, accesses := t.accesses, msgs := s.untaken }) ∧
        ∀ d pc, a.posted = false → a.slot < 16 → a.done = .gz d → u.idx = 0 → x.st = .parked (.remote id [.flags x.flags] (.go pc)) →
          SMap.get none t.accesses id = none ∧ CoresBut s t a.core a.slot ∧
          t = { s with cores := t.cores, mem := t.mem, lines := t.lines, accesses := t.accesses, msgs := s.untaken } ∧
          (∀ v, rs = [(0, v)] → t.slot a.core a.slot = { x.wg d (BitVec.ofNat 64 v) with pc, st := .ready }) ∧
          ∀ r, fs = [r] → x.takesTraps → t.slot a.core a.slot = x.trapped r.cause r.detail r.addr x.pc false)
    let becomes (t : State) (x : ConcordFields) : Prop := concordAt t u.cell = x ∧
      (∀ b, ¬(u.cell ≤ b ∧ b < u.cell + 16) → t.byte b = s.byte b) ∧
      ∀ b, t.line b = if b / 64 = u.cell / 64 then { s.line b with typed := false } else s.line b
    (∀ map, a.op = .ccinit map → ∃ t, exec .concordInit s = .next t ∧ answers t [] [] ∧
      becomes t { map := map, sticky := 0, pending := 0, phase := 0, chunks := 0 }) ∧
    (∀ n m st, a.op = .ccarr n m st → m < 2 ^ 64 → st < 64 → ∃ t, exec .concordArrival s = .next t ∧ answers t [] [] ∧
      becomes t (if old.pending - n < -2 ^ 39 then { old with sticky := old.sticky ||| 16 }
        else completed old.pending { old with
          sticky := old.sticky ||| BitVec.ofNat 6 st, pending := old.pending - n
          chunks := if old.map then old.chunks ||| BitVec.ofNat 64 m else old.chunks })) ∧
    (∀ x, a.op = .ccexp x →
      (x < 2 ^ 39 → old.pending + x < 2 ^ 39 → ∃ t, exec .concordExpectation s = .next t ∧ answers t [(u.idx, old.phase.toNat)] [] ∧
        becomes t (completed old.pending { old with pending := old.pending + x })) ∧
      (2 ^ 39 ≤ x ∨ 2 ^ 39 ≤ old.pending + x → ∃ t, exec .concordExpectation s = .next t ∧
        answers t [] [⟨u.idx, 0x0C, 0x01, 0⟩] ∧ SameMemory s t))

/-- R236, R230, R233: the concord instructions on a concord of the own slice. CCINIT and CCARR hand their update to the home and go on; CCEXP
parks for its answer; the tests answer at once; a wait whose condition holds goes on, and one whose condition does not is held there. 2^39
bytes or more in CCARR raise the concord-overflow trap. -/
def Obligations.ConcordInstructions : Prop :=
  ∀ (sg : S) (d a b c : G) (m : Mem) (map : Bool) (at_ : Nat) (s : State), Runs s → (memRelease m = none ∨ s.me.touched = 0) →
    let cid := s.cur.core
    let k := s.cur.slot
    let off := (s.me.rg a + BitVec.ofInt 64 m.disp.val).toInt
    let u : AUnit := ⟨0, BitVec.ofInt 64 (segBase s.me.s[sg] + off), at_, 16⟩
    let x := s.me.rg b
    let y := s.me.rg c
    let old := concordAt s at_
    let request (op : AccOp) (done : Done) (posted : Bool) : Access :=
      { core := cid, slot := k, job := s.me.tag, op, done, posted, counted := false, parts := [(cid, [u])], waiting := [cid]
        results := [], refusals := [], addr := u.va }
    let updates (i : Instr) (op : AccOp) (done : Done) (posted : Bool) (me : State → Slot) : Prop :=
      Reaches s s.me.s[sg] off 16 op false at_ → InOwnSlice s .rmw at_ → ∃ t, exec i s = .next t ∧ CoresBut s t cid k ∧ t.me = me t ∧
        SMap.get none t.accesses s.nextAcc = some (request op done posted) ∧
        (∀ j, j ≠ s.nextAcc → SMap.get none t.accesses j = SMap.get none s.accesses j) ∧
        t = { s with cores := t.cores, accesses := t.accesses, nextAcc := s.nextAcc + 1, nextMsg := s.nextMsg + 1
                     msgs := s.msgs ++ [⟨s.nextMsg, s.clk, .access s.nextAcc cid⟩] }
    let goesOn (t : State) : Slot := { s.me with pc := s.me.npc, st := .ready, banks := t.me.banks }
    let answers (i : Instr) (v : Bool) : Prop := ∃ t, exec i s = .next t ∧ OnlyMe s t ∧
      t.me = { s.me.wrote d (if v then 1 else 0) s.me.flags with banks := t.me.banks }
    let waits (i : Instr) (op : AccOp) (holds : Bool) : Prop :=
      (holds = true → ∃ t, exec i s = .next t ∧ OnlyMe s t ∧ t.me = goesOn t) ∧
      (holds = false → (s.waiters.filter fun w => w.1 == cid).length < 64 → ∃ t undo, exec i s = .next t ∧ CoresBut s t cid k ∧
        t.me = { s.me with st := .parked (.remote s.nextAcc undo (.go s.me.npc)), parkClk := s.clk, banks := t.me.banks } ∧
        SMap.get none t.accesses s.nextAcc = some { request op .none false with parts := [], held := some u } ∧
        (∀ j, j ≠ s.nextAcc → SMap.get none t.accesses j = SMap.get none s.accesses j) ∧
        t = { s with cores := t.cores, accesses := t.accesses, nextAcc := s.nextAcc + 1, waiters := s.waiters ++ [(cid, s.nextAcc)] })
    let moved := old.phase != x.extractLsb' 0 8
    let there := (old.chunks &&& x) == x || old.phase != y.extractLsb' 0 8
    updates (.ccinit map sg a m) (.ccinit map) .none true goesOn ∧
    updates (.ccexp sg d a b m) (.ccexp x.toNat) (.gz d) false (fun t => { s.me with
      st := .parked (.remote s.nextAcc [.flags s.me.flags] (.go s.me.npc)), parkClk := s.clk, banks := t.me.banks }) ∧
    (x.toNat < 2 ^ 39 → updates (.ccarr sg a b c m) (.ccarr x.toNat y.toNat 0) .none true goesOn) ∧
    (2 ^ 39 ≤ x.toNat → Reaches s s.me.s[sg] off 16 (.ccarr x.toNat y.toNat 0) false at_ → InOwnSlice s .rmw at_ → s.me.takesTraps →
      ∃ t, exec (.ccarr sg a b c m) s = .next t ∧ OnlyMe s t ∧ t.me = s.me.trapped 0x0C 0x02 0 s.me.pc false) ∧
    (Reaches s s.me.s[sg] off 16 (.cctest x.toNat) false at_ → InOwnSlice s .read at_ →
      answers (.cctest sg d a b m) moved ∧ answers (.cmtest sg d a b c m) there ∧
      waits (.ccwait sg a b m) (.ccwait x.toNat) moved ∧ waits (.cmwait sg a b c m) (.cmwait y.toNat x.toNat) there)

/-- R232, R233, R237, R76: LDE, LDC, STF and FEW on a word of the own slice. LDE and LDC of a full word read it, and LDC empties it; of an
empty word they are held at the home with the thread parked. STF writes the word and marks it full; FEW marks it and changes no byte; a
word that becomes full serves the LDE held there. -/
def Obligations.FullEmptyWords : Prop :=
  ∀ (sg : S) (d a : G) (m : Mem) (c : Nat) (s : State), Runs s → (memRelease m = none ∨ s.me.touched = 0) →
    let cid := s.cur.core
    let off := (s.me.rg a + BitVec.ofInt 64 m.disp.val).toInt
    let bit : BitVec 8 := 1 <<< (c % 64 / 8)
    let full : Bool := (s.line c).fe.getLsbD (c % 64 / 8)
    let goesOn (t : State) : Slot := { s.me with pc := s.me.npc, st := .ready, banks := t.me.banks }
    let reads (t : State) : Slot :=
      { s.me.wrote d (BitVec.ofNat 64 (s.readN c 8)) s.me.flags with banks := t.me.banks }
    let marked (t : State) (fe : BitVec 8) : Prop :=
      ∀ b, t.line b = if b / 64 = c / 64 then { s.line b with fe := fe } else s.line b
    let held (i : Instr) (op : AccOp) : Prop := ∃ t undo acc, exec i s = .next t ∧ CoresBut s t cid s.cur.slot ∧
      t.me = { s.me with st := .parked (.remote s.nextAcc undo (.go s.me.npc)), parkClk := s.clk, banks := t.me.banks } ∧
      SMap.get none t.accesses s.nextAcc = some acc ∧ acc.op = op ∧ acc.done = .gz d ∧ acc.waiting = [cid] ∧
      t = { s with cores := t.cores, accesses := t.accesses, nextAcc := s.nextAcc + 1, waiters := s.waiters ++ [(cid, s.nextAcc)] }
    let room := (s.waiters.filter fun w => w.1 == cid).length < 64
    (Reaches s s.me.s[sg] off 8 .lde false c → InOwnSlice s .read c →
      (full = true → ∃ t, exec (.lde sg d a m) s = .next t ∧ OnlyMe s t ∧ t.me = reads t) ∧
      (full = false → room → held (.lde sg d a m) .lde)) ∧
    (Reaches s s.me.s[sg] off 8 .ldc false c → InOwnSlice s .rmw c →
      (full = true → ∃ t, exec (.ldc sg d a m) s = .next t ∧ OnlyMeAndMemory s t ∧ t.me = reads t ∧ t.mem = s.mem ∧
        marked t ((s.line c).fe &&& ~~~bit)) ∧
      (full = false → room → held (.ldc sg d a m) .ldc)) ∧
    (Reaches s s.me.s[sg] off 8 (.stf 0) false c → InOwnSlice s .write c → s.waiters = [] →
      ∃ t, exec (.stf sg d a m) s = .next t ∧ OnlyMeAndMemory s t ∧ t.me = goesOn t ∧
        (∀ b, t.byte b = if c ≤ b ∧ b < c + 8 then BitVec.ofNat 8 ((s.me.rg d).toNat / 256 ^ (b - c)) else s.byte b) ∧
        ∀ b, t.line b = if b / 64 = c / 64 then { s.line b with typed := false, fe := (s.line b).fe ||| bit } else s.line b) ∧
    (Reaches s s.me.s[sg] off 8 (.few true) false c → InOwnSlice s .write c →
      (∃ t, exec (.fewEmpty sg a m) s = .next t ∧ OnlyMeAndMemory s t ∧ t.me = goesOn t ∧ t.mem = s.mem ∧
        marked t ((s.line c).fe &&& ~~~bit)) ∧
      (s.waiters = [] → ∃ t, exec (.fewFull sg a m) s = .next t ∧ OnlyMeAndMemory s t ∧ t.me = goesOn t ∧ t.mem = s.mem ∧
        marked t ((s.line c).fe ||| bit)) ∧
      ∀ id acc u k undo pc r, s.waiters = [(cid, id)] → SMap.get none s.accesses id = some acc → acc.held = some u → u.cell = c → acc.op = .lde →
        acc.waiting = [cid] → acc.core = cid → acc.slot = k → k < 16 → k ≠ s.cur.slot → acc.posted = false → acc.done = .gz r →
        acc.results = [] → acc.refusals = [] → u.idx = 0 → (s.slot cid k).st = .parked (.remote id undo (.go pc)) →
        ∃ t, exec (.fewFull sg a m) s = .next t ∧ t.waiters = [] ∧ SMap.get none t.accesses id = none ∧
          t.slot cid k = { (s.slot cid k).wg r (BitVec.ofNat 64 (s.readN c 8)) with pc := pc, st := .ready } ∧
          t.mem = s.mem ∧ marked t ((s.line c).fe ||| bit))

/-- R233, R234, R120, R316: a request that a full waiter table refused is sent again; a cancellation that finds its request unserved
withdraws it, and the stopping thread's instruction is abandoned (Table 2, row 2); two atomic additions to one word whose messages
meet are both done, in turn, and each is answered with its own old value. -/
def Obligations.WaitersAndCombining : Prop :=
  ∀ (id home : Nat) (a : Access) (s : State), SMap.get none s.accesses id = some a →
    (∀ u, Carries s (.resend id home) → a.held = some u → a.core ≠ home →
      ∃ t, exec .waiterResend s = .next t ∧ Sent s t s.untaken [.access id home] ∧
        (∃ b, SMap.get none t.accesses id = some b ∧ b = { a with parts := b.parts, held := none } ∧
          (b.parts.find? fun p => p.1 == home) = some (home, [u])) ∧
        t = { s with accesses := t.accesses, msgs := t.msgs, nextMsg := t.nextMsg, draws := t.draws }) ∧
    (Carries s (.cancelWaiter id home) → home ∈ a.waiting → (∀ m ∈ s.untaken, m.body ≠ .reply id home) → a.slot < 16 →
      ∃ t, exec .waiterCancel s = .next t ∧ CoresBut s t a.core a.slot ∧ SameMemory s t ∧ SMap.get none t.accesses id = none ∧
        t.waiters = s.waiters.filter (fun w => w.2 != id) ∧
        t.slot a.core a.slot = { s.slot a.core a.slot with st := .parked (.stopping 2), abandoned := 2 }) ∧
    ∀ id2 b m1 m2 u v y z x1 x2, id2 ≠ id → SMap.get none s.accesses id2 = some b → s.msgs = [m1, m2] → m1.id = s.ev.id → m2.id ≠ s.ev.id → m2.id ≠ s.nextMsg →
      m2.due ≤ m1.due + 16 → m1.body = .access id home → m2.body = .access id2 home → a.parts = [(home, [u])] → b.parts = [(home, [v])] →
      a.core ≠ home → b.core ≠ home → (a.core ≠ b.core ∨ a.slot ≠ b.slot) → a.ord = false → b.ord = false → a.job = b.job → a.job ≠ 0 → u.cell = v.cell → u.cell / 2 ^ 60 = 2 → u.n = 8 → v.n = 8 → u.cell % 8 = 0 →
      a.op = .atomic .add y x1 → b.op = .atomic .add z x2 → (s.line u.cell).sound = true → (s.line u.cell).wiped = none →
      s.targetCheck a.core a.job .rmw u.cell 8 = none → (∀ t : State, t.dead = s.dead → t.cores = s.cores →
        t.line u.cell = { s.line u.cell with typed := false } → t.targetCheck b.core b.job .rmw u.cell 8 = none) →
      let old := s.readN u.cell 8
      ∃ t, exec .combineWindowExpiry s = .next t ∧ Stored s t u.cell 8 (old + y + z) ∧
        SMap.get none t.accesses id = some { a with parts := [], results := a.results ++ [(u.idx, old)] } ∧
        SMap.get none t.accesses id2 = some { b with parts := [], results := b.results ++ [(v.idx, (old + y) % 2 ^ 64)] } ∧
        Sent s t [] [.reply id home, .reply id2 home] ∧
        t = { s with mem := t.mem, lines := t.lines, accesses := t.accesses, msgs := t.msgs, nextMsg := t.nextMsg, draws := t.draws }

/-! ## The matrix engine -/

/-- Between `s` and `t` the cores differ in core c alone: it becomes `x`, slot k of it becomes `y`, and its other slots stay. -/
structure Sys2Proof.Machine.CoreBecomes (s t : State) (c k : Nat) (x : Core) (y : Slot) : Prop where
  others : OthersSame s t c
  core : t.core c = { x with slots := (t.core c).slots }
  me : t.slot c k = y
  slots : ∀ j, j ≠ k → t.slot c j = s.slot c j

/-- Address a of an engine of tile c, for a thread of a job, lies at a cell of the tile's own slice, and the checks made there let an
access of a kind pass (R90, R94, R99, R100). -/
structure Sys2Proof.Machine.EngineReaches (s : State) (c k job : Nat) (kind : AKind) (a : Word) (cell : Nat) : Prop where
  core : c < 12352
  place : s.checkSpace { core := c, slot := k, job } a = .ok (.cell cell)
  own : s.homeOf cell = c
  target : ∀ n, s.targetCheck c job kind cell n = none
  clean : (s.line cell).sound = true
  whole : (s.line cell).wiped = none

/-- R243, R244, R248, R250 to R256, R259: a matrix instruction whose lines and shape pass the checks at issue takes the last place of the
engine's order, with its operands as they stand, and its thread parks; more rows than the accumulator has are engine fault 0x74. MQW
answers at once; its selector 3 clears the sticky bits. MTILE first reads its record, then its row count if the record asks for it, and goes on
with what it has read; a record or a row count that breaks a check of R259 is the shape fault of the first one, with no other effect. -/
def Obligations.MatrixQueue : Prop :=
  ∀ (ty : VType) (west comp tr clr shadow : Bool) (cols : BitVec 7) (sg : S) (a b c d : G) (m : Mem) (s : State), Runs s →
    let cid := s.cur.core
    let x := s.core cid
    let f16 := ty == .f16
    let seg := s.me.s[sg]
    let first := (s.me.rg d).toNat
    let base := (s.me.rg a).toNat
    let count := (s.me.rg b).toNat
    let stride := (s.me.rg c).toNat
    let width := if f16 then s.widthF16 cid else s.widthL6 cid
    let parked : Slot := { s.me with st := .parked (.matrix s.nextReq), parkClk := s.clk }
    let entered (op : MxOp) : Core := { x with mxQueue := x.mxQueue ++ [⟨s.nextReq, s.cur.slot, s.me.tag, op⟩] }
    let queues (i : Instr) (op : MxOp) : Prop := ∃ t, exec i s = .next t ∧ t = { s with cores := t.cores, nextReq := s.nextReq + 1 } ∧
      CoreBecomes s t cid s.cur.slot (entered op) parked
    let shapeFault (i : Instr) : Prop :=
      s.me.takesTraps → ∃ t, exec i s = .next t ∧ OnlyMe s t ∧ t.me = s.me.trapped 0x0F 0x74 0 s.me.pc false
    let lines (size al : Nat) (need : Nat → Nat) : Prop := base % al = 0 ∧ stride % al = 0 ∧
      ∀ i < count, ∃ y p, segAddr seg (base + i * stride : Nat) size al need false = .ok y ∧
        s.checkSpace (s.agent cid s.cur.slot) y = .ok p
    let status : Nat := (if x.mxRun.isSome then 1 <<< 15 else 0) ||| x.mxActive.mode.code <<< 12 ||| x.mxShadow.mode.code <<< 10 |||
      x.mxSticky.toNat
    let answers (sel : Fin 4) (v : Nat) : Prop :=
      ∃ t, exec (.mqw d sel) s = .next t ∧ OnlyMe s t ∧ t.me = s.me.wrote d (BitVec.ofNat 64 v) s.me.flags
    queues .mswap .mswap ∧
    ((s.me.rg a).toNat + (s.me.rg b).toNat ≤ 32 →
      queues (.mclr a b shadow) (.mclr (s.me.rg a).toNat (s.me.rg b).toNat shadow)) ∧
    (32 < (s.me.rg a).toNat + (s.me.rg b).toNat → shapeFault (.mclr a b shadow)) ∧
    (lines (if f16 then (if west then 2 * s.widthF16 cid else 80) else 64) (if f16 then 16 else 64) (fun _ => rRead) →
      let room := if west then (if f16 then 40 else 80) else width
      (first + count ≤ room → (comp = true → Config.kindOf cid = .sparse ∧ west = false ∧ f16 = false) →
        queues (.mldw ty west comp sg d a b c) (.mldw f16 west comp first base count stride seg)) ∧
      (room < first + count → shapeFault (.mldw ty west comp sg d a b c))) ∧
    (lines (if f16 then (if tr then 2 * s.widthF16 cid else 80) else 64) (if f16 then 16 else 64) (fun _ => rRead) →
      (first + count ≤ 32 → queues (.mstrm ty tr sg d a b c) (.mstrm f16 tr first base count stride seg)) ∧
      (32 < first + count → shapeFault (.mstrm ty tr sg d a b c))) ∧
    (lines (cols.toNat * outBytes ty) (outBytes ty) destRights →
      (first + count ≤ 32 → queues (.mdrain ty cols clr sg d a b c) (.mdrain ty cols.toNat clr first base count stride seg)) ∧
      (32 < first + count → shapeFault (.mdrain ty cols clr sg d a b c))) ∧
    answers 0 (s.widthL6 cid) ∧ answers 1 (s.widthF16 cid) ∧ answers 2 status ∧
    (∃ t, exec (.mqw d 3) s = .next t ∧ t = { s with cores := t.cores } ∧
      CoreBecomes s t cid s.cur.slot { x with mxSticky := 0 } (s.me.wrote d (BitVec.ofNat 64 status) s.me.flags)) ∧
    (∀ cell, s.me.stash = [] → Reaches s seg (memOffset (s.me.rg a) 0 m.disp) 64 .loadRec false cell → InOwnSlice s .read cell →
      ∃ t, exec (.mtile sg a m) s = .next t ∧
        t = { s with cores := t.cores, agenda := .resume cid s.cur.slot (.mtile sg a m) :: s.agenda } ∧
        CoreBecomes s t cid s.cur.slot x { s.me with stash := [s.readN cell 64], st := .ready, banks := t.me.banks }) ∧
    ∀ r, let f (lo n : Nat) : Nat := r / 2 ^ lo % 2 ^ n
      let half : Prop := f 56 4 = 1
      let live := if f 56 4 = 1 then s.widthF16 cid else s.widthL6 cid
      let w := if f 37 7 = 0 then live else f 37 7
      let fault (detail : Nat) : Prop := s.me.takesTraps →
        ∃ t, exec (.mtile sg a m) s = .next t ∧ OnlyMe s t ∧ t.me = s.me.trapped 0x0E detail 0 s.me.pc false
      let reserved : Prop := f 480 20 ≠ 0 ∨ f 432 15 ≠ 0 ∨ f 96 4 ≠ 0 ∨ f 53 1 ≠ 0
      let types : Prop := f 56 4 ≠ 1 ∧ f 56 4 ≠ 3 ∨ f 55 1 = 1 ∧ (half ∨ Config.kindOf cid ≠ .sparse) ∨ 2 < f 44 4
      let shape : Prop := live < f 37 7 ∨ 32 < f 48 5 + (f 32 5 + 1) ∨ f 16 16 = 0
      let sound : Prop := ¬reserved ∧ f 60 4 = 1 ∧ ¬types ∧ ¬shape
      (s.me.stash = [r] →
        (reserved → fault 0x06) ∧ (¬reserved → f 60 4 ≠ 1 → fault 0x02) ∧ (¬reserved → f 60 4 = 1 → types → fault 0x03) ∧
        (¬reserved → f 60 4 = 1 → ¬types → shape → fault 0x04) ∧
        ∀ cell, sound → f 54 1 = 1 → Reaches s (s.me.s.toList.getD (f 100 3) 0) (f 192 32) 4 .load false cell → InOwnSlice s .read cell →
          ∃ t, exec (.mtile sg a m) s = .next t ∧
            t = { s with cores := t.cores, agenda := .resume cid s.cur.slot (.mtile sg a m) :: s.agenda } ∧
            CoreBecomes s t cid s.cur.slot x { s.me with stash := [r, s.readN cell 4], st := .ready, banks := t.me.banks }) ∧
      ∀ k, (s.me.stash = [r] ∧ sound ∧ f 54 1 = 0 ∧ k = r % 2 ^ 16 ∨ s.me.stash = [r, k]) →
        let rounds := (k + (if f 56 4 = 1 then 40 else if f 55 1 = 1 then 480 else 80) - 1) / (if f 56 4 = 1 then 40 else if f 55 1 = 1 then 480 else 80)
        let resumes : Prop := f 447 1 = 1 ∧ ((f 16 16 + w - 1) / w ≤ f 304 16 ∨ rounds < f 368 16)
        (f 112 16 < k → fault 0x01) ∧ (k ≤ f 112 16 → resumes → fault 0x05) ∧
        (s.tileBad cid (s.agent cid s.cur.slot) s.me.s r k = none →
          ∃ t, exec (.mtile sg a m) s = .next t ∧ t = { s with cores := t.cores, nextReq := s.nextReq + 1 } ∧
            CoreBecomes s t cid s.cur.slot
              (entered (.mtile r k (BitVec.ofInt 64 (segBase seg + memOffset (s.me.rg a) 0 m.disp)) s.me.s)) { parked with stash := [] })

/-- R251: a plane after the load of one line in a mode: `put row col` and `scale col` are what the line writes, if anything; a plane of
another mode is cleared first, and the rest stays. -/
def Sys2Proof.Machine.Loads (old new : Plane) (mode : PlaneMode) (put : Nat → Nat → Option Nat) (scale : Nat → Option Int) : Prop :=
  new.mode = mode ∧ ∀ col < 80,
    new.scale col = (scale col).getD (if old.mode = mode then old.scale col else 0) ∧
    ∀ row < 480, new.code row col = (put row col).getD (if old.mode = mode then old.code row col else 0)

/-- Address o bytes past an offset of a segment (R90). -/
abbrev Sys2Proof.Machine.placeIn (sg : BitVec 128) (off o : Nat) : Word := BitVec.ofInt 64 (segBase sg + off) + BitVec.ofNat 64 o

/-- R244, R246, R250 to R254, R256, R260, R76: the engine takes the instruction at the head of its order. MSWAP exchanges the planes. MCLR
sets accumulator rows to zero, and with its bit clears the shadow plane. MLDW writes a line into the shadow plane, which is cleared first if
it has another mode: a dense typed line or one of FP16 elements as a column (north) or a row (west), and a compressed run as a column whose
set positions hold its value block's elements in order; more than 80 positions, or one of 480 or above, are engine fault 0x77. MDRAIN
writes an accumulator element in the output type, and clears it with its bit. MSTRM of another mode than the plane's is engine fault 0x79,
transposed over a compressed plane 0x76, and over columns of different scales 0x75; else its vectors begin. MTILE's sequence begins at its
record's panel and round, with its accumulator rows at zero unless it resumes inside a panel. -/
def Obligations.MatrixEngine : Prop :=
  ∀ (c k cell : Nat) (j : MxJob) (rest : List MxJob) (s : State), s.ev.core = c → k < 16 → (s.core c).mxRun = none →
    (s.core c).mxQueue = j :: rest → j.slot = k → (s.slot c k).st = .parked (.matrix j.id) →
    let x := s.core c
    let y : Core := { x with mxQueue := rest }
    let on : Slot := { s.slot c k with pc := (s.slot c k).npc, st := .ready }
    let into (z : Core) (me : Slot) : Prop :=
      ∃ t, exec .matrixDispatch s = .next t ∧ t = { s with cores := t.cores } ∧ CoreBecomes s t c k z me
    let faults (d : Nat) : Prop := (s.slot c k).takesTraps → into y ((s.slot c k).trapped 0x0F d 0 (s.slot c k).pc false)
    let loads (mode : PlaneMode) (put : Nat → Nat → Option Nat) (scale : Nat → Option Int) : Prop :=
      ∃ p, into { y with mxShadow := p } on ∧ Loads x.mxShadow p mode put scale
    let reaches (a : Word) (cell : Nat) : Prop := EngineReaches s c k j.job .read a cell
    let line := s.readN cell 64
    let w := s.widthL6 c
    (j.op = .mswap → into { y with mxActive := x.mxShadow, mxShadow := x.mxActive } on) ∧
    (∀ first count shadow, j.op = .mclr first count shadow →
      ∃ acc, into { y with acc, mxShadow := if shadow then { } else x.mxShadow } on ∧
        ∀ row, ∀ col < 80, SMap.get 0 acc (80 * row + col) = if first ≤ row ∧ row < first + count then 0 else x.accAt row col) ∧
    (∀ first base stride sg, j.op = .mldw false false false first base 1 stride sg → first < 80 → reaches (placeIn sg base 0) cell →
      typedFault (s.line cell).typed (some 0x01) line = none →
      loads .l6 (fun row col => if col = first ∧ row < 80 then some (lineElem line row) else none)
        (fun col => if col = first then some (lineScale line) else none)) ∧
    (∀ first base stride sg, j.op = .mldw false true false first base 1 stride sg → first < 80 → reaches (placeIn sg base 0) cell →
      typedFault (s.line cell).typed (some 0x01) line = none →
      loads .l6 (fun row col => if row = first ∧ col < w then some (lineElem line col) else none)
        (fun col => if col < w then some (lineScale line) else none)) ∧
    (∀ first base stride sg, j.op = .mldw true false false first base 1 stride sg → first < 80 →
      (∀ i < 40, reaches (placeIn sg base (2 * i)) (cell + 2 * i)) →
      loads .f16 (fun row col => if col = first ∧ row < 40 then some (s.readN (cell + 2 * row) 2) else none)
        (fun col => if col = first then some 0 else none)) ∧
    (∀ first base stride sg, j.op = .mldw true true false first base 1 stride sg → first < 40 →
      (∀ i < s.widthF16 c, reaches (placeIn sg base (2 * i)) (cell + 2 * i)) →
      loads .f16 (fun row col => if row = first ∧ col < s.widthF16 c then some (s.readN (cell + 2 * col) 2) else none) (fun _ => none)) ∧
    (∀ first base stride sg, j.op = .mldw false false true first base 1 stride sg → first < 80 → reaches (placeIn sg base 0) cell →
      typedFault (s.line cell).typed (some 0x03) line = none →
      let pos := patternPositions line
      let fits : Prop := pos.length ≤ 80 ∧ ∀ q ∈ pos, q < 480
      (¬ fits → faults 0x77) ∧
      (pos = [] → loads .l6c (fun _ col => if col = first then some 0 else none) (fun col => if col = first then some 0 else none)) ∧
      ∀ a vc, fits → pos ≠ [] → segAddr sg (base + 64 : Nat) 64 64 (fun _ => rRead) false = .ok a → reaches a vc →
        typedFault (s.line vc).typed (some 0x01) (s.readN vc 64) = none →
        loads .l6c (fun row col => if col = first
            then some (if row ∈ pos then lineElem (s.readN vc 64) (pos.filter (· < row)).length else 0) else none)
          (fun col => if col = first then some (lineScale (s.readN vc 64)) else none)) ∧
    (∀ ty clr row base stride sg, j.op = .mdrain ty 1 clr row base 1 stride sg → EngineReaches s c k j.job .write (placeIn sg base 0) cell →
      let v := drainElem ty (x.accAt row 0)
      ∃ t acc, exec .matrixDispatch s = .next t ∧ t = { s with cores := t.cores, mem := t.mem, lines := t.lines } ∧
        Stored s t cell (outBytes ty) v.1 ∧ CoreBecomes s t c k
          { y with acc, mxSticky := x.mxSticky ||| BitVec.ofNat 4 ((if v.2 &&& Fl.of ≠ 0 then 2 else 0) + if v.2 &&& Fl.uf ≠ 0 then 1 else 0) } on ∧
        ∀ q, SMap.get 0 acc q = if q = 80 * row ∧ clr = true then 0 else SMap.get 0 x.acc q) ∧
    (∀ f16 tr first base count stride sg, j.op = .mstrm f16 tr first base count stride sg →
      let mode := x.mxActive.mode
      let fitting : Prop := mode ≠ .empty ∧ (f16 = true ↔ mode = .f16)
      let uneven : Prop := mode = .l6 ∧ ∃ col < w, x.mxActive.scale col ≠ x.mxActive.scale 0
      (¬ fitting → faults 0x79) ∧ (fitting → tr = true → mode = .l6c → faults 0x76) ∧ (fitting → tr = true → uneven → faults 0x75) ∧
      (fitting → ¬ (tr = true ∧ (mode = .l6c ∨ uneven)) →
        into { y with mxRun := if count = 0 then none else some { job := j, stage := .vector 0 [] } } (if count = 0 then on else s.slot c k))) ∧
    ∀ r n at_ segs, j.op = .mtile r n at_ segs →
      let at0 : Nat × Nat := if r / 2 ^ 447 % 2 = 1 then (r / 2 ^ 304 % 2 ^ 16, r / 2 ^ 368 % 2 ^ 16) else (0, 0)
      ∃ acc, into { y with acc, mxRun := some { job := j, stage := .tile at0.1 at0.2 } } (s.slot c k) ∧
        ∀ row, ∀ col < 80, SMap.get 0 acc (80 * row + col) =
          if at0.2 = 0 ∧ r / 2 ^ 48 % 32 ≤ row ∧ row ≤ r / 2 ^ 48 % 32 + r / 2 ^ 32 % 32 then 0 else x.accAt row col

/-- R77, R78, R65: what one output of a pass adds, for the pairs of a weight and an activation. LNS6: the default NaN where a NaL enters,
else the exact sum of the products, a product being 0 for a zero code and ±T[k] × 2^(q + 8) in units of 2^−31 for quarter-logs that add up to
4q + k, rounded once under the scale. FP16: the exact sum of the products of finite operands, rounded once; an infinity of one sign, or the
default NaN and an invalid operation. -/
def Sys2Proof.Machine.PassSums : Prop :=
  ∀ (scale : Int) (pairs : List (Nat × Nat)), (∀ e ∈ pairs, e.1 < 2 ^ 16 ∧ e.2 < 2 ^ 16) →
    let quarter (c : Nat) : Int := ((c % 32 : Nat) : Int) - 16
    let product (e : Nat × Nat) : Int := if e.1 = 0 ∨ e.2 = 0 then 0 else
      signed (decide (32 ≤ e.1) != decide (32 ≤ e.2)) ([0x800000, 0x9837F0, 0xB504F3, 0xD744FD].getD ((quarter e.1 + quarter e.2) % 4).toNat 0 *
        2 ^ ((quarter e.1 + quarter e.2) / 4 + 8).toNat)
    let half (e : Nat × Nat) : Option FVal := mulVal (fp16.dec e.1) (fp16.dec e.2)
    let invalid : Prop := (∃ e ∈ pairs, half e = none ∨ ∃ g, half e = some (.nan g)) ∨
      (∃ e ∈ pairs, half e = some (.inf false)) ∧ ∃ e ∈ pairs, half e = some (.inf true)
    let exact (e : Nat × Nat) : Int := match half e with
      | some (.fin neg m g) => signed neg (m * 2 ^ (g + 48).toNat)
      | _ => 0
    ((∀ e ∈ pairs, e.1 < 64 ∧ e.2 < 64) →
      ((∃ e ∈ pairs, e.1 = 0x20 ∨ e.2 = 0x20) → lnsPass scale pairs = (0x7FC00000, Fl.nal)) ∧
      ((∀ e ∈ pairs, e.1 ≠ 0x20 ∧ e.2 ≠ 0x20) → lnsPass scale pairs = exactSum fp32 .rne false false (pairs.map product).sum (scale - 31))) ∧
    (invalid → fp16Pass pairs = (0x7FC00000, Fl.nv)) ∧
    (¬ invalid → ∀ neg, (∃ e ∈ pairs, half e = some (.inf neg)) → fp16Pass pairs = (fp32.inf neg, 0)) ∧
    (¬ invalid → (∀ e ∈ pairs, ∀ neg, half e ≠ some (.inf neg)) →
      fp16Pass pairs = exactSum fp32 .rne false false (pairs.map exact).sum (-48))

/-- The status bits that conditions of a pass or a drain set (R243): nal, nv, of, uf are bits 3 to 0. -/
def Sys2Proof.Machine.StickyOf (old new : BitVec 4) (raises : Fl → Prop) : Prop :=
  ∀ e ∈ [(3, Fl.nal), (2, Fl.nv), (1, Fl.of), (0, Fl.uf)], new.getLsbD e.1 = true ↔ old.getLsbD e.1 = true ∨ raises e.2

/-- R245 to R247, R253, R260 to R262: in a clk without a pass the credit rises by the holding. A vector of MSTRM is read: the elements of a dense
line, of an FP16 line, or the six windows of a compressed vector, of which each is a pass. When the credit reaches F the pass that is ready
takes it: each output's accumulator gains the sum of its products (`PassSums`), each rounded once to nearest; then the next pass, the next
vector, or the end. MTILE at its boundary notes a stop (inside an open packet an escalation alone, R144), or waits for its chunks, or loads the round's weights and swaps the planes; it reads
a vector for each row, and adds the round once all its passes have started; after the last round it writes the panel's outputs and
goes to the next panel; at its end or at a stop it writes its progress fields. MTILE's clauses are for dense LNS6 weights, with one column
where the round is loaded or one element where the panel is written. -/
def Obligations.MatrixPasses : Prop :=
  PassSums ∧ ∀ (c k cell i p : Nat) (j : MxJob) (s : State), s.ev.core = c → k < 16 →
    let x := s.core c
    let me := s.slot c k
    let on : Slot := { me with pc := me.npc, st := .ready }
    let spent := x.debt - (x.extra + 1)
    let plane := x.mxActive
    let running (g : MxStage) : Prop := x.mxRun = some { job := j, stage := g }
    let goes (i : Instr) (z : Core) (m : Slot) : Prop := ∃ t, exec i s = .next t ∧ t = { s with cores := t.cores } ∧ CoreBecomes s t c k z m
    let to_ (z : Core) (g : MxStage) : Core := { z with mxRun := some { job := j, stage := g } }
    let reaches (a : Word) (cell : Nat) : Prop := EngineReaches s c k j.job .read a cell
    let typed (cell : Nat) : Prop := typedFault (s.line cell).typed (some 0x01) (s.readN cell 64) = none
    let elems (n cell : Nat) : Activation := ⟨(List.range n).map (lineElem (s.readN cell 64)), lineScale (s.readN cell 64)⟩
    (x.mxRun = none → x.lxRun = none → goes .issueCreditStart { x with debt := spent } me) ∧
    (spent ≠ 0 → goes .issueCreditStart { x with debt := spent } me) ∧
    (∀ f16 tr first base count stride sg, j.op = .mstrm f16 tr first base count stride sg →
      let off := base + i * stride
      (running (.vector i []) →
        (f16 = false → plane.mode ≠ .l6c → reaches (placeIn sg off 0) cell → typed cell →
          goes .matrixDispatch (to_ x (.vector i [elems (if tr then s.widthL6 c else 80) cell])) me) ∧
        (f16 = true → (∀ n < (if tr then s.widthF16 c else 40), reaches (placeIn sg off (2 * n)) (cell + 2 * n)) →
          goes .matrixDispatch (to_ x (.vector i
            [⟨(List.range (if tr then s.widthF16 c else 40)).map fun n => s.readN (cell + 2 * n) 2, 0⟩])) me) ∧
        ∀ at_ : Nat → Nat, f16 = false → plane.mode = .l6c →
          (∀ n < 6, typed (at_ n) ∧ ∃ a, segAddr sg (off + 64 * n : Nat) 64 64 (fun _ => rRead) false = .ok a ∧ reaches a (at_ n)) →
          goes .matrixDispatch (to_ x (.vector i ((List.range 6).map fun n => elems 80 (at_ n)))) me) ∧
      ∀ act left, running (.vector i (act :: left)) → spent = 0 → j.slot = k → me.st = .parked (.matrix j.id) → act.xs ≠ [] →
        let outs := if tr then (if f16 then 40 else 80) else s.width c f16
        let row0 := if plane.mode = .l6c then 80 * (5 - left.length) else 0
        let pairs (q : Nat) : List (Nat × Nat) := act.xs.mapIdx fun n v => (if tr then plane.code q n else plane.code (row0 + n) q, v)
        let sum (q : Nat) : Nat × Fl := if plane.mode = .f16 then fp16Pass (pairs q)
          else lnsPass (plane.scale (if tr then 0 else q) + act.scale) (pairs q)
        let new (q : Nat) : Nat × Fl := fpAdd fp32 .rne (x.accAt (first + i) q) (sum q).1
        let next : Option MxStage := if left ≠ [] then some (.vector i left) else if i + 1 < count then some (.vector (i + 1) []) else none
        ∃ acc sticky, goes .issueCreditStart { x with
            debt := Config.fullRate c, acc, mxSticky := sticky, mxRun := next.map fun g => { job := j, stage := g } }
            (if next = none then on else me) ∧
          (∀ row, ∀ col < 80, SMap.get 0 acc (80 * row + col) = if row = first + i ∧ col < outs then (new col).1 else x.accAt row col) ∧
          StickyOf x.mxSticky sticky fun f => ∃ q < outs, ((sum q).2 ||| (new q).2) &&& f ≠ 0) ∧
    ∀ r n at_ segs, j.slot = k → me.st = .parked (.matrix j.id) → j.op = .mtile r n at_ segs →
      let live := s.widthL6 c
      let dense : Prop := recF16 r = false ∧ recComp r = false
      -- a stop is taken at a boundary outside an open packet, an escalation everywhere (R144)
      let stops : Prop := me.stopReq.isSome ∧ ((∀ ch : Fin 8, me.c[ch].getLsbD 67 = false) ∨ me.stopReq = some .escalation)
      let begun : Prop := running (.tile i p) ∧ ¬stops ∨ running (.work i p)
      let waits := recField r 503 1 = 1
      (running (.tile i p) → stops → goes .mtileChunkResume (to_ x (.save i p true none)) me) ∧
      (running (.tile i p) → ¬stops → dense → p < recRounds r n → waits → reaches (placeIn (recSeg segs r 500) (recField r 448 32) 0) cell →
        (concordAt s cell).phase.toNat = recField r 504 8 →
        (concordAt s cell).chunks.toNat &&& tileMask r live n i p (recSeg segs r 109) ≠ tileMask r live n i p (recSeg segs r 109) →
        exec .mtileChunkResume s = .next s) ∧
      (begun → dense → p < recRounds r n → recCols r live i = 1 → (running (.work i p) ∨ ¬ waits) →
        reaches (placeIn (recSeg segs r 109) (recField r 256 48 + i * recField r 160 32 + 64 * p) 0) cell → typed cell →
        ∃ new, goes .mtileChunkResume (to_ { x with mxActive := new, mxShadow := plane } (.round i p [] 0)) me ∧
          Loads x.mxShadow new .l6 (fun row col => if col = 0 ∧ row < 80 then some (lineElem (s.readN cell 64) row) else none)
            (fun col => if col = 0 then some (lineScale (s.readN cell 64)) else none)) ∧
      (∀ vs paid, running (.round i p vs paid) → dense →
        (vs.length ≤ paid → recRows r n p ≤ 80 →
          reaches (placeIn (recSeg segs r 106) (recField r 320 48 + vs.length * recField r 128 32 + 64 * p) 0) cell → typed cell →
          goes .matrixDispatch (to_ x (.round i p (vs ++ [[elems (recRows r n p) cell]]) paid)) me) ∧
        (paid < vs.length → spent = 0 → paid + 1 < recM r →
          goes .issueCreditStart (to_ { x with debt := Config.fullRate c } (.round i p vs (paid + 1))) me) ∧
        ∀ acts : List Activation, vs = acts.map (fun a => [a]) → acts.length = recM r → (∀ a ∈ acts, a.xs ≠ []) → plane.mode = .l6 →
          paid + 1 = recM r → spent = 0 →
          let act (m : Nat) : Activation := acts.getD m ⟨[], 0⟩
          let sum (m q : Nat) : Nat × Fl := lnsPass (plane.scale q + (act m).scale) ((act m).xs.mapIdx fun d v => (plane.code d q, v))
          let new (m q : Nat) : Nat × Fl := fpAdd fp32 .rne (x.accAt (recAcc0 r + m) q) (sum m q).1
          ∃ acc sticky, goes .issueCreditStart (to_ { x with debt := Config.fullRate c, acc, mxSticky := sticky } (.tile i (p + 1))) me ∧
            (∀ row, ∀ q < 80, SMap.get 0 acc (80 * row + q) =
              if recAcc0 r ≤ row ∧ row < recAcc0 r + recM r ∧ q < recCols r live i then (new (row - recAcc0 r) q).1 else x.accAt row q) ∧
            StickyOf x.mxSticky sticky fun f => ∃ m < recM r, ∃ q < recCols r live i, ((sum m q).2 ||| (new m q).2) &&& f ≠ 0) ∧
      (begun → dense → ¬ p < recRounds r n → recM r = 1 → recCols r live i = 1 →
        EngineReaches s c k j.job .write (placeIn (recSeg segs r 103) (recField r 384 48 + i * recWidth r live * outBytes (recOut r)) 0) cell →
        let v := drainElem (recOut r) (x.accAt (recAcc0 r) 0)
        ∃ t acc sticky, exec .mtileChunkResume s = .next t ∧ t = { s with cores := t.cores, mem := t.mem, lines := t.lines } ∧
          Stored s t cell (outBytes (recOut r)) v.1 ∧
          CoreBecomes s t c k (to_ { x with acc, mxSticky := sticky }
            (if i + 1 < recPanels r live then .tile (i + 1) 0 else .save 0 0 false none)) me ∧
          StickyOf x.mxSticky sticky (fun f => v.2 &&& (Fl.of ||| Fl.uf) &&& f ≠ 0) ∧
          ∀ row, ∀ q < 80, SMap.get 0 acc (80 * row + q) = if i + 1 < recPanels r live ∧ row = recAcc0 r then 0 else x.accAt row q) ∧
      ∀ valid, running (.save i p valid none) → cell % 64 = 0 →
        (∀ o < 64, EngineReaches s c k j.job .write (at_ + BitVec.ofNat 64 o) (cell + o)) →
        ∃ t, exec .mtileChunkResume s = .next t ∧ t = { s with cores := t.cores, mem := t.mem, lines := t.lines } ∧
          CoreBecomes s t c k { x with mxRun := none } (if valid then { me with st := .parked (.stopping 4), abandoned := 4 } else on) ∧
          (∀ b, t.line b = if b / 64 = cell / 64 then { s.line b with typed := false } else s.line b) ∧
          ∀ b, t.byte b =
            if b = cell + 38 then BitVec.ofNat 8 i else if b = cell + 39 then BitVec.ofNat 8 (i / 256)
            else if b = cell + 46 then BitVec.ofNat 8 p else if b = cell + 47 then BitVec.ofNat 8 (p / 256)
            else if b = cell + 55 then (if valid then 0x80 else 0) else s.byte b

/-! ## The lexicon engine -/

/-- A family configuration that LXFAM accepts (R265, R281, Table 2). -/
abbrev Sys2Proof.Machine.LegalFamily (w : Word) : Prop :=
  w.extractLsb' 48 16 = 0 ∧ w.extractLsb' 21 7 = 0 ∧ w.extractLsb' 2 14 = 0 ∧ w.extractLsb' 0 2 ≠ 3 ∧
  (w.extractLsb' 0 2 ≠ 0 → 1 ≤ (w.extractLsb' 16 5).toNat ∧ (w.extractLsb' 16 5).toNat ≤ 16 ∧ (w.extractLsb' 35 13).toNat ≤ 4095) ∧
  (w.extractLsb' 31 3).toNat + (w.extractLsb' 28 3).toNat + 1 ≤ 8

/-- A table configuration that LXTAB accepts (R266, R282, Table 3). -/
abbrev Sys2Proof.Machine.LegalTable (w : Word) : Prop :=
  let pblk := (w.extractLsb' 28 16).toNat
  let bound := (w.extractLsb' 24 4).toNat
  let policy := (w.extractLsb' 20 2).toNat
  w.extractLsb' 44 20 = 0 ∧ w.extractLsb' 22 2 = 0 ∧ w.extractLsb' 17 3 = 0 ∧ w.extractLsb' 5 11 = 0 ∧
  1 ≤ (w.extractLsb' 0 5).toNat ∧ (w.extractLsb' 0 5).toNat ≤ 16 ∧
  ((policy ≤ 1 ∧ pblk = 0 ∧ bound = 0) ∨ (policy = 2 ∧ 2 ≤ pblk ∧ 1 ≤ bound))

/-- A family that an instruction may name (R283): a kind, and 1 ≤ b ≤ k in each of its tables. -/
abbrev Sys2Proof.Machine.UsableFamily (x : Core) (f : HF) : Prop :=
  let w := x.hf[f].extractLsb' 64 64
  w.extractLsb' 0 2 ≠ 0 ∧ ∀ l ≤ (w.extractLsb' 28 3).toNat,
    let b := (x.lt[(Fin.ofNat 8 ((w.extractLsb' 31 3).toNat + l) : LT)].extractLsb' 64 5).toNat
    1 ≤ b ∧ b ≤ (w.extractLsb' 16 5).toNat

/-- R278, R280 to R289: a lexicon instruction that passes its checks at issue takes the last place of the engine's order and its thread
parks; a configuration that is refused, a row id of 0xFFFF_FFFF or above, an unusable family and a probe block with a reserved bit are
engine faults. LXST answers at once, and its selector 1 clears the sticky bits. The order of the checks is the model's reading (log 41), and so
is that the step form of LXRH takes its place whether or not a rehash is active then (log 76). -/
def Obligations.LexiconQueue : Prop :=
  ∀ (f f' : HF) (lt : LT) (sg : S) (a b d : G) (init : Bool) (count : BitVec 7) (s : State), Runs s →
    let cid := s.cur.core
    let x := s.core cid
    let queues (i : Instr) (op : LxOp) : Prop := ∃ t, exec i s = .next t ∧ t = { s with cores := t.cores, nextReq := s.nextReq + 1 } ∧
      CoreBecomes s t cid s.cur.slot { x with lxQueue := x.lxQueue ++ [⟨s.nextReq, s.cur.slot, s.me.tag, op⟩] }
        { s.me with st := .parked (.lexicon s.nextReq), parkClk := s.clk }
    let faults (i : Instr) (detail : Nat) : Prop :=
      s.me.takesTraps → ∃ t, exec i s = .next t ∧ OnlyMe s t ∧ t.me = s.me.trapped 0x0F detail 0 s.me.pc false
    let answers (sel idx : Fin 8) (v : Word) : Prop :=
      ∃ t, exec (.lxst d sel idx) s = .next t ∧ OnlyMe s t ∧ t.me = s.me.wrote d v s.me.flags
    let passes (sg : BitVec 128) (off : Int) (n al : Nat) (need : Nat → Nat) (y : Word) : Prop :=
      segAddr sg off n al need false = .ok y ∧ ∃ p, s.checkSpace (s.agent cid s.cur.slot) y = .ok p
    let seg := s.me.s[sg]
    let off := (s.me.rg a).toNat
    let row := (s.me.rg b).toNat
    let es (h : HF) : Nat := if (x.hf[h]).getLsbD 98 then 2 else 4
    let dim (h : HF) : Nat := (x.hf[h].extractLsb' 99 13).toNat + 1
    let status : Nat := (if x.lxRun.isSome then 1 <<< 15 else 0) + (match x.rh with
      | some r => 1 <<< 14 + r.fo <<< 12 + r.fn <<< 10
      | none => 0) + x.lxSticky.toNat
    (x.rh = none →
      (LegalFamily (s.me.rg b) → queues (.lxfam f a b) (.fam f (s.me.rg a) (s.me.rg b))) ∧
      (∀ y, LegalTable (s.me.rg b) → y.extractLsb' 60 4 ≠ 15 →
        passes seg off (64 * (2 ^ ((s.me.rg b).extractLsb' 0 5).toNat + ((s.me.rg b).extractLsb' 28 16).toNat)) 64
          needsAll y → queues (.lxtab lt sg a b init) (.tab lt y (s.me.rg b) init))) ∧
    (¬LegalFamily (s.me.rg b) → faults (.lxfam f a b) 0x82) ∧ (¬LegalTable (s.me.rg b) → faults (.lxtab lt sg a b init) 0x82) ∧
    (∀ y, passes seg off (dim f * es f) (es f) (fun _ => rRead) y →
      (row < 0xFFFFFFFF → UsableFamily x f →
        queues (.lxins d sg a b f) (.ins d f y row) ∧ queues (.lxdel d sg a b f) (.del d f y row)) ∧
      (row < 0xFFFFFFFF → ¬UsableFamily x f → faults (.lxins d sg a b f) 0x81 ∧ faults (.lxdel d sg a b f) 0x81) ∧
      (0xFFFFFFFF ≤ row → faults (.lxins d sg a b f) 0x84 ∧ faults (.lxdel d sg a b f) 0x84)) ∧
    (a.val + 3 < 32 →
      let w0 := (s.me.rg a).toNat
      let word (i : Nat) : Word := s.me.rg (Fin.ofNat 32 (a.val + i))
      let cap := w0 % 2 ^ 16
      let f : HF := Fin.ofNat 4 (w0 / 2 ^ 62)
      let key := s.me.s[(Fin.ofNat 8 (w0 / 2 ^ 59) : S)]
      let list := s.me.s[(Fin.ofNat 8 (w0 / 2 ^ 56) : S)]
      (w0 / 2 ^ 16 % 2 ^ 39 ≠ 0 ∨ cap = 0 → faults (.lxprb d a) 0x87) ∧
      (w0 / 2 ^ 16 % 2 ^ 39 = 0 → cap ≠ 0 → (s.me.rg a).getLsbD 55 = false → UsableFamily x f → ∀ ky ly cy,
        passes key (word 1).toNat (dim f * es f) (es f) (fun _ => rRead) ky → passes list (word 2).toInt (4 * cap) 4 destRights ly →
        passes list (word 3).toInt 4 4 destRights cy → queues (.lxprb d a) (.prb d f cap ky ly cy none))) ∧
    (seg.getLsbD 112 = true →
      (x.rh = none → f ≠ f' → UsableFamily x f → UsableFamily x f' → dim f = dim f' → es f = es f' →
        ((x.fam f).t0 + (x.fam f).tables ≤ (x.fam f').t0 ∨ (x.fam f').t0 + (x.fam f').tables ≤ (x.fam f).t0) →
        off % es f = 0 → row % es f = 0 → row < 2 ^ 32 →
        queues (.lxrhStart f f' sg a b) (.rhStart f f' (BitVec.ofInt 64 (segBase seg + off)) off row (segLimit seg) (segRights seg))) ∧
      (x.rh.isSome ∨ f = f' ∨ 2 ^ 32 ≤ row → faults (.lxrhStart f f' sg a b) 0x83)) ∧
    queues (.lxrhStep d count) (.rhStep d count.toNat) ∧
    answers 0 0 (BitVec.ofNat 64 status) ∧
    (∃ t, exec (.lxst d 1 0) s = .next t ∧ t = { s with cores := t.cores } ∧
      CoreBecomes s t cid s.cur.slot { x with lxSticky := 0 } (s.me.wrote d (BitVec.ofNat 64 status) s.me.flags)) ∧
    (x.rh = none → answers 2 0 0) ∧
    answers 3 ⟨f.val, by omega⟩ (x.hf[f].extractLsb' 64 64) ∧ answers 4 ⟨f.val, by omega⟩ (x.hf[f].extractLsb' 0 64) ∧
    answers 5 lt (x.lt[lt].extractLsb' 0 64) ∧ answers 6 lt (x.lt[lt].extractLsb' 64 64)

/-- mix of R269, modulo 2^64. -/
def Sys2Proof.Machine.mix64 (seed u : Word) : Word :=
  let z := seed + (u + 1) * 0x9E3779B97F4A7C15
  let z := (z ^^^ z >>> 30) * 0xBF58476D1CE4E5B9
  let z := (z ^^^ z >>> 27) * 0x94D049BB133111EB
  z ^^^ z >>> 31

/-- R267 to R269: bit i of the hash of a key in table l. Sign-random projection: the sign of the exact ±1 combination of all coordinates, or
of its infinite terms, which must all be +∞; coordinate-sign selection: the sign of the one coordinate that the seed and the bit's number
select. A NaN counts as +0. -/
def Sys2Proof.Machine.HashRules : Prop :=
  ∀ (f : Family) (xs : List Nat) (l : Nat), f.dim = xs.length → 1 ≤ xs.length → xs.length ≤ 4096 → l < 8 → f.k ≤ 16 → f.seed < 2 ^ 64 →
    let x (j : Nat) : FVal := f.fmt.dec (xs.getD j 0)
    let plus (i j : Nat) : Bool := !(mix64 (BitVec.ofNat 64 f.seed) (BitVec.ofNat 64 (l <<< 56 ||| i <<< 48 ||| j))).getLsbD 63
    let exact (j : Nat) : Int := match x j with
      | .fin neg m e => signed neg (m * 2 ^ (e + 149).toNat)
      | _ => 0
    let sum (i : Nat) : Int := ((List.range xs.length).map fun j => if plus i j then exact j else -exact j).sum
    let infinite (j : Nat) : Prop := x j = .inf false ∨ x j = .inf true
    let chosen (i : Nat) : Nat := (f.seed % 2 ^ 16 + (f.seed / 2 ^ 16 % 2 ^ 16 ||| 1) * (l * f.k + i)) % xs.length
    let positive (v : FVal) : Prop := v = .inf false ∨ ∃ m e, v = .fin false m e ∧ m ≠ 0
    (∀ i, f.k ≤ i → (lxHash f xs l).testBit i = false) ∧ ∀ i < f.k,
      (f.kind = 1 →
        ((∃ j < xs.length, infinite j) → ((lxHash f xs l).testBit i = true ↔ ∀ j < xs.length, infinite j → x j = .inf (!plus i j))) ∧
        ((∀ j < xs.length, ¬ infinite j) → ((lxHash f xs l).testBit i = true ↔ 0 < sum i))) ∧
      (f.kind = 2 → ((lxHash f xs l).testBit i = true ↔ positive (x (chosen i))))

/-- R264 to R276, R278, R279, R281 to R288: the engine takes the instruction at the head of its order. LXFAM and LXTAB write their
register; LXRH's start form makes the rehash record, or is engine fault 0x83; a step without a rehash is engine fault 0x83. The others wait
for the credit of their steps: the hashing of the key (`HashRules`), each block read and each block written. LXINS appends the row to the
bucket that the hash selects (0), or finds it there (1), or meets a full one, which evicts its oldest row (2) or refuses (3); LXDEL removes
it; LXPRB writes the bucket's rows in ascending order and their number; LXRH's step form moves a bucket's row into the new family's
bucket, and after the last bucket the old family's register becomes the new one's. The clauses are for families of one table whose
buckets have no chain. -/
def Obligations.LexiconEngine : Prop :=
  HashRules ∧ ∀ (c k : Nat) (j : LxJob) (s : State), s.ev.core = c → k < 16 → j.slot = k → (s.slot c k).st = .parked (.lexicon j.id) →
    let x := s.core c
    let on (y : Slot) : Slot := { y with pc := (s.slot c k).npc, st := .ready }
    let trapped (d : Nat) : Slot := (s.slot c k).trapped 0x0F d 0 (s.slot c k).pc false
    (∀ rest, x.lxRun = none → x.lxQueue = j :: rest →
      let into (z : Core) (me : Slot) : Prop :=
        ∃ t, exec .lexiconDispatch s = .next t ∧ t = { s with cores := t.cores } ∧ CoreBecomes s t c k { z with lxQueue := rest } me
      (∀ (f : HF) seed cfg, x.rh = none → j.op = .fam f seed cfg → into { x with hf := x.hf.set f (cfg ++ seed) } (on (s.slot c k))) ∧
      (∀ (n : LT) y cfg, x.rh = none → j.op = .tab n y cfg false → into { x with lt := x.lt.set n (cfg ++ y) } (on (s.slot c k))) ∧
      (∀ (fo fn : HF) base off stride limit rights, j.op = .rhStart fo fn base off stride limit rights →
        let legal : Prop := x.rh = none ∧ fo ≠ fn ∧ UsableFamily x fo ∧ UsableFamily x fn ∧ (x.fam fo).dim = (x.fam fn).dim ∧
          (x.fam fo).f16 = (x.fam fn).f16 ∧
          ((x.fam fo).t0 + (x.fam fo).tables ≤ (x.fam fn).t0 ∨ (x.fam fn).t0 + (x.fam fn).tables ≤ (x.fam fo).t0)
        (x.fam fo).t0 + (x.fam fo).tables ≤ 8 → (x.fam fn).t0 + (x.fam fn).tables ≤ 8 →
        (legal → into { x with rh := some ⟨fo, fn, 0, base, off, stride, limit, rights⟩ } (on (s.slot c k))) ∧
        (¬ legal → (s.slot c k).takesTraps → into x (trapped 0x83))) ∧
      (∀ d n, x.rh = none → j.op = .rhStep d n → (s.slot c k).takesTraps → into x (trapped 0x83))) ∧
    ∀ paid, x.lxRun = some { job := j, paid } →
      let oneTable (f : Family) : Prop := f.tables = 1 ∧ (f.kind = 1 ∨ f.kind = 2) ∧ 1 ≤ (x.table f.t0).b ∧ (x.table f.t0).b ≤ f.k
      let key (f : Family) (a : Word) (kc : Nat) : Prop := ∀ n < f.dim,
        EngineReaches s c k j.job .read (a + BitVec.ofNat 64 (n * f.es)) (kc + n * f.es) ∧ (f.fmt.dec (s.readN (kc + n * f.es) f.es)).isNaN = false
      let bucketOf (f : Family) (kc : Nat) : Word := (x.table f.t0).base + BitVec.ofNat 64 (64 *
        (lxHash f ((List.range f.dim).map fun n => s.readN (kc + n * f.es) f.es) 0 % 2 ^ (x.table f.t0).b))
      let hashing (f : Family) (a : Word) : Nat := if f.kind = 1 then (a.toNat + f.dim * f.es - 1) / 64 - a.toNat / 64 + 1 else 1
      let holds (f : Family) (a : Word) (bc : Nat) (rows : List Nat) (fl : Nat) : Prop := EngineReaches s c k j.job .rmw a bc ∧
        s.readN bc 64 = (⟨a, rows, 0, fl⟩ : LxBlock).bits ∧ fl < 4 ∧ rows.length ≤ (x.table f.t0).slots ∧ ∀ r ∈ rows, r < 0xFFFFFFFF
      let after (steps : Nat) (d : G) (v : Nat) (z : Core) (mem : State → Prop) : Prop :=
        (paid < steps → exec .lexiconDispatch s = .next s) ∧
        (steps ≤ paid → ∃ t, exec .lexiconDispatch s = .next t ∧ t = { s with cores := t.cores, mem := t.mem, lines := t.lines } ∧
          CoreBecomes s t c k { z with lxRun := none } (on ((s.slot c k).wg d (BitVec.ofNat 64 v))) ∧ mem t)
      (x.rh = none → ∀ d f a row kc bc rows fl,
        let fam := x.fam f
        let bucket := bucketOf fam kc
        let tb := x.table fam.t0
        let write (rows : List Nat) (fl : Nat) (t : State) : Prop := Stored s t bc 64 (⟨bucket, rows, 0, fl⟩ : LxBlock).bits
        oneTable fam → key fam a kc → holds fam bucket bc rows fl → row < 0xFFFFFFFF →
        (j.op = .ins d f a row →
          (row ∈ rows → after (hashing fam a + 1) d 1 x (SameMemory s)) ∧
          (row ∉ rows → rows.length < tb.slots → after (hashing fam a + 2) d 0 x (write (rows ++ [row]) fl)) ∧
          (row ∉ rows → rows.length = tb.slots →
            (tb.policy = 0 → after (hashing fam a + 2) d 3 { x with lxSticky := x.lxSticky ||| 1 } (write rows (fl ||| 1))) ∧
            (tb.policy = 1 → after (hashing fam a + 2) d 2 { x with lxSticky := x.lxSticky ||| 2 } (write (rows.drop 1 ++ [row]) (fl ||| 2))))) ∧
        (j.op = .del d f a row →
          (row ∈ rows → after (hashing fam a + 2) d 1 x (write (rows.erase row) fl)) ∧
          (row ∉ rows → after (hashing fam a + 1) d 0 x (SameMemory s))) ∧
        ∀ cap list count lc cc (u : List Nat), j.op = .prb d f cap a list count none → u.Pairwise (· < ·) → (∀ r, r ∈ u ↔ r ∈ rows) →
          let n := min u.length cap
          (∀ i < n, EngineReaches s c k j.job .write (list + BitVec.ofNat 64 (4 * i)) (lc + 4 * i)) → lc % 4 = 0 →
          EngineReaches s c k j.job .write count cc → cc % 4 = 0 → (cc + 4 ≤ lc ∨ lc + 4 * n ≤ cc) →
          let touched (b : Nat) : Prop := b / 64 = cc / 64 ∨ ∃ i < n, b / 64 = (lc + 4 * i) / 64
          after (hashing fam a + 1) d (u.length + if cap < u.length then 2 ^ 32 else 0)
            { x with lxSticky := if cap < u.length then x.lxSticky ||| 16 else x.lxSticky } fun t =>
              t.readN cc 4 = n ∧ (∀ i < n, t.readN (lc + 4 * i) 4 = u.getD i 0) ∧
              (∀ b, ¬ (cc ≤ b ∧ b < cc + 4) → ¬ (lc ≤ b ∧ b < lc + 4 * n) → t.byte b = s.byte b) ∧
              ∀ b, (touched b → t.line b = { s.line b with typed := false }) ∧ (¬ touched b → t.line b = s.line b)) ∧
      ∀ r d row kc oc nc old new fl fl', x.rh = some r → j.op = .rhStep d 1 →
        let fo := x.fam r.fo
        let fn := x.fam r.fn
        let a := r.base + BitVec.ofNat 64 (row * r.stride)
        let from_ : Word := (x.table fo.t0).base + BitVec.ofNat 64 (64 * r.cursor)
        let into := bucketOf fn kc
        let left := 2 ^ (x.table fo.t0).b - (r.cursor + 1)
        oneTable fo → oneTable fn → r.cursor < 2 ^ (x.table fo.t0).b → holds fo from_ oc old fl → oc / 64 ≠ nc / 64 →
        (old = [] → after 2 d left
            (if left = 0 then { x with rh := none, hf := x.hf.set (Fin.ofNat 4 r.fo) x.hf[(Fin.ofNat 4 r.fn : HF)] }
             else { x with rh := some { r with cursor := r.cursor + 1 } })
            fun t => Stored s t oc 64 (⟨from_, [], 0, fl⟩ : LxBlock).bits) ∧
        (old = [row] → r.off + row * r.stride + fn.dim * fn.es ≤ r.limit → key fn a kc → holds fn into nc new fl' →
          new.length < (x.table fn.t0).slots → row ∉ new →
          after (hashing fn a + 4) d left
            (if left = 0 then { x with rh := none, hf := x.hf.set (Fin.ofNat 4 r.fo) x.hf[(Fin.ofNat 4 r.fn : HF)] }
             else { x with rh := some { r with cursor := r.cursor + 1 } })
            fun t => ∃ u : State, Stored s u nc 64 (⟨into, new ++ [row], 0, fl'⟩ : LxBlock).bits ∧
              Stored u t oc 64 (⟨from_, [], 0, fl⟩ : LxBlock).bits)

/-! ## The network engine -/

/-- A channel register with its open bit [67] and its word count [66:64] (R294, Table 2). -/
def Sys2Proof.Machine.withPacket (c : BitVec 128) (isOpen : Bool) (n : Nat) : BitVec 128 :=
  c &&& ~~~(0xF#128 <<< 64) ||| BitVec.ofNat 128 ((if isOpen then 8 else 0) + n % 8) <<< 64

/-- A channel register with bit b as given. -/
def Sys2Proof.Machine.withBit (c : BitVec 128) (b : Nat) (x : Bool) : BitVec 128 :=
  c &&& ~~~(1#128 <<< b) ||| BitVec.ofNat 128 (if x then 1 else 0) <<< b

/-- Cell of entry i of a tile's overflow extension, of 128 bytes, at the base that ovf names (R293, R296). -/
def Sys2Proof.Machine.State.entryCell (s : State) (sn i : Nat) : Nat :=
  baseOf sn + 8192 * ((s.core sn).ovf.extractLsb' 13 5).toNat + 128 * i

/-- The n bytes from cell a on lie in lines without an error, none of them written anew after an error (R100, R402). -/
def Sys2Proof.Machine.WholeArea (s : State) (a n : Nat) : Prop :=
  ∀ b, a ≤ b → b < a + n → (s.line b).sound = true ∧ (s.line b).poisoned = false ∧ (s.line b).wiped = none

/-- R294 to R299, R309 to R311: SEND on an out channel sends a word that opens, continues or closes a packet, and parks with 16 words
unaccepted; RECV takes the oldest word of its queue, notes whether it ended a packet, and parks on an empty queue; either on a channel that
is not bound so is engine fault 0x91. CHST tells of an out channel and of an empty in channel. An arriving first word takes a
hardware entry of its queue, or goes to the thread that waits in RECV; where both hardware entries are taken it takes the lowest free
overflow entry, whose 16 words are written, and it stays on its link where none is free; a later word joins its packet in either kind of
entry; and the oldest overflow packet of a queue moves into the hardware entry that RECV frees. A packet for a dead tile is a contained
error, and one for a slot of another job engine fault 0x93, of the clause that sent it, once, which the supervisor core hears of where that
clause has gone. A SEND that has waited for its timeout takes the channel-stall trap. -/
def Obligations.Channels : Prop :=
  ∀ (ch : C) (a d : G) (sg : S) (last : Bool) (s : State), Runs s →
    let cid := s.cur.core
    let k := s.cur.slot
    let x := s.core cid
    let c := s.me.c[ch]
    let n := (c.extractLsb' 64 3).toNat
    let inside := c.getLsbD 67
    let dir := (c.extractLsb' 62 2).toNat
    let goes (i : Instr) (me : Slot) : Prop := ∃ t, exec i s = .next t ∧ OnlyMe s t ∧ t.me = me
    let faults (i : Instr) : Prop := s.me.takesTraps → goes i (s.me.trapped 0x0F 0x91 0 s.me.pc false)
    let queue := x.pkts.filter fun p => p.slot == k && p.ch == ch.val
    let waiting := (s.msgs.filter fun m => m.body.isWordOf cid k ch).length
    (dir ≠ 1 → faults (.send ch a sg last)) ∧ (dir ≠ 2 → faults (.recv d ch)) ∧
    (∀ dst, dst < 12288 → s.isDead dst = false → dir = 1 → (c.extractLsb' 0 32).toNat = baseOf dst → s.me.s[sg].getLsbD 116 = true →
      let closes := last || n == 7
      let no := if inside then SMap.get 0 s.me.pktIds ch else s.nextReq
      (waiting < 16 → ∃ t, exec (.send ch a sg last) s = .next t ∧ CoresBut s t cid k ∧
        Sent s t s.msgs [.word cid k ch dst (c.extractLsb' 54 4).toNat (c.extractLsb' 58 3).toNat s.me.tag
          ((s.me.occ.map (·.uid)).getD 0) no (s.me.rg a) (!inside) closes] ∧
        t = { s with cores := t.cores, msgs := t.msgs, nextMsg := t.nextMsg, draws := t.draws
                     nextReq := if inside then s.nextReq else s.nextReq + 1 } ∧
        t.me = { s.me with c := s.me.c.set ch (withPacket c (!closes) (if closes then 0 else n + 1))
                           pktIds := SMap.set 0 s.me.pktIds ch no, pc := s.me.npc, st := .ready }) ∧
      (16 ≤ waiting → goes (.send ch a sg last) { s.me with st := .parked (.send ch (s.me.rg a) last), parkClk := s.clk })) ∧
    (dir = 2 →
      (queue = [] → goes (.recv d ch) { s.me with st := .parked (.recv d ch), parkClk := s.clk } ∧
        goes (.chst d ch) (s.me.wrote d (BitVec.ofNat 64
          (1 <<< 19 + (if c.getLsbD 69 then 1 <<< 18 else 0) + if c.getLsbD 68 then 1 <<< 17 else 0)) s.me.flags)) ∧
      ∀ p rest, queue = p :: rest → p.err = false → p.count = p.words.length → p.read < p.count → p.overAt = none →
        let ends := p.ended && p.read + 1 == p.count
        let keeps (pkts : List Pkt) : Prop := ∃ t, exec (.recv d ch) s = .next t ∧ t = { s with cores := t.cores } ∧
          CoreBecomes s t cid k { x with pkts }
            ({ s.me with c := s.me.c.set ch (withBit c 68 ends) }.wrote d (p.words.getD p.read 0) s.me.flags)
        (ends = false → keeps (x.pkts.map fun q => if q.id == p.id then { p with read := p.read + 1 } else q)) ∧
        (ends = true → (∀ q ∈ rest, q.overAt = none) → keeps (x.pkts.filter fun q => q.id != p.id)) ∧
        ∀ q i, ends = true → cid < 12288 → (∀ z ∈ rest, z.id ≠ p.id) → (rest.find? fun z => z.overAt.isSome) = some q → q.overAt = some i →
          i < 64 → q.count ≤ 8 → x.ovf.getLsbD 63 = true → WholeArea s (s.entryCell cid i) 64 →
          keeps ((x.pkts.filter fun z => z.id != p.id).map fun z => if z.id == q.id then
            { q with overAt := none, words := (List.range q.count).map fun j => BitVec.ofNat 64 (s.readN (s.entryCell cid i + 8 * j) 8) }
            else z)) ∧
    (dir = 1 → waiting ≤ 16 → goes (.chst d ch) (s.me.wrote d (BitVec.ofNat 64
      (n <<< 41 + (if inside then 1 <<< 40 else 0) + waiting <<< 32 + 1 <<< 20)) s.me.flags)) ∧
    (dir ≠ 1 → dir ≠ 2 → goes (.chst d ch) (s.me.wrote d 0 s.me.flags)) ∧
    (∀ src j ch0 dst dslot dch job uid pkt data ended, Carries s (.word src j ch0 dst dslot dch job uid pkt data true ended) →
      dslot < 16 → j < 16 →
      (∀ y z w, (s.slot src j).st ≠ .parked (.send y z w)) →
      let y := s.core dst
      let others := y.pkts.filter fun p => p.slot == dslot && p.ch == dch
      let p : Pkt := { id := pkt, slot := dslot, ch := dch, job, src, words := [data], count := 1, read := 0, ended, overAt := none }
      let hard := (others.filter fun q => q.overAt.isNone && !q.err).length
      let admitted : Prop := s.isDead dst = false ∧ (∀ q ∈ y.pkts, q.id ≠ pkt) ∧
        ((s.slot dst dslot).st ≠ .free → (s.slot dst dslot).tag = job)
      (admitted → hard < 2 →
        ((∀ r w, (s.slot dst dslot).st ≠ .parked (.recv r w)) → ∃ t, exec .packetWordArrival s = .next t ∧
          t = { s with cores := t.cores, msgs := s.untaken } ∧ OthersSame s t dst ∧
          t.core dst = { y with pkts := y.pkts ++ [p] }) ∧
        ∀ r, others = [] → dch < 8 → (s.slot dst dslot).st = .parked (.recv r dch) → ∃ t, exec .packetWordArrival s = .next t ∧
          t = { s with cores := t.cores, msgs := s.untaken } ∧
          let z := s.slot dst dslot
          let reg : C := Fin.ofNat 8 dch
          CoreBecomes s t dst dslot { y with pkts := if ended then y.pkts else y.pkts ++ [{ p with read := 1 }] }
            { z.wg r data with c := z.c.set reg (withBit z.c[reg] 68 ended), pc := z.npc, st := .ready }) ∧
      (admitted → 2 ≤ hard → y.ovf.getLsbD 63 = false ∨ (∀ i < 64, ∃ q ∈ y.pkts, q.overAt = some i) → exec .packetWordArrival s = .next s) ∧
      (∀ i, admitted → 2 ≤ hard → y.ovf.getLsbD 63 = true → i < 64 → (∀ n < i, ∃ q ∈ y.pkts, q.overAt = some n) →
        (∀ q ∈ y.pkts, q.overAt ≠ some i) → dst < 12288 → dch < 8 → WholeArea s (s.entryCell dst i) 128 →
        (∀ r w, (s.slot dst dslot).st ≠ .parked (.recv r w)) → ∃ t, exec .packetWordArrival s = .next t ∧
          t = { s with cores := t.cores, mem := t.mem, lines := t.lines, msgs := s.untaken } ∧ OthersSame s t dst ∧
          t.core dst = { y with pkts := y.pkts ++ [{ p with words := [], overAt := some i }] } ∧
          (∀ n < 16, t.readN (s.entryCell dst i + 8 * n) 8 = if n = 0 then data.toNat
            else if n = 8 then dslot + 2 ^ 4 * dch + 2 ^ 7 + (if ended then 2 ^ 11 else 0) else 0) ∧
          ∀ b, if s.entryCell dst i ≤ b ∧ b < s.entryCell dst i + 128 then t.line b = { s.line b with typed := false }
            else t.byte b = s.byte b ∧ t.line b = s.line b) ∧
      ∀ cause detail, s.isDead dst = true ∧ cause = 0x0B ∧ detail = 0x62 ∨ s.isDead dst = false ∧ (∀ q ∈ y.pkts, q.id ≠ pkt) ∧
          (s.slot dst dslot).st ≠ .free ∧ (s.slot dst dslot).tag ≠ job ∧ cause = 0x0F ∧ detail = 0x93 →
        let refusedPkts := if ended then s.refusedPkts else pkt :: s.refusedPkts
        pkt ∉ s.refusedPkts →
        ((s.slot src j).alive → (s.slot src j).occ.map (·.uid) = some uid → (s.slot src j).reports = [] →
          ∃ t, exec .packetWordArrival s = .next t ∧
          t = { s with cores := t.cores, msgs := s.untaken, nextAcc := s.nextAcc + 1, refusedPkts } ∧ CoresBut s t src j ∧
          t.slot src j = { s.slot src j with reports := [⟨s.nextAcc, cause, detail, BitVec.ofNat 64 (baseOf dst)⟩] }) ∧
        ((s.slot src j).occ.map (·.uid) ≠ some uid → exec .packetWordArrival s = .next { s with
          msgs := s.untaken, refusedPkts
          reports := s.reports ++ [⟨Config.coreDie src, src, j, cause, detail, BitVec.ofNat 64 (baseOf dst), none⟩] })) ∧
    (∀ src j ch0 dst dslot dch job uid pkt data ended p, Carries s (.word src j ch0 dst dslot dch job uid pkt data false ended) →
      j < 16 → dslot < 16 → s.isDead dst = false → (∀ y z w, (s.slot src j).st ≠ .parked (.send y z w)) →
      (∀ r w, (s.slot dst dslot).st ≠ .parked (.recv r w)) →
      let y := s.core dst
      ((∀ q ∈ y.pkts, q.id ≠ pkt) → pkt ∈ s.refusedPkts → exec .packetWordArrival s = .next { s with
        msgs := s.untaken, refusedPkts := if ended then s.refusedPkts.filter (· != pkt) else s.refusedPkts }) ∧
      ((y.pkts.find? fun q => q.id == pkt) = some p →
        let joins (p' : Pkt) : List Pkt := y.pkts.map fun q => if q.id == pkt then p' else q
        let grown : Pkt := { p with count := p.count + 1, ended }
        (p.overAt = none → ∃ t, exec .packetWordArrival s = .next t ∧ t = { s with cores := t.cores, msgs := s.untaken } ∧
          OthersSame s t dst ∧ t.core dst = { y with pkts := joins { grown with words := p.words ++ [data] } }) ∧
        ∀ i, p.overAt = some i → y.ovf.getLsbD 63 = true → i < 64 → p.count < 8 → p.slot < 16 → p.ch < 8 → dst < 12288 →
          WholeArea s (s.entryCell dst i) 128 → ∃ t u, exec .packetWordArrival s = .next t ∧
            t = { s with cores := t.cores, mem := t.mem, lines := t.lines, msgs := s.untaken } ∧ OthersSame s t dst ∧
            t.core dst = { y with pkts := joins { grown with words := [] } } ∧
            Stored s u (s.entryCell dst i + 8 * p.count) 8 data.toNat ∧ Stored u t (s.entryCell dst i + 64) 8
              (p.slot + 2 ^ 4 * p.ch + 2 ^ 7 * (p.count + 1) + if ended then 2 ^ 11 else 0))) ∧
    ∀ c j y z w, s.ev.core = c → s.ev.slot = j → j < 16 → (s.slot c j).st = .parked (.send y z w) →
      ((s.slot c j).stallTimeout = 0 → exec .channelStallTimeout s = .next s) ∧
      ((s.slot c j).stallTimeout ≠ 0 → 16 * (s.slot c j).stallTimeout.toNat ≤ s.clk - (s.slot c j).parkClk → (s.slot c j).takesTraps →
        ∃ t, exec .channelStallTimeout s = .next t ∧ OnlySlot s t c j ∧
          t.slot c j = (s.slot c j).trapped 0x0D 0x01 0 (s.slot c j).pc false)

/-- The role table of a core binds a channel of its present role as in (R293, R294). -/
abbrev Sys2Proof.Machine.Core.bindsIn (x : Core) (ch : Nat) : Prop :=
  (SMap.get 0 x.roleTab (8 * x.role + ch)).extractLsb' 62 2 = 2

/-- R300 to R302, R312, R315: RECAST to the own tile sets its pending role; to another tile it is a posted write, and the message sets the
target's, or is refused outside the job's allocation. A dry core adopts its pending role and releases the threads that wait in RECV on an
old in channel; a core that is not dry does not. WIN reads and writes a window register, and refuses a reserved bit. -/
def Obligations.RolesAndWindows : Prop :=
  ∀ (a b d : G) (sg : S) (idx : Fin 4) (dst : Nat) (s : State), Runs s → dst < 12288 → s.isDead dst = false →
    let cid := s.cur.core
    let k := s.cur.slot
    let x := s.core cid
    let role := (s.me.rg b).toNat
    let v := s.me.rg a
    let base := baseOf dst
    let clean := (s.line base).sound = true
    (v = BitVec.ofNat 64 base → role < 4 → s.me.s[sg].getLsbD 116 = true →
      (dst = cid → s.inAllocation s.me.tag cid = true → clean → ∃ t, exec (.recast a b sg) s = .next t ∧ t = { s with cores := t.cores } ∧
        CoreBecomes s t cid k { x with pend := some role } { s.me with pc := s.me.npc, st := .ready, banks := t.me.banks }) ∧
      (dst ≠ cid → s.me.posted < 16 → ∃ t acc, exec (.recast a b sg) s = .next t ∧ CoresBut s t cid k ∧
        t.me = { s.me with touched := s.me.touched ||| (1#64 <<< dieOfHome dst), posted := s.me.posted + 1, pc := s.me.npc, st := .ready
                           banks := t.me.banks } ∧
        SMap.get none t.accesses s.nextAcc = some acc ∧ acc.op = .recast role ∧ acc.parts = [(dst, [⟨0, v, base, 8⟩])] ∧
        acc.posted = true ∧ Sent s t s.msgs [.access s.nextAcc dst] ∧
        t = { s with cores := t.cores, accesses := t.accesses, nextAcc := s.nextAcc + 1, msgs := t.msgs, nextMsg := t.nextMsg
                     draws := t.draws })) ∧
    (v = BitVec.ofNat 64 base → 4 ≤ role → s.me.s[sg].getLsbD 116 = true → s.me.takesTraps →
      ∃ t, exec (.recast a b sg) s = .next t ∧ OnlyMe s t ∧ t.me = s.me.trapped 0x0F 0x91 0 s.me.pc false) ∧
    (∀ id acc r y, Carries s (.access id dst) → SMap.get none s.accesses id = some acc → acc.parts = [(dst, [⟨0, y, base, 8⟩])] →
      acc.op = .recast r → acc.core ≠ dst → clean →
      let answered (t : State) (fs : List Refusal1) : Prop :=
        SMap.get none t.accesses id = some { acc with refusals := acc.refusals ++ fs } ∧ Sent s t s.untaken [.reply id dst] ∧
        (∀ j, j ≠ id → SMap.get none t.accesses j = SMap.get none s.accesses j) ∧
        t = { s with cores := t.cores, accesses := t.accesses, msgs := t.msgs, nextMsg := t.nextMsg, draws := t.draws }
      ∃ t, exec .recastMessage s = .next t ∧ OthersSame s t dst ∧
        if s.inAllocation acc.job dst then answered t [] ∧ t.core dst = { s.core dst with pend := some r }
        else answered t [⟨0, 0x0F, 0x94, y⟩] ∧ t.core dst = s.core dst) ∧
    (∀ c r, s.ev.core = c → (s.core c).pend = some r →
      let y := s.core c
      ((∀ ch < 8, y.bindsIn ch → ∀ p ∈ y.pkts, p.err = false → p.ch ≠ ch) → ∃ t, exec .recastAdopt s = .next t ∧
        t = { s with cores := t.cores } ∧ OthersSame s t c ∧ t.core c = { y with slots := (t.core c).slots, role := r, pend := none } ∧
        ∀ j < 16, (∀ g ch, ch < 8 → (s.slot c j).st = .parked (.recv g ch) → y.bindsIn ch →
            let z := s.slot c j
            let reg : C := Fin.ofNat 8 ch
            t.slot c j = { z.wg g 0 with c := z.c.set reg (withBit z.c[reg] 69 true), pc := z.npc, st := .ready }) ∧
          ((∀ g ch, (s.slot c j).st ≠ .parked (.recv g ch)) → t.slot c j = s.slot c j)) ∧
      ∀ ch < 8, ∀ p ∈ y.pkts, y.bindsIn ch → p.err = false → p.ch = ch → exec .recastAdopt s = .next s) ∧
    (∃ t, exec (.winRead d idx) s = .next t ∧ OnlyMe s t ∧ t.me = s.me.wrote d x.win[idx] s.me.flags) ∧
    let legal : Prop := v.extractLsb' 40 24 = 0 ∧ v.extractLsb' 25 12 = 0 ∧ (v.extractLsb' 12 13).toNat ≤ 4096
    (legal → ∃ t, exec (.winWrite idx a) s = .next t ∧ t = { s with cores := t.cores } ∧
      CoreBecomes s t cid k { x with win := x.win.set idx v } { s.me with pc := s.me.npc, st := .ready }) ∧
    (¬legal → s.me.takesTraps → ∃ t, exec (.winWrite idx a) s = .next t ∧ OnlyMe s t ∧ t.me = s.me.trapped 0x0F 0x92 0 s.me.pc false)

/-- Core x is a member of a tree and names core y, as its parent or as a child (R304). -/
def Sys2Proof.Machine.State.linkedTo (s : State) (tr : Fin 4) (x y : Nat) : Bool :=
  let z := (s.core x).trees[tr]
  z.cfg.getLsbD 0 && (!z.cfg.getLsbD 1 && cellTile (z.parent.extractLsb' 0 32).toNat == y ||
    (List.range (min (z.cfg.extractLsb' 4 4).toNat 8)).any fun j => cellTile ((SMap.get 0 z.kids j).extractLsb' 0 32).toNat == y)

/-- Core x is a member of a tree without children, other than core y, which is its parent. -/
def Sys2Proof.Machine.State.leafOf (s : State) (tr : Fin 4) (x y : Nat) : Prop :=
  let z := (s.core x).trees[tr]
  x ≠ y ∧ z.cfg.getLsbD 0 = true ∧ z.cfg.getLsbD 1 = false ∧ (z.cfg.extractLsb' 4 4).toNat = 0 ∧
    cellTile (z.parent.extractLsb' 0 32).toNat = y

/-- A thread has reserved nothing at the issue of its present instruction: no place in a tree's order, no launch entry, no phrase
entries. -/
def Sys2Proof.Machine.State.reservesNothing (s : State) (c k : Nat) : Prop :=
  (∀ tr : Fin 4, ∀ o ∈ (s.core c).trees[tr].wait, o.slot = k → o.val ≠ none) ∧
  (∀ x ∈ (s.job (s.slot c k).tag).launches, ∀ l, x.2 = some l → l.core = c → l.opening ≠ some k) ∧
  ∀ scope dies f d a, (s.slot c k).st ≠ .parked (.fence scope dies f (.rerun (.dqsteal d a)))

/-- R304 to R307, R313, R314: the tree operations. At a root without children, which no other member names, the contribution is the result:
NBMAX writes it to its register, NBAR lets the thread go on, NRED of one element stores it. At a member without children the contribution goes to the parent
and the thread waits. Where the thread has touched dies, it first takes its place in the tree's order and fences. The root takes a child's part and sends the greater value down; a member whose parent sends the result goes on with
it. Contributions that differ fail the operation with engine fault 0x96, and a timeout of a thread that waits in it with the channel stall
0x02: the thread that waits traps, the failure goes on to the member's parent and children, and a thread that issues the failed operation
later traps with it too. A scale beyond −127 to 127 is a data fault; a core outside the tree is engine fault 0x95. -/
def Obligations.TreeOperations : Prop :=
  ∀ (a b c d : G) (sg : S) (tr : Fin 4) (s : State), Runs s → s.cur.core < 12288 → s.me.s[sg].getLsbD 116 = true →
    let cid := s.cur.core
    let x := s.core cid
    let y := x.trees[tr]
    let v := s.me.rg a
    let member := y.cfg.getLsbD 0
    let isRoot := y.cfg.getLsbD 1
    let alone := (y.cfg.extractLsb' 4 4).toNat = 0
    let ended (z : Tree) : Tree :=
      { z with no := z.no + 1, wait := z.wait.drop 1, got := z.got.filter fun g => z.no < g.1, fails := z.fails.filter fun f => z.no < f.1 }
    let fine (z : Tree) : Prop := ∀ f ∈ z.fails, f.1 ≠ z.no
    let scale : Prop := -127 ≤ v.toInt ∧ v.toInt ≤ 127
    let traps (i : Instr) (cause detail : Nat) : Prop := s.me.takesTraps → s.reservesNothing s.cur.core s.cur.slot →
      ∃ t, exec i s = .next t ∧ OnlyMe s t ∧ t.me = s.me.trapped cause detail 0 s.me.pc false
    (¬scale → traps (.nbmax d a sg tr) 0x0A 0x03) ∧
    (member = false → traps (.nbar sg tr) 0x0F 0x95 ∧ (scale → traps (.nbmax d a sg tr) 0x0F 0x95)) ∧
    let reads (src dst : Word) (from_ into : Nat) : Prop := s.me.rg c = 1 ∧
      segAddr s.me.s[sg] v.toInt 4 4 (fun _ => rRead) false = .ok src ∧ segAddr s.me.s[sg] (s.me.rg b).toInt 4 4 destRights false = .ok dst ∧
      EngineReaches s cid s.cur.slot s.me.tag .read src from_ ∧ EngineReaches s cid s.cur.slot s.me.tag .write dst into
    let first : Prop := y.wait = [] ∨ y.wait = [⟨s.cur.slot, none, .none, false, false⟩]
    (s.me.touched ≠ 0 → member = true → (∀ o ∈ y.wait, o.slot ≠ s.cur.slot) → ∀ i : Instr, i = .nbar sg tr ∨ i = .nbmax d a sg tr ∧ scale ∨
        (i = .nred .i32 0 tr sg a b c ∧ ∃ src dst from_ into, reads src dst from_ into) →
      ∃ t dies, exec i s = .next t ∧ (∀ p, p ∈ dies ↔ p.2 = .t ∧ s.me.touched.getLsbD p.1 = true) ∧
        Sent s t s.msgs (dies.map fun p => .probe cid s.cur.slot p.1 p.2) ∧
        t = { s with cores := t.cores, msgs := t.msgs, nextMsg := t.nextMsg, draws := t.draws } ∧
        CoreBecomes s t cid s.cur.slot
          { x with trees := x.trees.set tr { y with wait := y.wait ++ [⟨s.cur.slot, none, .none, false, false⟩] } }
          { s.me with st := .parked (.fence .dev dies true (.rerun i)), parkClk := s.clk }) ∧
    (∀ cause detail, s.me.touched = 0 → member = true → first → (y.fails.find? fun f => f.1 == y.no) = some (y.no, cause, detail) →
      s.me.takesTraps → ∃ t, exec (.nbar sg tr) s = .next t ∧ t = { s with cores := t.cores } ∧
        CoreBecomes s t cid s.cur.slot { x with trees := x.trees.set tr (ended y) }
          ({ s.me with parkClk := s.clk }.trapped cause detail 0 s.me.pc false)) ∧
    (s.me.touched = 0 → member = true → first → alone → fine y →
      (isRoot = true → (∀ w, s.linkedTo tr w cid = false) →
        let results (i : Instr) (me : Slot) : Prop := ∃ t, exec i s = .next t ∧ t = { s with cores := t.cores } ∧
          CoreBecomes s t cid s.cur.slot { x with trees := x.trees.set tr (ended y) } { me with parkClk := s.clk }
        results (.nbar sg tr) { s.me with pc := s.me.npc, st := .ready } ∧
        (scale → results (.nbmax d a sg tr) (s.me.wrote d v s.me.flags)) ∧
        ∀ src dst from_ into, reads src dst from_ into →
          ∃ t, exec (.nred .i32 0 tr sg a b c) s = .next t ∧ t = { s with cores := t.cores, mem := t.mem, lines := t.lines } ∧
            Stored s t into 4 (s.readN from_ 4) ∧ CoreBecomes s t cid s.cur.slot { x with trees := x.trees.set tr (ended y) }
              { s.me with pc := s.me.npc, st := .ready, parkClk := s.clk }) ∧
      (isRoot = false → s.isDead (cellTile (y.parent.extractLsb' 0 32).toNat) = false → ∃ t, exec (.nbar sg tr) s = .next t ∧
        Sent s t s.msgs [.treePart cid (cellTile (y.parent.extractLsb' 0 32).toNat) tr y.no ⟨2, .i64, 0, []⟩] ∧
        t = { s with cores := t.cores, msgs := t.msgs, nextMsg := t.nextMsg, draws := t.draws } ∧
        CoreBecomes s t cid s.cur.slot
          { x with trees := x.trees.set tr { y with wait := [⟨s.cur.slot, some ⟨2, .i64, 0, []⟩, .none, true, false⟩] } }
          { s.me with st := .parked (.tree tr), parkClk := s.clk })) ∧
    ∀ dst k r no (p q : Word), k < 16 → (s.slot dst k).st = .parked (.tree tr) →
      let z := (s.core dst).trees[tr]
      let value (w : Word) : TreeVal := ⟨1, .i64, 0, [w.toNat]⟩
      z.no = no → fine z →
      let goesOn (t : State) (w : Word) : Prop := CoreBecomes s t dst k { s.core dst with trees := (s.core dst).trees.set tr (ended z) }
        { (s.slot dst k).wg r w with pc := (s.slot dst k).npc, st := .ready }
      (∀ src, Carries s (.treePart src dst tr no (value q)) → z.wait = [⟨k, some (value p), .g r, false, false⟩] → z.cfg.getLsbD 1 = true →
        z.cfg.getLsbD 0 = true → s.leafOf tr src dst → (∀ w, w ≠ src → w ≠ dst → s.linkedTo tr w src = false ∧ s.linkedTo tr w dst = false) →
        (z.cfg.extractLsb' 4 4).toNat = 1 → cellTile ((SMap.get 0 z.kids 0).extractLsb' 0 32).toNat = src → s.isDead src = false →
        z.got = [] → ∃ t, exec .treePartial s = .next t ∧
          let w := if p.slt q then q else p
          Sent s t s.untaken [.treeDown src tr no (value w)] ∧ goesOn t w ∧
          t = { s with cores := t.cores, msgs := t.msgs, nextMsg := t.nextMsg, draws := t.draws }) ∧
      (Carries s (.treeDown dst tr no (value q)) → z.wait = [⟨k, some (value p), .g r, true, false⟩] → (z.cfg.extractLsb' 4 4).toNat = 0 →
        ∃ t, exec .treeResult s = .next t ∧ goesOn t q ∧ t = { s with cores := t.cores, msgs := s.untaken }) ∧
      let failsWith (i : Instr) (kept : List Msg) (bodies : List MsgBody) (cause detail : Nat) : Prop := (s.slot dst k).takesTraps →
        ∃ t, exec i s = .next t ∧ Sent s t kept bodies ∧
          t = { s with cores := t.cores, msgs := t.msgs, nextMsg := t.nextMsg, draws := t.draws } ∧
          CoreBecomes s t dst k { s.core dst with trees := (s.core dst).trees.set tr (ended z) }
            ((s.slot dst k).trapped cause detail 0 (s.slot dst k).pc false)
      (∀ src w, Carries s (.treePart src dst tr no w) → z.wait = [⟨k, some (value p), .g r, false, false⟩] → z.cfg.getLsbD 1 = true →
        (z.cfg.extractLsb' 4 4).toNat = 1 → cellTile ((SMap.get 0 z.kids 0).extractLsb' 0 32).toNat = src → s.isDead src = false →
        z.got = [] → w.kind ≠ 1 ∨ w.ty ≠ .i64 ∨ w.op ≠ 0 ∨ w.vals.length ≠ 1 →
        failsWith .treePartial s.untaken [.treeFail src tr no 0x0F 0x96] 0x0F 0x96) ∧
      ∀ sent, z.wait = [⟨k, some (value p), .g r, sent, false⟩] → (z.cfg.extractLsb' 4 4).toNat = 0 →
        let tells (cause detail : Nat) : List MsgBody :=
          if z.cfg.getLsbD 1 then [] else [.treeFail (cellTile (z.parent.extractLsb' 0 32).toNat) tr no cause detail]
        (∀ cause detail, Carries s (.treeFail dst tr no cause detail) → failsWith .treeResult s.untaken (tells cause detail) cause detail) ∧
        (s.ev.core = dst → s.ev.slot = k →
          ((s.slot dst k).stallTimeout = 0 → exec .channelStallTimeout s = .next s) ∧
          ((s.slot dst k).stallTimeout ≠ 0 → 16 * (s.slot dst k).stallTimeout.toNat ≤ s.clk - (s.slot dst k).parkClk →
            failsWith .channelStallTimeout s.msgs (tells 0x0D 0x02) 0x0D 0x02))

/-! ## The clause scheduler -/

/-- Between `s` and `t` the jobs differ in owner tag j alone, which becomes `x`. -/
structure Sys2Proof.Machine.JobBecomes (s t : State) (j : Nat) (x : Job) : Prop where
  job : t.job j = x
  others : ∀ i, i ≠ j → t.job i = s.job i

/-- Table m' is table m but that it holds `x` at place n. -/
def Sys2Proof.Machine.Puts {α : Type} (m m' : SMap (Option α)) (n : Nat) (x : Option α) : Prop :=
  ∀ i, SMap.get none m' i = if i = n then x else SMap.get none m i

/-- A handle (R320): kind, serial and number. -/
def Sys2Proof.Machine.handleWord (kind serial number : Nat) : Word := BitVec.ofNat 64 (kind <<< 36 + serial <<< 20 + number)

/-- The job whose tables a thread's handle names: the thread's own; on a supervisor core, whose threads run for no job (R397) and may join
any job's record (R327), it is told here where one job alone is bound and its entry `live`. -/
def Sys2Proof.Machine.NamesJob (s : State) (live : Prop) (j : Nat) : Prop :=
  (s.cur.core < 12288 ∧ j = s.me.tag) ∨ (12288 ≤ s.cur.core ∧ live ∧ ∃ y, s.jobs = [(j, y)] ∧ y.ctx.isSome = true)

/-- Every byte of an area lies in a line without an error (R100). -/
def Sys2Proof.Machine.CleanArea (s : State) (a n : Nat) : Prop :=
  ∀ b, a ≤ b → b < a + n → (s.line b).sound = true ∧ (s.line b).poisoned = false

/-- Ready queue q' is q with e put behind every entry that it does not stand before (R325). -/
def Sys2Proof.Machine.Queued (q q' : List QEntry) (e : QEntry) : Prop :=
  ∃ pre post, q = pre ++ post ∧ q' = pre ++ e :: post ∧ (∀ f ∈ pre, e.before f = false) ∧ ∀ f, post.head? = some f → e.before f = true

/-- A tile takes a job's work: it is live and in the job's allocation (R327, R342). -/
def Sys2Proof.Machine.State.takesWork (s : State) (j sn : Nat) : Prop := sn < 12288 ∧ s.isDead sn = false ∧ s.inAllocation j sn = true

/-- The position of a key on the rings (R342). -/
def Sys2Proof.Machine.keyPlace (key : Nat) : Nat := (key * 0x85EBCA6B + 0xC2B2AE35) % 2 ^ 32

/-- Tile sn is the ring successor of a position in the ring of a tile kind (R342): of the tiles of that kind that take the job's work, the
first at or after the position, which is modulo 2^32. -/
def Sys2Proof.Machine.State.follows (s : State) (j kind place sn : Nat) : Prop :=
  let onRing (x : Nat) : Prop := s.takesWork j x ∧ kindOfTile x = kind
  let ahead (x : Nat) : Nat := (x * 0x9E3779B9 % 2 ^ 32 + 2 ^ 32 - place) % 2 ^ 32
  onRing sn ∧ ∀ x, onRing x → ahead sn ≤ ahead x

/-- Tile sn is where a record goes that core c enqueues (R327, Table 2): c itself, the tile that its control word names, or the ring
successor of its key. -/
def Sys2Proof.Machine.State.placedAt (s : State) (j c : Nat) (w : Word) (sn : Nat) : Prop :=
  w.extractLsb' 40 2 = 0 ∧ sn = c ∧ c < 12288 ∧ s.isDead c = false ∨
  w.extractLsb' 40 2 = 1 ∧ (w.extractLsb' 24 7).toNat < 96 ∧ s.takesWork j sn ∧
    sn = 192 * (w.extractLsb' 32 6).toNat + (if w.getLsbD 31 then 96 else 0) + (w.extractLsb' 24 7).toNat ∨
  w.extractLsb' 40 2 = 2 ∧ s.follows j (w.extractLsb' 38 2).toNat (keyPlace (w.extractLsb' 44 20).toNat) sn

/-- R161, R318 to R320, R325 to R327, R329, R333, R342, R349, R350: EXIT ends the clause, counts its end and frees the slot, or waits for its
posted writes. SPAWN with a join count allocates a free record and answers with its handle; with none it sends the enqueue of its record and
answers with handle 0; where the launch is cancelled it answers 0; its checks are made at its issue alone. JOIN
of handle 0 answers 3; another goes to the record's home, which takes one off the counter, or at 1 enqueues the record at the tile of its
placement mode, and
answers 2 for a record that is gone. CLEND is a JOIN and then EXIT. Where the thread has touched dies, each fences first. The job whose
record a supervisor core's handle names is the model's choice (log 78). -/
def Obligations.Clauses : Prop :=
  ∀ (d a b c : G) (o : Occ) (l : Launch) (s : State), Runs s → s.me.occ = some o → o.range = 0 →
    let cid := s.cur.core
    let k := s.cur.slot
    let job := s.job o.job
    let h := s.me.rg a
    let control := s.me.rg c
    let goes (i : Instr) (me : Slot) : Prop := ∃ t, exec i s = .next t ∧ OnlyMe s t ∧ t.me = me
    let spawns : Prop := s.me.stash ≠ [] ∨ (∃ x, s.placedAt s.me.tag cid control x) ∧ control.extractLsb' 42 2 = 0 ∧
      control.getLsbD 23 = false ∧ h.extractLsb' 0 2 = 0
    let names (serial n j : Nat) : Prop := serial < 2 ^ 16 ∧ n < 2 ^ 20 ∧ n < s.tableSize j ∧ h = handleWord 1 serial n ∧
      NamesJob s (∃ r, SMap.get none (s.job j).recs n = some r ∧ r.serial = serial) j
    let handled : Prop := h = 0 ∨ ∃ serial n j, names serial n j
    let spawned (serial : Nat) : CRec := {
      serial, control, die := Config.coreDie cid, join := (control.extractLsb' 0 16).toNat
      occ := { o with code := h, frame := s.me.rg b, segs := s.me.s.toList, cls := (control.extractLsb' 20 3).toNat
                      prio := (control.extractLsb' 16 4).toNat, index := none, uid := 0 } }
    (s.me.touched ≠ 0 → ∀ (i : Instr) (stash : List Nat), i = .exit ∧ s.me.reports = [] ∧ stash = s.me.stash ∨
        handled ∧ (i = .join d a ∨ i = .clend a) ∧ stash = s.me.stash ∨
        i = .spawn d a b c ∧ spawns ∧ stash = (if s.me.stash = [] then [1] else s.me.stash) →
      ∃ t dies, exec i s = .next t ∧ (∀ x, x ∈ dies ↔ x.2 = .t ∧ s.me.touched.getLsbD x.1 = true) ∧
        SlotSends s t cid k s.msgs (dies.map fun x => .probe cid k x.1 x.2) ∧
        t.me = { s.me with stash, st := .parked (.fence .dev dies true (.rerun i)), parkClk := s.clk }) ∧
    (s.me.touched = 0 → s.me.reports = [] →
      (s.me.posted ≠ 0 → goes .exit { s.me with st := .parked .exitDrain, parkClk := s.clk }) ∧
      (s.me.posted = 0 → (∀ j < 16, ∀ y, (s.slot cid j).st ≠ .parked (.ctxsv k y)) → ∃ t launches, exec .exit s = .next t ∧
        t = { s with cores := t.cores, jobs := t.jobs, msgs := t.msgs, nextMsg := t.nextMsg, draws := t.draws } ∧ CoresBut s t cid k ∧
        TellsBroker s t s.msgs cid ∧
        t.me = { s.me with st := .free, occ := none, explicit := 0, buf := [], want := none, pre := none, retry := false, stopReq := none
                           homeHold := false, touched := 0 } ∧
        JobBecomes s t o.job { job with launches } ∧
        Puts job.launches launches o.launch ((s.launch o.job o.launch).map fun l => { l with counter := l.counter - 1 }))) ∧
    (s.me.touched = 0 → spawns → s.launch o.job o.launch = some l →
      (s.launchCancelled o.job l = true → goes (.spawn d a b c) { s.me.wrote d 0 s.me.flags with stash := [] }) ∧
      (s.launchCancelled o.job l = false → SMap.wf none job.recs = true → s.freeRecords o.job ≠ 0 → SMap.get none l.ranges 0 = none →
        ∃ t n recs launches ranges, exec (.spawn d a b c) s = .next t ∧ CoresBut s t cid k ∧ n < s.tableSize o.job ∧
          SMap.get none job.recs n = none ∧
          let serial := SMap.get 0 job.recSerial n % 65535 + 1
          JobBecomes s t o.job { job with recs, launches, recSerial := SMap.set 0 job.recSerial n serial } ∧
          Puts job.recs recs n (some (spawned serial)) ∧
          Puts job.launches launches o.launch (some { l with counter := l.counter + 1, ranges }) ∧
          (∀ q, SMap.get none ranges q = SMap.get none l.ranges q) ∧
          if control.extractLsb' 0 16 = 0 then
            t = { s with cores := t.cores, jobs := t.jobs, msgs := t.msgs, nextMsg := t.nextMsg, draws := t.draws, nextReq := s.nextReq + 1 } ∧
            t.me = { s.me with stash := [], st := .parked (.reply s.nextReq 21 (some d) (.go s.me.npc)), parkClk := s.clk } ∧
            Sent s t s.msgs [.join cid k s.nextReq o.job n serial (some (o.launch, 0, o.gen)) true]
          else t = { s with cores := t.cores, jobs := t.jobs, draws := s.draws + 1 } ∧
            t.me = { s.me.wrote d (handleWord 1 serial n) s.me.flags with stash := [] })) ∧
    (s.me.touched = 0 → h = 0 → goes (.join d a) (s.me.wrote d 3 s.me.flags) ∧ ∃ t, exec (.clend a) s = .next t ∧
      t = { s with cores := t.cores, agenda := .resume cid k .exit :: s.agenda } ∧ CoresBut s t cid k ∧ t.me = { s.me with st := .ready }) ∧
    (∀ serial n j, s.me.touched = 0 → names serial n j →
      let asks (i : Instr) (r : Option G) (then_ : Ctl) : Prop := ∃ t, exec i s = .next t ∧
        t = { s with cores := t.cores, msgs := t.msgs, nextMsg := t.nextMsg, draws := t.draws, nextReq := s.nextReq + 1 } ∧
        CoresBut s t cid k ∧ t.me = { s.me with st := .parked (.reply s.nextReq 21 r then_), parkClk := s.clk } ∧
        Sent s t s.msgs [.join cid k s.nextReq j n serial (some (o.launch, 0, o.gen)) false]
      asks (.join d a) (some d) (.go s.me.npc) ∧ asks (.clend a) none .exit) ∧
    ∀ c j id num serial ln gn spawn, Carries s (.join c j id o.job num serial (some (ln, 0, gn)) spawn) →
      let answers (t : State) (x : Word) : Prop := Sent s t s.untaken [.done c j id x] ∧
        t = { s with cores := t.cores, jobs := t.jobs, msgs := t.msgs, nextMsg := t.nextMsg, draws := t.draws }
      ((∀ r, SMap.get none job.recs num = some r → r.serial ≠ serial) → ∃ t, exec .joinAtHome s = .next t ∧
        answers t (if spawn then 0 else 2) ∧ t.cores = s.cores ∧ t.jobs = s.jobs) ∧
      ∀ r, SMap.get none job.recs num = some r → r.serial = serial → r.queued = false → r.occ.range = 0 →
        (spawn = false → 2 ≤ r.join → ∃ t recs, exec .joinAtHome s = .next t ∧ answers t 0 ∧ t.cores = s.cores ∧ JobBecomes s t o.job { job with recs } ∧
          Puts job.recs recs num (some { r with join := r.join - 1 })) ∧
        (r.join = (if spawn then 0 else 1) → (∃ x, s.placedAt o.job c r.control x) → s.cancels = [] →
          ∃ t recs ready sn, s.placedAt o.job c r.control sn ∧ exec .joinAtHome s = .next t ∧ answers t (if spawn then 0 else 1) ∧
            JobBecomes s t o.job { job with recs } ∧ Puts job.recs recs num (some { r with join := 0, queued := true }) ∧ OthersSame s t sn ∧
            t.core sn = { s.core sn with ready } ∧
            Queued (s.core sn).ready ready ⟨o.job, .record num r.serial, r.occ.prio, s.clk, c, r.occ.phase⟩)

/-- R321 to R324, R328, R331, R338, R339, R341, R342, R345, R351, R134: LAUNCH reads its descriptor, checks it, then allocates an entry of
the launch table, and
after its FENCE part the launch is made, in the open phase or a new one, and answers with its handle. A launch in mode 0 that may begin puts
its indices on its core, one in mode 1 each on the tile that it names, and one in mode 2 each in a record at the ring successor of its key; a
clause that starts has frame, segments, code and channels as the launch and the role give them and every other register zero. In mode
3 a distributor asks the master, which hands it the next chunk, and the distributor queues it; a die acknowledges a sweep. -/
def Obligations.Launches : Prop :=
  ∀ (d a : G) (sg : S) (m : Mem) (s : State), Runs s →
    let cid := s.cur.core
    let k := s.cur.slot
    let tag := s.me.tag
    (∀ cell, s.me.stash = [] → Reaches s s.me.s[sg] (memOffset (s.me.rg a) 0 m.disp) 64 .load false cell → InOwnSlice s .read cell →
      ∃ t, exec (.launch sg d a m) s = .next t ∧
        t = { s with cores := t.cores, agenda := .resume cid k (.launch sg d a m) :: s.agenda } ∧ CoresBut s t cid k ∧
        t.me = { s.me with stash := [s.readN cell 64], st := .ready, banks := t.me.banks }) ∧
    let tileAt (x i : Nat) : Nat := dField x 448 7 + i * dField x 464 8
    let named (x i : Nat) : Nat := 192 * dField x 456 6 + 96 * dField x 455 1 + tileAt x i
    let stepped (x : Nat) : Prop := dReserved x = false ∧ dCount x ≠ 0 ∧ (dMode x = 3 → dDies x ≠ []) ∧ (dMode x = 1 → dField x 464 8 ≠ 0)
    let placed (x : Nat) : Prop := (dMode x = 0 → cid < 12288) ∧
      (dMode x = 1 → ∀ i < dCount x, tileAt x i < 96 ∧ s.takesWork tag (named x i)) ∧
      (dMode x = 2 → ∃ sn, s.takesWork tag sn ∧ kindOfTile sn = dField x 394 2)
    let room (x : Nat) : Prop := dMode x = 2 → dCount x ≤ s.freeRecords tag
    (∀ x, s.me.stash = [x] → stepped x → x % 4 = 0 → placed x → room x →
      let job := s.job tag
      SMap.wf none job.launches = true → (s.launchTable tag).length < 4096 → ∃ t n launches, exec (.launch sg d a m) s = .next t ∧
        CoresBut s t cid k ∧ n < 4096 ∧ SMap.get none job.launches n = none ∧
        let serial := SMap.get 0 job.launchSerial n % 65535 + 1
        let handle := handleWord 2 serial n
        let entry : Launch := { serial, desc := x, segs := s.me.s.toList, phase := 0, die := Config.coreDie cid, core := cid
                                counter := dCount x }
        let phase := if dField x 414 1 = 1 then job.openPhase + 1 else job.openPhase
        let made (openPhase : Nat) (l : Launch) : Prop := Puts job.launches launches n (some l) ∧
          JobBecomes s t tag { job with openPhase, launches, launchSerial := SMap.set 0 job.launchSerial n serial }
        (s.me.touched = 0 → t = { s with cores := t.cores, jobs := t.jobs, draws := s.draws + 1 } ∧
          t.me = { s.me.wrote d handle s.me.flags with stash := [] } ∧ made phase { entry with phase }) ∧
        (s.me.touched ≠ 0 → made job.openPhase { entry with opening := some k } ∧
          t = { s with cores := t.cores, jobs := t.jobs, msgs := t.msgs, nextMsg := t.nextMsg, draws := t.draws } ∧
          ∃ dies, (∀ i, i ∈ dies ↔ i.2 = .t ∧ s.me.touched.getLsbD i.1 = true) ∧
            Sent s t s.msgs (dies.map fun i => .probe cid k i.1 i.2) ∧
            t.me = { s.me with stash := [x, handle.toNat], st := .parked (.fence .dev dies true (.rerun (.launch sg d a m))), parkClk := s.clk })) ∧
    (∀ x h n l, s.me.stash = [x, h] → s.me.touched = 0 → h < 2 ^ 64 → h % 2 ^ 20 = n → s.launch tag n = some l → l.opening = some k →
      let job := s.job tag
      let phase := if dField l.desc 414 1 = 1 then job.openPhase + 1 else job.openPhase
      ∃ t launches, exec (.launch sg d a m) s = .next t ∧ t = { s with cores := t.cores, jobs := t.jobs } ∧ CoresBut s t cid k ∧
        t.me = { s.me.wrote d (BitVec.ofNat 64 h) s.me.flags with stash := [] } ∧
        Puts job.launches launches n (some { l with phase, opening := none }) ∧
        JobBecomes s t tag { job with openPhase := phase, launches }) ∧
    (∀ x detail, s.me.stash = [x] → s.me.takesTraps →
      (¬stepped x ∧ detail = 0xA1 ∨ stepped x ∧ x % 4 ≠ 0 ∧ detail = 0xA6 ∨ stepped x ∧ x % 4 = 0 ∧ ¬placed x ∧ detail = 0xA2 ∨
        stepped x ∧ x % 4 = 0 ∧ placed x ∧ ¬room x ∧ detail = 0xA3 ∨
        stepped x ∧ x % 4 = 0 ∧ placed x ∧ room x ∧ 4096 ≤ (s.launchTable tag).length ∧ detail = 0xA4) →
      ∃ t, exec (.launch sg d a m) s = .next t ∧ OnlyMe s t ∧ t.me = s.me.trapped 0x0F detail 0 s.me.pc false) ∧
    (∀ j n l, s.ev.size = j → s.ev.id = n → s.launch j n = some l → l.eligible = false → l.cancelled = false → dPreds l.desc = [] →
      dField l.desc 413 1 = 1 → s.cancels = [] →
      let launched (launches : SMap (Option Launch)) : Prop :=
        Puts (s.job j).launches launches n (some { l with eligible := true, next := dCount l.desc })
      let queues (t : State) (sn : Nat) (item : QItem) : Prop := ∃ ready, t.core sn = { s.core sn with ready } ∧
        Queued (s.core sn).ready ready ⟨j, item, dField l.desc 400 4, s.clk, l.core, l.phase⟩
      (dMode l.desc = 0 → s.isDead l.core = false → ∃ t launches, exec .launchEligible s = .next t ∧
        t = { s with cores := t.cores, jobs := t.jobs } ∧ JobBecomes s t j { s.job j with launches } ∧ launched launches ∧
        OthersSame s t l.core ∧ queues t l.core (.range n 0 (dCount l.desc - 1) 0 0)) ∧
      (dMode l.desc = 1 → dField l.desc 464 8 ≠ 0 → (∀ i < dCount l.desc, tileAt l.desc i < 96 ∧ s.takesWork j (named l.desc i)) →
        ∃ t launches, exec .launchEligible s = .next t ∧ t = { s with cores := t.cores, jobs := t.jobs } ∧
        JobBecomes s t j { s.job j with launches } ∧ launched launches ∧
        (∀ i < dCount l.desc, queues t (named l.desc i) (.range n i i 0 0)) ∧
        ∀ c, (∀ i < dCount l.desc, c ≠ named l.desc i) → t.core c = s.core c) ∧
      (dMode l.desc = 2 → dCount l.desc = 1 → (∃ sn, s.takesWork j sn ∧ kindOfTile sn = dField l.desc 394 2) →
        SMap.wf none (s.job j).recs = true → (s.job j).recs.length < s.tableSize j →
        ∃ t launches recs m sn, exec .launchEligible s = .next t ∧ t = { s with cores := t.cores, jobs := t.jobs, draws := s.draws + 1 } ∧
          s.follows j (dField l.desc 394 2) (keyPlace (dField l.desc 480 32)) sn ∧ m < s.tableSize j ∧ SMap.get none (s.job j).recs m = none ∧
          let serial := SMap.get 0 (s.job j).recSerial m % 65535 + 1
          JobBecomes s t j { s.job j with launches, recs, recSerial := SMap.set 0 (s.job j).recSerial m serial } ∧ launched launches ∧
          Puts (s.job j).recs recs m (some {
            serial, control := 0, die := l.die, join := 0, queued := true
            occ := { job := j, code := BitVec.ofNat 64 l.desc, frame := BitVec.ofNat 64 (dField l.desc 64 64), segs := l.segs
                     cls := dField l.desc 404 3, prio := dField l.desc 400 4, launch := n, index := some 0, phase := l.phase } }) ∧
          OthersSame s t sn ∧ queues t sn (.record m serial))) ∧
    (∀ c p j n i last l prio clk src phase, s.ev.core = c → p < 16 → s.closed = false → s.isDead c = false →
      (s.slot c p).st = .free → (∀ q < p, (s.slot c q).st ≠ .free) → (s.core c).pkts = [] → s.launch j n = some l →
      (s.core c).ready = [⟨j, .range n i last 0 0, prio, clk, src, phase⟩] →
      (∀ x, (s.job j).ctx = some x → CleanArea s (linCell x.addr) 64) →
      ∃ t ctx, exec .clauseStart s = .next t ∧ TellsBroker s t s.msgs c ∧
        t = { s with cores := t.cores, jobs := t.jobs, nextReq := s.nextReq + 1, msgs := t.msgs, nextMsg := t.nextMsg, draws := t.draws } ∧
        JobBecomes s t j { s.job j with ctx } ∧ CoreBecomes s t c p
          { s.core c with ready := if i < last then [⟨j, .range n (i + 1) last 0 0, prio, clk, src, phase⟩] else [] }
          { g := (Vector.replicate 32 0).set 31 (BitVec.ofNat 64 (dField l.desc 64 64 + i * dField l.desc 128 32))
            s := Vector.ofFn fun q : Fin 8 => l.segs.getD q.val 0
            c := (s.core c).bindChannels p
            pc := BitVec.ofNat 64 l.desc
            hbase := ((s.job j).ctx.map fun x => BitVec.ofNat 64 (s.readN (linCell x.addr) 8) &&& ~~~31).getD 0
            st := .ready, last := s.clk - 8
            occ := some { job := j, code := BitVec.ofNat 64 l.desc
                          frame := BitVec.ofNat 64 (dField l.desc 64 64 + i * dField l.desc 128 32), segs := l.segs
                          cls := dField l.desc 404 3, prio := dField l.desc 400 4, launch := n, index := some i, phase := l.phase
                          uid := s.nextReq } }) ∧
    ∀ j n l die tile, s.launch j n = some l → dMode l.desc = 3 →
      let oneJob (t : State) (l' : Launch) : Prop := ∃ launches, JobBecomes s t j { s.job j with launches } ∧
        Puts (s.job j).launches launches n (some l')
      let onlyNet (t : State) : Prop := t = { s with jobs := t.jobs, msgs := t.msgs, nextMsg := t.nextMsg, draws := t.draws }
      (s.ev.core = die → s.ev.size = j → s.ev.id = n → l.eligible = true → l.cancelled = false → l.more = true → die ∉ l.asking →
        die ∈ s.maskDies l → s.askTile j n l die = some tile → ∃ t, exec .distributorRequest s = .next t ∧
          oneJob t { l with asking := l.asking ++ [die] } ∧ Sent s t s.msgs [.distRequest j n l.serial die tile] ∧ onlyNet t) ∧
      (Carries s (.distRequest j n l.serial die tile) → l.cancelled = false → (s.die die).fenced = false → l.back = [] →
        l.next < dCount l.desc → ∃ t ranges, exec .rangeHandout s = .next t ∧
          let last := min (dCount l.desc - 1) (l.next + dChunk l.desc - 1)
          oneJob t { l with next := last + 1, nextRange := l.nextRange + 1, ranges } ∧
          Puts l.ranges ranges l.nextRange (some { die, first := l.next, last, gen := l.gen }) ∧
          Sent s t s.untaken [.distRange j n l.serial die tile l.nextRange] ∧ onlyNet t) ∧
      (∀ no r, Carries s (.distRange j n l.serial die tile no) → SMap.get none l.ranges no = some r → s.askTile j n l die = some tile →
        s.isDead tile = false → s.cancels = [] → ∃ t ready, exec .rangeHandout s = .next t ∧
          oneJob t { l with asking := l.asking.filter (· != die) } ∧ OthersSame s t tile ∧ t.core tile = { s.core tile with ready } ∧
          Queued (s.core tile).ready ready
            ⟨j, .range n r.first r.last no r.gen, dField l.desc 400 4, s.clk, 12288 + die, l.phase⟩ ∧
          t = { s with cores := t.cores, jobs := t.jobs, msgs := s.untaken }) ∧
      ∀ gen, Carries s (.sweep j n l.serial gen die) → s.cores = [] → (s.job j).recs = [] → l.held = [] →
        (∀ y ∈ s.msgs, ∀ u q id i num sr own sp, y.body ≠ .join u q id i num sr own sp) → ∃ t,
        exec .generationSweep s = .next t ∧ t = { s with jobs := t.jobs, msgs := s.untaken } ∧
        oneJob t { l with dirty := (l.dirty.map fun x => if x.1 = gen then (x.1, x.2.filter (· != die)) else x).filter fun x => !x.2.isEmpty }

/-- A unit value that a level admits (R320, R354). -/
def Sys2Proof.Machine.LegalUnit (level : Level) (x : Word) : Prop :=
  match level with
  | .launch => ∃ serial n, serial < 2 ^ 16 ∧ n < 4096 ∧ x = handleWord 2 serial n
  | .graph => x.toNat < 2 ^ 8
  | .phase => x.toNat < 2 ^ 16
  | .job => x = 0

/-- R333 to R337, R352 to R358: WAITC parks on a unit that does not hold its own clause, and with test answers with the unit's counter and
cancelled bit; a malformed unit is engine fault 0xA7. CANCEL marks the unit and its incomplete launches, but for those that a LAUNCH in its
FENCE part has not made yet (so read, log 49), and asks every live die; the last
die to acknowledge answers with the count. DQPUSH, DQPOP and DQCNT act on the bottom of the job's deque, and that DQPUSH of 0 answers 2 with
every entry in use too is the model's choice (log 93); DQSTEAL reserves entries at its issue, before its
FENCE part, and asks after it, whatever has become of the victim; a steal takes up to half of the victim's phrases from the top, and they join the bottom of the thief's. The
job that a supervisor core's launch handle names is the model's choice (log 78). -/
def Obligations.WaitsCancelsAndPhrases : Prop :=
  ∀ (level : Level) (d a b c : G) (clr : Bool) (s : State), Runs s →
    let cid := s.cur.core
    let k := s.cur.slot
    let x := s.core cid
    let tag := s.me.tag
    let v := s.me.rg a
    let goes (i : Instr) (me : Slot) : Prop := ∃ t, exec i s = .next t ∧ OnlyMe s t ∧ t.me = me
    let faults (i : Instr) (detail : Nat) : Prop := s.me.takesTraps → goes i (s.me.trapped 0x0F detail 0 s.me.pc false)
    let parked (p : Park) : Slot := { s.me with st := .parked p, parkClk := s.clk }
    let lv := levelCode level
    let names (j : Nat) : Prop := if level = .launch then NamesJob s (∃ n l, v = handleWord 2 l.serial n ∧ s.launch j n = some l) j else j = tag
    (LegalUnit level v →
      (s.unitHolds s.me lv v.toNat = false → goes (.waitcWait level d a) (parked (.waitc lv v.toNat d))) ∧
      (s.unitHolds s.me lv v.toNat = true → faults (.waitcWait level d a) 0xA5) ∧
      ∀ j, names j → goes (.waitcTest level d a) (s.me.wrote d (BitVec.ofNat 64
        ((if s.unitCancelled j lv v.toNat then 2 ^ 63 else 0) + s.unitCounter j lv v.toNat % 2 ^ 48)) s.me.flags)) ∧
    (¬LegalUnit level v → faults (.waitcWait level d a) 0xA7 ∧ faults (.waitcTest level d a) 0xA7 ∧ faults (.cancel level d a) 0xA7) ∧
    (∀ j, LegalUnit level v → names j → (∀ die, (s.die die).fenced = false) → ∃ t graphs phases, exec (.cancel level d a) s = .next t ∧ CoresBut s t cid k ∧
      t.me = parked (.reply s.nextReq 21 (some d) (.go s.me.npc)) ∧
      JobBecomes s t j { s.job j with
        cancelled := (s.job j).cancelled || level == .job, cancelledGraphs := graphs, cancelledPhases := phases
        launches := (s.job j).launches.map fun y =>
          (y.1, y.2.map fun l => if l.inUnit y.1 lv v.toNat && !l.complete && l.opening.isNone then { l with cancelled := true } else l) } ∧
      (∀ n, n ∈ graphs ↔ n ∈ (s.job j).cancelledGraphs ∨ level = .graph ∧ n = v.toNat) ∧
      (∀ n, n ∈ phases ↔ n ∈ (s.job j).cancelledPhases ∨ level = .phase ∧ n = v.toNat) ∧
      Sent s t s.msgs ((List.range 64).map fun die => .cancel s.nextReq die) ∧
      t = { s with cores := t.cores, jobs := t.jobs, msgs := t.msgs, nextMsg := t.nextMsg, draws := t.draws, nextReq := s.nextReq + 1
                   cancels := s.cancels ++ [{ id := s.nextReq, job := j, level := lv, unit := v.toNat, waiting := List.range 64, count := 0
                                              core := cid, slot := k }] }) ∧
    (∀ id die op, Carries s (.cancel id die) → s.cancels = [op] → op.id = id → op.waiting = [die] → op.level ≠ 3 → (∀ y ∈ s.cores, y.2.ready = []) →
      (s.job op.job).recs = [] → (s.job op.job).launches = [] → ∃ t, exec .cancelAtHome s = .next t ∧
        Sent s t s.untaken [.done op.core op.slot id (BitVec.ofNat 64 op.count)] ∧
        t = { s with cancels := [], msgs := t.msgs, nextMsg := t.nextMsg, draws := t.draws }) ∧
    (s.me.touched = 0 →
      let room := 128 - x.deque.length - (x.steals.map (·.2)).sum
      (v = 0 → goes (.dqpush d a b) (s.me.wrote d 2 s.me.flags)) ∧
      (v ≠ 0 → room = 0 → goes (.dqpush d a b) (s.me.wrote d 1 s.me.flags)) ∧
      (v ≠ 0 → 0 < room → ∃ t, exec (.dqpush d a b) s = .next t ∧ t = { s with cores := t.cores } ∧ CoreBecomes s t cid k
        { x with deque := x.deque ++ [⟨tag, v, s.me.rg b⟩] } (s.me.wrote d 0 s.me.flags)) ∧
      (s.me.stash = [] → v = BitVec.ofNat 64 (baseOf cid) → cid < 12288 → s.isDead cid = false → goes (.dqsteal d a) (s.me.wrote d 0 s.me.flags)) ∧
      ∀ victim, victim < 12288 → victim ≠ cid → v = BitVec.ofNat 64 (baseOf victim) →
        let asks (n f : Nat) (t : State) : Prop := Sent s t s.msgs [.steal n cid k tag victim f] ∧
          t = { s with cores := t.cores, msgs := t.msgs, nextMsg := t.nextMsg, draws := t.draws, nextReq := t.nextReq } ∧ t.me =
            { parked (.steal n d) with stash := [] }
        (s.me.stash = [] → s.isDead victim = false →
          (0 < room → ∃ t, exec (.dqsteal d a) s = .next t ∧ asks s.nextReq (min 64 room) t ∧ t.nextReq = s.nextReq + 1 ∧
            CoreBecomes s t cid k { x with steals := x.steals ++ [(s.nextReq, min 64 room)] } t.me) ∧
          (room = 0 → (∀ y ∈ x.steals, y.1 ≠ s.nextReq) → ∃ t, exec (.dqsteal d a) s = .next t ∧
            t = { s with cores := t.cores, nextReq := s.nextReq + 1 } ∧
            CoreBecomes s t cid k x { s.me.wrote d 0 s.me.flags with stash := [] })) ∧
        ∀ n f, s.me.stash = [n, f] → 0 < f → ∃ t, exec (.dqsteal d a) s = .next t ∧ asks n f t ∧ t.nextReq = s.nextReq ∧
          CoreBecomes s t cid k x t.me) ∧
    (∀ victim, s.me.touched ≠ 0 → s.me.stash = [] → victim < 12288 → victim ≠ cid → s.isDead victim = false →
      v = BitVec.ofNat 64 (baseOf victim) →
      let f := min 64 (128 - x.deque.length - (x.steals.map (·.2)).sum)
      ∃ t dies, exec (.dqsteal d a) s = .next t ∧ (∀ i, i ∈ dies ↔ i.2 = .t ∧ s.me.touched.getLsbD i.1 = true) ∧
        Sent s t s.msgs (dies.map fun i => .probe cid k i.1 i.2) ∧
        CoreBecomes s t cid k { x with steals := x.steals ++ [(s.nextReq, f)] }
          { parked (.fence .dev dies true (.rerun (.dqsteal d a))) with stash := [s.nextReq, f] } ∧
        t = { s with cores := t.cores, msgs := t.msgs, nextMsg := t.nextMsg, draws := t.draws, nextReq := s.nextReq + 1 }) ∧
    ((∀ p ∈ x.deque, p.job ≠ tag) → goes (.dqpop d c) { (s.me.wg d 0).wg c 0 with pc := s.me.npc, st := .ready }) ∧
    (∀ pre p post, x.deque = pre ++ p :: post → p.job = tag → (∀ q ∈ post, q.job ≠ tag) → ∃ t, exec (.dqpop d c) s = .next t ∧
      t = { s with cores := t.cores } ∧ CoreBecomes s t cid k { x with deque := pre ++ post }
        { (s.me.wg d p.w0).wg c p.w1 with pc := s.me.npc, st := .ready }) ∧
    (∃ t, exec (.dqcnt d clr) s = .next t ∧ t = { s with cores := t.cores } ∧
      CoreBecomes s t cid k { x with robbed := if clr then x.robbed.filter (· != tag) else x.robbed }
        (s.me.wrote d (BitVec.ofNat 64 ((if tag ∈ x.robbed then 2 ^ 63 else 0) + (x.deque.filter fun p => p.job == tag).length)) s.me.flags)) ∧
    ∀ id th j job victim, j < 16 →
      (∀ f, Carries s (.steal id th j job victim f) → s.isDead victim = false → (∀ p ∈ (s.core victim).deque, p.job = job) →
        let y := s.core victim
        let h := min (y.deque.length / 2) f
        ∃ t, exec .stealArrival s = .next t ∧ Sent s t s.untaken [.stolen id th j job victim (y.deque.take h)] ∧ OthersSame s t victim ∧
          t.core victim = { y with
            deque := y.deque.drop h, robbed := if h = 0 ∨ job ∈ y.robbed then y.robbed else y.robbed ++ [job] } ∧
          t = { s with cores := t.cores, msgs := t.msgs, nextMsg := t.nextMsg, draws := t.draws }) ∧
      ∀ ps r, Carries s (.stolen id th j job victim ps) → s.isDead th = false → (s.slot th j).st = .parked (.steal id r) →
        ∃ t, exec .stealReply s = .next t ∧ t = { s with cores := t.cores, msgs := s.untaken } ∧
          CoreBecomes s t th j { s.core th with
            steals := (s.core th).steals.filter fun y => y.1 != id, deque := (s.core th).deque ++ ps }
            { (s.slot th j).wg r (BitVec.ofNat 64 ps.length) with pc := (s.slot th j).npc, st := .ready }

/-! ## The power broker -/

/-- The zone of a die is at rest: the table of cores is in its form, no tile has a notice or a shortfall, nothing is owed or to be given
back (R361). -/
structure Sys2Proof.Machine.QuietZone (s : State) (die : Nat) : Prop where
  form : SMap.wf { } s.cores = true
  tiles : ∀ x ∈ s.zoneCores die, x.2.notices = [] ∧ x.2.short = 0 ∧ x.2.queuedAt = none
  owed : s.owed die = 0
  returning : (s.die die).returning = []

/-- Between `s` and `t` the dies differ in die d alone, which becomes `x`. -/
structure Sys2Proof.Machine.DieBecomes (s t : State) (d : Nat) (x : Die) : Prop where
  die : t.die d = x
  others : ∀ i, i ≠ d → t.die i = s.die i

/-- The tile word (R367, Table 5) without a notice or a shortfall: holding, target and full rate. -/
def Sys2Proof.Machine.calmWord (c h t : Nat) : Word := BitVec.ofNat 64 (h % 256 + (t % 256) <<< 8 + Config.fullRate c <<< 24)

/-- R360 to R373: the broker instructions in a zone at rest. A TKREQ above the target raises the level, the target and, the tokens being
free, the holding; with all = 1 and too few free it changes nothing and sets bit 63; with wait = 1 it goes on when the target is held.
TKRET lowers them. TKQ reads the words, after the class updates of the tile (R366); ECSET writes a class. TKLEND lends free tokens or
recalls lent ones. Every reply comes by message.
On a tile without an array TKREQ and TKRET are engine fault 0xB2, and a level beyond F is 0xB1. -/
def Obligations.TokenInstructions : Prop :=
  ∀ (d a b : G) (wait all : Bool) (cls : Fin 8) (s : State), Runs s → s.me.st = .ready →
    let cid := s.cur.core
    let k := s.cur.slot
    let x := s.core cid
    let die := Config.coreDie cid
    let F := Config.fullRate cid
    let v := s.me.rg a
    let L := v.toNat
    let faults (i : Instr) (detail : Nat) : Prop :=
      s.me.takesTraps → ∃ t, exec i s = .next t ∧ OnlyMe s t ∧ t.me = s.me.trapped 0x0F detail 0 s.me.pc false
    let waits (y : Slot) : Slot := { y with st := .parked (.reply s.nextReq 20 (some d) (.go s.me.npc)), parkClk := s.clk }
    let reply (w : Word) : MsgBody := .done cid k s.nextReq w
    let only (t : State) : Prop := t = { s with
      cores := t.cores, dies := t.dies, jobs := t.jobs, msgs := t.msgs, nextMsg := t.nextMsg, draws := t.draws, nextReq := s.nextReq + 1 }
    let same (t : State) : Prop := (∀ j, t.job j = s.job j) ∧ ∀ i, t.die i = s.die i
    let answers (i : Instr) (w : Word) : Prop := ∃ t, exec i s = .next t ∧ only t ∧ same t ∧ CoreBecomes s t cid k x (waits s.me) ∧
      Sent s t s.msgs [reply w]
    (s.me.stash = [] → F = 0 → faults (.tkreq d a wait all) 0xB2) ∧ (F = 0 → faults (.tkret d a) 0xB2) ∧
    (s.me.stash = [] → F ≠ 0 → L = 0 ∨ F < L → faults (.tkreq d a wait all) 0xB1) ∧ (F ≠ 0 → F < L → faults (.tkret d a) 0xB1) ∧
    let T := s.target cid
    let updates (m : Msg) : Prop := ∃ c n, m.body = .classUpdate c n ∧ Config.coreDie c = die
    (∀ m, cid < 12288 → s.isDead cid = false → QuietZone s die → (∀ j < 16, ∀ r, (s.slot cid j).st ≠ .parked (.tokens r)) →
      Config.hasMatrix cid = true → m ∈ s.msgs → m.body = .classUpdate cid T → (∀ y ∈ s.msgs, updates y ∨ y.id = m.id → y = m) →
      s.holding cid < T → T - s.holding cid ≤ s.freeTokens die →
      ∃ t, exec (.tkq d 0) s = .next t ∧ only t ∧ same t ∧ CoreBecomes s t cid k { x with grant := T - 1, grantAt := s.clk } (waits s.me) ∧
        Sent s t (s.msgs.filter fun y => y.id != m.id) [.holding cid, reply (calmWord cid T T)]) ∧
    (cid < 12288 → s.isDead cid = false → QuietZone s die → (∀ j < 16, ∀ r, (s.slot cid j).st ≠ .parked (.tokens r)) → s.me.stash = [] →
      (∀ m ∈ s.msgs, ¬updates m) → (Config.hasMatrix cid = true → T = s.holding cid) →
      (Config.hasMatrix cid = true →
        (T < L → L ≤ F → L - T ≤ s.freeTokens die → ∀ all',
          let y : Core := { x with grant := L - 1, grantAt := s.clk }
          (∃ t, exec (.tkreq d a false all') s = .next t ∧ only t ∧ same t ∧ Sent s t s.msgs [.holding cid, reply (calmWord cid L L)] ∧
            CoreBecomes s t cid k y (waits { s.me with explicit := L })) ∧
          ∃ t, exec (.tkreq d a true all') s = .next t ∧ only t ∧ same t ∧ Sent s t s.msgs [.holding cid, reply 0] ∧
            CoreBecomes s t cid k y { s.me with
              explicit := L, stash := [1], parkClk := s.clk, st := .parked (.reply s.nextReq 20 none (.rerun (.tkreq d a true all'))) }) ∧
        (T < L → L ≤ F → s.freeTokens die < L - T → answers (.tkreq d a wait true) (calmWord cid T T ||| 0x8000000000000000)) ∧
        (s.me.explicit ≤ L → L ≤ F → answers (.tkret d a) (calmWord cid T T)) ∧
        (1 ≤ L → L < T → T = s.me.explicit → demand cid ((s.me.occ.map (·.cls)).getD 0) ≤ L → (∀ j < 16, j ≠ k → (s.slot cid j).st = .free) →
          ∃ t, exec (.tkret d a) s = .next t ∧ only t ∧ same t ∧ Sent s t s.msgs [.holding cid, reply (calmWord cid L L)] ∧
            CoreBecomes s t cid k { x with grant := L - 1 } (waits { s.me with explicit := L })) ∧
        answers (.tkq d 0) (calmWord cid T T)) ∧
      answers (.tkq d 1) (s.zoneWord die) ∧ answers (.tkq d 2) (s.loanWord die) ∧
      (v = 0 → (s.modMe fun y => { y with occ := y.occ.map fun o => { o with cls := cls.val } }).target cid = T →
        ∃ t, exec (.ecset d a cls) s = .next t ∧ only t ∧ same t ∧ Sent s t s.msgs [reply 0] ∧
          CoreBecomes s t cid k x (waits { s.me with occ := s.me.occ.map fun o => { o with cls := cls.val } })) ∧
      (hmode s.me.flags = true → ∀ nb n, nb < 64 → v = BitVec.ofNat 64 nb → (s.die nb).fenced = false → n = (s.me.rg b).toNat → 1 ≤ n →
        n ≤ 7680 → ∀ dir : Fin 4, Config.neighbour die dir.val = some nb → (∀ e : Fin 4, Config.neighbour die e.val = some nb → dir ≤ e) →
        let z := s.die die
        let l := z.loans[dir]
        (s.freeTokens die < n → answers (.tklendLend d a b) 1) ∧
        (n ≤ s.freeTokens die → z.lentAll + n ≤ z.pool - s.floors die → ∃ t, exec (.tklendLend d a b) s = .next t ∧ only t ∧
          (∀ j, t.job j = s.job j) ∧ DieBecomes s t die { z with loans := z.loans.set dir { l with lent := l.lent + n } } ∧
          CoreBecomes s t cid k x (waits s.me) ∧ Sent s t s.msgs [.loan die nb n 0 false, reply 0]) ∧
        (l.lent - l.recalling < n → answers (.tklendRecall d a b) 2) ∧
        (n ≤ l.lent - l.recalling → ∃ t, exec (.tklendRecall d a b) s = .next t ∧ only t ∧ (∀ j, t.job j = s.job j) ∧
          DieBecomes s t die { z with loans := z.loans.set dir { l with recalling := l.recalling + n } } ∧
          CoreBecomes s t cid k x (waits s.me) ∧ Sent s t s.msgs [.loan die nb n s.nextReq true])) ∧
      (hmode s.me.flags = false → (∀ y, (s.job s.me.tag).ctx = some y → y.zoneCtl = false) → s.me.takesTraps →
        ∀ i ∈ [Instr.tklendLend d a b, .tklendRecall d a b], ∃ t, exec i s = .next t ∧ OnlyMe s t ∧
          t.me = s.me.trapped 0x03 0 0 s.me.pc false)) ∧
    (s.me.stash = [1] → s.target cid ≤ s.holding cid → ∃ t, exec (.tkreq d a wait all) s = .next t ∧ OnlyMe s t ∧
      t.me = { s.me.wrote d (s.tileWord cid) s.me.flags with stash := [] }) ∧
    (s.me.stash = [1] → s.holding cid < s.target cid → ∃ t, exec (.tkreq d a wait all) s = .next t ∧ OnlyMe s t ∧
      t.me = { s.me with stash := [], st := .parked (.tokens d), parkClk := s.clk }) ∧
    ∀ serial n, serial < 2 ^ 16 → n < 2 ^ 20 →
      (v = handleWord 1 serial n → n < s.tableSize s.me.tag →
        (s.record s.me.tag n serial = none → answers (.ecset d a cls) 2) ∧
        ∀ r, s.record s.me.tag n serial = some r → ∃ t recs, exec (.ecset d a cls) s = .next t ∧ only t ∧ (∀ i, t.die i = s.die i) ∧
          JobBecomes s t s.me.tag { s.job s.me.tag with recs } ∧
          Puts (s.job s.me.tag).recs recs n (some { r with occ := { r.occ with cls := cls.val } }) ∧
          CoreBecomes s t cid k x (waits s.me) ∧ Sent s t s.msgs [reply 0]) ∧
      (v = handleWord 2 serial n → n < 4096 → ∀ l, s.launchAt s.me.tag n serial = some l → l.desc < 2 ^ 512 →
        ∃ t launches recs desc, exec (.ecset d a cls) s = .next t ∧ only t ∧ (∀ i, t.die i = s.die i) ∧
          JobBecomes s t s.me.tag { s.job s.me.tag with launches, recs } ∧ Puts (s.job s.me.tag).launches launches n (some { l with desc }) ∧
          (∀ m, SMap.get none recs m = (SMap.get none (s.job s.me.tag).recs m).map fun r =>
            if r.occ.launch = n ∧ r.occ.index ≠ none then { r with occ := { r.occ with cls := cls.val } } else r) ∧
          (∀ i < 512, desc.testBit i = if 404 ≤ i ∧ i < 407 then cls.val.testBit (i - 404) else l.desc.testBit i) ∧
          CoreBecomes s t cid k x (waits s.me) ∧ Sent s t s.msgs [reply 0])

/-- R360, R364 to R366, R368, R370, R371: what reaches a broker at rest. A target above the holding takes free tokens and tells the
tile, and one below it gives them up; the tile takes the new holding, and a TKREQ that waits goes on with it. Tokens lent arrive, and recalled ones that nothing holds
return, which ends the recall. A notice that expires moves its amount from the holding to the shortfall. A write of the pool sets it. -/
def Obligations.BrokerEvents : Prop :=
  ∀ (c die : Nat) (s : State), c < 12288 → die = Config.dieOf c → s.isDead c = false → Config.hasMatrix c = true →
    (∀ j < 16, ∀ r, (s.slot c j).st ≠ .parked (.tokens r)) →
    let x := s.core c
    let net (t : State) : Prop := t = { s with
      cores := t.cores, dies := t.dies, msgs := t.msgs, nextMsg := t.nextMsg, draws := t.draws }
    (∀ T, QuietZone s die → Carries s (.classUpdate c T) →
      (T = s.holding c → ∃ t, exec .brokerClassUpdate s = .next t ∧ t = { s with cores := t.cores, msgs := s.untaken } ∧
        ∀ i, t.core i = s.core i) ∧
      (s.holding c < T → T - s.holding c ≤ s.freeTokens die → ∃ t, exec .brokerClassUpdate s = .next t ∧ net t ∧ t.dies = s.dies ∧
        OthersSame s t c ∧ t.core c = { x with grant := T - 1, grantAt := s.clk } ∧ Sent s t s.untaken [.holding c]) ∧
      (1 ≤ T → T < s.holding c → ∃ t, exec .brokerClassUpdate s = .next t ∧ net t ∧ t.dies = s.dies ∧ OthersSame s t c ∧
        t.core c = { x with grant := T - 1 } ∧ Sent s t s.untaken [.holding c])) ∧
    (Carries s (.holding c) → ∃ t, exec .holdingChange s = .next t ∧ t = { s with cores := t.cores, msgs := s.untaken } ∧ OthersSame s t c ∧
      t.core c = { x with extra := x.grant }) ∧
    (∀ (y : Core) k r, Carries s (.holding c) → k < 16 → y = x.setSlot k { x.slot k with st := .parked (.tokens r) } →
      let u := s.setCore c y
      u.target c ≤ u.holding c → ∃ t, exec .holdingChange u = .next t ∧ t.slot c k = { (x.slot k).wg r (u.tileWord c) with pc := (x.slot k).npc, st := .ready }) ∧
    (∀ n, x.notices = [n] → n.due ≤ s.clk → n.amount ≤ x.grant → 1 ≤ n.amount → x.short = 0 → x.queuedAt = none → s.owed die = n.amount →
      SMap.wf { } s.cores = true → (s.die die).returning = [] → (∀ y ∈ s.zoneCores die, y.1 ≠ c → y.2.notices = [] ∧ y.2.queuedAt = none) →
      s.ev.core = c → ∃ t, exec .revocationNoticeExpiry s = .next t ∧ net t ∧ t.dies = s.dies ∧ OthersSame s t c ∧
        Sent s t s.msgs [.holding c] ∧
        t.core c = { x with notices := [], grant := x.grant - n.amount, short := n.amount, queuedAt := some s.clk }) ∧
    (∀ pool, s.ev.core = die → s.ev.value = BitVec.ofNat 64 pool → pool ≤ 7680 → QuietZone s die →
      s.floors die + s.granted die + (s.die die).lentAll ≤ pool + (s.die die).borrowedAll → ∃ t, exec .poolWrite s = .next t ∧
        t = { s with dies := t.dies } ∧ DieBecomes s t die { s.die die with pool }) ∧
    ∀ (nb n id : Nat) (dir : Fin 4), Config.neighbour die dir.val = some nb → QuietZone s die →
      let z := s.die die
      let l := z.loans[dir]
      (Carries s (.loan nb die n id false) → ∃ t, exec .loanMessage s = .next t ∧ t = { s with dies := t.dies, msgs := s.untaken } ∧
        DieBecomes s t die { z with loans := z.loans.set dir { l with borrowed := l.borrowed + n } }) ∧
      (Carries s (.loan nb die n id true) → n ≤ l.borrowed → n ≤ s.freeTokens die → ∃ t, exec .loanMessage s = .next t ∧
        t = { s with dies := t.dies, msgs := t.msgs, nextMsg := t.nextMsg, draws := t.draws } ∧
        Sent s t s.untaken [.returned die nb n id] ∧
        DieBecomes s t die { z with loans := z.loans.set dir { l with borrowed := l.borrowed - n } }) ∧
      ∀ w j r pc, Carries s (.returned nb die n id) → s.replyWaiter id = some (w, j) → j < 16 →
        (s.slot w j).st = .parked (.reply id 20 (some r) (.go pc)) → ∃ t, exec .recallReturn s = .next t ∧
          t = { s with cores := t.cores, dies := t.dies, msgs := s.untaken } ∧
          DieBecomes s t die { z with loans := z.loans.set dir { l with lent := l.lent - n, recalling := l.recalling - n } } ∧
          CoresBut s t w j ∧ t.slot w j = { (s.slot w j).wg r 0 with pc := pc, st := .ready }

/-! ## The persistence engine -/

/-- R379, R380, R382, R387, R391, R393, R394, R396: PBAR needs the persist right, acts as a FENCE of scope .dur, and then parks for the
reply of an increment; PSEQ and PLOSS park for the reply of a read. The sequence home increments or reads the numbers of the tag; while its
die is fenced off, requests wait. A store that its controller accepts is performed and durable: its granule joins the queue;
with a full queue nothing changes. The controller writes its oldest granule to the media. -/
def Obligations.Persistence : Prop :=
  ∀ (d : G) (sg : S) (s : State), Runs s →
    let cid := s.cur.core
    let k := s.cur.slot
    let persist := s.me.s[sg].getLsbD 117
    let dies := (touchedDies s.me.touched).map fun die => (die, Path.t)
    let asks (i : Instr) (row kind : Nat) : Prop := ∃ t, exec i s = .next t ∧ CoresBut s t cid k ∧
      t = { s with cores := t.cores, msgs := t.msgs, nextMsg := t.nextMsg, draws := t.draws, nextReq := s.nextReq + 1 } ∧
      Sent s t s.msgs [.seq cid k s.nextReq s.me.tag kind] ∧
      t.me = { s.me with st := .parked (.reply s.nextReq row (some d) (.go s.me.npc)), parkClk := s.clk }
    (persist = false → s.me.takesTraps → ∃ t, exec (.pbar d sg) s = .next t ∧ OnlyMe s t ∧ t.me = s.me.trapped 0x04 0x12 0 s.me.pc false) ∧
    (persist = true → s.me.touched = 0 → asks (.pbar d sg) 18 0) ∧
    (persist = true → s.me.touched ≠ 0 → ∃ t, exec (.pbar d sg) s = .next t ∧
      SlotSends s t cid k s.msgs (dies.map fun x => .probe cid k x.1 x.2) ∧
      t.me = { s.me with st := .parked (.fence .dur dies true (.rerun (.pbar d sg))), parkClk := s.clk }) ∧
    asks (.pseq d) 17 1 ∧ asks (.ploss d 0) 17 2 ∧ asks (.ploss d 1) 17 3 ∧
    (∀ c j id tag kind, Carries s (.seq c j id tag kind) →
      ((s.die s.seqDie).fenced = true → exec (if kind = 0 then .seqIncrement else .remoteAccess) s = .next s) ∧
      ((s.die s.seqDie).fenced = false → 1 ≤ tag → tag ≤ 254 →
        let n := SMap.get 0 s.dseq tag
        (kind = 0 → ∃ t, exec .seqIncrement s = .next t ∧ Sent s t s.untaken [.done c j id (n + 1)] ∧
          (∀ i, SMap.get 0 t.dseq i = if i = tag then n + 1 else SMap.get 0 s.dseq i) ∧
          t = { s with dseq := t.dseq, msgs := t.msgs, nextMsg := t.nextMsg, draws := t.draws }) ∧
        ∀ v, kind = 1 ∧ v = n ∨ kind = 2 ∧ v = SMap.get 0 s.lseq tag ∨ kind = 3 ∧ v = SMap.get 0 s.lword tag →
          ∃ t, exec .remoteAccess s = .next t ∧ Sent s t s.untaken [.done c j id v] ∧
            t = { s with msgs := t.msgs, nextMsg := t.nextMsg, draws := t.draws })) ∧
    (∀ id home a u x, Carries s (.access id home) → SMap.get none s.accesses id = some a → a.parts = [(home, [u])] → a.core ≠ home →
      a.op = .store [(u.idx, x)] → u.cell / 2 ^ 60 = 3 → home = s.homeOf u.cell → 1 ≤ u.n → u.cell % 16 + u.n ≤ 16 →
      let stack := home - 30000
      let granule := u.cell / 16 * 16
      (8192 ≤ (SMap.get [] s.nvq stack).length → exec .persistAccept s = .next s) ∧
      ((SMap.get [] s.nvq stack).length < 8192 → s.targetCheck a.core a.job .write u.cell u.n = none → (s.line u.cell).sound = true →
        (s.line u.cell).wiped = none → ∃ t, exec .persistAccept s = .next t ∧ Stored s t u.cell u.n x ∧ Sent s t s.untaken [.reply id home] ∧
          (∀ i, SMap.get [] t.nvq i = if i = stack then SMap.get [] s.nvq i ++ [(granule, s.readN granule 16, s.line granule)]
            else SMap.get [] s.nvq i) ∧
          SMap.get none t.accesses id = some { a with parts := [] } ∧
          (∀ j, j ≠ id → SMap.get none t.accesses j = SMap.get none s.accesses j) ∧
          t = { s with mem := t.mem, lines := t.lines, nvq := t.nvq, accesses := t.accesses, msgs := t.msgs, nextMsg := t.nextMsg
                       draws := t.draws })) ∧
    ∃ t, exec .mediaWrite s = .next t ∧ t = { s with nvq := t.nvq } ∧
      ∀ i, SMap.get [] t.nvq i = if i = s.ev.id then (SMap.get [] s.nvq i).drop 1 else SMap.get [] s.nvq i

/-! ## The supervisor engine -/

/-- A die has ended its command with a result (R398), and no other die has changed. -/
abbrev Sys2Proof.Machine.CommandEnds (s t : State) (die result : Nat) : Prop :=
  DieBecomes s t die { s.die die with cmd := none, result := result }

/-- A job context record that JOBCTX accepts for a tag (R400, R84). -/
structure Sys2Proof.Machine.LegalRecord (s : State) (r tag : Nat) : Prop where
  tag : 1 ≤ tag ∧ tag ≤ 254
  reserved : dField r 389 16 = 0 ∧ dField r 129 15 = 0 ∧ dField r 96 32 = 0
  ctab : 10 ≤ dField r 384 5 ∧ dField r 384 5 ≤ 20
  plimit : dField r 64 32 % 65536 = 0 ∧ 65536 ≤ dField r 64 32 ∧ dField r 64 32 ≤ 2 ^ 24
  pbase : dField r 144 48 % 65536 = 0 ∧ dField r 144 48 + 196608 * dField r 64 32 ≤ 2 ^ 48
  all : dField r 405 1 = 1 → dField r 406 42 = 0
  map : dField r 405 1 = 0 → 64 * dField r 406 42 + 1536 ≤ s.linSize

/-- R398 to R400: the commands of a supervisor engine. Each that refuses an operand gives result 0x01 and changes nothing else;
each that is carried out gives 0x00 with its effect: owner tags of lines, translations dropped, a save area, a tag bound to its record, engine
states saved and loaded, a stopped clause ended, restored or restarted, a die fenced off, the sequence home moved, the orderly
shutdown, the timer, a log entry removed where the signed body names this device, this boot count and an entry of the log, 0x02 else, and a
launch created, with the segment registers that its image makes (R89: reserved bits and bits [5:0] of the base are zero). The TAG clause's
new check bits, and its opening of a poisoned line, are the model's choice (log 62), and so is that the roots of a job context record are
free (log 74). An unassigned code gives 0x03. A timer that expires wakes the
supervisor core's threads. -/
def Obligations.Commands : Prop :=
  ∀ (die : Nat) (s : State), s.ev.core = die → die < 64 →
    (∀ (code : Nat) (op0 op1 op2 : Word), (s.die die).cmd = some (code, #v[op0, op1, op2]) →
      let a := op0.toNat
      let b := op1.toNat
      let tag := op2.toNat % 256
      let gives (i : Instr) (r : Nat) : Prop := ∃ t, exec i s = .next t ∧ CommandEnds s t die r ∧ t = { s with dies := t.dies }
      (code = 0 ∨ 0x0D ≤ code → gives .commandUnassigned 3) ∧
      (code = 0x01 →
        (a % 64 ≠ 0 ∨ b = 0 ∨ 2 ^ 32 < b ∨ (∃ i < b, s.physLine (a + 64 * i) = none) → gives .tag 1) ∧
        (a % 64 = 0 → 1 ≤ b → b ≤ 2 ^ 32 → (∀ i < b, s.physLine (a + 64 * i) ≠ none) →
          ∃ t, exec .tag s = .next t ∧ CommandEnds s t die 0 ∧ t = { s with dies := t.dies, lines := t.lines } ∧
            let named (c : Nat) : Prop := ∃ i < b, ∃ q, s.physLine (a + 64 * i) = some q ∧ c / 64 = q / 64
            ∀ c, (named c → t.line c = { s.line c with
                tag := op2.extractLsb' 0 8, wiped := if (s.line c).poisoned = true then some 0 else (s.line c).wiped
                single := (s.line c).single &&& 0xFF, double := (s.line c).double &&& 0xFF }) ∧
              (¬named c → t.line c = s.line c))) ∧
      (code = 0x02 →
        (128 ≤ a % 256 → a % 256 ≠ 0xFF → gives .tbinv 1) ∧
        (a % 256 < 128 ∨ a % 256 = 0xFF → ∃ t, exec .tbinv s = .next t ∧ CommandEnds s t die 0 ∧
          t = { s with dies := t.dies, tlb := t.tlb } ∧ ∀ e, e ∈ t.tlb ↔ e ∈ s.tlb ∧ ¬((a % 256 = 0xFF ∨ e.clu = a % 256) ∧ e.job = tag))) ∧
      (code = 0x03 →
        (op0.extractLsb' 4 14 ≠ 0 ∨ b % 8192 ≠ 0 ∨ s.linSize < b + 8192 → gives .savearea 1) ∧
        ∀ sn k, sn < 12288 → s.isDead sn = false → k < 16 → op0 = BitVec.ofNat 64 (baseOf sn + k) → b % 8192 = 0 → b + 8192 ≤ s.linSize →
          ∃ t, exec .savearea s = .next t ∧ CommandEnds s t die 0 ∧ t = { s with dies := t.dies, saveAreas := t.saveAreas } ∧
            ∀ i, SMap.get 0 t.saveAreas i = if i = 16 * sn + k then b + 1 else SMap.get 0 s.saveAreas i) ∧
      (code = 0x04 →
        let r := s.readN (linCell a) 64
        (a % 64 ≠ 0 ∨ s.linSize < a + 64 → gives .jobctx 1) ∧
        (CleanArea s (linCell a) 64 → ¬LegalRecord s r tag → gives .jobctx 1) ∧
        (a % 64 = 0 → a + 64 ≤ s.linSize → CleanArea s (linCell a) 64 → LegalRecord s r tag →
          (dField r 405 1 = 0 → CleanArea s (linCell (64 * dField r 406 42)) 1536) → ∃ t alloc launches, exec .jobctx s = .next t ∧ CommandEnds s t die 0 ∧
          t = { s with dies := t.dies, jobs := t.jobs } ∧
          (alloc = none ↔ dField r 405 1 = 1) ∧
          (∀ l, alloc = some l → ∀ sn, sn ∈ l ↔ sn < 12288 ∧ (s.byte (linCell (64 * dField r 406 42 + sn / 8))).getLsbD (sn % 8) = true) ∧
          (∀ n, SMap.get none launches n = (SMap.get none (s.job tag).launches n).map fun l => { l with counted := false }) ∧
          JobBecomes s t tag { s.job tag with
            ctx := some { addr := a, hbase := BitVec.ofNat 64 r &&& ~~~31, plimit := dField r 64 32, zoneCtl := dField r 128 1 == 1
                          pbase := dField r 144 48, root1 := dField r 192 64, root2 := dField r 256 64, root3 := dField r 320 64
                          ctab := dField r 384 5, sched := dField r 448 64, alloc }
            openPhase := 0, launches, cancelledGraphs := [], cancelledPhases := [], cancelled := false })) ∧
      (code = 0x05 → ∀ sn, sn < 12288 → s.isDead sn = false → op0 = BitVec.ofNat 64 (baseOf sn) →
        let loads := op2.getLsbD 0
        (b % 32768 ≠ 0 ∨ s.linSize < b + 32768 ∨ (s.core sn).enginesIdle = false → gives (if loads then .engld else .engsv) 1) ∧
        (b % 32768 = 0 → b + 32768 ≤ s.linSize → (s.core sn).enginesIdle = true → CleanArea s (linCell b) 32768 →
          let holds (u : State) (ws : List Word) : Prop :=
            ws.length = 4096 ∧ ∀ i < 4096, u.readN (linCell (b + 8 * i)) 8 = (ws.getD i 0).toNat
          (loads = false → ∃ t, exec .engsv s = .next t ∧ CommandEnds s t die 0 ∧
            t = { s with dies := t.dies, mem := t.mem, lines := t.lines, engImages := t.engImages, draws := t.draws } ∧
            (∀ c, c < linCell b ∨ linCell b + 32768 ≤ c → t.byte c = s.byte c ∧ t.line c = s.line c) ∧
            ∃ ws, holds t ws ∧ t.engImages.head? = some (b, ws, (s.core sn).engImage)) ∧
          (loads = true → ∃ t e, exec .engld s = .next t ∧ CommandEnds s t die 0 ∧ t = { s with dies := t.dies, cores := t.cores } ∧
            OthersSame s t sn ∧ t.core sn = (s.core sn).loadEng e ∧
            ∀ ws x rest, s.engImages = (b, ws, x) :: rest → holds s ws → e = x))) ∧
      (code = 0x06 → ∀ sn k, sn < 12288 → s.isDead sn = false → k < 16 → op0 = BitVec.ofNat 64 (baseOf sn + k) →
        let x := s.slot sn k
        let action := op2.extractLsb' 0 2
        (x.st ≠ .stopped → (action = 0 → gives .slotEnd 1) ∧ (action = 1 → gives .slotRestore 1) ∧ (action = 2 → gives .slotRestart 1)) ∧
        (action = 3 → gives .slotRestart 1) ∧
        (x.st = .stopped →
          (action = 1 → ∃ t, exec .slotRestore s = .next t ∧ CommandEnds s t die 0 ∧ CoresBut s t sn k ∧ TellsBroker s t s.msgs sn ∧
            t = { s with dies := t.dies, cores := t.cores, msgs := t.msgs, nextMsg := t.nextMsg, draws := t.draws } ∧
            t.slot sn k = restoreImage (Config.vecBits sn) s.clk (SMap.get [] s.images (s.imageKey sn k)) x) ∧
          ∀ o, x.occ = some o → o.range = 0 → (∀ ch : Fin 8, x.c[ch].getLsbD 67 = false) →
            (∀ j < 16, ∀ y, (s.slot sn j).st ≠ .parked (.ctxsv k y)) →
            (action = 0 → ∃ t launches, exec .slotEnd s = .next t ∧ CommandEnds s t die 0 ∧ CoresBut s t sn k ∧
              TellsBroker s t s.msgs sn ∧
              t = { s with dies := t.dies, cores := t.cores, jobs := t.jobs, msgs := t.msgs, nextMsg := t.nextMsg, draws := t.draws } ∧
              t.slot sn k = { x with st := .free, occ := none, explicit := 0, buf := [], want := none, pre := none, retry := false
                                     stopReq := none, reports := [], homeHold := false, touched := 0 } ∧
              JobBecomes s t o.job { s.job o.job with launches } ∧
              Puts (s.job o.job).launches launches o.launch ((s.launch o.job o.launch).map fun l => { l with counter := l.counter - 1 })) ∧
            (action = 2 → s.accesses = [] → s.cancels = [] → (s.core sn).enginesIdle = true →
              (∀ tr : Fin 4, ∀ y ∈ (s.core sn).trees[tr].wait, y.slot ≠ k) →
              (∀ y ∈ (s.job o.job).launches, ∀ l, y.2 = some l → l.core = sn → l.opening ≠ some k) → ∃ t ready, exec .slotRestart s = .next t ∧
              CommandEnds s t die 0 ∧ TellsBroker s t s.msgs sn ∧
              t = { s with dies := t.dies, cores := t.cores, msgs := t.msgs, nextMsg := t.nextMsg, draws := t.draws } ∧
              CoreBecomes s t sn k { s.core sn with ready } (t.slot sn k) ∧ (t.slot sn k).st = .free ∧ (t.slot sn k).occ = none ∧
              Queued (s.core sn).ready ready ⟨o.job, .again { o with uid := 0 }, o.prio, s.clk, sn, o.phase⟩))) ∧
      (code = 0x07 →
        let x := a % 64
        ((s.die x).fenced = true → gives .fenceCommand 0) ∧
        ((s.die x).fenced = false → ∃ t, exec .fenceCommand s = .next t ∧ (t.die die).cmd = none ∧ (t.die die).result = 0 ∧
          (t.die x).fenced = true ∧ ∀ sn, s.isDead sn = true ∨ sn < 12288 ∧ sn / 192 = x → t.isDead sn = true)) ∧
      (code = 0x08 →
        let x := a % 64
        (x ∉ [3, 4, 24, 31, 32, 39, 59, 60] ∨ (s.die x).fenced = true → gives .home 1) ∧
        (x ∈ [3, 4, 24, 31, 32, 39, 59, 60] → (s.die x).fenced = false → ∃ t, exec .home s = .next t ∧ CommandEnds s t die 0 ∧
          t = { s with dies := t.dies, seqDie := x })) ∧
      (code = 0x09 →
        let quiet : Prop := s.nvq = [] ∧ ∀ x ∈ s.cores, x.1 < 12288 → ∀ k < 16, (x.2.slot k).st = .free ∨ (x.2.slot k).st = .stopped
        (quiet → ∃ t, exec .shutdown s = .next t ∧ CommandEnds s t die 0 ∧ t = { s with dies := t.dies, closed := true, orderly := true }) ∧
        (¬quiet → exec .shutdown s = .next { s with closed := true })) ∧
      (code = 0x0A →
        (2 ^ 32 ≤ a → gives .timer 1) ∧
        (a < 2 ^ 32 → ∃ t, exec .timer s = .next t ∧ t = { s with dies := t.dies } ∧ DieBecomes s t die { s.die die with
          cmd := none, result := 0, timer := if a = 0 then none else some (s.clk + 2100 * a) })) ∧
      (code = 0x0B →
        let n := min 4096 ((s.linSize - a) / 8)
        CleanArea s (linCell a) (8 * n) → ∃ t, exec .service s = .next t ∧ t = { s with dies := t.dies, fieldLog := t.fieldLog } ∧
          let signed : Option ServiceBody := (Config.serviceBody ((List.range n).map fun i => BitVec.ofNat 64 (s.readN (linCell a + 8 * i) 8))).filter
            fun x => x.device == deviceId && x.boot == s.bootCount && s.fieldLog.contains x.entry
          (∀ x, signed = some x → CommandEnds s t die 0 ∧ t.fieldLog = s.fieldLog.erase x.entry) ∧
          (signed = none → CommandEnds s t die 2 ∧ t.fieldLog = s.fieldLog)) ∧
      (code = 0x0C →
        let desc := s.readN (linCell a) 64
        let job := s.job tag
        let wrong : Prop := a % 64 ≠ 0 ∨ s.linSize < a + 64 ∨ s.linSize < b + 128 ∨ job.ctx = none ∨ dMode desc = 0 ∨ dCount desc = 0 ∨
          dReserved desc = true ∨ desc % 4 ≠ 0
        (CleanArea s (linCell a) 64 → wrong → gives .start 1) ∧
        (¬wrong → CleanArea s (linCell a) 64 → CleanArea s (linCell b) 128 → s.launchBad tag (12288 + die) desc = none → SMap.wf none job.launches = true →
          ∃ t n launches, exec .start s = .next t ∧ t = { s with dies := t.dies, jobs := t.jobs, draws := s.draws + 1 } ∧
            n < 4096 ∧ SMap.get none job.launches n = none ∧
            let serial := SMap.get 0 job.launchSerial n % 65535 + 1
            let phase := if dField desc 414 1 = 1 then job.openPhase + 1 else job.openPhase
            DieBecomes s t die { s.die die with cmd := none, result := 0, op := (s.die die).op.set 0 (handleWord 2 serial n) } ∧
            JobBecomes s t tag { job with openPhase := phase, launches, launchSerial := SMap.set 0 job.launchSerial n serial } ∧
            Puts job.launches launches n (some {
              serial, desc, phase, die, core := 12288 + die, counter := dCount desc
              segs := (List.range 8).map fun i => BitVec.ofNat 128 (s.readN (linCell b + 16 * i) 16) &&& BitVec.ofNat 128 (2 ^ 118 - 64) })))) ∧
    ∀ w, (s.die die).timer = some w →
      (s.clk < w → exec .timerExpiry s = .next s) ∧
      (w ≤ s.clk → s.powerState = 0 → ∃ t, exec .timerExpiry s = .next t ∧ DieBecomes s t die { s.die die with timer := none } ∧
        OthersSame s t (12288 + die) ∧ t = { s with dies := t.dies, cores := t.cores, images := t.images } ∧
        ∀ k < 16, let x := s.slot (12288 + die) k
          (x.st = .free → t.slot (12288 + die) k = x) ∧
          (x.tag = 0 → x.st = .ready → t.slot (12288 + die) k = { x with wakePend := true }) ∧
          ∀ dl, x.tag = 0 → x.st = .parked (.sleep dl) → t.slot (12288 + die) k = { x with pc := x.npc, st := .ready })

/-! ## Hosts and registers -/

/-- R87, R105, R375, R376, R398, R414, R415, R417, R419: what hosts and the supervisor software do. A host access to memory is checked as Table
8 of R419 lists, and then reads or writes; one to a live tile may be on its way for a while first, as a free value tells (log 81); a walk
failure is held and reported, and the wake's status answers it. A register access needs 8 aligned bytes; the port that does not own the
device writes nothing that is reserved to the owner, command blocks among it, and no host writes the pool; a store reaches the pool and the
command blocks from supervisor cores alone. Before the boot is done all but the power and boot control registers wait for it, and either port
writes boot control (so read, log 98, log 99). Claims and releases of the semaphore, link states,
attestation, and the registers that a thread's store reaches, behave as their rules give. -/
def Obligations.HostsAndRegisters : Prop :=
  ∀ (s : State),
    let e := s.ev
    let a := e.addr.toNat
    let off := a % 2 ^ 60
    let space := a / 2 ^ 60
    let own := match e.port with
      | .A => s.portA
      | .B => s.portB
    let tag := own.tag.toNat
    let kind : AKind := if e.flag then .write else .read
    let ask : HostAsk := ⟨s.nextHost, e.port, e.flag, e.addr, e.size, e.value.toNat⟩
    let taken : State := { s with nextHost := s.nextHost + 1, idleFrom := if s.powerState = 0 then s.clk + 1 else s.idleFrom }
    let tells (u : State) (data : Nat) (refusal : Option (Nat × Nat)) : State :=
      { u with hostOut := u.hostOut ++ [⟨s.nextHost, e.port, data, refusal⟩] }
    let answer (data : Nat) (refusal : Option (Nat × Nat)) : State := tells taken data refusal
    let gives (i : Instr) (t : State) : Prop := exec i s = .next t
    let refuses (c d : Nat) : Prop := gives .hostAccess (answer 0 (some (c, d)))
    let drawn : State := { taken with draws := s.draws + 1 }
    let arrives (t : State) : Prop := gives .hostAccess
      (if (s.drawChoice 2).1 = 0 then t else { drawn with hostHeld := s.hostHeld ++ [(ask, .way)] })
    let turnedAway (c d : Nat) : Prop := arrives (tells drawn 0 (some (c, d)))
    (s.powerState ≠ 0 → a ≠ 7 * 2 ^ 60 + 0x40 →
      gives .hostAccess { s with nextHost := s.nextHost + 1, hostHeld := s.hostHeld ++ [(ask, .exit)], exitAt := some (s.exitAt.getD s.clk) }) ∧
    (a = 7 * 2 ^ 60 + 0x40 → e.size = 8 → e.flag = true → gives .hostAccess
      { answer 0 none with agenda := .event .powerControlWrite { value := e.value } :: s.agenda }) ∧
    (s.powerState = 0 → s.bootState = .booting →
      (a ≠ 7 * 2 ^ 60 + 0x40 → a ≠ 7 * 2 ^ 60 + 0x80 →
        gives .hostAccess { s with nextHost := s.nextHost + 1, hostHeld := s.hostHeld ++ [(ask, .exit)] }) ∧
      (a = 7 * 2 ^ 60 + 0x80 → e.size = 8 → e.flag = true → gives .hostAccess { answer 0 none with
        bootShare := (e.value.extractLsb' 3 6).toNat, bootFull := e.value.getLsbD 0 })) ∧
    (s.powerState = 0 → s.bootState ≠ .booting →
      (space ∉ [0, 1, 2, 3, 7] → refuses 0x06 0x01) ∧
      (space = 0 → 1 ≤ e.size → e.size ≤ 8 → a % 64 + e.size ≤ 64 →
        let live := a / 2 ^ 32 = 0 ∧ a / 2 ^ 18 % 128 < 96 ∧ s.isDead (cellTile a) = false
        let sees := winGrants (s.core (cellTile a)).win[0] (a % 2 ^ 18 / 64) kind || winGrants (s.core (cellTile a)).win[1] (a % 2 ^ 18 / 64) kind
          || winGrants (s.core (cellTile a)).win[2] (a % 2 ^ 18 / 64) kind || winGrants (s.core (cellTile a)).win[3] (a % 2 ^ 18 / 64) kind
        (a / 2 ^ 32 ≠ 0 → refuses 0x06 0x02) ∧ (a / 2 ^ 32 = 0 → 96 ≤ a / 2 ^ 18 % 128 → refuses 0x06 0x03) ∧
        (a / 2 ^ 32 = 0 → a / 2 ^ 18 % 128 < 96 → s.isDead (cellTile a) = true → refuses 0x06 0x04) ∧ (live → tag = 0 → turnedAway 0x07 0x31) ∧
        (live → tag ≠ 0 →
          (tagAllows (s.line a).tag.toNat tag false kind = false → turnedAway 0x07 0x31) ∧
          (tagAllows (s.line a).tag.toNat tag false kind = true →
            (sees = false → turnedAway 0x08 0x41) ∧
            (sees = true → s.badBytes a e.size kind = true → arrives
              { tells drawn 0 (some (0x0B, 0x61)) with agenda := .contain (cellTile a) 0x04 :: s.agenda }) ∧
            (sees = true → (s.line a).sound = true → (s.line a).poisoned = false → (s.line a).wiped = none →
              (e.flag = false → arrives (tells drawn (s.readN a e.size) none)) ∧
              (e.flag = true → ∃ t, arrives t ∧ Stored s t a e.size e.value.toNat ∧
                t = { tells drawn 0 none with mem := t.mem, lines := t.lines }))))) ∧
      (1 ≤ space → space ≤ 3 → 1 ≤ e.size → e.size ≤ 8 →
        (2 ^ 48 < off + e.size → refuses 0x06 0x02) ∧
        (off + e.size ≤ 2 ^ 48 →
          (tag = 0 → refuses 0x07 0x31) ∧ (tag ≠ 0 → (s.job tag).ctx = none → refuses 0x09 0x51) ∧
          ∀ ctx u, tag ≠ 0 → (s.job tag).ctx = some ctx →
            let private_ := space = 1 ∧ ctx.pbase < off + e.size ∧ off < ctx.pbase + 196608 * ctx.plimit
            let die := if e.port = Port.A then 3 else 60
            let found := State.translate taken (if e.port = Port.A then 6 else 121) tag ctx space off e.flag
            (private_ → refuses 0x06 0x05) ∧
            (∀ r, ¬private_ → e.size = 8 → off % 8 = 0 → found = (u, .error r) → gives .hostAccess { u with
              hostHeld := u.hostHeld ++ [(ask, .page)], reports := u.reports ++ [⟨die, 12288 + die, 0, 0x09, r, e.addr, none⟩] }) ∧
            ∀ p, ¬private_ → e.size = 8 → off % 8 = 0 → found = (u, .ok p) →
              let c := physCell space p
              (tagAllows (u.line c).tag.toNat tag false kind = false → gives .hostAccess (tells u 0 (some (0x07, 0x31)))) ∧
              (tagAllows (u.line c).tag.toNat tag false kind = true → c / 2 ^ 60 = space → (u.line c).sound = true →
                (u.line c).poisoned = false → (u.line c).wiped = none →
                let full := space = 3 ∧ 8192 ≤ (SMap.get [] u.nvq (c % 2 ^ 60 / 2 ^ 39)).length
                (e.flag = false → gives .hostAccess (tells u (u.readN c 8) none)) ∧
                (e.flag = true → full → gives .hostAccess { u with hostHeld := u.hostHeld ++ [(ask, .room)] }) ∧
                (e.flag = true → ¬full → ∃ t, gives .hostAccess t ∧
                  Stored u t c 8 e.value.toNat ∧ t = { tells u 0 none with mem := t.mem, lines := t.lines, nvq := t.nvq })))) ∧
      (space = 7 →
        let die := off / 2 ^ 26 % 64
        let reg := off % 2 ^ 26
        (2 ^ 32 ≤ off → refuses 0x06 0x02) ∧ (off < 2 ^ 32 → e.size ≠ 8 ∨ reg % 8 ≠ 0 → refuses 0x05 0x21) ∧
        (off < 2 ^ 32 → e.size = 8 → reg % 8 = 0 →
          (s.owner ≠ some e.port → sharedRegister s die reg = false → gives .hostAccess (answer 0 none)) ∧
          (e.flag = false → s.owner = some e.port ∨ sharedRegister s die reg = true →
            gives .hostAccess (answer (s.regRead die reg).toNat none)) ∧
          (e.flag = true → die = 0 →
            (reg = 0x90 → e.value = 1 → gives .hostAccess { answer 0 none with agenda := .event .semaphoreClaim { port := e.port } :: s.agenda }) ∧
            (reg = 0x90 → e.value = 0 → gives .hostAccess { answer 0 none with agenda := .event .semaphoreRelease { port := e.port } :: s.agenda }) ∧
            (reg = 0x40 → gives .hostAccess { answer 0 none with agenda := .event .powerControlWrite { value := e.value } :: s.agenda }) ∧
            (reg = 0x2040 → e.value = 1 → gives .hostAccess { answer 0 none with agenda := .event .attestGo { port := e.port } :: s.agenda }) ∧
            (reg = 0xA0 → gives .hostAccess { answer 0 none with
              portA := if s.owner = some e.port then { s.portA with tag := e.value.extractLsb' 0 8 } else s.portA }) ∧
            (reg = 0x80 → gives .hostAccess { answer 0 none with
              bootShare := if s.bootState ≠ .ready ∨ s.owner = some e.port then (e.value.extractLsb' 3 6).toNat else s.bootShare
              bootFull := if s.bootState ≠ .ready ∨ s.owner = some e.port then e.value.getLsbD 0 else s.bootFull })) ∧
          (e.flag = true → reg = 0x03400000 → s.owner = some e.port → ∃ t, gives .hostAccess t ∧ t = { answer 0 none with dies := t.dies } ∧
            DieBecomes s t die (match (s.die die).cmd with
              | none => { s.die die with cmd := some ((e.value.extractLsb' 56 8).toNat, (s.die die).op) }
              | some _ => { s.die die with lost := true })) ∧
          (e.flag = true → 0x03400000 ≤ reg → reg < 0x03400028 → s.owner ≠ some e.port → gives .hostAccess (answer 0 none)) ∧
          (e.flag = true → reg = 0x02000000 → gives .hostAccess (answer 0 none))))) ∧
    (∀ h rest, e.flag = true → s.hostHeld = (h, .page) :: rest → h.id = e.id → (∀ x ∈ rest, x.1.id ≠ e.id) → e.value.toNat % 256 ≠ 0 →
      gives .wakeMessage { s with hostHeld := rest, hostOut := s.hostOut ++ [⟨h.id, h.port, 0, some (0x09, e.value.toNat % 256)⟩] }) ∧
    (∀ at_, e.flag = false → e.more = false → e.slot < 16 → (s.slot e.core e.slot).st = .parked (.pageFault at_) →
      let x := s.slot e.core e.slot
      let status := e.value.toNat % 256
      (status = 0 → ∃ t, gives .wakeMessage t ∧ OnlySlot s t e.core e.slot ∧ t.slot e.core e.slot = { x with st := .ready }) ∧
      (status ≠ 0 → x.takesTraps → s.reservesNothing e.core e.slot → ∃ t, gives .wakeMessage t ∧ OnlySlot s t e.core e.slot ∧
        t.slot e.core e.slot = x.trapped 0x09 status at_ x.pc false)) ∧
    (∀ id home acc u x, Carries s (.access id home) → SMap.get none s.accesses id = some acc → acc.parts = [(home, [u])] → acc.core ≠ home →
      acc.op = .store [(u.idx, x)] → x < 2 ^ 64 →
      let answered (t : State) : Prop := SMap.get none t.accesses id = some { acc with parts := [] } ∧
        (∀ j, j ≠ id → SMap.get none t.accesses j = SMap.get none s.accesses j) ∧ Sent s t s.untaken [.reply id home]
      ∀ die, die < 64 →
        (∀ i : Fin 3, u.cell = regCell die (0x03400008 + 8 * i.val) → ∃ t, exec .registerWrite s = .next t ∧ answered t ∧
          t = { s with dies := t.dies, accesses := t.accesses, msgs := t.msgs, nextMsg := t.nextMsg, draws := t.draws } ∧
          DieBecomes s t die (if acc.core < 12288 then s.die die else { s.die die with op := (s.die die).op.set i (BitVec.ofNat 64 x) })) ∧
        (u.cell = regCell die 0x02000000 → ∃ t, exec .registerWrite s = .next t ∧ answered t ∧
          t = { s with accesses := t.accesses, msgs := t.msgs, nextMsg := t.nextMsg, draws := t.draws
                       agenda := if acc.core < 12288 then s.agenda
                                 else .event .poolWrite { core := die, value := BitVec.ofNat 64 x } :: s.agenda }) ∧
        (u.cell = regCell 0 0x90 → ∃ t, exec .registerWrite s = .next t ∧ answered t ∧
          t = { s with accesses := t.accesses, msgs := t.msgs, nextMsg := t.nextMsg, draws := t.draws })) ∧
    (s.owner = none →
      (e.more = false → gives .semaphoreClaim { s with owner := some e.port }) ∧
      (e.more = true →
        (s.lastLoser = none ∨ s.lastLoser = some .A → gives .semaphoreClaim { s with owner := some .A, lastLoser := some .B }) ∧
        (s.lastLoser = some .B → gives .semaphoreClaim { s with owner := some .B, lastLoser := some .A }))) ∧
    (s.owner ≠ none → gives .semaphoreClaim s) ∧
    (s.owner = some e.port → gives .semaphoreRelease { s with owner := none }) ∧ (s.owner ≠ some e.port → gives .semaphoreRelease s) ∧
    (e.port = .A → gives .linkUp { s with portA := { s.portA with downAt := none } } ∧
      gives .linkDown { s with portA := { s.portA with downAt := some (s.portA.downAt.getD s.clk) } }) ∧
    (e.port = .B → gives .linkUp { s with portB := { s.portB with downAt := none } } ∧
      gives .linkDown { s with portB := { s.portB with downAt := some (s.portB.downAt.getD s.clk) } }) ∧
    (∀ (p : Port) (w : Int), s.owner = some p → (match p with
        | .A => s.portA.downAt
        | .B => s.portB.downAt) = some w →
      (w + 2100000 ≤ s.clk → gives .linkDownTimeout { s with owner := none }) ∧ (s.clk < w + 2100000 → gives .linkDownTimeout s)) ∧
    (s.attesting = none → gives .attestGo { s with attesting := some e.port } ∧ gives .attestReportReady s) ∧
    (∀ p, s.attesting = some p → gives .attestGo s ∧ ∃ t signature, gives .attestReportReady t ∧ signature.length = 579 ∧
      let digest (which : Nat) (l : List Nat) : List Word := (List.range 8).map (Config.digest which l)
      let fuses := s.fuseDead ++ 0xFFFFFFFF :: s.fuseCols.flatMap fun c => [c.1, c.2]
      let log := s.fieldLog.flatMap fun x => [x.tile, x.column, x.cause, x.boot]
      t = { s with attesting := none, draws := t.draws
                   attest := s.nonce.toList ++ [BitVec.ofNat 64 s.bootCount, if p = .A then 1 else 2] ++ (digest 0 [] ++ digest 1 fuses ++ digest 2 log)
                     ++ signature })

/-! ## The device -/

/-- What an interruption or the Deep state keeps of memory (R377, R383): the bytes and lines of some spaces; every other byte reads as memory
that nothing has written (log 2). -/
def Sys2Proof.Machine.KeepsSpaces (s t : State) (spaces : List Nat) : Prop :=
  ∀ c, (c / 2 ^ 60 ∈ spaces → t.byte c = s.byte c ∧ t.line c = s.line c) ∧ (c / 2 ^ 60 ∉ spaces → t.byte c = 0 ∧ t.line c = { })

/-- The lowest power state that the latency tolerance and deep_ok allow (R375, R376, Table 6). -/
def Sys2Proof.Machine.lowestAllowed (tolerance : Nat) (deepOk : Bool) : Nat :=
  if deepOk && 40000000 ≤ tolerance then 3 else if 150000 ≤ tolerance then 2 else if 2000 ≤ tolerance then 1 else 0

/-- A column of a tile's array is known to be retired: by the fuse map or by the field log (R241, R408). -/
def Sys2Proof.Machine.State.retired (s : State) (tile column : Nat) : Prop :=
  (tile, column) ∈ s.fuseCols ∨ column ≠ 0xFF ∧ ∃ e ∈ s.fieldLog, e.tile = tile ∧ e.column = column

/-- R98, R100, R375 to R377, R383 to R389, R401, R402, R405 to R407: power states, interruptions and boots, and errors in memory. An
interruption drains the acceptance queues and loses all but the non-volatile tier; a stack whose hold-up fails holds the earlier
contents, its line uncorrectable. A device reset keeps HBM too (so read, log 56), and the time for which a link has been down goes on. The
boot follows the release of reset, which nothing delays where the outside has nothing to do (log 99). A boot finds the facts that the
outside has for it, counts, starts the clock counters at most 32 clk apart, and is ready,
with the tiles dead that fuse map, field log and pending list name, and the loss recorded for every tag; or it goes to Hold. An error in a word
is a single one or not to be corrected; the scrubber corrects, or poisons and ends the job. -/
def Obligations.DeviceEvents : Prop :=
  ∀ (s : State),
    let e := s.ev
    let gives (i : Instr) (t : State) : Prop := exec i s = .next t
    let p := lowestAllowed s.latTol s.deepOk
    let due : Prop := s.powerState = 0 ∧ s.closed = false ∧ s.idle = true ∧ s.idleFrom + 2100 * s.idleHold ≤ s.clk
    let keeps (t : State) : Prop := t.dseq = s.dseq ∧ t.lseq = s.lseq ∧ t.lword = s.lword ∧ t.orderly = s.orderly ∧
      t.fieldLog = s.fieldLog ∧ t.pending = s.pending ∧ t.bootCount = s.bootCount
    let fresh (t : State) : Prop := t.cores = [] ∧ t.dies = [] ∧ t.jobs = [] ∧ t.tlb = [] ∧ t.nvq = [] ∧ t.msgs = [] ∧ t.accesses = []
    let control (t : State) : Prop := t.bootFull = s.bootFull ∧ t.bootShare = s.bootShare ∧ t.hshare = s.hshare ∧ t.owner = s.owner ∧
      t.latTol = s.latTol ∧ t.idleHold = s.idleHold ∧ t.deepOk = s.deepOk
    let older (p : PortState) : PortState := { p with downAt := p.downAt.map fun w => w - s.clk }
    let ages (t : State) : Prop := t.clk = 0 ∧ t.portA = older s.portA ∧ t.portB = older s.portB
    gives .powerControlWrite { s with
      deepOk := e.value.getLsbD 63, idleHold := (e.value.extractLsb' 32 24).toNat, latTol := (e.value.extractLsb' 0 32).toNat } ∧
    (¬due ∨ p = 0 ∨ p = 3 ∧ s.nvq ≠ [] → gives .idleHoldExpiry s) ∧
    (due → 1 ≤ p → p ≤ 2 → gives .idleHoldExpiry { s with powerState := p }) ∧
    (due → p = 3 → s.nvq = [] → ∃ t, gives .idleHoldExpiry t ∧ t.powerState = 3 ∧ KeepsSpaces s t [1, 2, 3] ∧ keeps t ∧ fresh t ∧ control t ∧
      t.agenda = s.agenda ∧ t.clk = s.clk ∧ t.portA = s.portA ∧ t.portB = s.portB) ∧
    (s.powerState ≠ 3 → SMap.wf {} s.cores = true → ∃ t, gives .powerStateExit t ∧
      t = { s with powerState := 0, exitAt := none, idleFrom := s.clk, cores := t.cores, dies := t.dies, msgs := t.msgs, nextMsg := t.nextMsg
                   draws := t.draws } ∧
      (∀ c, t.core c = { s.core c with grant := 0, extra := 0, short := 0, queuedAt := none, notices := [] }) ∧
      ∀ d, t.die d = { s.die d with returning := (t.die d).returning }) ∧
    (s.powerState = 3 → ∃ t, gives .powerStateExit t ∧ t.powerState = 0 ∧ t.agenda = .event .boot {} :: s.agenda ∧ KeepsSpaces s t [1, 2, 3] ∧ keeps t ∧
      fresh t ∧ control t ∧ ages t) ∧
    (e.value = 0 →
      (∃ t, gives .interruption t ∧ t.supply = false ∧ t.drained = some (0xFF, !s.orderly) ∧ KeepsSpaces s t [3] ∧ keeps t ∧ fresh t ∧ t.agenda = []) ∧
      ∃ t, gives .deviceReset t ∧ t.supply = s.supply ∧ t.powerState = 0 ∧ t.drained = some (0xFF, !s.orderly) ∧ KeepsSpaces s t [1, 2, 3] ∧ keeps t ∧
        fresh t ∧ control t ∧ ages t ∧ t.agenda = [.event .powerUp {}]) ∧
    (∀ stack g old m, stack < 8 → e.value = BitVec.ofNat 64 (2 ^ stack) → e.size = 0 → SMap.get [] s.nvq stack = [(g, old, m)] →
      g / 2 ^ 60 = 3 → g % 16 = 0 → ∃ t, gives .interruption t ∧ t.drained = some (0xFF - 2 ^ stack, !s.orderly) ∧
        (∀ c, c / 2 ^ 60 = 3 → t.byte c = if g ≤ c ∧ c < g + 16 then BitVec.ofNat 8 (old / 256 ^ (c - g)) else s.byte c) ∧
        t.line g = { s.line g with typed := m.typed, fe := m.fe, double := (s.line g).double ||| 0x100 }) ∧
    (∀ stack, stack < 8 → e.value = BitVec.ofNat 64 (2 ^ stack) → (SMap.get [] s.nvq stack).length ≤ e.size → ∃ t, gives .interruption t ∧
      t.drained = some (0xFF, !s.orderly) ∧ ∀ c, c / 2 ^ 60 = 3 → t.byte c = s.byte c ∧ t.line c = s.line c) ∧
    gives .powerUp { s with orderly := false, supply := true, agenda := [] } ∧
    (s.agenda = [] → s.supply = true → s.bootState = .booting → s.powerState = 0 → s.inputs = [] → s.phase = 2 → ∃ t moves, step s = .next t ∧
      t = { s with phase := 3, draws := t.draws, agenda := moves ++ [.event .boot {}] }) ∧
    (min s.bootShare 48 = s.hshare →
      let f := s.laterFacts.head?.getD s.facts
      let first := f.eccBad.isEmpty && f.supervisorsBad.isEmpty && f.stacksDown.isEmpty
      let sound : Prop := first = true ∧ f.signatureOk = true
      let starts (t : State) : Prop := ∀ d, t.die d = { s.die d with lead := (t.die d).lead } ∧
        (d < 64 → (t.die d).lead ≤ 32) ∧ (64 ≤ d → t.die d = s.die d)
      let counted (t : State) : State := { s with
        dies := t.dies, bootCount := s.bootCount + 1, logFull := false, linksRetired := 0, failures := [], stacksDown := f.stacksDown
        facts := f, laterFacts := s.laterFacts.drop 1, eccFailed := f.eccBad, supFailed := f.supervisorsBad
        signatureFailed := first && !f.signatureOk, pathFailed := if first && f.signatureOk then f.pathless else [] }
      (¬sound → ∃ t, gives .boot t ∧ starts t ∧ t = { counted t with bootState := .hold }) ∧
      (sound → f.pathless ≠ [] → ∃ t, gives .boot t ∧ starts t ∧ t = { counted t with bootState := .hold, linksRetired := f.linksDown }) ∧
      (sound → f.pathless = [] → (s.bootFull = true → f.faulty = []) → ∃ t, gives .boot t ∧ starts t ∧
        t = { counted t with
          linksRetired := f.linksDown, dead := t.dead, deadCols := t.deadCols, census := t.dead, bootState := t.bootState
          bootFull := t.bootFull, pending := if s.bootFull then [] else s.pending, lseq := t.lseq, lword := t.lword, drained := t.drained } ∧
        (∀ sn, t.isDead sn = true ↔ sn ∈ s.fuseDead ∨ (∃ x ∈ s.fieldLog, x.tile = sn ∧ x.column = 0xFF) ∨
          (s.bootFull = false ∧ ∃ c, (sn, c) ∈ s.pending) ∨ ∃ c1 c2, c1 ≠ c2 ∧ s.retired sn c1 ∧ s.retired sn c2) ∧
        let lost : Prop := ∃ die < 64, ∃ kind < 4, (∃ i < 192, kindOfTile (192 * die + i) = kind) ∧
          ∀ i < 192, kindOfTile (192 * die + i) = kind → t.isDead (192 * die + i) = true
        (lost → t.bootState = .hold ∧ t.bootFull = s.bootFull) ∧ (¬lost → t.bootState = .ready ∧ t.bootFull = false ∧ t.drained = none) ∧
        (lost ∨ s.drained = none → t.lseq = s.lseq ∧ t.lword = s.lword ∧ t.drained = s.drained) ∧
        ∀ bits abrupt tag, ¬lost → s.drained = some (bits, abrupt) →
          (1 ≤ tag ∧ tag ≤ 254 →
            let w := SMap.get 0 s.lword tag
            SMap.get 0 t.lseq tag = SMap.get 0 s.dseq tag ∧
            SMap.get 0 t.lword tag = BitVec.ofNat 64 (min ((w.extractLsb' 0 32).toNat + 1) 0xFFFFFFFF + bits % 256 * 2 ^ 32
              + if abrupt then 2 ^ 40 else 0)) ∧
          (¬(1 ≤ tag ∧ tag ≤ 254) → SMap.get 0 t.lseq tag = SMap.get 0 s.lseq tag ∧ SMap.get 0 t.lword tag = SMap.get 0 s.lword tag))) ∧
    (let w : BitVec 9 := if e.more then 0x100 else BitVec.ofNat 9 (2 ^ (e.addr.toNat % 64 / 8))
      ∃ t, gives .memoryError t ∧ t = { s with lines := t.lines } ∧ ∀ c, t.line c = if c / 64 = e.addr.toNat / 64 then
        if e.flag = true ∨ ((s.line c).single ||| (s.line c).double) &&& w ≠ 0
        then { s.line c with single := (s.line c).single &&& ~~~w, double := (s.line c).double ||| w }
        else { s.line c with single := (s.line c).single ||| w } else s.line c) ∧
    ∀ sn off, sn < 12288 → off < 2 ^ 18 → e.addr = BitVec.ofNat 64 (baseOf sn + off) →
      let a := e.addr.toNat
      let m := s.line a
      let n := s.ringCount.toNat % 256
      let errors := ((List.range 9).filter fun i => m.single.getLsbD i).length
      (m.single = 0 → m.double = 0 ∨ m.poisoned = true → gives .scrub s) ∧
      (m.single ≠ 0 → m.double = 0 → (s.die (sn / 192)).corrections + errors ≤ 2 ^ 16 → ∃ t, gives .scrub t ∧
        t = { s with lines := t.lines, dies := t.dies } ∧
        (∀ c, t.line c = if c / 64 = a / 64 then { s.line c with single := 0 } else s.line c) ∧
        DieBecomes s t (sn / 192) { s.die (sn / 192) with corrections := (s.die (sn / 192)).corrections + errors }) ∧
      (m.single = 0 → m.double ≠ 0 → m.poisoned = false →
        (m.tag = 0 ∨ m.tag = 0xFF → ∃ t, gives .scrub t ∧ t = { s with lines := t.lines, ring := t.ring, ringCount := s.ringCount + 1 } ∧
          (∀ c, t.line c = if c / 64 = a / 64 then { s.line c with poisoned := true } else s.line c) ∧
          SMap.get 0 t.ring (2 * n) = BitVec.ofNat 64 (8 * 2 ^ 56 + sn / 192 * 2 ^ 40 + baseOf sn) ∧
          SMap.get 0 t.ring (2 * n + 1) = BitVec.ofNat 64 (a / 64 * 64) ∧
          ∀ i, i ≠ 2 * n → i ≠ 2 * n + 1 → SMap.get 0 t.ring i = SMap.get 0 s.ring i) ∧
        (m.tag ≠ 0 → m.tag ≠ 0xFF → ∃ t, gives .scrub t ∧ (t.job m.tag.toNat).recs = [] ∧ (t.job m.tag.toNat).cancelled = true ∧
          ∀ i l, SMap.get none (t.job m.tag.toNat).launches i = some l → l.counter = 0))

/-! ## Access checks, the step, encodings, invariants and reset -/

/-- R90, R91, R93, R82, R99: LD and ST check in this order: the segment's limit, the right, the space, the alignment; then the
address, and in the own slice the owner tag of the line. The first check that fails traps at the instruction's own word with the address,
and nothing else changes. -/
def Obligations.AccessChecks : Prop :=
  ∀ (w : Width) (sg : S) (d a : G) (m : Mem) (s : State), Runs s → s.me.takesTraps → memRelease m = none → s.cur.core < 12288 →
    let seg := s.me.s[sg]
    let off := (s.me.rg a + BitVec.ofInt 64 m.disp.val).toInt
    let base := (seg.extractLsb' 0 64).toNat
    let limit := (seg.extractLsb' 64 48).toNat
    let at_ : Word := BitVec.ofInt 64 (base + off)
    let n := at_.toNat
    let traps (cause detail : Nat) (i : Instr) : Prop := ∃ t, exec i s = .next t ∧ OnlyMe s t ∧ t.me = s.me.trapped cause detail at_ s.me.pc false
    let both (cause detail : Nat) : Prop := traps cause detail (.ld w sg d a m) ∧ traps cause detail (.st w sg d a m)
    (off < 0 ∨ limit < off + w.bytes → both 0x04 0x11) ∧
    (0 ≤ off → off + w.bytes ≤ limit →
      (seg.getLsbD 112 = false → traps 0x04 0x12 (.ld w sg d a m)) ∧ (seg.getLsbD 113 = false → traps 0x04 0x12 (.st w sg d a m)) ∧
      (at_.extractLsb' 60 4 = 3 → seg.getLsbD 117 = false → traps 0x04 0x12 (.st w sg d a m)) ∧
      (seg.getLsbD 112 = true → seg.getLsbD 113 = true → seg.getLsbD 117 = true →
        (n / 2 ^ 60 ≠ base / 2 ^ 60 → both 0x04 0x13) ∧
        (n / 2 ^ 60 = base / 2 ^ 60 →
          (n % w.bytes ≠ 0 → both 0x05 0x21) ∧
          (n % w.bytes = 0 →
            (n / 2 ^ 60 = 7 → w ≠ .w64 → both 0x05 0x21) ∧
            (4 ≤ n / 2 ^ 60 → n / 2 ^ 60 ≠ 7 → n / 2 ^ 60 ≠ 14 → n / 2 ^ 60 ≠ 15 → both 0x06 0x01) ∧
            (n / 2 ^ 60 = 0 →
              (n / 2 ^ 32 ≠ 0 → both 0x06 0x02) ∧ (n / 2 ^ 32 = 0 → 96 ≤ n / 2 ^ 18 % 128 → both 0x06 0x03) ∧
              (n / 2 ^ 32 = 0 → n / 2 ^ 18 % 128 < 96 → s.isDead (cellTile n) = true → both 0x06 0x04) ∧
              (n / 2 ^ 32 = 0 → n / 2 ^ 18 % 128 < 96 → cellTile n = s.cur.core → s.isDead s.cur.core = false →
                let tag := (s.line n).tag.toNat
                (tag ≠ s.me.tag → tag ≠ 0xFF → both 0x07 0x31) ∧ (tag ≠ s.me.tag → traps 0x07 0x31 (.st w sg d a m))))))))

/-- R49, R121, R123 to R125, R136, R142: a step runs the decoded instruction. At the home position of a thread that may issue, or in a spare
position that its core gives it, the word at its pc, decoded, is executed: the step is exec of that instruction at the state in which the
running thread is this one, npc is the next word's address, and the issue is counted; a word that a decode check stops runs as an
illegal encoding with the check's detail. An event in the schedule is exec of it with its operands. -/
def Obligations.StepRunsDecoded : Prop :=
  ∀ (s : State) (c k avail w : Nat) (rest : List Turn), k < 16 →
    let x := s.slot c k
    let issued (home : Bool) (i : Instr) (n : Nat) (ev : EvArg) (u : State) : Prop :=
      u = { s with agenda := rest, cur := ⟨c, k⟩, cores := u.cores, ev } ∧ CoresBut s u c k ∧
      u.slot c k = { x with npc := x.pc + BitVec.ofNat 64 n, last := s.clk, dist := distanceOf c i, issueCount := x.issueCount + 1
                            retry := false, stash := [], homeHold := if home then false else x.homeHold
                            buf := (u.slot c k).buf, pre := (u.slot c k).pre }
    let home := (s.clk + (s.die (Config.coreDie c)).lead) % 16
    let runs (home : Bool) : Prop := x.fetched = .word avail w → x.wakeStatus = none → (x.reports = [] ∨ x.flags.getLsbD 19 = true) →
      (∀ i n, decodeWord (enginesOf c) avail w = .instr i n → ∃ u, step s = exec i u ∧ issued home i n s.ev u) ∧
      (decodeWord (enginesOf c) avail w = .boundary →
        ∃ u, step s = exec .illegalEncoding u ∧ issued home .illegalEncoding 4 { flag := true } u) ∧
      ∀ detail, decodeWord (enginesOf c) avail w = .illegal detail →
        ∃ u, step s = exec .illegalEncoding u ∧ issued home .illegalEncoding 4 { value := BitVec.ofNat 64 detail } u
    (s.agenda = .position c :: rest → home = k → x.st = .ready → x.stopReq = none → x.want = none → x.retry = false →
      x.banks.cont = [] → x.flags.extractLsb' 16 2 = 0 → (x.dist : Int) ≤ s.clk - x.last → runs true) ∧
    (s.agenda = .spare c :: rest → (s.core c).pickSpare s.clk home = some k → runs (k == home)) ∧
    (∀ i a, s.agenda = .event i a :: rest → step s = exec i { s with agenda := rest, ev := a }) ∧
    ∀ i, s.agenda = .resume c k i :: rest → step s = exec i { s with agenda := rest, cur := ⟨c, k⟩ }

/-- R28, R31 to R34, R40, R46, R47, R49: every well-formed instruction has one word, and the decoder reads it back from that word with every
operand, whatever stands in the block behind it. -/
def Obligations.EncodingRoundTrip : Prop :=
  ∀ (i : Instr) (bits bytes avail rest : Nat), i.wf = true → encode i = some (bits, bytes) → bytes ≤ avail →
    (bytes = 8 ∨ bytes = 12 ∨ bytes = 16) ∧ bits < 2 ^ (8 * bytes) ∧
    decodeWord allEngines avail (bits + 2 ^ (8 * bytes) * rest) = .instr i bytes

/-- R34, R49: what the decoder of any tile accepts is the word of a well-formed instruction, bit for bit: no reserved bit is passed over, and
no two words are one instruction. A pair needs room for 16 bytes, an L96 word for 12, an S64 word for 8, else the fetch
boundary stops it. -/
def Obligations.DecodingIsExact : Prop :=
  ∀ (e : Engines) (avail w : Nat),
    (∀ i bytes, decodeWord e avail w = .instr i bytes → i.wf = true ∧ bytes ≤ avail ∧ encode i = some (w % 2 ^ (8 * bytes), bytes)) ∧
    (w % 4 = 0 → avail < 8 → decodeWord e avail w = .boundary) ∧ (w % 4 = 1 → avail < 12 → decodeWord e avail w = .boundary) ∧
    (w % 4 = 2 → avail < 16 → decodeWord e avail w = .boundary) ∧
    (w % 4 = 3 → decodeWord e avail w = if w % 2 ^ 32 = 3 then .filler else .illegal 0x01)

/-- R31, R32, R40 and the encodings of the chapters: words that the spec writes out, as the instructions that it says they are: `add g4, g4,
g6`; the pair `add g5, g5, 64` with `vld.f32 v1, [s1: g5 + 0]`; `cmpi g4, 100, lt skip=2`; `ld.i32.acq.die g4, [s2: g5 + 16]`; `trap 0x2A`;
`cpqn g3, g8`; `lde g4, [s1: g5 + 8]`; `mldw.f16 g6, [s2: g5], g7, g8 edge=w`; `lxins g8, hf0, [s2: g6], g7`; `send.end c2, g4, s1`; `spawn
g15, g17, g14, g13`; `tklend g5, g6, g7 recall=1`; `pbar.dur g5, s1`. The word of zeros is no instruction. -/
def Obligations.ExampleWords : Prop :=
  decodeTableWord 64 0x0000000000C42008 = some (.add .w64 4 4 6) ∧
  decodeTableWord 128 0x0000000080050D84000040800005280A = some (.pair (.addImm .w64 5 5 (.i24 64)) (.vld .f32 0 1 1 5 ⟨.plain, .grp, .d19 0⟩)) ∧
  decodeTableWord 64 0x0000642800040208 = some (.cmpi .lt 2 4 (.i24 100)) ∧
  decodeTableWord 64 0x5800101100052300 = some (.ld .w32 2 4 5 ⟨.acq, .die, .d19 16⟩) ∧
  decodeTableWord 64 0x00002A00000007A0 = some (.trap 0x2A) ∧
  decodeTableWord 64 0x0000000000081C88 = some (.cpqn 3 8) ∧
  decodeTableWord 64 0x00000800800524C8 = some (.lde 1 4 5 ⟨.plain, .grp, .d19 8⟩) ∧
  decodeTableWord 64 0x0000011120E53500 = some (.mldw .f16 true false 2 6 5 7 8) ∧
  decodeTableWord 64 0x0000000100E64590 = some (.lxins 8 2 6 7 0) ∧
  decodeTableWord 64 0x0000001080041600 = some (.send 2 4 1 true) ∧
  decodeTableWord 64 0x0000000035D17E80 = some (.spawn 15 17 14 13) ∧
  decodeTableWord 64 0x0000001000E62F08 = some (.tklendRecall 5 6 7) ∧
  decodeTableWord 64 0x3000000080002F40 = some (.pbar 5 1) ∧
  decodeTableWord 64 0 = none

/-- The memory of the machine and the metadata of its lines stay in their canonical form, whatever a step does: addresses rise
strictly, and nothing is listed that an unlisted address reads as. -/
def Obligations.StepKeepsMemoryForm : Prop :=
  ∀ (s t : State), s.MemoryForm → step s = .next t → t.MemoryForm

/-- R89, R98, R118, R133, R136, R175, R294: a slot after reset, as far as the spec gives it. R136, R209, R242 to R244, R264, R293, R302:
a core; R360, R398: a die; R375, R388, R406, R413, R415: the device. Memory lists nothing, and its form holds. -/
def Obligations.ResetState : Prop :=
  let s := State.reset
  s.MemoryForm ∧ s.mem = [] ∧
  (∀ c k : Nat, let x := s.slot c k
    x.s = Vector.replicate 8 0 ∧ x.c = Vector.replicate 8 0 ∧ x.flags = 0 ∧ x.trapPc = 0 ∧ x.trapFlags = 0 ∧ x.trapCause = 0 ∧ x.trapAddr = 0 ∧
    x.stallTimeout = 0x10000 ∧ x.touched = 0 ∧ x.wakePend = false ∧ x.issueCount = 0) ∧
  (∀ a, s.line a = { typed := false, fe := 0xFF, tag := 0, single := 0, double := 0, poisoned := false, wiped := none }) ∧
  (∀ c, let x := s.core c
    x.chkCount = 0 ∧ x.copyFifo = [] ∧ x.mxSticky = 0 ∧ x.lxSticky = 0 ∧ x.hf = Vector.replicate 4 0 ∧ x.lt = Vector.replicate 8 0 ∧ x.rh = none ∧
    x.role = 0 ∧ x.pend = none ∧ x.ovf = 0x800000000003E000 ∧ (∀ i, SMap.get 0 x.roleTab i = 0) ∧ x.win = #v[0xE001000000, 0, 0, 0]) ∧
  (∀ d, let x := s.die d
    x.pool = 4800 ∧ x.op = Vector.replicate 3 0 ∧ x.cmd = none ∧ x.lost = false ∧ x.result = 0) ∧
  s.bootState = .booting ∧ s.bootFull = true ∧ s.bootShare = 8 ∧ s.hshare = 8 ∧ s.powerState = 0 ∧ s.deepOk = false ∧ s.idleHold = 10 ∧
  s.latTol = 0 ∧ s.owner = none ∧ s.ringCount = 0
end

