-- ==== Sys2Proof/Laws/Maps.lean ====
section
/-!
SUPPORT. The laws of sparse maps: what every key reads after a write (`SMap.get_set`), that a write keeps the canonical form
(`SMap.wf_set`), and that maps in this form which read alike are equal (`SMap.ext_of_wf`).
-/
namespace Sys2Proof.Machine

variable {α : Type}

/-! ## Reading -/

theorem SMap.find?_insert (q r : Nat) (x : α) :
    ∀ m : SMap α, SMap.find? (SMap.insert q x m) r = if r = q then some x else SMap.find? m r
  | [] => rfl
  | (k, v) :: m => by
    have rest := SMap.find?_insert q r x m
    by_cases hr : r = q <;> by_cases hk : q = k <;> simp_all [SMap.insert, SMap.find?]
    · split <;> simp_all [SMap.find?]
    · split <;> simp_all [SMap.find?]

theorem SMap.find?_erase (q r : Nat) :
    ∀ m : SMap α, SMap.find? (SMap.erase q m) r = if r = q then none else SMap.find? m r
  | [] => by simp [SMap.erase, SMap.find?]
  | (k, v) :: m => by
    have rest := SMap.find?_erase q r m
    by_cases hr : r = q <;> by_cases hk : q = k <;> simp_all [SMap.erase, SMap.find?]

/-- What a list with a first entry reads. -/
theorem SMap.get_cons (d : α) (k q : Nat) (v : α) (m : SMap α) : SMap.get d ((k, v) :: m) q = if q = k then v else SMap.get d m q := by
  by_cases h : q = k <;> simp [SMap.get, SMap.find?, h]

/-- A READ AFTER A WRITE: the value written, at its own key; what stood there before, at every other one. -/
theorem SMap.get_set [DecidableEq α] (d : α) (m : SMap α) (q r : Nat) (x : α) :
    SMap.get d (SMap.set d m q x) r = if r = q then x else SMap.get d m r := by
  by_cases hx : x = d <;> by_cases hr : r = q <;> simp [SMap.get, SMap.set, SMap.find?_insert, SMap.find?_erase, hx, hr]

@[simp] theorem SMap.get_set_same [DecidableEq α] (d : α) (m : SMap α) (q : Nat) (x : α) : SMap.get d (SMap.set d m q x) q = x := by
  simp [SMap.get_set]

theorem SMap.get_set_other [DecidableEq α] (d : α) (m : SMap α) {q r : Nat} (h : r ≠ q) (x : α) :
    SMap.get d (SMap.set d m q x) r = SMap.get d m r := by simp [SMap.get_set, h]

/-! ## The canonical form -/

section form
variable [DecidableEq α] (d : α)

/-- The canonical form of a list with a first entry. -/
@[simp] theorem SMap.wfFrom_cons (lo k : Nat) (v : α) (m : SMap α) :
    SMap.wfFrom d lo ((k, v) :: m) = true ↔ (lo ≤ k ∧ v ≠ d) ∧ SMap.wfFrom d (k + 1) m = true := by
  simp [SMap.wfFrom]

/-- A lower bound may be lowered. -/
theorem SMap.wfFrom_mono {lo lo' : Nat} (h : lo' ≤ lo) : ∀ {m : SMap α}, SMap.wfFrom d lo m = true → SMap.wfFrom d lo' m = true
  | [], _ => rfl
  | (_, _) :: _, hm => by simp only [SMap.wfFrom_cons] at hm ⊢; exact ⟨⟨Nat.le_trans h hm.1.1, hm.1.2⟩, hm.2⟩

theorem SMap.wfFrom_insert {x : α} (hx : x ≠ d) {q : Nat} :
    ∀ {lo : Nat} {m : SMap α}, lo ≤ q → SMap.wfFrom d lo m = true → SMap.wfFrom d lo (SMap.insert q x m) = true
  | _, [], hq, _ => by simp [SMap.insert, hx, hq, SMap.wfFrom]
  | _, (k, _) :: m, hq, hm => by
    have rest := SMap.wfFrom_insert hx (lo := k + 1) (m := m) (q := q)
    rcases Nat.lt_trichotomy q k with h | h | h
    · simp_all [SMap.insert, Nat.succ_le_of_lt h]
    · subst h; simp_all [SMap.insert]
    · simp_all [SMap.insert, Nat.lt_asymm h, Nat.ne_of_gt h, Nat.succ_le_of_lt h]

theorem SMap.wfFrom_erase {q : Nat} :
    ∀ {lo : Nat} {m : SMap α}, SMap.wfFrom d lo m = true → SMap.wfFrom d lo (SMap.erase q m) = true
  | _, [], _ => rfl
  | lo, (k, _) :: m, hm => by
    rw [SMap.wfFrom_cons] at hm
    have rest := SMap.wfFrom_erase (q := q) hm.2
    by_cases h : q = k
    · rw [SMap.erase, if_pos h]
      exact SMap.wfFrom_mono d (Nat.le_succ_of_le hm.1.1) rest
    · rw [SMap.erase, if_neg h, SMap.wfFrom_cons]
      exact ⟨hm.1, rest⟩

/-- A WRITE KEEPS THE CANONICAL FORM. -/
theorem SMap.wf_set {m : SMap α} (hm : SMap.wf d m = true) (q : Nat) (x : α) : SMap.wf d (SMap.set d m q x) = true := by
  by_cases hx : x = d
  · rw [SMap.set, if_pos hx]; exact SMap.wfFrom_erase d hm
  · rw [SMap.set, if_neg hx]; exact SMap.wfFrom_insert d hx (Nat.zero_le q) hm

/-- A key below the bound reads the default. -/
theorem SMap.get_below {q : Nat} : ∀ {lo : Nat} {m : SMap α}, q < lo → SMap.wfFrom d lo m = true → SMap.get d m q = d
  | _, [], _, _ => rfl
  | _, (k, _) :: _, h, hm => by
    rw [SMap.wfFrom_cons] at hm
    have far : q < k := Nat.lt_of_lt_of_le h hm.1.1
    have rest := SMap.get_below (Nat.lt_succ_of_lt far) hm.2
    simpa [SMap.get, SMap.find?, Nat.ne_of_lt far] using rest

/-- Two maps in the canonical form that read alike everywhere are equal: equal contents are equal data. -/
theorem SMap.ext_of_wf : ∀ {lo : Nat} {m n : SMap α}, SMap.wfFrom d lo m = true → SMap.wfFrom d lo n = true →
    (∀ q, SMap.get d m q = SMap.get d n q) → m = n
  | _, [], [], _, _, _ => rfl
  | _, [], (k, v) :: n, _, hn, h => absurd ((SMap.get_cons d k k v n).symm.trans (h k).symm |> (if_pos rfl).symm.trans)
      ((SMap.wfFrom_cons d _ k v n).1 hn).1.2
  | _, (k, v) :: m, [], hm, _, h => absurd ((SMap.get_cons d k k v m).symm.trans (h k) |> (if_pos rfl).symm.trans)
      ((SMap.wfFrom_cons d _ k v m).1 hm).1.2
  | lo, (k, v) :: m, (k', v') :: n, hm, hn, h => by
    rw [SMap.wfFrom_cons] at hm hn
    -- the lower of the two first keys would read the default on the other side
    have first {j j' : Nat} {w : α} {a b : SMap α} (hlt : j < j') (hw : w ≠ d) (hb : SMap.wfFrom d (j' + 1) b = true) (w' : α) :
        SMap.get d ((j, w) :: a) j ≠ SMap.get d ((j', w') :: b) j := by
      rw [SMap.get_cons, SMap.get_cons, if_pos rfl, if_neg (Nat.ne_of_lt hlt), SMap.get_below d (Nat.lt_succ_of_lt hlt) hb]
      exact hw
    have hk : k = k' := by
      rcases Nat.lt_trichotomy k k' with lt | eq | gt
      · exact absurd (h k) (first lt hm.1.2 hn.2 v')
      · exact eq
      · exact absurd (h k').symm (first gt hn.1.2 hm.2 v)
    subst hk
    have hv : v = v' := by simpa [SMap.get_cons] using h k
    subst hv
    rw [SMap.ext_of_wf hm.2 hn.2 fun q => ?_]
    by_cases hq : q = k
    · subst hq; rw [SMap.get_below d (Nat.lt_succ_self q) hm.2, SMap.get_below d (Nat.lt_succ_self q) hn.2]
    · simpa [SMap.get_cons, hq] using h q
end form

end Sys2Proof.Machine
end

