-- ==== Sys2Proof/Laws/State.lean ====
section
/-!
SUPPORT. What each update of the state leaves: one lemma per field per update, true by `rfl`, so that no proof unfolds a record update.
-/
namespace Sys2Proof.Machine

@[simp] theorem State.setCore_clk (s : State) (cid : Nat) (c : Core) : (s.setCore cid c).clk = s.clk := rfl
@[simp] theorem State.setCore_phase (s : State) (cid : Nat) (c : Core) : (s.setCore cid c).phase = s.phase := rfl
@[simp] theorem State.setCore_agenda (s : State) (cid : Nat) (c : Core) : (s.setCore cid c).agenda = s.agenda := rfl
@[simp] theorem State.setCore_cur (s : State) (cid : Nat) (c : Core) : (s.setCore cid c).cur = s.cur := rfl
@[simp] theorem State.setCore_ev (s : State) (cid : Nat) (c : Core) : (s.setCore cid c).ev = s.ev := rfl
@[simp] theorem State.setCore_draws (s : State) (cid : Nat) (c : Core) : (s.setCore cid c).draws = s.draws := rfl
@[simp] theorem State.setCore_mem (s : State) (cid : Nat) (c : Core) : (s.setCore cid c).mem = s.mem := rfl
@[simp] theorem State.setCore_lines (s : State) (cid : Nat) (c : Core) : (s.setCore cid c).lines = s.lines := rfl
@[simp] theorem State.setCore_dies (s : State) (cid : Nat) (c : Core) : (s.setCore cid c).dies = s.dies := rfl
@[simp] theorem State.setCore_jobs (s : State) (cid : Nat) (c : Core) : (s.setCore cid c).jobs = s.jobs := rfl
@[simp] theorem State.setCore_tlb (s : State) (cid : Nat) (c : Core) : (s.setCore cid c).tlb = s.tlb := rfl
@[simp] theorem State.setCore_accesses (s : State) (cid : Nat) (c : Core) : (s.setCore cid c).accesses = s.accesses := rfl
@[simp] theorem State.setCore_nextAcc (s : State) (cid : Nat) (c : Core) : (s.setCore cid c).nextAcc = s.nextAcc := rfl
@[simp] theorem State.setCore_msgs (s : State) (cid : Nat) (c : Core) : (s.setCore cid c).msgs = s.msgs := rfl
@[simp] theorem State.setCore_nextMsg (s : State) (cid : Nat) (c : Core) : (s.setCore cid c).nextMsg = s.nextMsg := rfl
@[simp] theorem State.setCore_waiters (s : State) (cid : Nat) (c : Core) : (s.setCore cid c).waiters = s.waiters := rfl
@[simp] theorem State.setCore_nextReq (s : State) (cid : Nat) (c : Core) : (s.setCore cid c).nextReq = s.nextReq := rfl
@[simp] theorem State.setCore_nvq (s : State) (cid : Nat) (c : Core) : (s.setCore cid c).nvq = s.nvq := rfl
@[simp] theorem State.setCore_reports (s : State) (cid : Nat) (c : Core) : (s.setCore cid c).reports = s.reports := rfl
@[simp] theorem State.setCore_dead (s : State) (cid : Nat) (c : Core) : (s.setCore cid c).dead = s.dead := rfl
@[simp] theorem State.setCore_hshare (s : State) (cid : Nat) (c : Core) : (s.setCore cid c).hshare = s.hshare := rfl
@[simp] theorem State.setCore_ring (s : State) (cid : Nat) (c : Core) : (s.setCore cid c).ring = s.ring := rfl
@[simp] theorem State.setCore_dseq (s : State) (cid : Nat) (c : Core) : (s.setCore cid c).dseq = s.dseq := rfl
@[simp] theorem State.setCore_lseq (s : State) (cid : Nat) (c : Core) : (s.setCore cid c).lseq = s.lseq := rfl
@[simp] theorem State.setCore_lword (s : State) (cid : Nat) (c : Core) : (s.setCore cid c).lword = s.lword := rfl
@[simp] theorem State.setCore_seqDie (s : State) (cid : Nat) (c : Core) : (s.setCore cid c).seqDie = s.seqDie := rfl
@[simp] theorem State.setCore_supply (s : State) (cid : Nat) (c : Core) : (s.setCore cid c).supply = s.supply := rfl
@[simp] theorem State.setCore_bootState (s : State) (cid : Nat) (c : Core) : (s.setCore cid c).bootState = s.bootState := rfl
@[simp] theorem State.setCore_owner (s : State) (cid : Nat) (c : Core) : (s.setCore cid c).owner = s.owner := rfl

@[simp] theorem State.modCore_clk (s : State) (cid : Nat) (f : Core → Core) : (s.modCore cid f).clk = s.clk := rfl
@[simp] theorem State.modCore_phase (s : State) (cid : Nat) (f : Core → Core) : (s.modCore cid f).phase = s.phase := rfl
@[simp] theorem State.modCore_agenda (s : State) (cid : Nat) (f : Core → Core) : (s.modCore cid f).agenda = s.agenda := rfl
@[simp] theorem State.modCore_cur (s : State) (cid : Nat) (f : Core → Core) : (s.modCore cid f).cur = s.cur := rfl
@[simp] theorem State.modCore_ev (s : State) (cid : Nat) (f : Core → Core) : (s.modCore cid f).ev = s.ev := rfl
@[simp] theorem State.modCore_draws (s : State) (cid : Nat) (f : Core → Core) : (s.modCore cid f).draws = s.draws := rfl
@[simp] theorem State.modCore_mem (s : State) (cid : Nat) (f : Core → Core) : (s.modCore cid f).mem = s.mem := rfl
@[simp] theorem State.modCore_lines (s : State) (cid : Nat) (f : Core → Core) : (s.modCore cid f).lines = s.lines := rfl
@[simp] theorem State.modCore_dies (s : State) (cid : Nat) (f : Core → Core) : (s.modCore cid f).dies = s.dies := rfl
@[simp] theorem State.modCore_jobs (s : State) (cid : Nat) (f : Core → Core) : (s.modCore cid f).jobs = s.jobs := rfl
@[simp] theorem State.modCore_tlb (s : State) (cid : Nat) (f : Core → Core) : (s.modCore cid f).tlb = s.tlb := rfl
@[simp] theorem State.modCore_accesses (s : State) (cid : Nat) (f : Core → Core) : (s.modCore cid f).accesses = s.accesses := rfl
@[simp] theorem State.modCore_nextAcc (s : State) (cid : Nat) (f : Core → Core) : (s.modCore cid f).nextAcc = s.nextAcc := rfl
@[simp] theorem State.modCore_msgs (s : State) (cid : Nat) (f : Core → Core) : (s.modCore cid f).msgs = s.msgs := rfl
@[simp] theorem State.modCore_nextMsg (s : State) (cid : Nat) (f : Core → Core) : (s.modCore cid f).nextMsg = s.nextMsg := rfl
@[simp] theorem State.modCore_waiters (s : State) (cid : Nat) (f : Core → Core) : (s.modCore cid f).waiters = s.waiters := rfl
@[simp] theorem State.modCore_nextReq (s : State) (cid : Nat) (f : Core → Core) : (s.modCore cid f).nextReq = s.nextReq := rfl
@[simp] theorem State.modCore_nvq (s : State) (cid : Nat) (f : Core → Core) : (s.modCore cid f).nvq = s.nvq := rfl
@[simp] theorem State.modCore_reports (s : State) (cid : Nat) (f : Core → Core) : (s.modCore cid f).reports = s.reports := rfl
@[simp] theorem State.modCore_dead (s : State) (cid : Nat) (f : Core → Core) : (s.modCore cid f).dead = s.dead := rfl
@[simp] theorem State.modCore_hshare (s : State) (cid : Nat) (f : Core → Core) : (s.modCore cid f).hshare = s.hshare := rfl
@[simp] theorem State.modCore_ring (s : State) (cid : Nat) (f : Core → Core) : (s.modCore cid f).ring = s.ring := rfl
@[simp] theorem State.modCore_dseq (s : State) (cid : Nat) (f : Core → Core) : (s.modCore cid f).dseq = s.dseq := rfl
@[simp] theorem State.modCore_lseq (s : State) (cid : Nat) (f : Core → Core) : (s.modCore cid f).lseq = s.lseq := rfl
@[simp] theorem State.modCore_lword (s : State) (cid : Nat) (f : Core → Core) : (s.modCore cid f).lword = s.lword := rfl
@[simp] theorem State.modCore_seqDie (s : State) (cid : Nat) (f : Core → Core) : (s.modCore cid f).seqDie = s.seqDie := rfl
@[simp] theorem State.modCore_supply (s : State) (cid : Nat) (f : Core → Core) : (s.modCore cid f).supply = s.supply := rfl
@[simp] theorem State.modCore_bootState (s : State) (cid : Nat) (f : Core → Core) : (s.modCore cid f).bootState = s.bootState := rfl
@[simp] theorem State.modCore_owner (s : State) (cid : Nat) (f : Core → Core) : (s.modCore cid f).owner = s.owner := rfl

@[simp] theorem State.setSlot_clk (s : State) (cid k : Nat) (t : Slot) : (s.setSlot cid k t).clk = s.clk := rfl
@[simp] theorem State.setSlot_phase (s : State) (cid k : Nat) (t : Slot) : (s.setSlot cid k t).phase = s.phase := rfl
@[simp] theorem State.setSlot_agenda (s : State) (cid k : Nat) (t : Slot) : (s.setSlot cid k t).agenda = s.agenda := rfl
@[simp] theorem State.setSlot_cur (s : State) (cid k : Nat) (t : Slot) : (s.setSlot cid k t).cur = s.cur := rfl
@[simp] theorem State.setSlot_ev (s : State) (cid k : Nat) (t : Slot) : (s.setSlot cid k t).ev = s.ev := rfl
@[simp] theorem State.setSlot_draws (s : State) (cid k : Nat) (t : Slot) : (s.setSlot cid k t).draws = s.draws := rfl
@[simp] theorem State.setSlot_mem (s : State) (cid k : Nat) (t : Slot) : (s.setSlot cid k t).mem = s.mem := rfl
@[simp] theorem State.setSlot_lines (s : State) (cid k : Nat) (t : Slot) : (s.setSlot cid k t).lines = s.lines := rfl
@[simp] theorem State.setSlot_dies (s : State) (cid k : Nat) (t : Slot) : (s.setSlot cid k t).dies = s.dies := rfl
@[simp] theorem State.setSlot_jobs (s : State) (cid k : Nat) (t : Slot) : (s.setSlot cid k t).jobs = s.jobs := rfl
@[simp] theorem State.setSlot_tlb (s : State) (cid k : Nat) (t : Slot) : (s.setSlot cid k t).tlb = s.tlb := rfl
@[simp] theorem State.setSlot_accesses (s : State) (cid k : Nat) (t : Slot) : (s.setSlot cid k t).accesses = s.accesses := rfl
@[simp] theorem State.setSlot_nextAcc (s : State) (cid k : Nat) (t : Slot) : (s.setSlot cid k t).nextAcc = s.nextAcc := rfl
@[simp] theorem State.setSlot_msgs (s : State) (cid k : Nat) (t : Slot) : (s.setSlot cid k t).msgs = s.msgs := rfl
@[simp] theorem State.setSlot_nextMsg (s : State) (cid k : Nat) (t : Slot) : (s.setSlot cid k t).nextMsg = s.nextMsg := rfl
@[simp] theorem State.setSlot_waiters (s : State) (cid k : Nat) (t : Slot) : (s.setSlot cid k t).waiters = s.waiters := rfl
@[simp] theorem State.setSlot_nextReq (s : State) (cid k : Nat) (t : Slot) : (s.setSlot cid k t).nextReq = s.nextReq := rfl
@[simp] theorem State.setSlot_nvq (s : State) (cid k : Nat) (t : Slot) : (s.setSlot cid k t).nvq = s.nvq := rfl
@[simp] theorem State.setSlot_reports (s : State) (cid k : Nat) (t : Slot) : (s.setSlot cid k t).reports = s.reports := rfl
@[simp] theorem State.setSlot_dead (s : State) (cid k : Nat) (t : Slot) : (s.setSlot cid k t).dead = s.dead := rfl
@[simp] theorem State.setSlot_hshare (s : State) (cid k : Nat) (t : Slot) : (s.setSlot cid k t).hshare = s.hshare := rfl
@[simp] theorem State.setSlot_ring (s : State) (cid k : Nat) (t : Slot) : (s.setSlot cid k t).ring = s.ring := rfl
@[simp] theorem State.setSlot_dseq (s : State) (cid k : Nat) (t : Slot) : (s.setSlot cid k t).dseq = s.dseq := rfl
@[simp] theorem State.setSlot_lseq (s : State) (cid k : Nat) (t : Slot) : (s.setSlot cid k t).lseq = s.lseq := rfl
@[simp] theorem State.setSlot_lword (s : State) (cid k : Nat) (t : Slot) : (s.setSlot cid k t).lword = s.lword := rfl
@[simp] theorem State.setSlot_seqDie (s : State) (cid k : Nat) (t : Slot) : (s.setSlot cid k t).seqDie = s.seqDie := rfl
@[simp] theorem State.setSlot_supply (s : State) (cid k : Nat) (t : Slot) : (s.setSlot cid k t).supply = s.supply := rfl
@[simp] theorem State.setSlot_bootState (s : State) (cid k : Nat) (t : Slot) : (s.setSlot cid k t).bootState = s.bootState := rfl
@[simp] theorem State.setSlot_owner (s : State) (cid k : Nat) (t : Slot) : (s.setSlot cid k t).owner = s.owner := rfl

@[simp] theorem State.modSlot_clk (s : State) (cid k : Nat) (f : Slot → Slot) : (s.modSlot cid k f).clk = s.clk := rfl
@[simp] theorem State.modSlot_phase (s : State) (cid k : Nat) (f : Slot → Slot) : (s.modSlot cid k f).phase = s.phase := rfl
@[simp] theorem State.modSlot_agenda (s : State) (cid k : Nat) (f : Slot → Slot) : (s.modSlot cid k f).agenda = s.agenda := rfl
@[simp] theorem State.modSlot_cur (s : State) (cid k : Nat) (f : Slot → Slot) : (s.modSlot cid k f).cur = s.cur := rfl
@[simp] theorem State.modSlot_ev (s : State) (cid k : Nat) (f : Slot → Slot) : (s.modSlot cid k f).ev = s.ev := rfl
@[simp] theorem State.modSlot_draws (s : State) (cid k : Nat) (f : Slot → Slot) : (s.modSlot cid k f).draws = s.draws := rfl
@[simp] theorem State.modSlot_mem (s : State) (cid k : Nat) (f : Slot → Slot) : (s.modSlot cid k f).mem = s.mem := rfl
@[simp] theorem State.modSlot_lines (s : State) (cid k : Nat) (f : Slot → Slot) : (s.modSlot cid k f).lines = s.lines := rfl
@[simp] theorem State.modSlot_dies (s : State) (cid k : Nat) (f : Slot → Slot) : (s.modSlot cid k f).dies = s.dies := rfl
@[simp] theorem State.modSlot_jobs (s : State) (cid k : Nat) (f : Slot → Slot) : (s.modSlot cid k f).jobs = s.jobs := rfl
@[simp] theorem State.modSlot_tlb (s : State) (cid k : Nat) (f : Slot → Slot) : (s.modSlot cid k f).tlb = s.tlb := rfl
@[simp] theorem State.modSlot_accesses (s : State) (cid k : Nat) (f : Slot → Slot) : (s.modSlot cid k f).accesses = s.accesses := rfl
@[simp] theorem State.modSlot_nextAcc (s : State) (cid k : Nat) (f : Slot → Slot) : (s.modSlot cid k f).nextAcc = s.nextAcc := rfl
@[simp] theorem State.modSlot_msgs (s : State) (cid k : Nat) (f : Slot → Slot) : (s.modSlot cid k f).msgs = s.msgs := rfl
@[simp] theorem State.modSlot_nextMsg (s : State) (cid k : Nat) (f : Slot → Slot) : (s.modSlot cid k f).nextMsg = s.nextMsg := rfl
@[simp] theorem State.modSlot_waiters (s : State) (cid k : Nat) (f : Slot → Slot) : (s.modSlot cid k f).waiters = s.waiters := rfl
@[simp] theorem State.modSlot_nextReq (s : State) (cid k : Nat) (f : Slot → Slot) : (s.modSlot cid k f).nextReq = s.nextReq := rfl
@[simp] theorem State.modSlot_nvq (s : State) (cid k : Nat) (f : Slot → Slot) : (s.modSlot cid k f).nvq = s.nvq := rfl
@[simp] theorem State.modSlot_reports (s : State) (cid k : Nat) (f : Slot → Slot) : (s.modSlot cid k f).reports = s.reports := rfl
@[simp] theorem State.modSlot_dead (s : State) (cid k : Nat) (f : Slot → Slot) : (s.modSlot cid k f).dead = s.dead := rfl
@[simp] theorem State.modSlot_hshare (s : State) (cid k : Nat) (f : Slot → Slot) : (s.modSlot cid k f).hshare = s.hshare := rfl
@[simp] theorem State.modSlot_ring (s : State) (cid k : Nat) (f : Slot → Slot) : (s.modSlot cid k f).ring = s.ring := rfl
@[simp] theorem State.modSlot_dseq (s : State) (cid k : Nat) (f : Slot → Slot) : (s.modSlot cid k f).dseq = s.dseq := rfl
@[simp] theorem State.modSlot_lseq (s : State) (cid k : Nat) (f : Slot → Slot) : (s.modSlot cid k f).lseq = s.lseq := rfl
@[simp] theorem State.modSlot_lword (s : State) (cid k : Nat) (f : Slot → Slot) : (s.modSlot cid k f).lword = s.lword := rfl
@[simp] theorem State.modSlot_seqDie (s : State) (cid k : Nat) (f : Slot → Slot) : (s.modSlot cid k f).seqDie = s.seqDie := rfl
@[simp] theorem State.modSlot_supply (s : State) (cid k : Nat) (f : Slot → Slot) : (s.modSlot cid k f).supply = s.supply := rfl
@[simp] theorem State.modSlot_bootState (s : State) (cid k : Nat) (f : Slot → Slot) : (s.modSlot cid k f).bootState = s.bootState := rfl
@[simp] theorem State.modSlot_owner (s : State) (cid k : Nat) (f : Slot → Slot) : (s.modSlot cid k f).owner = s.owner := rfl

@[simp] theorem State.setMe_clk (s : State) (t : Slot) : (s.setMe t).clk = s.clk := rfl
@[simp] theorem State.setMe_phase (s : State) (t : Slot) : (s.setMe t).phase = s.phase := rfl
@[simp] theorem State.setMe_agenda (s : State) (t : Slot) : (s.setMe t).agenda = s.agenda := rfl
@[simp] theorem State.setMe_cur (s : State) (t : Slot) : (s.setMe t).cur = s.cur := rfl
@[simp] theorem State.setMe_ev (s : State) (t : Slot) : (s.setMe t).ev = s.ev := rfl
@[simp] theorem State.setMe_draws (s : State) (t : Slot) : (s.setMe t).draws = s.draws := rfl
@[simp] theorem State.setMe_mem (s : State) (t : Slot) : (s.setMe t).mem = s.mem := rfl
@[simp] theorem State.setMe_lines (s : State) (t : Slot) : (s.setMe t).lines = s.lines := rfl
@[simp] theorem State.setMe_dies (s : State) (t : Slot) : (s.setMe t).dies = s.dies := rfl
@[simp] theorem State.setMe_jobs (s : State) (t : Slot) : (s.setMe t).jobs = s.jobs := rfl
@[simp] theorem State.setMe_tlb (s : State) (t : Slot) : (s.setMe t).tlb = s.tlb := rfl
@[simp] theorem State.setMe_accesses (s : State) (t : Slot) : (s.setMe t).accesses = s.accesses := rfl
@[simp] theorem State.setMe_nextAcc (s : State) (t : Slot) : (s.setMe t).nextAcc = s.nextAcc := rfl
@[simp] theorem State.setMe_msgs (s : State) (t : Slot) : (s.setMe t).msgs = s.msgs := rfl
@[simp] theorem State.setMe_nextMsg (s : State) (t : Slot) : (s.setMe t).nextMsg = s.nextMsg := rfl
@[simp] theorem State.setMe_waiters (s : State) (t : Slot) : (s.setMe t).waiters = s.waiters := rfl
@[simp] theorem State.setMe_nextReq (s : State) (t : Slot) : (s.setMe t).nextReq = s.nextReq := rfl
@[simp] theorem State.setMe_nvq (s : State) (t : Slot) : (s.setMe t).nvq = s.nvq := rfl
@[simp] theorem State.setMe_reports (s : State) (t : Slot) : (s.setMe t).reports = s.reports := rfl
@[simp] theorem State.setMe_dead (s : State) (t : Slot) : (s.setMe t).dead = s.dead := rfl
@[simp] theorem State.setMe_hshare (s : State) (t : Slot) : (s.setMe t).hshare = s.hshare := rfl
@[simp] theorem State.setMe_ring (s : State) (t : Slot) : (s.setMe t).ring = s.ring := rfl
@[simp] theorem State.setMe_dseq (s : State) (t : Slot) : (s.setMe t).dseq = s.dseq := rfl
@[simp] theorem State.setMe_lseq (s : State) (t : Slot) : (s.setMe t).lseq = s.lseq := rfl
@[simp] theorem State.setMe_lword (s : State) (t : Slot) : (s.setMe t).lword = s.lword := rfl
@[simp] theorem State.setMe_seqDie (s : State) (t : Slot) : (s.setMe t).seqDie = s.seqDie := rfl
@[simp] theorem State.setMe_supply (s : State) (t : Slot) : (s.setMe t).supply = s.supply := rfl
@[simp] theorem State.setMe_bootState (s : State) (t : Slot) : (s.setMe t).bootState = s.bootState := rfl
@[simp] theorem State.setMe_owner (s : State) (t : Slot) : (s.setMe t).owner = s.owner := rfl

@[simp] theorem State.modMe_clk (s : State) (f : Slot → Slot) : (s.modMe f).clk = s.clk := rfl
@[simp] theorem State.modMe_phase (s : State) (f : Slot → Slot) : (s.modMe f).phase = s.phase := rfl
@[simp] theorem State.modMe_agenda (s : State) (f : Slot → Slot) : (s.modMe f).agenda = s.agenda := rfl
@[simp] theorem State.modMe_cur (s : State) (f : Slot → Slot) : (s.modMe f).cur = s.cur := rfl
@[simp] theorem State.modMe_ev (s : State) (f : Slot → Slot) : (s.modMe f).ev = s.ev := rfl
@[simp] theorem State.modMe_draws (s : State) (f : Slot → Slot) : (s.modMe f).draws = s.draws := rfl
@[simp] theorem State.modMe_mem (s : State) (f : Slot → Slot) : (s.modMe f).mem = s.mem := rfl
@[simp] theorem State.modMe_lines (s : State) (f : Slot → Slot) : (s.modMe f).lines = s.lines := rfl
@[simp] theorem State.modMe_dies (s : State) (f : Slot → Slot) : (s.modMe f).dies = s.dies := rfl
@[simp] theorem State.modMe_jobs (s : State) (f : Slot → Slot) : (s.modMe f).jobs = s.jobs := rfl
@[simp] theorem State.modMe_tlb (s : State) (f : Slot → Slot) : (s.modMe f).tlb = s.tlb := rfl
@[simp] theorem State.modMe_accesses (s : State) (f : Slot → Slot) : (s.modMe f).accesses = s.accesses := rfl
@[simp] theorem State.modMe_nextAcc (s : State) (f : Slot → Slot) : (s.modMe f).nextAcc = s.nextAcc := rfl
@[simp] theorem State.modMe_msgs (s : State) (f : Slot → Slot) : (s.modMe f).msgs = s.msgs := rfl
@[simp] theorem State.modMe_nextMsg (s : State) (f : Slot → Slot) : (s.modMe f).nextMsg = s.nextMsg := rfl
@[simp] theorem State.modMe_waiters (s : State) (f : Slot → Slot) : (s.modMe f).waiters = s.waiters := rfl
@[simp] theorem State.modMe_nextReq (s : State) (f : Slot → Slot) : (s.modMe f).nextReq = s.nextReq := rfl
@[simp] theorem State.modMe_nvq (s : State) (f : Slot → Slot) : (s.modMe f).nvq = s.nvq := rfl
@[simp] theorem State.modMe_reports (s : State) (f : Slot → Slot) : (s.modMe f).reports = s.reports := rfl
@[simp] theorem State.modMe_dead (s : State) (f : Slot → Slot) : (s.modMe f).dead = s.dead := rfl
@[simp] theorem State.modMe_hshare (s : State) (f : Slot → Slot) : (s.modMe f).hshare = s.hshare := rfl
@[simp] theorem State.modMe_ring (s : State) (f : Slot → Slot) : (s.modMe f).ring = s.ring := rfl
@[simp] theorem State.modMe_dseq (s : State) (f : Slot → Slot) : (s.modMe f).dseq = s.dseq := rfl
@[simp] theorem State.modMe_lseq (s : State) (f : Slot → Slot) : (s.modMe f).lseq = s.lseq := rfl
@[simp] theorem State.modMe_lword (s : State) (f : Slot → Slot) : (s.modMe f).lword = s.lword := rfl
@[simp] theorem State.modMe_seqDie (s : State) (f : Slot → Slot) : (s.modMe f).seqDie = s.seqDie := rfl
@[simp] theorem State.modMe_supply (s : State) (f : Slot → Slot) : (s.modMe f).supply = s.supply := rfl
@[simp] theorem State.modMe_bootState (s : State) (f : Slot → Slot) : (s.modMe f).bootState = s.bootState := rfl
@[simp] theorem State.modMe_owner (s : State) (f : Slot → Slot) : (s.modMe f).owner = s.owner := rfl

@[simp] theorem State.park_clk (s : State) (cid k : Nat) (p : Park) : (s.park cid k p).clk = s.clk := rfl
@[simp] theorem State.park_phase (s : State) (cid k : Nat) (p : Park) : (s.park cid k p).phase = s.phase := rfl
@[simp] theorem State.park_agenda (s : State) (cid k : Nat) (p : Park) : (s.park cid k p).agenda = s.agenda := rfl
@[simp] theorem State.park_cur (s : State) (cid k : Nat) (p : Park) : (s.park cid k p).cur = s.cur := rfl
@[simp] theorem State.park_ev (s : State) (cid k : Nat) (p : Park) : (s.park cid k p).ev = s.ev := rfl
@[simp] theorem State.park_draws (s : State) (cid k : Nat) (p : Park) : (s.park cid k p).draws = s.draws := rfl
@[simp] theorem State.park_mem (s : State) (cid k : Nat) (p : Park) : (s.park cid k p).mem = s.mem := rfl
@[simp] theorem State.park_lines (s : State) (cid k : Nat) (p : Park) : (s.park cid k p).lines = s.lines := rfl
@[simp] theorem State.park_dies (s : State) (cid k : Nat) (p : Park) : (s.park cid k p).dies = s.dies := rfl
@[simp] theorem State.park_jobs (s : State) (cid k : Nat) (p : Park) : (s.park cid k p).jobs = s.jobs := rfl
@[simp] theorem State.park_tlb (s : State) (cid k : Nat) (p : Park) : (s.park cid k p).tlb = s.tlb := rfl
@[simp] theorem State.park_accesses (s : State) (cid k : Nat) (p : Park) : (s.park cid k p).accesses = s.accesses := rfl
@[simp] theorem State.park_nextAcc (s : State) (cid k : Nat) (p : Park) : (s.park cid k p).nextAcc = s.nextAcc := rfl
@[simp] theorem State.park_msgs (s : State) (cid k : Nat) (p : Park) : (s.park cid k p).msgs = s.msgs := rfl
@[simp] theorem State.park_nextMsg (s : State) (cid k : Nat) (p : Park) : (s.park cid k p).nextMsg = s.nextMsg := rfl
@[simp] theorem State.park_waiters (s : State) (cid k : Nat) (p : Park) : (s.park cid k p).waiters = s.waiters := rfl
@[simp] theorem State.park_nextReq (s : State) (cid k : Nat) (p : Park) : (s.park cid k p).nextReq = s.nextReq := rfl
@[simp] theorem State.park_nvq (s : State) (cid k : Nat) (p : Park) : (s.park cid k p).nvq = s.nvq := rfl
@[simp] theorem State.park_reports (s : State) (cid k : Nat) (p : Park) : (s.park cid k p).reports = s.reports := rfl
@[simp] theorem State.park_dead (s : State) (cid k : Nat) (p : Park) : (s.park cid k p).dead = s.dead := rfl
@[simp] theorem State.park_hshare (s : State) (cid k : Nat) (p : Park) : (s.park cid k p).hshare = s.hshare := rfl
@[simp] theorem State.park_ring (s : State) (cid k : Nat) (p : Park) : (s.park cid k p).ring = s.ring := rfl
@[simp] theorem State.park_dseq (s : State) (cid k : Nat) (p : Park) : (s.park cid k p).dseq = s.dseq := rfl
@[simp] theorem State.park_lseq (s : State) (cid k : Nat) (p : Park) : (s.park cid k p).lseq = s.lseq := rfl
@[simp] theorem State.park_lword (s : State) (cid k : Nat) (p : Park) : (s.park cid k p).lword = s.lword := rfl
@[simp] theorem State.park_seqDie (s : State) (cid k : Nat) (p : Park) : (s.park cid k p).seqDie = s.seqDie := rfl
@[simp] theorem State.park_supply (s : State) (cid k : Nat) (p : Park) : (s.park cid k p).supply = s.supply := rfl
@[simp] theorem State.park_bootState (s : State) (cid k : Nat) (p : Park) : (s.park cid k p).bootState = s.bootState := rfl
@[simp] theorem State.park_owner (s : State) (cid k : Nat) (p : Park) : (s.park cid k p).owner = s.owner := rfl

@[simp] theorem State.modDie_clk (s : State) (d : Nat) (f : Die → Die) : (s.modDie d f).clk = s.clk := rfl
@[simp] theorem State.modDie_phase (s : State) (d : Nat) (f : Die → Die) : (s.modDie d f).phase = s.phase := rfl
@[simp] theorem State.modDie_agenda (s : State) (d : Nat) (f : Die → Die) : (s.modDie d f).agenda = s.agenda := rfl
@[simp] theorem State.modDie_cur (s : State) (d : Nat) (f : Die → Die) : (s.modDie d f).cur = s.cur := rfl
@[simp] theorem State.modDie_ev (s : State) (d : Nat) (f : Die → Die) : (s.modDie d f).ev = s.ev := rfl
@[simp] theorem State.modDie_draws (s : State) (d : Nat) (f : Die → Die) : (s.modDie d f).draws = s.draws := rfl
@[simp] theorem State.modDie_mem (s : State) (d : Nat) (f : Die → Die) : (s.modDie d f).mem = s.mem := rfl
@[simp] theorem State.modDie_lines (s : State) (d : Nat) (f : Die → Die) : (s.modDie d f).lines = s.lines := rfl
@[simp] theorem State.modDie_cores (s : State) (d : Nat) (f : Die → Die) : (s.modDie d f).cores = s.cores := rfl
@[simp] theorem State.modDie_jobs (s : State) (d : Nat) (f : Die → Die) : (s.modDie d f).jobs = s.jobs := rfl
@[simp] theorem State.modDie_tlb (s : State) (d : Nat) (f : Die → Die) : (s.modDie d f).tlb = s.tlb := rfl
@[simp] theorem State.modDie_accesses (s : State) (d : Nat) (f : Die → Die) : (s.modDie d f).accesses = s.accesses := rfl
@[simp] theorem State.modDie_nextAcc (s : State) (d : Nat) (f : Die → Die) : (s.modDie d f).nextAcc = s.nextAcc := rfl
@[simp] theorem State.modDie_msgs (s : State) (d : Nat) (f : Die → Die) : (s.modDie d f).msgs = s.msgs := rfl
@[simp] theorem State.modDie_nextMsg (s : State) (d : Nat) (f : Die → Die) : (s.modDie d f).nextMsg = s.nextMsg := rfl
@[simp] theorem State.modDie_waiters (s : State) (d : Nat) (f : Die → Die) : (s.modDie d f).waiters = s.waiters := rfl
@[simp] theorem State.modDie_nextReq (s : State) (d : Nat) (f : Die → Die) : (s.modDie d f).nextReq = s.nextReq := rfl
@[simp] theorem State.modDie_nvq (s : State) (d : Nat) (f : Die → Die) : (s.modDie d f).nvq = s.nvq := rfl
@[simp] theorem State.modDie_reports (s : State) (d : Nat) (f : Die → Die) : (s.modDie d f).reports = s.reports := rfl
@[simp] theorem State.modDie_dead (s : State) (d : Nat) (f : Die → Die) : (s.modDie d f).dead = s.dead := rfl
@[simp] theorem State.modDie_hshare (s : State) (d : Nat) (f : Die → Die) : (s.modDie d f).hshare = s.hshare := rfl
@[simp] theorem State.modDie_ring (s : State) (d : Nat) (f : Die → Die) : (s.modDie d f).ring = s.ring := rfl
@[simp] theorem State.modDie_dseq (s : State) (d : Nat) (f : Die → Die) : (s.modDie d f).dseq = s.dseq := rfl
@[simp] theorem State.modDie_lseq (s : State) (d : Nat) (f : Die → Die) : (s.modDie d f).lseq = s.lseq := rfl
@[simp] theorem State.modDie_lword (s : State) (d : Nat) (f : Die → Die) : (s.modDie d f).lword = s.lword := rfl
@[simp] theorem State.modDie_seqDie (s : State) (d : Nat) (f : Die → Die) : (s.modDie d f).seqDie = s.seqDie := rfl
@[simp] theorem State.modDie_supply (s : State) (d : Nat) (f : Die → Die) : (s.modDie d f).supply = s.supply := rfl
@[simp] theorem State.modDie_bootState (s : State) (d : Nat) (f : Die → Die) : (s.modDie d f).bootState = s.bootState := rfl
@[simp] theorem State.modDie_owner (s : State) (d : Nat) (f : Die → Die) : (s.modDie d f).owner = s.owner := rfl

@[simp] theorem State.modJob_clk (s : State) (tag : Nat) (f : Job → Job) : (s.modJob tag f).clk = s.clk := rfl
@[simp] theorem State.modJob_phase (s : State) (tag : Nat) (f : Job → Job) : (s.modJob tag f).phase = s.phase := rfl
@[simp] theorem State.modJob_agenda (s : State) (tag : Nat) (f : Job → Job) : (s.modJob tag f).agenda = s.agenda := rfl
@[simp] theorem State.modJob_cur (s : State) (tag : Nat) (f : Job → Job) : (s.modJob tag f).cur = s.cur := rfl
@[simp] theorem State.modJob_ev (s : State) (tag : Nat) (f : Job → Job) : (s.modJob tag f).ev = s.ev := rfl
@[simp] theorem State.modJob_draws (s : State) (tag : Nat) (f : Job → Job) : (s.modJob tag f).draws = s.draws := rfl
@[simp] theorem State.modJob_mem (s : State) (tag : Nat) (f : Job → Job) : (s.modJob tag f).mem = s.mem := rfl
@[simp] theorem State.modJob_lines (s : State) (tag : Nat) (f : Job → Job) : (s.modJob tag f).lines = s.lines := rfl
@[simp] theorem State.modJob_cores (s : State) (tag : Nat) (f : Job → Job) : (s.modJob tag f).cores = s.cores := rfl
@[simp] theorem State.modJob_dies (s : State) (tag : Nat) (f : Job → Job) : (s.modJob tag f).dies = s.dies := rfl
@[simp] theorem State.modJob_tlb (s : State) (tag : Nat) (f : Job → Job) : (s.modJob tag f).tlb = s.tlb := rfl
@[simp] theorem State.modJob_accesses (s : State) (tag : Nat) (f : Job → Job) : (s.modJob tag f).accesses = s.accesses := rfl
@[simp] theorem State.modJob_nextAcc (s : State) (tag : Nat) (f : Job → Job) : (s.modJob tag f).nextAcc = s.nextAcc := rfl
@[simp] theorem State.modJob_msgs (s : State) (tag : Nat) (f : Job → Job) : (s.modJob tag f).msgs = s.msgs := rfl
@[simp] theorem State.modJob_nextMsg (s : State) (tag : Nat) (f : Job → Job) : (s.modJob tag f).nextMsg = s.nextMsg := rfl
@[simp] theorem State.modJob_waiters (s : State) (tag : Nat) (f : Job → Job) : (s.modJob tag f).waiters = s.waiters := rfl
@[simp] theorem State.modJob_nextReq (s : State) (tag : Nat) (f : Job → Job) : (s.modJob tag f).nextReq = s.nextReq := rfl
@[simp] theorem State.modJob_nvq (s : State) (tag : Nat) (f : Job → Job) : (s.modJob tag f).nvq = s.nvq := rfl
@[simp] theorem State.modJob_reports (s : State) (tag : Nat) (f : Job → Job) : (s.modJob tag f).reports = s.reports := rfl
@[simp] theorem State.modJob_dead (s : State) (tag : Nat) (f : Job → Job) : (s.modJob tag f).dead = s.dead := rfl
@[simp] theorem State.modJob_hshare (s : State) (tag : Nat) (f : Job → Job) : (s.modJob tag f).hshare = s.hshare := rfl
@[simp] theorem State.modJob_ring (s : State) (tag : Nat) (f : Job → Job) : (s.modJob tag f).ring = s.ring := rfl
@[simp] theorem State.modJob_dseq (s : State) (tag : Nat) (f : Job → Job) : (s.modJob tag f).dseq = s.dseq := rfl
@[simp] theorem State.modJob_lseq (s : State) (tag : Nat) (f : Job → Job) : (s.modJob tag f).lseq = s.lseq := rfl
@[simp] theorem State.modJob_lword (s : State) (tag : Nat) (f : Job → Job) : (s.modJob tag f).lword = s.lword := rfl
@[simp] theorem State.modJob_seqDie (s : State) (tag : Nat) (f : Job → Job) : (s.modJob tag f).seqDie = s.seqDie := rfl
@[simp] theorem State.modJob_supply (s : State) (tag : Nat) (f : Job → Job) : (s.modJob tag f).supply = s.supply := rfl
@[simp] theorem State.modJob_bootState (s : State) (tag : Nat) (f : Job → Job) : (s.modJob tag f).bootState = s.bootState := rfl
@[simp] theorem State.modJob_owner (s : State) (tag : Nat) (f : Job → Job) : (s.modJob tag f).owner = s.owner := rfl

@[simp] theorem State.send_clk (s : State) (b : MsgBody) : (s.send b).clk = s.clk := rfl
@[simp] theorem State.send_phase (s : State) (b : MsgBody) : (s.send b).phase = s.phase := rfl
@[simp] theorem State.send_agenda (s : State) (b : MsgBody) : (s.send b).agenda = s.agenda := rfl
@[simp] theorem State.send_cur (s : State) (b : MsgBody) : (s.send b).cur = s.cur := rfl
@[simp] theorem State.send_ev (s : State) (b : MsgBody) : (s.send b).ev = s.ev := rfl
@[simp] theorem State.send_mem (s : State) (b : MsgBody) : (s.send b).mem = s.mem := rfl
@[simp] theorem State.send_lines (s : State) (b : MsgBody) : (s.send b).lines = s.lines := rfl
@[simp] theorem State.send_cores (s : State) (b : MsgBody) : (s.send b).cores = s.cores := rfl
@[simp] theorem State.send_dies (s : State) (b : MsgBody) : (s.send b).dies = s.dies := rfl
@[simp] theorem State.send_jobs (s : State) (b : MsgBody) : (s.send b).jobs = s.jobs := rfl
@[simp] theorem State.send_tlb (s : State) (b : MsgBody) : (s.send b).tlb = s.tlb := rfl
@[simp] theorem State.send_accesses (s : State) (b : MsgBody) : (s.send b).accesses = s.accesses := rfl
@[simp] theorem State.send_nextAcc (s : State) (b : MsgBody) : (s.send b).nextAcc = s.nextAcc := rfl
@[simp] theorem State.send_waiters (s : State) (b : MsgBody) : (s.send b).waiters = s.waiters := rfl
@[simp] theorem State.send_nextReq (s : State) (b : MsgBody) : (s.send b).nextReq = s.nextReq := rfl
@[simp] theorem State.send_nvq (s : State) (b : MsgBody) : (s.send b).nvq = s.nvq := rfl
@[simp] theorem State.send_reports (s : State) (b : MsgBody) : (s.send b).reports = s.reports := rfl
@[simp] theorem State.send_dead (s : State) (b : MsgBody) : (s.send b).dead = s.dead := rfl
@[simp] theorem State.send_hshare (s : State) (b : MsgBody) : (s.send b).hshare = s.hshare := rfl
@[simp] theorem State.send_ring (s : State) (b : MsgBody) : (s.send b).ring = s.ring := rfl
@[simp] theorem State.send_dseq (s : State) (b : MsgBody) : (s.send b).dseq = s.dseq := rfl
@[simp] theorem State.send_lseq (s : State) (b : MsgBody) : (s.send b).lseq = s.lseq := rfl
@[simp] theorem State.send_lword (s : State) (b : MsgBody) : (s.send b).lword = s.lword := rfl
@[simp] theorem State.send_seqDie (s : State) (b : MsgBody) : (s.send b).seqDie = s.seqDie := rfl
@[simp] theorem State.send_supply (s : State) (b : MsgBody) : (s.send b).supply = s.supply := rfl
@[simp] theorem State.send_bootState (s : State) (b : MsgBody) : (s.send b).bootState = s.bootState := rfl
@[simp] theorem State.send_owner (s : State) (b : MsgBody) : (s.send b).owner = s.owner := rfl

@[simp] theorem State.sendAt_clk (s : State) (n : Nat) (b : MsgBody) : (s.sendAt n b).clk = s.clk := rfl
@[simp] theorem State.sendAt_phase (s : State) (n : Nat) (b : MsgBody) : (s.sendAt n b).phase = s.phase := rfl
@[simp] theorem State.sendAt_agenda (s : State) (n : Nat) (b : MsgBody) : (s.sendAt n b).agenda = s.agenda := rfl
@[simp] theorem State.sendAt_cur (s : State) (n : Nat) (b : MsgBody) : (s.sendAt n b).cur = s.cur := rfl
@[simp] theorem State.sendAt_ev (s : State) (n : Nat) (b : MsgBody) : (s.sendAt n b).ev = s.ev := rfl
@[simp] theorem State.sendAt_draws (s : State) (n : Nat) (b : MsgBody) : (s.sendAt n b).draws = s.draws := rfl
@[simp] theorem State.sendAt_mem (s : State) (n : Nat) (b : MsgBody) : (s.sendAt n b).mem = s.mem := rfl
@[simp] theorem State.sendAt_lines (s : State) (n : Nat) (b : MsgBody) : (s.sendAt n b).lines = s.lines := rfl
@[simp] theorem State.sendAt_cores (s : State) (n : Nat) (b : MsgBody) : (s.sendAt n b).cores = s.cores := rfl
@[simp] theorem State.sendAt_dies (s : State) (n : Nat) (b : MsgBody) : (s.sendAt n b).dies = s.dies := rfl
@[simp] theorem State.sendAt_jobs (s : State) (n : Nat) (b : MsgBody) : (s.sendAt n b).jobs = s.jobs := rfl
@[simp] theorem State.sendAt_tlb (s : State) (n : Nat) (b : MsgBody) : (s.sendAt n b).tlb = s.tlb := rfl
@[simp] theorem State.sendAt_accesses (s : State) (n : Nat) (b : MsgBody) : (s.sendAt n b).accesses = s.accesses := rfl
@[simp] theorem State.sendAt_nextAcc (s : State) (n : Nat) (b : MsgBody) : (s.sendAt n b).nextAcc = s.nextAcc := rfl
@[simp] theorem State.sendAt_waiters (s : State) (n : Nat) (b : MsgBody) : (s.sendAt n b).waiters = s.waiters := rfl
@[simp] theorem State.sendAt_nextReq (s : State) (n : Nat) (b : MsgBody) : (s.sendAt n b).nextReq = s.nextReq := rfl
@[simp] theorem State.sendAt_nvq (s : State) (n : Nat) (b : MsgBody) : (s.sendAt n b).nvq = s.nvq := rfl
@[simp] theorem State.sendAt_reports (s : State) (n : Nat) (b : MsgBody) : (s.sendAt n b).reports = s.reports := rfl
@[simp] theorem State.sendAt_dead (s : State) (n : Nat) (b : MsgBody) : (s.sendAt n b).dead = s.dead := rfl
@[simp] theorem State.sendAt_hshare (s : State) (n : Nat) (b : MsgBody) : (s.sendAt n b).hshare = s.hshare := rfl
@[simp] theorem State.sendAt_ring (s : State) (n : Nat) (b : MsgBody) : (s.sendAt n b).ring = s.ring := rfl
@[simp] theorem State.sendAt_dseq (s : State) (n : Nat) (b : MsgBody) : (s.sendAt n b).dseq = s.dseq := rfl
@[simp] theorem State.sendAt_lseq (s : State) (n : Nat) (b : MsgBody) : (s.sendAt n b).lseq = s.lseq := rfl
@[simp] theorem State.sendAt_lword (s : State) (n : Nat) (b : MsgBody) : (s.sendAt n b).lword = s.lword := rfl
@[simp] theorem State.sendAt_seqDie (s : State) (n : Nat) (b : MsgBody) : (s.sendAt n b).seqDie = s.seqDie := rfl
@[simp] theorem State.sendAt_supply (s : State) (n : Nat) (b : MsgBody) : (s.sendAt n b).supply = s.supply := rfl
@[simp] theorem State.sendAt_bootState (s : State) (n : Nat) (b : MsgBody) : (s.sendAt n b).bootState = s.bootState := rfl
@[simp] theorem State.sendAt_owner (s : State) (n : Nat) (b : MsgBody) : (s.sendAt n b).owner = s.owner := rfl

@[simp] theorem State.push_clk (s : State) (x : Turn) : (s.push x).clk = s.clk := rfl
@[simp] theorem State.push_phase (s : State) (x : Turn) : (s.push x).phase = s.phase := rfl
@[simp] theorem State.push_cur (s : State) (x : Turn) : (s.push x).cur = s.cur := rfl
@[simp] theorem State.push_ev (s : State) (x : Turn) : (s.push x).ev = s.ev := rfl
@[simp] theorem State.push_draws (s : State) (x : Turn) : (s.push x).draws = s.draws := rfl
@[simp] theorem State.push_mem (s : State) (x : Turn) : (s.push x).mem = s.mem := rfl
@[simp] theorem State.push_lines (s : State) (x : Turn) : (s.push x).lines = s.lines := rfl
@[simp] theorem State.push_cores (s : State) (x : Turn) : (s.push x).cores = s.cores := rfl
@[simp] theorem State.push_dies (s : State) (x : Turn) : (s.push x).dies = s.dies := rfl
@[simp] theorem State.push_jobs (s : State) (x : Turn) : (s.push x).jobs = s.jobs := rfl
@[simp] theorem State.push_tlb (s : State) (x : Turn) : (s.push x).tlb = s.tlb := rfl
@[simp] theorem State.push_accesses (s : State) (x : Turn) : (s.push x).accesses = s.accesses := rfl
@[simp] theorem State.push_nextAcc (s : State) (x : Turn) : (s.push x).nextAcc = s.nextAcc := rfl
@[simp] theorem State.push_msgs (s : State) (x : Turn) : (s.push x).msgs = s.msgs := rfl
@[simp] theorem State.push_nextMsg (s : State) (x : Turn) : (s.push x).nextMsg = s.nextMsg := rfl
@[simp] theorem State.push_waiters (s : State) (x : Turn) : (s.push x).waiters = s.waiters := rfl
@[simp] theorem State.push_nextReq (s : State) (x : Turn) : (s.push x).nextReq = s.nextReq := rfl
@[simp] theorem State.push_nvq (s : State) (x : Turn) : (s.push x).nvq = s.nvq := rfl
@[simp] theorem State.push_reports (s : State) (x : Turn) : (s.push x).reports = s.reports := rfl
@[simp] theorem State.push_dead (s : State) (x : Turn) : (s.push x).dead = s.dead := rfl
@[simp] theorem State.push_hshare (s : State) (x : Turn) : (s.push x).hshare = s.hshare := rfl
@[simp] theorem State.push_ring (s : State) (x : Turn) : (s.push x).ring = s.ring := rfl
@[simp] theorem State.push_dseq (s : State) (x : Turn) : (s.push x).dseq = s.dseq := rfl
@[simp] theorem State.push_lseq (s : State) (x : Turn) : (s.push x).lseq = s.lseq := rfl
@[simp] theorem State.push_lword (s : State) (x : Turn) : (s.push x).lword = s.lword := rfl
@[simp] theorem State.push_seqDie (s : State) (x : Turn) : (s.push x).seqDie = s.seqDie := rfl
@[simp] theorem State.push_supply (s : State) (x : Turn) : (s.push x).supply = s.supply := rfl
@[simp] theorem State.push_bootState (s : State) (x : Turn) : (s.push x).bootState = s.bootState := rfl
@[simp] theorem State.push_owner (s : State) (x : Turn) : (s.push x).owner = s.owner := rfl

@[simp] theorem State.report_clk (s : State) (r : SupReport) : (s.report r).clk = s.clk := rfl
@[simp] theorem State.report_phase (s : State) (r : SupReport) : (s.report r).phase = s.phase := rfl
@[simp] theorem State.report_agenda (s : State) (r : SupReport) : (s.report r).agenda = s.agenda := rfl
@[simp] theorem State.report_cur (s : State) (r : SupReport) : (s.report r).cur = s.cur := rfl
@[simp] theorem State.report_ev (s : State) (r : SupReport) : (s.report r).ev = s.ev := rfl
@[simp] theorem State.report_draws (s : State) (r : SupReport) : (s.report r).draws = s.draws := rfl
@[simp] theorem State.report_mem (s : State) (r : SupReport) : (s.report r).mem = s.mem := rfl
@[simp] theorem State.report_lines (s : State) (r : SupReport) : (s.report r).lines = s.lines := rfl
@[simp] theorem State.report_cores (s : State) (r : SupReport) : (s.report r).cores = s.cores := rfl
@[simp] theorem State.report_dies (s : State) (r : SupReport) : (s.report r).dies = s.dies := rfl
@[simp] theorem State.report_jobs (s : State) (r : SupReport) : (s.report r).jobs = s.jobs := rfl
@[simp] theorem State.report_tlb (s : State) (r : SupReport) : (s.report r).tlb = s.tlb := rfl
@[simp] theorem State.report_accesses (s : State) (r : SupReport) : (s.report r).accesses = s.accesses := rfl
@[simp] theorem State.report_nextAcc (s : State) (r : SupReport) : (s.report r).nextAcc = s.nextAcc := rfl
@[simp] theorem State.report_msgs (s : State) (r : SupReport) : (s.report r).msgs = s.msgs := rfl
@[simp] theorem State.report_nextMsg (s : State) (r : SupReport) : (s.report r).nextMsg = s.nextMsg := rfl
@[simp] theorem State.report_waiters (s : State) (r : SupReport) : (s.report r).waiters = s.waiters := rfl
@[simp] theorem State.report_nextReq (s : State) (r : SupReport) : (s.report r).nextReq = s.nextReq := rfl
@[simp] theorem State.report_nvq (s : State) (r : SupReport) : (s.report r).nvq = s.nvq := rfl
@[simp] theorem State.report_dead (s : State) (r : SupReport) : (s.report r).dead = s.dead := rfl
@[simp] theorem State.report_hshare (s : State) (r : SupReport) : (s.report r).hshare = s.hshare := rfl
@[simp] theorem State.report_ring (s : State) (r : SupReport) : (s.report r).ring = s.ring := rfl
@[simp] theorem State.report_dseq (s : State) (r : SupReport) : (s.report r).dseq = s.dseq := rfl
@[simp] theorem State.report_lseq (s : State) (r : SupReport) : (s.report r).lseq = s.lseq := rfl
@[simp] theorem State.report_lword (s : State) (r : SupReport) : (s.report r).lword = s.lword := rfl
@[simp] theorem State.report_seqDie (s : State) (r : SupReport) : (s.report r).seqDie = s.seqDie := rfl
@[simp] theorem State.report_supply (s : State) (r : SupReport) : (s.report r).supply = s.supply := rfl
@[simp] theorem State.report_bootState (s : State) (r : SupReport) : (s.report r).bootState = s.bootState := rfl
@[simp] theorem State.report_owner (s : State) (r : SupReport) : (s.report r).owner = s.owner := rfl

@[simp] theorem State.event_clk (s : State) (code die base : Nat) (w : Word) : (s.event code die base w).clk = s.clk := rfl
@[simp] theorem State.event_phase (s : State) (code die base : Nat) (w : Word) : (s.event code die base w).phase = s.phase := rfl
@[simp] theorem State.event_agenda (s : State) (code die base : Nat) (w : Word) : (s.event code die base w).agenda = s.agenda := rfl
@[simp] theorem State.event_cur (s : State) (code die base : Nat) (w : Word) : (s.event code die base w).cur = s.cur := rfl
@[simp] theorem State.event_ev (s : State) (code die base : Nat) (w : Word) : (s.event code die base w).ev = s.ev := rfl
@[simp] theorem State.event_draws (s : State) (code die base : Nat) (w : Word) : (s.event code die base w).draws = s.draws := rfl
@[simp] theorem State.event_mem (s : State) (code die base : Nat) (w : Word) : (s.event code die base w).mem = s.mem := rfl
@[simp] theorem State.event_lines (s : State) (code die base : Nat) (w : Word) : (s.event code die base w).lines = s.lines := rfl
@[simp] theorem State.event_cores (s : State) (code die base : Nat) (w : Word) : (s.event code die base w).cores = s.cores := rfl
@[simp] theorem State.event_dies (s : State) (code die base : Nat) (w : Word) : (s.event code die base w).dies = s.dies := rfl
@[simp] theorem State.event_jobs (s : State) (code die base : Nat) (w : Word) : (s.event code die base w).jobs = s.jobs := rfl
@[simp] theorem State.event_tlb (s : State) (code die base : Nat) (w : Word) : (s.event code die base w).tlb = s.tlb := rfl
@[simp] theorem State.event_accesses (s : State) (code die base : Nat) (w : Word) : (s.event code die base w).accesses = s.accesses := rfl
@[simp] theorem State.event_nextAcc (s : State) (code die base : Nat) (w : Word) : (s.event code die base w).nextAcc = s.nextAcc := rfl
@[simp] theorem State.event_msgs (s : State) (code die base : Nat) (w : Word) : (s.event code die base w).msgs = s.msgs := rfl
@[simp] theorem State.event_nextMsg (s : State) (code die base : Nat) (w : Word) : (s.event code die base w).nextMsg = s.nextMsg := rfl
@[simp] theorem State.event_waiters (s : State) (code die base : Nat) (w : Word) : (s.event code die base w).waiters = s.waiters := rfl
@[simp] theorem State.event_nextReq (s : State) (code die base : Nat) (w : Word) : (s.event code die base w).nextReq = s.nextReq := rfl
@[simp] theorem State.event_nvq (s : State) (code die base : Nat) (w : Word) : (s.event code die base w).nvq = s.nvq := rfl
@[simp] theorem State.event_reports (s : State) (code die base : Nat) (w : Word) : (s.event code die base w).reports = s.reports := rfl
@[simp] theorem State.event_dead (s : State) (code die base : Nat) (w : Word) : (s.event code die base w).dead = s.dead := rfl
@[simp] theorem State.event_hshare (s : State) (code die base : Nat) (w : Word) : (s.event code die base w).hshare = s.hshare := rfl
@[simp] theorem State.event_dseq (s : State) (code die base : Nat) (w : Word) : (s.event code die base w).dseq = s.dseq := rfl
@[simp] theorem State.event_lseq (s : State) (code die base : Nat) (w : Word) : (s.event code die base w).lseq = s.lseq := rfl
@[simp] theorem State.event_lword (s : State) (code die base : Nat) (w : Word) : (s.event code die base w).lword = s.lword := rfl
@[simp] theorem State.event_seqDie (s : State) (code die base : Nat) (w : Word) : (s.event code die base w).seqDie = s.seqDie := rfl
@[simp] theorem State.event_supply (s : State) (code die base : Nat) (w : Word) : (s.event code die base w).supply = s.supply := rfl
@[simp] theorem State.event_bootState (s : State) (code die base : Nat) (w : Word) : (s.event code die base w).bootState = s.bootState := rfl
@[simp] theorem State.event_owner (s : State) (code die base : Nat) (w : Word) : (s.event code die base w).owner = s.owner := rfl

@[simp] theorem State.setByte_clk (s : State) (a : Nat) (x : BitVec 8) : (s.setByte a x).clk = s.clk := rfl
@[simp] theorem State.setByte_phase (s : State) (a : Nat) (x : BitVec 8) : (s.setByte a x).phase = s.phase := rfl
@[simp] theorem State.setByte_agenda (s : State) (a : Nat) (x : BitVec 8) : (s.setByte a x).agenda = s.agenda := rfl
@[simp] theorem State.setByte_cur (s : State) (a : Nat) (x : BitVec 8) : (s.setByte a x).cur = s.cur := rfl
@[simp] theorem State.setByte_ev (s : State) (a : Nat) (x : BitVec 8) : (s.setByte a x).ev = s.ev := rfl
@[simp] theorem State.setByte_draws (s : State) (a : Nat) (x : BitVec 8) : (s.setByte a x).draws = s.draws := rfl
@[simp] theorem State.setByte_lines (s : State) (a : Nat) (x : BitVec 8) : (s.setByte a x).lines = s.lines := rfl
@[simp] theorem State.setByte_cores (s : State) (a : Nat) (x : BitVec 8) : (s.setByte a x).cores = s.cores := rfl
@[simp] theorem State.setByte_dies (s : State) (a : Nat) (x : BitVec 8) : (s.setByte a x).dies = s.dies := rfl
@[simp] theorem State.setByte_jobs (s : State) (a : Nat) (x : BitVec 8) : (s.setByte a x).jobs = s.jobs := rfl
@[simp] theorem State.setByte_tlb (s : State) (a : Nat) (x : BitVec 8) : (s.setByte a x).tlb = s.tlb := rfl
@[simp] theorem State.setByte_accesses (s : State) (a : Nat) (x : BitVec 8) : (s.setByte a x).accesses = s.accesses := rfl
@[simp] theorem State.setByte_nextAcc (s : State) (a : Nat) (x : BitVec 8) : (s.setByte a x).nextAcc = s.nextAcc := rfl
@[simp] theorem State.setByte_msgs (s : State) (a : Nat) (x : BitVec 8) : (s.setByte a x).msgs = s.msgs := rfl
@[simp] theorem State.setByte_nextMsg (s : State) (a : Nat) (x : BitVec 8) : (s.setByte a x).nextMsg = s.nextMsg := rfl
@[simp] theorem State.setByte_waiters (s : State) (a : Nat) (x : BitVec 8) : (s.setByte a x).waiters = s.waiters := rfl
@[simp] theorem State.setByte_nextReq (s : State) (a : Nat) (x : BitVec 8) : (s.setByte a x).nextReq = s.nextReq := rfl
@[simp] theorem State.setByte_nvq (s : State) (a : Nat) (x : BitVec 8) : (s.setByte a x).nvq = s.nvq := rfl
@[simp] theorem State.setByte_reports (s : State) (a : Nat) (x : BitVec 8) : (s.setByte a x).reports = s.reports := rfl
@[simp] theorem State.setByte_dead (s : State) (a : Nat) (x : BitVec 8) : (s.setByte a x).dead = s.dead := rfl
@[simp] theorem State.setByte_hshare (s : State) (a : Nat) (x : BitVec 8) : (s.setByte a x).hshare = s.hshare := rfl
@[simp] theorem State.setByte_ring (s : State) (a : Nat) (x : BitVec 8) : (s.setByte a x).ring = s.ring := rfl
@[simp] theorem State.setByte_dseq (s : State) (a : Nat) (x : BitVec 8) : (s.setByte a x).dseq = s.dseq := rfl
@[simp] theorem State.setByte_lseq (s : State) (a : Nat) (x : BitVec 8) : (s.setByte a x).lseq = s.lseq := rfl
@[simp] theorem State.setByte_lword (s : State) (a : Nat) (x : BitVec 8) : (s.setByte a x).lword = s.lword := rfl
@[simp] theorem State.setByte_seqDie (s : State) (a : Nat) (x : BitVec 8) : (s.setByte a x).seqDie = s.seqDie := rfl
@[simp] theorem State.setByte_supply (s : State) (a : Nat) (x : BitVec 8) : (s.setByte a x).supply = s.supply := rfl
@[simp] theorem State.setByte_bootState (s : State) (a : Nat) (x : BitVec 8) : (s.setByte a x).bootState = s.bootState := rfl
@[simp] theorem State.setByte_owner (s : State) (a : Nat) (x : BitVec 8) : (s.setByte a x).owner = s.owner := rfl

@[simp] theorem State.modLine_clk (s : State) (a : Nat) (f : LineMeta → LineMeta) : (s.modLine a f).clk = s.clk := rfl
@[simp] theorem State.modLine_phase (s : State) (a : Nat) (f : LineMeta → LineMeta) : (s.modLine a f).phase = s.phase := rfl
@[simp] theorem State.modLine_agenda (s : State) (a : Nat) (f : LineMeta → LineMeta) : (s.modLine a f).agenda = s.agenda := rfl
@[simp] theorem State.modLine_cur (s : State) (a : Nat) (f : LineMeta → LineMeta) : (s.modLine a f).cur = s.cur := rfl
@[simp] theorem State.modLine_ev (s : State) (a : Nat) (f : LineMeta → LineMeta) : (s.modLine a f).ev = s.ev := rfl
@[simp] theorem State.modLine_draws (s : State) (a : Nat) (f : LineMeta → LineMeta) : (s.modLine a f).draws = s.draws := rfl
@[simp] theorem State.modLine_mem (s : State) (a : Nat) (f : LineMeta → LineMeta) : (s.modLine a f).mem = s.mem := rfl
@[simp] theorem State.modLine_cores (s : State) (a : Nat) (f : LineMeta → LineMeta) : (s.modLine a f).cores = s.cores := rfl
@[simp] theorem State.modLine_dies (s : State) (a : Nat) (f : LineMeta → LineMeta) : (s.modLine a f).dies = s.dies := rfl
@[simp] theorem State.modLine_jobs (s : State) (a : Nat) (f : LineMeta → LineMeta) : (s.modLine a f).jobs = s.jobs := rfl
@[simp] theorem State.modLine_tlb (s : State) (a : Nat) (f : LineMeta → LineMeta) : (s.modLine a f).tlb = s.tlb := rfl
@[simp] theorem State.modLine_accesses (s : State) (a : Nat) (f : LineMeta → LineMeta) : (s.modLine a f).accesses = s.accesses := rfl
@[simp] theorem State.modLine_nextAcc (s : State) (a : Nat) (f : LineMeta → LineMeta) : (s.modLine a f).nextAcc = s.nextAcc := rfl
@[simp] theorem State.modLine_msgs (s : State) (a : Nat) (f : LineMeta → LineMeta) : (s.modLine a f).msgs = s.msgs := rfl
@[simp] theorem State.modLine_nextMsg (s : State) (a : Nat) (f : LineMeta → LineMeta) : (s.modLine a f).nextMsg = s.nextMsg := rfl
@[simp] theorem State.modLine_waiters (s : State) (a : Nat) (f : LineMeta → LineMeta) : (s.modLine a f).waiters = s.waiters := rfl
@[simp] theorem State.modLine_nextReq (s : State) (a : Nat) (f : LineMeta → LineMeta) : (s.modLine a f).nextReq = s.nextReq := rfl
@[simp] theorem State.modLine_nvq (s : State) (a : Nat) (f : LineMeta → LineMeta) : (s.modLine a f).nvq = s.nvq := rfl
@[simp] theorem State.modLine_reports (s : State) (a : Nat) (f : LineMeta → LineMeta) : (s.modLine a f).reports = s.reports := rfl
@[simp] theorem State.modLine_dead (s : State) (a : Nat) (f : LineMeta → LineMeta) : (s.modLine a f).dead = s.dead := rfl
@[simp] theorem State.modLine_hshare (s : State) (a : Nat) (f : LineMeta → LineMeta) : (s.modLine a f).hshare = s.hshare := rfl
@[simp] theorem State.modLine_ring (s : State) (a : Nat) (f : LineMeta → LineMeta) : (s.modLine a f).ring = s.ring := rfl
@[simp] theorem State.modLine_dseq (s : State) (a : Nat) (f : LineMeta → LineMeta) : (s.modLine a f).dseq = s.dseq := rfl
@[simp] theorem State.modLine_lseq (s : State) (a : Nat) (f : LineMeta → LineMeta) : (s.modLine a f).lseq = s.lseq := rfl
@[simp] theorem State.modLine_lword (s : State) (a : Nat) (f : LineMeta → LineMeta) : (s.modLine a f).lword = s.lword := rfl
@[simp] theorem State.modLine_seqDie (s : State) (a : Nat) (f : LineMeta → LineMeta) : (s.modLine a f).seqDie = s.seqDie := rfl
@[simp] theorem State.modLine_supply (s : State) (a : Nat) (f : LineMeta → LineMeta) : (s.modLine a f).supply = s.supply := rfl
@[simp] theorem State.modLine_bootState (s : State) (a : Nat) (f : LineMeta → LineMeta) : (s.modLine a f).bootState = s.bootState := rfl
@[simp] theorem State.modLine_owner (s : State) (a : Nat) (f : LineMeta → LineMeta) : (s.modLine a f).owner = s.owner := rfl

end Sys2Proof.Machine
end

