-- ==== Sys2Proof/Laws/Slots.lean ====
section
/-!
SUPPORT. Cores and slots after an update; what a plan without memory leaves (`runOne_regs`); what changes only the running thread.
-/
namespace Sys2Proof.Machine

/-! ## Slots of a core -/

theorem Core.slot_setSlot (c : Core) (k j : Nat) (t : Slot) (hk : k < 16) :
    (c.setSlot k t).slot j = if j = k then t else c.slot j := by
  unfold Core.slot Core.setSlot
  by_cases h : j = k
  · subst h; simp [hk]
  · have h' : ¬ k = j := fun e => h e.symm
    simp only [h, if_false, Vector.getElem?_setIfInBounds, h']

/-! ## Cores and slots of the state -/

@[simp] theorem State.core_setCore_same (s : State) (cid : Nat) (c : Core) : (s.setCore cid c).core cid = c := by
  simp [State.core, State.setCore]

theorem State.core_setCore_other (s : State) {cid d : Nat} (h : d ≠ cid) (c : Core) : (s.setCore cid c).core d = s.core d :=
  SMap.get_set_other _ _ h _

@[simp] theorem State.core_modCore_same (s : State) (cid : Nat) (f : Core → Core) : (s.modCore cid f).core cid = f (s.core cid) :=
  State.core_setCore_same _ _ _

theorem State.core_modCore_other (s : State) {cid d : Nat} (h : d ≠ cid) (f : Core → Core) : (s.modCore cid f).core d = s.core d :=
  State.core_setCore_other _ h _

@[simp] theorem State.core_setSlot_same (s : State) (cid k : Nat) (t : Slot) :
    (s.setSlot cid k t).core cid = (s.core cid).setSlot k t := State.core_modCore_same _ _ _

theorem State.core_setSlot_other (s : State) {cid d : Nat} (h : d ≠ cid) (k : Nat) (t : Slot) :
    (s.setSlot cid k t).core d = s.core d := State.core_modCore_other _ h _

theorem State.core_modSlot_other (s : State) {cid d : Nat} (h : d ≠ cid) (k : Nat) (f : Slot → Slot) :
    (s.modSlot cid k f).core d = s.core d := State.core_setSlot_other _ h _ _

theorem State.slot_setSlot (s : State) (cid k d j : Nat) (t : Slot) (hk : k < 16) :
    (s.setSlot cid k t).slot d j = if d = cid ∧ j = k then t else s.slot d j := by
  unfold State.slot
  by_cases h : d = cid
  · subst h; rw [State.core_setSlot_same, Core.slot_setSlot _ _ _ _ hk]; simp
  · rw [State.core_setSlot_other _ h]; simp [h]

theorem State.slot_modSlot (s : State) (cid k d j : Nat) (f : Slot → Slot) (hk : k < 16) :
    (s.modSlot cid k f).slot d j = if d = cid ∧ j = k then f (s.slot cid k) else s.slot d j :=
  State.slot_setSlot _ _ _ _ _ _ hk

theorem State.slot_modSlot_same (s : State) (cid k : Nat) (f : Slot → Slot) (hk : k < 16) :
    (s.modSlot cid k f).slot cid k = f (s.slot cid k) := by simp [State.slot_modSlot, hk]

/-! ## Changes of the running thread alone -/

theorem OnlySlot.refl (s : State) (c k : Nat) : OnlySlot s s c k := ⟨rfl, fun _ _ => rfl, rfl, fun _ _ => rfl⟩

theorem OnlySlot.cur {s t : State} {c k : Nat} (h : OnlySlot s t c k) : t.cur = s.cur := by rw [h.rest]

theorem OnlySlot.trans {s t u : State} {c k : Nat} (h : OnlySlot s t c k) (g : OnlySlot t u c k) : OnlySlot s u c k where
  rest := by rw [g.rest, h.rest]
  cores d hd := by rw [g.cores d hd, h.cores d hd]
  core := by rw [g.core, h.core]
  slots j hj := by rw [g.slots j hj, h.slots j hj]

theorem OnlySlot.modSlot (s : State) (c k : Nat) (f : Slot → Slot) (hk : k < 16) : OnlySlot s (s.modSlot c k f) c k where
  rest := rfl
  cores d hd := State.core_modSlot_other _ hd _ _
  core := by simp only [State.modSlot, State.core_setSlot_same]; rfl
  slots j hj := by rw [State.slot_modSlot _ _ _ _ _ _ hk]; simp [hj]

theorem OnlyMe.modMe (s : State) (f : Slot → Slot) (hk : Runs s) : OnlyMe s (s.modSlot s.cur.core s.cur.slot f) :=
  OnlySlot.modSlot s _ _ f hk

theorem State.me_modMe (s : State) (f : Slot → Slot) (hk : Runs s) : (s.modSlot s.cur.core s.cur.slot f).me = f s.me := by
  unfold State.me
  exact State.slot_modSlot_same _ _ _ _ hk

/-- Two changes of one thread, one after the other. -/
theorem OnlyMe.modMe_modMe (s : State) (f g : Slot → Slot) (hk : Runs s) :
    OnlyMe s ((s.modSlot s.cur.core s.cur.slot f).modSlot s.cur.core s.cur.slot g) :=
  (OnlyMe.modMe s f hk).trans (OnlySlot.modSlot _ _ _ g hk)

theorem State.me_modMe_modMe (s : State) (f g : Slot → Slot) (hk : Runs s) :
    ((s.modSlot s.cur.core s.cur.slot f).modSlot s.cur.core s.cur.slot g).me = g (f s.me) := by
  have h := State.me_modMe (s.modSlot s.cur.core s.cur.slot f) g hk
  rw [State.me_modMe s f hk] at h
  exact h

/-- A PLAN WITHOUT MEMORY, FENCE OR LATE TRAP: the running thread commits its writes and goes on; nothing else changes. -/
theorem State.runOne_regs (s : State) (i : Instr) (p : Plan) (pc : Word) (hk : Runs s) (hm : p.mem = none) (hl : p.late = none)
    (hf : p.fence = none) (hc : p.ctl s.me = .go pc) :
    OnlyMe s (s.runOne i (.ok p)) ∧ (s.runOne i (.ok p)).me = { p.commit s.me with pc := pc, st := .ready } := by
  have e : s.runOne i (.ok p) = (s.modSlot s.cur.core s.cur.slot p.commit).modSlot s.cur.core s.cur.slot
      fun t => { t with pc := pc, st := .ready } := by
    simp only [State.runOne, State.runPlan, hm, hl, hf, firstTrap, hc, State.goOn]
  rw [e]
  exact ⟨OnlyMe.modMe_modMe s _ _ hk, State.me_modMe_modMe s _ _ hk⟩

/-- A plan that writes one general register and flags. -/
theorem State.runOne_wg (s : State) (i : Instr) (d : G) (x : Word) (f : Fl) (hk : Runs s) :
    OnlyMe s (s.runOne i (.ok { writes := [.g d x], fl := f })) ∧
    (s.runOne i (.ok { writes := [.g d x], fl := f })).me =
      s.me.wrote d x (orArith s.me.flags f) := by
  have h := State.runOne_regs s i { writes := [.g d x], fl := f } s.me.npc hk rfl rfl rfl rfl
  refine ⟨h.1, ?_⟩
  rw [h.2]
  simp [Plan.commit, Slot.applyAll, RegWrite.apply, Plan.flagsAfter, Slot.wrote, Slot.wg]

/-- An instruction that completes with a change of its own slot. -/
theorem State.doneWith_slot (s : State) (f : Slot → Slot) (hk : Runs s) :
    OnlyMe s (s.doneWith f) ∧ (s.doneWith f).me = { f s.me with pc := s.me.npc, st := .ready } := by
  have e : s.doneWith f = (s.modSlot s.cur.core s.cur.slot f).modSlot s.cur.core s.cur.slot
      fun t => { t with pc := s.me.npc, st := .ready } := by
    simp only [State.doneWith, State.goOn, State.modMe, State.setMe, State.modSlot, State.me]
  rw [e]
  exact ⟨OnlyMe.modMe_modMe s _ _ hk, State.me_modMe_modMe s _ _ hk⟩

end Sys2Proof.Machine
end

