-- ==== Sys2Proof/Laws/Memory.lean ====
section
/-!
SUPPORT. Memory: what a write leaves and what a read finds, byte by byte and for n bytes; line metadata; and that every memory
operation keeps the canonical form.
-/
namespace Sys2Proof.Machine

/-! ## Bytes -/

theorem State.byte_setByte (s : State) (a b : Nat) (x : BitVec 8) : (s.setByte a x).byte b = if b = a then x else s.byte b :=
  SMap.get_set _ _ _ _ _

theorem State.byte_writeN (s : State) (a n x b : Nat) :
    (s.writeN a n x).byte b = if a ≤ b ∧ b < a + n then BitVec.ofNat 8 (x / 256 ^ (b - a)) else s.byte b := by
  induction n generalizing s a x with
  | zero => rw [State.writeN, if_neg (by omega)]
  | succ n ih =>
    rw [State.writeN, ih, State.byte_setByte]
    by_cases h1 : a + 1 ≤ b ∧ b < a + 1 + n
    · have e : b - a = (b - (a + 1)) + 1 := by omega
      rw [if_pos h1, if_pos (by omega), e, Nat.pow_succ, Nat.mul_comm, Nat.div_div_eq_div_mul]
    · rw [if_neg h1]
      by_cases h2 : b = a
      · subst h2; simp
      · rw [if_neg h2, if_neg (by omega)]

/-- What n bytes read as depends on these bytes alone. -/
theorem State.readN_congr (s t : State) (a n : Nat) (h : ∀ b, a ≤ b → b < a + n → t.byte b = s.byte b) :
    t.readN a n = s.readN a n := by
  induction n generalizing a with
  | zero => rfl
  | succ n ih =>
    rw [State.readN, State.readN, h a (Nat.le_refl _) (by omega), ih (a + 1) fun b h1 h2 => h b (by omega) (by omega)]

theorem State.readN_lt (s : State) (a n : Nat) : s.readN a n < 256 ^ n := by
  induction n generalizing a with
  | zero => simp [State.readN]
  | succ n ih =>
    have h1 := ih (a + 1)
    have h2 := (s.byte a).isLt
    rw [State.readN, Nat.pow_succ]
    omega

/-- READ AFTER WRITE: n bytes read as the number written, modulo 256^n. -/
theorem State.readN_writeN_same (s : State) (a n x : Nat) : (s.writeN a n x).readN a n = x % 256 ^ n := by
  induction n generalizing s a x with
  | zero => simp [State.readN, Nat.mod_one]
  | succ n ih =>
    have hb : ((s.setByte a (BitVec.ofNat 8 x)).writeN (a + 1) n (x / 256)).byte a = BitVec.ofNat 8 x := by
      rw [State.byte_writeN, if_neg (by omega), State.byte_setByte, if_pos rfl]
    rw [State.writeN, State.readN, hb, ih, Nat.pow_succ, Nat.mul_comm (256 ^ n) 256, Nat.mod_mul]
    simp

/-- A read of other bytes finds what was there. -/
theorem State.readN_writeN_apart (s : State) (a n x b m : Nat) (h : b + m ≤ a ∨ a + n ≤ b) :
    (s.writeN a n x).readN b m = s.readN b m := by
  apply State.readN_congr
  intro c h1 h2
  rw [State.byte_writeN, if_neg (by omega)]

/-! ## What a write leaves alone -/

theorem State.writeN_frame (s : State) (a n x : Nat) : s.writeN a n x = { s with mem := (s.writeN a n x).mem } := by
  induction n generalizing s a x with
  | zero => rfl
  | succ n ih => rw [State.writeN, ih]; rfl

@[simp] theorem State.writeN_lines (s : State) (a n x : Nat) : (s.writeN a n x).lines = s.lines := by rw [State.writeN_frame]
@[simp] theorem State.writeN_cores (s : State) (a n x : Nat) : (s.writeN a n x).cores = s.cores := by rw [State.writeN_frame]
@[simp] theorem State.writeN_cur (s : State) (a n x : Nat) : (s.writeN a n x).cur = s.cur := by rw [State.writeN_frame]

@[simp] theorem State.line_writeN (s : State) (a n x b : Nat) : (s.writeN a n x).line b = s.line b := by
  simp [State.line]

theorem State.line_modLine (s : State) (a b : Nat) (f : LineMeta → LineMeta) :
    (s.modLine a f).line b = if b / 64 = a / 64 then f (s.line a) else s.line b := by
  simp only [State.modLine, State.line]
  exact SMap.get_set _ _ _ _ _

@[simp] theorem State.byte_modLine (s : State) (a b : Nat) (f : LineMeta → LineMeta) : (s.modLine a f).byte b = s.byte b := rfl

/-- A line without an unfinished wipe is not changed by one. -/
theorem LineMeta.wipe_none (m : LineMeta) (off n : Nat) (h : m.wiped = none) : m.wipe off n = m := by simp [LineMeta.wipe, h]

/-- A write leaves the metadata of a sound line without an unfinished wipe. -/
theorem LineMeta.written_sound (m : LineMeta) (off n : Nat) (hs : m.sound = true) (h : m.wiped = none) : m.written off n = m := by
  simp only [LineMeta.sound, Bool.and_eq_true, beq_iff_eq] at hs
  cases m
  simp_all [LineMeta.written, LineMeta.wipe]

/-- A plain write to a sound line: its bytes, and the typed bit of its line (R76). -/
theorem State.writePlain_stored (s : State) (a n x : Nat) (hs : (s.line a).sound = true) (h : (s.line a).wiped = none) :
    Stored s (s.writePlain a n x) a n x where
  byte b := by simp [State.writePlain, State.byte_writeN]
  line b := by
    simp only [State.writePlain, State.line_modLine, State.line_writeN, LineMeta.written_sound _ _ _ hs h]
    split <;> rename_i hb
    · simp [State.line, hb]
    · rfl

theorem State.writePlain_frame (s : State) (a n x : Nat) :
    s.writePlain a n x = { s with mem := (s.writePlain a n x).mem, lines := (s.writePlain a n x).lines } := by
  unfold State.writePlain State.modLine
  rw [State.writeN_frame]

theorem State.writeTyped_frame (s : State) (a x : Nat) :
    s.writeTyped a x = { s with mem := (s.writeTyped a x).mem, lines := (s.writeTyped a x).lines } := by
  unfold State.writeTyped State.modLine
  rw [State.writeN_frame]

/-! ## The canonical form -/

theorem State.setByte_form {s : State} (h : s.MemoryForm) (a : Nat) (x : BitVec 8) : (s.setByte a x).MemoryForm :=
  ⟨SMap.wf_set _ h.1 _ _, h.2⟩

theorem State.writeN_form {s : State} (h : s.MemoryForm) (a n x : Nat) : (s.writeN a n x).MemoryForm := by
  induction n generalizing s a x with
  | zero => exact h
  | succ n ih => exact ih (State.setByte_form h _ _) _ _

theorem State.modLine_form {s : State} (h : s.MemoryForm) (a : Nat) (f : LineMeta → LineMeta) : (s.modLine a f).MemoryForm :=
  ⟨h.1, SMap.wf_set _ h.2 _ _⟩

theorem State.writePlain_form {s : State} (h : s.MemoryForm) (a n x : Nat) : (s.writePlain a n x).MemoryForm :=
  State.modLine_form (State.writeN_form h _ _ _) _ _

theorem State.writeTyped_form {s : State} (h : s.MemoryForm) (a x : Nat) : (s.writeTyped a x).MemoryForm :=
  State.modLine_form (State.writeN_form h _ _ _) _ _

end Sys2Proof.Machine
end

