-- ==== Sys2Proof/Laws/Access.lean ====
section
/-!
SUPPORT. Accesses of one element: what the issuing core's checks answer for a cell of the own slice, and what such a plain access
leaves.
-/
namespace Sys2Proof.Machine

/-- A line that holds no single-bit error needs no correction. -/
theorem State.correctBytes_sound (s : State) (a n : Nat) (h : (s.line a).sound = true) : s.correctBytes a n = s := by
  simp only [LineMeta.sound, Bool.and_eq_true, beq_iff_eq] at h
  simp [State.correctBytes, h.1]

/-- A sound line is bad only where it is poisoned, whichever of its bytes are met. -/
theorem State.badBytes_sound (s : State) (a n : Nat) (k : AKind) (h : (s.line a).sound = true) : s.badBytes a n k = (s.line a).poisoned := by
  simp only [LineMeta.sound, Bool.and_eq_true, beq_iff_eq] at h
  simp [State.badBytes, h.2]

/-- The target checks of a sound line do not depend on the bytes met. -/
theorem State.targetCheck_sound (s : State) (cid job : Nat) (k : AKind) (a n m : Nat) (h : (s.line a).sound = true) :
    s.targetCheck cid job k a n = s.targetCheck cid job k a m := by
  simp only [State.targetCheck, State.badBytes_sound s a _ k h]

/-- The agent of the running thread has its tag. -/
@[simp] theorem State.agent_job (s : State) (cid k : Nat) : (s.agent cid k).job = (s.slot cid k).tag := rfl
@[simp] theorem State.agent_core (s : State) (cid k : Nat) : (s.agent cid k).core = cid := rfl

/-- R90 for one element that reaches a cell. -/
theorem State.askPlace_cell (s : State) (ag : Agent) (ask : MemAsk) (off : Int) (a : Word) (p : Place)
    (h1 : segAddr ask.sg off ask.n ask.al ask.op.rights ask.reg = .ok a) (h2 : s.checkSpace ag a = .ok p) :
    s.askPlace ag ask off = .ok (a, p) := by
  simp [State.askPlace, h1, h2]

/-- THE CHECKS of an access of one element to a cell of the own slice: they pass, and change nothing. -/
theorem State.checkAsk_own (s : State) (ask : MemAsk) (i : Nat) (off : Int) (c : Nat) (he : ask.elems = [(i, off)])
    (hal : ask.al = ask.n) (h : Reaches s ask.sg off ask.n ask.op ask.reg c) (hc : InOwnSlice s ask.op.kind c) :
    ∃ a, s.checkAsk s.cur.core s.cur.slot ask =
      (s, .ok { op := ask.op, done := ask.done, units := [⟨i, a, c, ask.n⟩], ord := ask.ord, posted := ask.posted && !(c / 2 ^ 60 == 7) }) := by
  obtain ⟨a, h1, h2⟩ := h
  refine ⟨a, ?_⟩
  have h1' : segAddr ask.sg off ask.n ask.al ask.op.rights ask.reg = .ok a := by rw [hal]; exact h1
  have ht : s.targetCheck s.cur.core (s.slot s.cur.core s.cur.slot).tag ask.op.kind c ask.n = none := hc.target _
  simp [State.checkAsk, he, State.askUnits, State.askUnit, State.askPlace_cell s _ ask off a _ h1' h2, State.placeCell, Except.map,
    State.ownCheck, isLocal, hc.own, ht]

/-- A home in the tile of a core is none of the registers. -/
theorem State.own_not_reg {s : State} {c : Nat} (h : s.homeOf c = s.cur.core) (hk : s.cur.core < 40000) : c / 2 ^ 60 ≠ 7 := by
  intro e
  have : s.homeOf c = 40000 + c / 2 ^ 26 % 64 := by simp only [State.homeOf, e]
  omega

/-- A single unit needs its bank once. -/
@[simp] theorem laterUnits_one (u : AUnit) : laterUnits [u] = [] := by
  simp [laterUnits, AUnit.sameRow]

/-- So nothing of it is left for T-cont. -/
@[simp] theorem bankUse_one (clk : Nat) (r : MemReq) (u : AUnit) (b : Bool) : (bankUse clk r [u] b).left = [] := by
  simp [bankUse]

/-- THE ACCESS ITSELF, for a plain operation on one unit of the own tile: it is performed at once, its results are written and the
thread goes on. -/
theorem State.startAccess_own (s : State) (k : Nat) (r : MemReq) (u : AUnit) (undo : List RegWrite) (c : Ctl) (ws : List RegWrite)
    (hu : r.units = [u]) (ho : s.homeOf u.cell = s.cur.core) (hp : r.op.atHome = false)
    (hs : ∀ e, ((s.performPlain r.op u).1.modSlot s.cur.core k fun t => { t with banks := e }).slot s.cur.core k =
      { s.slot s.cur.core k with banks := e })
    (hd : ∀ e, r.done.writes { s.slot s.cur.core k with banks := e } (Config.vecBits s.cur.core) (s.performPlain r.op u).2 u.va =
      .ok ws) :
    ∃ e, s.startAccess s.cur.core k r undo c [] =
      (((s.performPlain r.op u).1.modSlot s.cur.core k fun t => { t with banks := e }).modSlot s.cur.core k
        (·.applyAll ws)).goOn s.cur.core k c := by
  refine ⟨bankUse s.clk r [u] true, ?_⟩
  simp only [State.startAccess, hu, List.filter_cons, isLocal, ho, beq_self_eq_true, if_true, List.filter_nil, Bool.not_true,
    Bool.false_eq_true, if_false, List.isEmpty_nil, Bool.and_false, Bool.false_and, hp, State.performAll, List.append_nil, hs, hd,
    firstRefusal, List.foldl_nil, List.head?_cons, Option.map_some, Option.getD_some, bankUse_one, List.contains_nil,
    Bool.not_false, List.isEmpty_nil, Bool.true_or]

end Sys2Proof.Machine
end

