-- ==== Sys2Proof/Machine/Axioms.lean ====
section
/-!
DEFINITION. The ordering model of R108 to R117 over finite runs, with the engine edges of R149, R239, R263, R291, R317 and R359 and
the recovery rules R385, R391 and R392. A run is plain data; whether an axiom holds of it is computed. The step function is one machine
of the class that these axioms allow (log 67).
-/
namespace Sys2Proof.MemModel

/-! ## Events (R108) -/

/-- An agent: a thread, with the clause it runs, or a host at a Yedan port. -/
inductive Observer where
  | thread (core slot job launch clause : Nat)
  | host (port : Nat)
deriving DecidableEq, Repr

/-- The core of an agent. -/
def Observer.core? : Observer → Option Nat
  | .thread c .. => some c
  | .host _ => none

/-- The die that an agent is in. -/
def Observer.die? (a : Observer) : Option Nat := a.core?.map Config.coreDie

/-- The cluster of a tile's thread. -/
def Observer.clu? (a : Observer) : Option Nat := a.core?.bind fun c => if Config.isTile c then some (Config.cluOf c) else none

/-- Kinds of event. A FENCEX names its two paths. A PBAR is an event on path P that acts as FENCE.dur and counts on path T too (R391). -/
inductive Kind where
  | read | write | rmw | fence | fencex (first second : Path) | pbar
deriving DecidableEq, Repr

/-- What a copy request's event does (R229, R239). Pieces number the writes of a request, elements its gather or scatter elements. -/
inductive CopyPart where
  | reads (elem : Option Nat)
  | writes (piece : Nat) (elem : Option Nat)
  | index (elem : Nat)
  | arrives (concord : Nat) (pieces : List Nat)
deriving DecidableEq, Repr

/-- What an access of a matrix instruction is for (R263). -/
inductive MatrixPart where
  | access | record | chunkRead (round : Nat) | weight (round : Nat)
deriving DecidableEq, Repr

/-- What an access of a lexicon instruction is for (R291). -/
inductive LexPart where
  | access
  | poolWrite (block : Nat)            -- a write of a pool block, before it is linked
  | link (block : Nat)                 -- the write that links the block
  | oldLines | newLines                -- LXPRB's reads of the families of a rehash
  | moves (bucket : Nat)               -- a step's insert of a row of the old bucket into fn
  | empties (bucket : Nat)             -- the emptying of the old bucket
  | key (hash : Nat) | selected (hash : Nat)
  | result (gather : Nat)              -- LXPRB's list and count writes, before the gather request they feed
deriving DecidableEq, Repr

/-- What the engine edges need to know of an event beyond its path and kind. -/
inductive Role where
  | plain
  | fetch
  | expectation (concord : Nat)        -- CCINIT, CCEXP or CCARR
  | observation (concord : Nat)        -- a CCWAIT or CMWAIT that leaves its park, a CCTEST or CMTEST that writes 1
  | copy (request : Nat) (part : CopyPart)
  | matrix (tile place : Nat) (part : MatrixPart)
  | lexicon (tile place : Nat) (parts : List LexPart)  -- one access may be several of them
  | word (channel no : Nat) (received : Bool)
  | tree (tree no : Nat) (completed : Bool)
  | deque (core job place : Nat)
deriving DecidableEq, Repr

/-- One event. `seq` is its instruction's place in the agent's program order; `deps` are the places of earlier instructions on whose read
value its address depends; `value` and `got` are the values of its bytes, written and read. -/
structure Event where
  agent : Observer
  path : Path := .t
  kind : Kind
  ord : MemOrd := .plain
  scope : Scope := .grp
  seq : Nat
  bytes : List Nat := []
  value : List Nat := []
  got : List Nat := []
  deps : List Nat := []
  role : Role := .plain
deriving DecidableEq, Repr

def Event.isRead (e : Event) : Bool := e.kind == .read || e.kind == .rmw
def Event.isWrite (e : Event) : Bool := e.kind == .write || e.kind == .rmw

/-- FENCE, and what acts as one (R116, R391). -/
def Event.isFence (e : Event) : Bool := e.kind == .fence || e.kind == .pbar

/-- The event counts on path p. -/
def Event.onPath (e : Event) (path : Path) : Bool := e.path == path || (path == .t && e.kind == .pbar)

def Event.acquires (e : Event) : Bool := e.isRead && (e.ord == .acq || e.ord == .ar)
def Event.releases (e : Event) : Bool := e.isWrite && (e.ord == .rel || e.ord == .ar)
def Event.shares (x y : Event) : Bool := x.bytes.any y.bytes.contains

/-- The place of an event among its own bytes. -/
def Event.byteAt (l : List Nat) (bytes : List Nat) (b : Nat) : Nat := ((bytes.zip l).find? (·.1 == b)).map (·.2) |>.getD 0

/-! ## Scopes (R110) -/

/-- Table 12: the scope s of the agent `of` contains the agent o. -/
def contains (s : Scope) (of o : Observer) : Bool :=
  of == o ||
  match s, of, o with
  | .grp, .thread c _ j l _, .thread c' _ j' l' _ => c == c' && j == j' && l == l'
  | .core, .thread c .., .thread c' .. => c == c'
  | .clu, a, b => (a.clu?.isSome && a.clu? == b.clu?)
  | .die, a, b => (a.die?.isSome && a.die? == b.die?)
  | .dev, _, .thread .. => true
  | .sys, _, _ => true
  | .dur, _, _ => true
  | _, _, _ => false

/-- Whom an edge binds: every observer, or those in a scope of an agent. -/
inductive Reach where
  | all
  | within (s : Scope) (of : Observer)
deriving DecidableEq, Repr

def Reach.binds : Reach → Observer → Bool
  | .all, _ => true
  | .within s a, o => contains s a o

/-! ## Runs -/

/-- What a thread does with the scheduler (R359), by the numbers of records, launches, units and phrases in the run. -/
inductive Act where
  | spawns (record : Nat)                        -- SPAWN
  | launches (launch : Nat)                      -- LAUNCH
  | joins (record : Nat)                         -- a JOIN or CLEND that decremented the record's counter
  | starts (record : Option Nat) (launch : Nat)  -- the clause starts, from a record or as an index of its launch
  | ends (units : List Nat)                      -- the clause ends; the units that it belongs to
  | waits (unit : Nat)                           -- a WAITC that the unit's completion releases
  | pushes (phrase : Nat) | takes (phrase : Nat) -- DQPUSH; the DQPOP or DQSTEAL that takes the phrase
deriving DecidableEq, Repr

/-- An act at its place in its agent's program order. -/
structure Deed where
  agent : Observer
  seq : Nat
  act : Act
deriving DecidableEq, Repr

/-- R359: what one thread does before an instruction reaches every event of a clause from a place on (enable, unit end, phrase). -/
structure Handoff where
  giver : Observer
  before : Nat
  taker : Observer
  since : Nat
deriving DecidableEq, Repr

/-- A run: its events, for each byte and read the write it reads from (none: the initial one), the order of each byte's writes, the order
of the fences, what its threads do with the scheduler, the launches made eligible by the completion of a unit, the IFLUSHes, and the initial
contents (0 where nothing is listed). -/
structure Run where
  events : List Event
  rf : List (Nat × Nat × Nat) := []      -- (byte, write, read)
  co : List (Nat × List Nat) := []
  order : List Nat := []
  deeds : List Deed := []
  eligible : List (Nat × Nat) := []      -- (unit, launch)
  flushes : List (Observer × Nat) := []
  initial : List (Nat × Nat) := []
deriving DecidableEq, Repr

def Run.size (r : Run) : Nat := r.events.length
def Run.indices (r : Run) : List Nat := List.range r.size

/-- The pairs of events that satisfy a relation. -/
def Run.pairs (r : Run) (rel : Nat → Event → Nat → Event → Bool) : List (Nat × Nat) :=
  (r.events.zipIdx.map fun (x, i) => (r.events.zipIdx.filter fun (y, j) => rel i x j y).map fun (_, j) => (i, j)).flatten

/-! ## The edges of R109 -/

/-- X is earlier than Y in the program order of their agent. -/
def before (x y : Event) : Bool := x.agent == y.agent && x.seq < y.seq

/-- Table 11, all rows but the last. -/
def Run.localEdges (r : Run) (x y : Event) : List Reach :=
  if !before x y then []
  else
    let t (e : Event) := e.onPath .t
    let when (c : Bool) (q : Reach) : List Reach := if c then [q] else []
    let between := r.events.filter fun f => before x f && before f y
    when (x.path == y.path && x.shares y) .all
      ++ when (x.isRead && y.isWrite && t x && t y) .all
      ++ when (x.isRead && y.deps.contains x.seq && t x && t y) .all
      ++ when (x.acquires && t y) (.within x.scope x.agent)
      ++ when (y.releases && t x) (.within y.scope x.agent)
      ++ when (t x && y.isFence) (.within y.scope x.agent)
      ++ when (x.isFence && t y) (.within x.scope x.agent)
      ++ (between.filter fun f => f.isFence && t x && t y).map (fun f => .within f.scope x.agent)
      ++ (match y.kind with | .fencex a _ => when (x.onPath a) (.within y.scope x.agent) | _ => [])
      ++ (match x.kind with | .fencex _ b => when (y.onPath b) (.within x.scope x.agent) | _ => [])
      ++ (between.filter fun f => match f.kind with | .fencex a b => x.onPath a && y.onPath b | _ => false).map
        (fun f => .within f.scope x.agent)

/-- R239, Table 8. -/
def copyEdges (x y : Event) : List Reach :=
  match x.role, y.role with
  | .copy q (.writes p _), .copy q' (.arrives _ ps) => if q == q' && ps.contains p then [.all] else []
  | .expectation k, .copy _ (.arrives k' _) => if before x y && k == k' then [.all] else []
  | .copy q (.index i), .copy q' (.reads e) => if q == q' && e == some i then [.all] else []
  | .copy q (.index i), .copy q' (.writes _ e) => if q == q' && e == some i then [.all] else []
  | .observation _, _ => if before x y && y.onPath .t then [.all] else []
  | _, _ => []

/-- R263, Table 11. MTILE's reads at issue are T-path reads and no part of the engine order. -/
def matrixEdges (x y : Event) : List Reach :=
  match x.role with
  | .matrix tile place part =>
    let own : Bool := match y.role with
      | .matrix tile' place' part' =>
        part' != .record && tile == tile' &&
          ((part != .record && place < place') ||
            (place == place' && (part == .record || match part, part' with | .chunkRead n, .weight m => n == m | _, _ => false)))
      | _ => false
    if own || (part != .record && before x y) then [.all] else []
  | _ => []

/-- R291, Table 10. -/
def lexiconEdges (x y : Event) : List Reach :=
  let inner : Bool := match x.role, y.role with
    | .lexicon tile place parts, .lexicon tile' place' parts' =>
      tile == tile' && (place < place' || (place == place' &&
        parts.any fun u => parts'.any fun v => match u, v with
          | .poolWrite b, .link b' => b == b'
          | .oldLines, .newLines => true
          | .moves b, .empties b' => b == b'
          | .key h, .selected h' => h == h'
          | _, _ => false))
    | .lexicon _ _ parts, .copy q _ => parts.contains (.result q) || before x y
    | .lexicon .., _ => before x y
    | _, _ => false
  let acquired : Bool := match y.role with
    | .lexicon .. => before x y && x.acquires && x.onPath .t
    | _ => false
  (if inner then [.all] else []) ++ (if acquired then [.within x.scope x.agent] else [])
    ++ (match x.role with | .lexicon .. => if before x y then [.all] else [] | _ => [])

/-- R317, Table 9. -/
def networkEdges (x y : Event) : List Reach :=
  match x.role, y.role with
  | .word c n false, .word c' n' got => if c == c' && ((n == n' && got) || (n < n' && !got)) then [.all] else []
  | .word c n true, .word c' n' true => if c == c' && n < n' || before x y then [.all] else []
  | .word _ _ true, _ => if before x y then [.all] else []
  | .tree t n false, .tree t' n' true => if t == t' && n == n' then [.all] else []
  | .tree _ _ true, _ => if before x y then [.all] else []
  | _, .tree _ _ false => if before x y && x.onPath .t then [.within .dev x.agent] else []
  | _, _ => []

/-- Table 8 of R359, rows 1 to 3: a deed hands what its thread did before it on to the clause or the place of another. -/
def Run.handsOn (r : Run) (x y : Deed) : Option Handoff :=
  let start : Option Handoff := some ⟨x.agent, x.seq, y.agent, y.seq⟩
  let after : Option Handoff := some ⟨x.agent, x.seq, y.agent, y.seq + 1⟩
  match x.act, y.act with
  | .spawns c, .starts c' _ => if c' == some c then start else none
  | .joins c, .starts c' _ => if c' == some c then start else none
  | .launches l, .starts none l' => if l == l' then start else none
  | .ends us, .waits u => if us.contains u then after else none
  | .ends us, .starts _ l => if us.any fun u => r.eligible.contains (u, l) then start else none
  | .pushes p, .takes p' => if p == p' then after else none
  | _, _ => none

/-- The hand-offs of a run. -/
def Run.handoffs (r : Run) : List Handoff := r.deeds.flatMap fun x => r.deeds.filterMap fun y => r.handsOn x y

/-- R359, Table 8: hand-offs carry a thread's T-path events, and those for which a FENCEX has made its T-path events wait. -/
def Run.schedulerEdges (r : Run) (x y : Event) : List Reach :=
  let counted (i : Nat) : Bool := x.onPath .t || r.events.any fun f =>
    before x f && f.seq < i && match f.kind with | .fencex a .t => x.onPath a | _ => false
  let given := r.handoffs.any fun h => h.giver == x.agent && x.seq < h.before && h.taker == y.agent && h.since ≤ y.seq && counted h.before
  (if given then [.within .dev x.agent] else []) ++
    match x.role, y.role with
    | .deque c j n, .deque c' j' n' => if c == c' && j == j' && n < n' then [.all] else []
    | _, _ => []

/-- R149: every fetch after an IFLUSH comes after the earlier T-path events of the thread. -/
def Run.fetchEdges (r : Run) (x y : Event) : List Reach :=
  if y.role == .fetch && x.onPath .t && r.flushes.any (fun f => f.1 == x.agent && f.1 == y.agent && x.seq < f.2 && f.2 < y.seq) then [.all]
  else []

/-- Every ppo edge from X to Y, with the observers that it binds (R109). -/
def Run.ppo (r : Run) (x y : Event) : List Reach :=
  r.localEdges x y ++ copyEdges x y ++ matrixEdges x y ++ lexiconEdges x y ++ networkEdges x y ++ r.schedulerEdges x y ++ r.fetchEdges x y

/-! ## Relations -/

/-- po: program order on one path. -/
def Run.po (r : Run) : List (Nat × Nat) := r.pairs fun _ x _ y => before x y && x.path == y.path

/-- rf, without bytes. -/
def Run.rfPairs (r : Run) : List (Nat × Nat) := r.rf.map fun e => (e.2.1, e.2.2)

/-- Pairs of a list in its order. -/
def ordered : List Nat → List (Nat × Nat)
  | [] => []
  | x :: t => t.map (fun y => (x, y)) ++ ordered t

/-- co of one byte. -/
def Run.coOf (r : Run) (b : Nat) : List (Nat × Nat) := ordered (((r.co.find? (·.1 == b)).map (·.2)).getD [])

/-- The write that read i takes byte b from. -/
def Run.source (r : Run) (b i : Nat) : Option Nat := (r.rf.find? fun e => e.1 == b && e.2.2 == i).map (·.2.1)

/-- The bytes of a run. -/
def Run.allBytes (r : Run) : List Nat := ((r.events.map (·.bytes)).flatten).eraseDups

/-- fr of one byte: from a read to the writes after the one it reads from. -/
def Run.frOf (r : Run) (b : Nat) : List (Nat × Nat) :=
  r.pairs fun i x j y => i != j && x.isRead && x.bytes.contains b && y.isWrite && y.bytes.contains b &&
    match r.source b i with
    | none => true
    | some w => (r.coOf b).contains (w, j)

def Run.allCo (r : Run) : List (Nat × Nat) := (r.allBytes.map r.coOf).flatten
def Run.allFr (r : Run) : List (Nat × Nat) := (r.allBytes.map r.frOf).flatten

/-- Everything reached from the events in `l` along `edges`, with fuel. -/
def reachFrom (edges : List (Nat × Nat)) : Nat → List Nat → List Nat
  | 0, l => l
  | fuel + 1, l => reachFrom edges fuel (l ++ ((edges.filter fun e => l.contains e.1 && !l.contains e.2).map (·.2)).eraseDups)

/-- The transitive closure: j is reached from i by one or more edges. -/
def reaches (edges : List (Nat × Nat)) (n i j : Nat) : Bool :=
  (reachFrom edges n ((edges.filter fun e => e.1 == i).map (·.2)).eraseDups).contains j

def acyclic (edges : List (Nat × Nat)) (n : Nat) : Bool := (List.range n).all fun i => !reaches edges n i i

/-- The edges of cause_O (R110): rf, and the ppo edges that bind O. -/
def Run.causeEdges (r : Run) (o : Observer) : List (Nat × Nat) :=
  r.rfPairs ++ r.pairs fun _ x _ y => (r.ppo x y).any (·.binds o)

/-- The agents of a run. -/
def Run.agents (r : Run) : List Observer := (r.events.map (·.agent)).eraseDups

/-! ## The axioms -/

/-- R111: for each byte, po of its accesses with rf, co and fr is acyclic. -/
def Run.coherent (r : Run) : Bool :=
  r.allBytes.all fun b => acyclic
    (r.pairs (fun _ x _ y => before x y && x.path == y.path && x.bytes.contains b && y.bytes.contains b)
      ++ (r.rf.filter (·.1 == b)).map (fun e => (e.2.1, e.2.2)) ++ r.coOf b ++ r.frOf b) r.size

/-- R112: no write of a byte falls between the write that an RMW reads and its own. -/
def Run.atomic (r : Run) : Bool :=
  r.events.zipIdx.all fun (x, i) => x.kind != .rmw || x.bytes.all fun b =>
    let co := r.coOf b
    r.indices.all fun w' => !(co.contains (w', i) && match r.source b i with | none => true | some w => co.contains (w, w'))

/-- R113. -/
def Run.noFuture (r : Run) : Bool := acyclic (r.po ++ r.rfPairs) r.size

/-- R114: no read returns a value that a write has overwritten which causally precedes the read, for the reading agent. -/
def Run.causal (r : Run) : Bool :=
  let fr := r.allFr
  r.events.zipIdx.all fun (x, i) => !x.isRead ||
    let cause := r.causeEdges x.agent
    fr.all fun e => e.1 != i || !reaches cause r.size e.2 i

/-- R115: within each die, co with its readers' rf and fr and its agents' ppo is acyclic. -/
def Run.dieOrdered (r : Run) : Bool :=
  let dieOf (i : Nat) : Option Nat := (r.events[i]?.bind fun e => e.agent.die?)
  let ppo := r.pairs fun _ x _ y => !(r.ppo x y).isEmpty
  ((r.agents.filterMap (·.die?)).eraseDups).all fun d => acyclic
    (r.allCo ++ r.rfPairs.filter (fun e => dieOf e.2 == some d) ++ r.allFr.filter (fun e => dieOf e.1 == some d)
      ++ ppo.filter (fun e => dieOf e.1 == some d && dieOf e.2 == some d)) r.size

/-- R116: F orders every FENCE and contains the cause relations between them; of two fences in each other's scope, what causally precedes
the first for the second's agent is seen by the reads that follow the second. -/
def Run.fenced (r : Run) : Bool :=
  let fences := r.indices.filter fun i => (r.events[i]?.any (·.isFence))
  let F := ordered r.order
  let fr := r.allFr
  fences.all r.order.contains && r.order.all fences.contains && r.order.eraseDups.length == r.order.length &&
    (r.agents.all fun o => let cause := r.causeEdges o
      fences.all fun f => fences.all fun g => f == g || !reaches cause r.size f g || F.contains (f, g)) &&
    F.all fun (i, j) => match r.events[i]?, r.events[j]? with
      | some f1, some f2 =>
        !(contains f1.scope f1.agent f2.agent && contains f2.scope f2.agent f1.agent) ||
          let cause := r.causeEdges f2.agent
          fr.all fun e => match r.events[e.1]? with
            | some x => !(x.agent == f2.agent && !(r.ppo f2 x).isEmpty && reaches cause r.size e.2 i)
            | none => true
      | _, _ => true

/-- A clause that starts from a record has been spawned, and a phrase that is taken has been pushed (R336, R349). -/
def Run.deedsFit (r : Run) : Bool :=
  r.deeds.all fun y => match y.act with
    | .starts (some c) _ => r.deeds.any fun x => x.act == .spawns c
    | .takes p => r.deeds.any fun x => x.act == .pushes p
    | _ => true

/-- The relations fit the events: rf joins a write and a read of the byte with one value, or the initial value is read; co of a byte
orders its writes (R108, R117). -/
def Run.formed (r : Run) : Bool :=
  r.deedsFit &&
  r.rf.all (fun e => match r.events[e.2.1]?, r.events[e.2.2]? with
    | some w, some x => w.isWrite && x.isRead && w.bytes.contains e.1 && x.bytes.contains e.1
    | _, _ => false) &&
  (r.events.zipIdx.all fun (x, i) => !x.isRead || x.bytes.all fun b =>
    Event.byteAt x.got x.bytes b == match (r.source b i).bind fun w => r.events[w]? with
      | some w => Event.byteAt w.value w.bytes b
      | none => ((r.initial.find? (·.1 == b)).map (·.2)).getD 0) &&
  r.allBytes.all fun b =>
    let ws := r.indices.filter fun i => (r.events[i]?.any fun e => e.isWrite && e.bytes.contains b)
    let l := ((r.co.find? (·.1 == b)).map (·.2)).getD []
    ws.all l.contains && l.all ws.contains && l.eraseDups.length == l.length

/-- R117: the run is allowed. -/
def Run.ok (r : Run) : Bool :=
  r.formed && r.coherent && r.atomic && r.noFuture && r.causal && r.dieOrdered && r.fenced

/-! ## Outcomes: some choice of the relations satisfies every axiom -/

/-- All lists that have one element of each list. -/
def choices {α : Type} : List (List α) → List (List α)
  | [] => [[]]
  | l :: t => (l.map fun x => (choices t).map (x :: ·)).flatten

/-- x inserted at every place of a list. -/
def places (x : Nat) : List Nat → List (List Nat)
  | [] => [[x]]
  | y :: t => (x :: y :: t) :: (places x t).map (y :: ·)

/-- Every order of a list. -/
def orders : List Nat → List (List Nat)
  | [] => [[]]
  | x :: t => ((orders t).map (places x)).flatten

/-- Every choice of rf, co and F for the events of a run. -/
def Run.candidates (r : Run) : List Run :=
  let readBytes := (r.events.zipIdx.map fun (x, i) => if x.isRead then x.bytes.map fun b => (b, i) else []).flatten
  let writers (b : Nat) := r.indices.filter fun i => (r.events[i]?.any fun e => e.isWrite && e.bytes.contains b)
  let rfs := choices (readBytes.map fun p => [] :: ((writers p.1).filter (· != p.2)).map fun w => [(p.1, w, p.2)])
  let cos := choices (r.allBytes.map fun b => (orders (writers b)).map fun l => (b, l))
  let Fs := orders (r.indices.filter fun i => (r.events[i]?.any (·.isFence)))
  (rfs.map fun rf => (cos.map fun co => Fs.map fun F => { r with rf := rf.flatten, co := co, order := F }).flatten).flatten

/-- An outcome, given as the events with the values they read, is allowed. -/
def Run.allowed (r : Run) : Bool := r.candidates.any (·.ok)

/-! ## Recovery (R383 to R392) -/

/-- A byte of space 0x3. -/
def durable (b : Nat) : Bool := b / 2 ^ 60 == 3

def Run.durableWrites (r : Run) : List Nat := r.indices.filter fun i => (r.events[i]?.any fun e => e.isWrite && e.bytes.any durable)

/-- R391: PBAR b covers the writes to space 0x3 that precede it for its agent. -/
def Run.covered (r : Run) (b : Nat) : List Nat :=
  match r.events[b]? with
  | none => []
  | some e => let cause := r.causeEdges e.agent
    r.durableWrites.filter fun w => reaches cause r.size w b

/-- R385 and R392: the set D of writes accepted before an interruption is closed under cause, and holds what every completed PBAR covers. -/
def Run.recoverable (r : Run) (D completed : List Nat) : Bool :=
  D.all r.durableWrites.contains &&
    (D.all fun w => match r.events[w]? with
      | none => false
      | some e => let cause := r.causeEdges e.agent
        r.durableWrites.all fun w' => !reaches cause r.size w' w || D.contains w') &&
    completed.all fun b => (r.covered b).all D.contains

end Sys2Proof.MemModel
end

