-- ==== Sys2Proof/Machine/Berdas.lean ====
section
/-!
DEFINITION. The assembler berdas (R8, R50 to R54): from source text to the bytes of the code and data sections and the typed bits of
the data lines, or to diagnostics. A word is formed from the fields of its operation and is checked by the decoder (R51), so that what
this assembler writes is what the machine decodes.
-/
namespace Sys2Proof.Berdas

/-! ## Lines and tokens (R50) -/

inductive Tok where
  | word (s : String)
  | num (n : Nat)
  | op (s : String)
deriving DecidableEq, Repr

/-- A diagnostic without its line: the step of Table 11 where there is one, and what is wrong (R54). -/
structure Err where
  step : Option Nat := none
  what : String
deriving DecidableEq, Repr

def fail {α : Type} (what : String) : Except Err α := .error { what := what }

def isLetter (c : Char) : Bool := ('a' ≤ c && c ≤ 'z') || ('A' ≤ c && c ≤ 'Z')
def isDigit (c : Char) : Bool := '0' ≤ c && c ≤ '9'
def nameChar (c : Char) : Bool := isLetter c || isDigit c || c == '_' || c == '.'

/-- The value of a digit in a base up to 16. -/
def digitVal (base : Nat) (c : Char) : Option Nat :=
  let v := if isDigit c then c.toNat - 48 else if 'a' ≤ c && c ≤ 'f' then c.toNat - 87 else if 'A' ≤ c && c ≤ 'F' then c.toNat - 55 else 99
  if v < base then some v else none

/-- Digits with underscores between them (R3, R50). -/
def digits (base : Nat) : Option Nat → List Char → Option Nat
  | acc, [] => acc
  | none, c :: t => (digitVal base c).bind fun v => digits base (some v) t
  | some n, '_' :: c :: t => if c == '_' then digits base (some n) (c :: t) else (digitVal base c).bind fun v => digits base (some (n * base + v)) t
  | some n, c :: t => (digitVal base c).bind fun v => digits base (some (n * base + v)) t

/-- A numeric literal of R3. -/
def literal : List Char → Option Nat
  | '0' :: 'x' :: t => digits 16 none t
  | '0' :: 'b' :: t => digits 2 none t
  | t => digits 10 none t

/-- The tokens of a line, up to its comment. -/
def lex : Nat → List Char → Except Err (List Tok)
  | 0, _ => fail "line too long"
  | _ + 1, [] => .ok []
  | fuel + 1, c :: t =>
    if c == ';' then .ok []
    else if c == ' ' || c == '\t' || c == '\r' then lex fuel t
    else if isDigit c then
      let w := (c :: t).takeWhile nameChar
      match literal w with
      | some n => if n < 2 ^ 64 then (lex fuel ((c :: t).dropWhile nameChar)).map (.num n :: ·) else fail "literal beyond 64 bits"
      | none => fail "malformed literal"
    else if nameChar c then (lex fuel ((c :: t).dropWhile nameChar)).map (.word (String.ofList ((c :: t).takeWhile nameChar)) :: ·)
    else match c, t with
      | '|', '|' :: r => (lex fuel r).map (.op "||" :: ·)
      | '<', '<' :: r => (lex fuel r).map (.op "<<" :: ·)
      | '>', '>' :: r => (lex fuel r).map (.op ">>" :: ·)
      | _, _ => if ",:[]()+-*/&|=".toList.contains c then (lex fuel t).map (.op (String.ofList [c]) :: ·) else fail "unknown character"

/-- The lines of a text. -/
def linesOf (text : List Char) : List (List Char) :=
  text.foldr (fun c acc => if c == '\n' then [] :: acc else match acc with | l :: r => (c :: l) :: r | [] => [[c]]) [[]]

/-- A name in lower case: mnemonics and directives are read in either case (R8, R53). -/
def lower (s : String) : String := String.ofList (s.toList.map Char.toLower)

/-- The parts of a name between its dots. -/
def parts (s : String) : List String :=
  (s.toList.foldr (fun c acc => if c == '.' then [] :: acc else match acc with | l :: r => (c :: l) :: r | [] => [[c]]) [[]]).map String.ofList

/-! ## Expressions (R50) -/

/-- The value of an expression, and how often the base of .data stands in it: 1 in an address of .data, 0 in a number, in an address of
.text and in the distance of two data labels. A branch target must lie in .text (R51). -/
structure Val where
  v : BitVec 64
  data : Int := 0
deriving DecidableEq, Repr

/-- What a pass knows: names and the code section's base and end of the pass before, clauses so far, and the current location. -/
structure Env where
  syms : List (String × Val)
  code : Option (Nat × Nat) := none
  clauses : List (String × Nat × Nat) := []
  here : Val := ⟨0, 0⟩
deriving DecidableEq, Repr

def Env.sym (e : Env) (s : String) : Option Val := (e.syms.find? (·.1 == s)).map (·.2)

/-- A value that no sum or difference makes: of a number when both operands are numbers. -/
def mixed (x y : Val) (v : BitVec 64) : Val := ⟨v, if x.data = 0 && y.data = 0 then 0 else 1⟩

/-- A binary operator and how tightly it binds (log 70); a shift count outside 0 to 63 and a division by 0 are errors. -/
def binary : String → Option (Nat × (Val → Val → Except Err Val))
  | "*" => some (5, fun x y => .ok (mixed x y (x.v * y.v)))
  | "/" => some (5, fun x y => if y.v = 0 then fail "division by zero" else .ok (mixed x y (x.v.sdiv y.v)))
  | "+" => some (4, fun x y => .ok ⟨x.v + y.v, x.data + y.data⟩)
  | "-" => some (4, fun x y => .ok ⟨x.v - y.v, x.data - y.data⟩)
  | "<<" => some (3, fun x y => if y.v.toNat < 64 then .ok (mixed x y (x.v <<< y.v.toNat)) else fail "shift count")
  | ">>" => some (3, fun x y => if y.v.toNat < 64 then .ok (mixed x y (x.v.sshiftRight y.v.toNat)) else fail "shift count")
  | "&" => some (2, fun x y => .ok (mixed x y (x.v &&& y.v)))
  | "|" => some (1, fun x y => .ok (mixed x y (x.v ||| y.v)))
  | _ => none

mutual
/-- A primary expression. -/
def primary (e : Env) : Nat → List Tok → Except Err (Val × List Tok)
  | 0, _ => fail "expression too deep"
  | fuel + 1, toks =>
    match toks with
    | .num n :: t => .ok (⟨BitVec.ofNat 64 n, 0⟩, t)
    | .op "-" :: t => (primary e fuel t).map fun r => (⟨-r.1.v, -r.1.data⟩, r.2)
    | .op "(" :: t =>
      match level e fuel 1 t with
      | .ok (v, .op ")" :: t) => .ok (v, t)
      | .ok _ => fail "missing )"
      | .error x => .error x
    | .word f :: .op "(" :: .word n :: .op ")" :: t =>
      match f, e.clauses.find? (·.1 == n) with
      | "class", some c => .ok (⟨BitVec.ofNat 64 c.2.1, 0⟩, t)
      | "prio", some c => .ok (⟨BitVec.ofNat 64 c.2.2, 0⟩, t)
      | _, _ => fail "unknown function or clause"
    | .word "here" :: t => .ok (e.here, t)
    | .word n :: t =>
      match e.sym n with
      | some s => .ok (s, t)
      | none => fail ("unknown name " ++ n)
    | _ => fail "expression expected"

/-- Operators that bind at least as tightly as `p`, after the value `x`. -/
def operators (e : Env) : Nat → Nat → Val → List Tok → Except Err (Val × List Tok)
  | 0, _, _, _ => fail "expression too deep"
  | fuel + 1, p, x, toks =>
    match toks with
    | .op o :: t =>
      match binary o with
      | some (q, f) =>
        if q < p then .ok (x, toks)
        else
          match level e fuel (q + 1) t with
          | .error r => .error r
          | .ok (y, t) => match f x y with
            | .error r => .error r
            | .ok z => operators e fuel p z t
      | none => .ok (x, toks)
    | _ => .ok (x, toks)

/-- An expression whose operators bind at least as tightly as `p`. -/
def level (e : Env) : Nat → Nat → List Tok → Except Err (Val × List Tok)
  | 0, _, _ => fail "expression too deep"
  | fuel + 1, p, toks =>
    match primary e fuel toks with
    | .error r => .error r
    | .ok (x, t) => operators e fuel p x t
end

/-- An expression at the head of the tokens, and with `expr` its number alone. -/
def value (e : Env) (toks : List Tok) : Except Err (Val × List Tok) := level e (3 * toks.length + 3) 1 toks
def expr (e : Env) (toks : List Tok) : Except Err (BitVec 64 × List Tok) := (value e toks).map fun r => (r.1.v, r.2)

/-! ## Operand forms (R52) and the forms of the chapters -/

/-- Where an operand goes (R31). -/
inductive Place where
  | d | a | b | c | seg | skip
  | minor (shift : Nat)
  | imm (shift : Nat)
deriving DecidableEq, Repr

def put (f : Fields) (p : Place) (v : Nat) : Fields :=
  match p with
  | .d => { f with d := v }
  | .a => { f with a := v }
  | .b => { f with b := v }
  | .c => { f with c := v }
  | .seg => { f with seg := v }
  | .skip => { f with skip := v }
  | .minor n => { f with minor := f.minor + v * 2 ^ n }
  | .imm n => { f with imm := f.imm + v * 2 ^ n }

/-- An operand of a form. -/
inductive Slot where
  | reg (file : String) (count : Nat) (p : Place) (step : Nat := 8)   -- `step`: what stops a number beyond the file
  | src                                   -- a g register in b, or an expression: the immediate form (R153)
  | imm                                   -- an expression in imm24 or imm56
  | target                                -- a branch target (R51)
  | num (bits : Nat) (p : Place)          -- an expression that must fit the bits
  | mem (index : Option (String × Nat)) (disp : Bool)
  | again                                 -- the second memory operand of NRED, in the same segment (R308)
  | names (l : List (String × Nat)) (p : Place) (optional : Bool)
  | sameD                                 -- nothing written: c is d (R187)
deriving DecidableEq, Repr

/-- A keyword operand: a name from a list, or an expression of some bits. -/
structure Key where
  name : String
  p : Place
  vals : List (String × Nat) := []
  bits : Nat := 1
  need : Bool := false
deriving DecidableEq, Repr

/-- What a type suffix sets (R36): nothing, a scalar width (.i64 where it is left out), or a type code, which must be written. -/
inductive Suffix where
  | none | width | type
deriving DecidableEq, Repr

/-- A written form of an operation. `mem`: it has the memory layout; `scope`: it takes a scope alone. -/
structure Form where
  name : String
  unit : Nat := 0
  op : Nat
  minor : Nat := 0
  imm : Nat := 0
  ty : Suffix := .none
  slots : List Slot := []
  keys : List Key := []
  mem : Bool := false
  scope : Bool := false
deriving DecidableEq, Repr

def condNames : List (String × Nat) := [("eq", 0), ("ne", 1), ("lt", 2), ("ge", 3), ("ltu", 4), ("geu", 5), ("tz", 6), ("tnz", 7)]
def fcondNames : List (String × Nat) := [("eq", 0), ("ne", 1), ("lt", 2), ("ge", 3), ("le", 4), ("gt", 5), ("uo", 6), ("ord", 7)]
def pathNames : List (String × Nat) := [("T", 0), ("C", 1), ("G", 2), ("M", 3), ("L", 4), ("N", 5), ("P", 6)]
def classNames : List (String × Nat) := [("E0", 0), ("E1", 1), ("E2", 2), ("E3", 3), ("E4", 4), ("E5", 5), ("E6", 6), ("E7", 7)]
def levelNames : List (String × Nat) := [("launch", 0), ("graph", 1), ("phase", 2), ("job", 3)]
def sysNames : List (String × Nat) := [("flags", 0), ("trap_pc", 1), ("trap_flags", 2), ("trap_cause", 3), ("trap_addr", 4), ("hbase", 5),
  ("touched", 6), ("stall_timeout", 7), ("chk_count", 8), ("issue_count", 9)]
def typeNames : List (String × Nat) := [("f32", 0), ("f16", 1), ("b16", 2), ("l6", 3), ("i8", 4), ("i16", 5), ("i32", 6), ("i64", 7)]
def widthNames : List (String × Nat) := [("i64", 0), ("i32", 1), ("i16", 2), ("i8", 3)]
def ordNames : List (String × Nat) := [("acq", 1), ("rel", 2), ("ar", 3)]
def scopeNames : List (String × Nat) := [("grp", 0), ("core", 1), ("clu", 2), ("die", 3), ("dev", 4), ("sys", 5), ("dur", 6)]
/-- Source types of VCVT: a u-type sets from_u, four bits above the code (R184). -/
def fromNames : List (String × Nat) := typeNames ++ [("u8", 20), ("u16", 21), ("u32", 22), ("u64", 23)]
def predNames : List (String × Nat) := [("p0", 0), ("p1", 1), ("p2", 2), ("p3", 3), ("p4", 4), ("p5", 5), ("p6", 6), ("p7", 7)]
def rmNames : List (String × Nat) := [("rne", 1), ("rz", 2), ("ru", 3), ("rd", 4)]

def gr (p : Place) : Slot := .reg "g" 32 p
def vr (p : Place) : Slot := .reg "v" 16 p
def pr (p : Place) : Slot := .reg "p" 8 p
def sr (p : Place) : Slot := .reg "s" 8 p
def cr (p : Place) : Slot := .reg "c" 8 p
def hf (p : Place) : Slot := .reg "hf" 4 p
def based : Slot := .mem none false
def memory : Slot := .mem none true
def condSlot (p : Place) : Slot := .names condNames p true

def skipKey : Key := { name := "skip", p := .skip, bits := 2 }
def predKey (p : Place) : Key := { name := "pred", p, vals := predNames }
def rmKey : Key := { name := "rm", p := .imm 0, vals := rmNames }
def partKey : Key := { name := "part", p := .imm 10, bits := 3 }
def flagKey (name : String) (p : Place) : Key := { name, p }
def treeKey : Key := { name := "tree", p := .imm 2, bits := 2 }
def vecKeys : List Key := [predKey .seg, rmKey]

/-- Integer operations with an immediate form: mnemonic, opcode, base of minor (R46). -/
def immRows : List (String × Nat × Nat) := [("add", 0x01, 0), ("sub", 0x02, 0), ("mul", 0x03, 0), ("mulh", 0x04, 0), ("mulhu", 0x04, 4),
  ("div", 0x05, 0), ("divu", 0x05, 4), ("rem", 0x06, 0), ("remu", 0x06, 4), ("and", 0x07, 0), ("or", 0x08, 0), ("xor", 0x09, 0),
  ("andn", 0x0A, 0), ("orn", 0x0B, 0), ("shl", 0x0C, 0), ("shr", 0x0D, 0), ("sar", 0x0E, 0), ("rol", 0x0F, 0), ("ror", 0x10, 0),
  ("min", 0x14, 0), ("minu", 0x14, 4), ("max", 0x15, 0), ("maxu", 0x15, 4)]

/-- Atomics of two operands (R165). -/
def atomicRows : List (String × Nat) := [("aadd", 0x80), ("aand", 0x81), ("aor", 0x82), ("axor", 0x83), ("amin", 0x84), ("amax", 0x85),
  ("aswp", 0x86)]

/-- Vector operations d, a, b on v registers: mnemonic, opcode, imm24 (R187, R192). -/
def vec3Rows : List (String × Nat × Nat) := [("vfadd", 0x00, 0), ("vfsub", 0x01, 0), ("vfmul", 0x02, 0), ("vfdiv", 0x06, 0),
  ("vfmin", 0x08, 0), ("vfmax", 0x09, 0), ("vadd", 0x40, 0), ("vsub", 0x41, 0), ("vmul", 0x42, 0), ("vmulh", 0x43, 0), ("vmulhu", 0x43, 8),
  ("vand", 0x44, 0), ("vor", 0x45, 0), ("vxor", 0x46, 0), ("vshl", 0x47, 0), ("vshr", 0x48, 0), ("vsar", 0x49, 0), ("vmin", 0x4A, 0),
  ("vminu", 0x4A, 8), ("vmax", 0x4B, 0), ("vmaxu", 0x4B, 8), ("vadds", 0x4E, 0), ("vaddsu", 0x4E, 8), ("vsubs", 0x4F, 0),
  ("vsubsu", 0x4F, 8), ("vperm", 0x83, 0)]

/-- Vector operations d, a on v registers. -/
def vec2Rows : List (String × Nat) := [("vfsqrt", 0x07), ("vfabs", 0x0A), ("vfneg", 0x0B), ("vfexp2", 0x0D), ("vflog2", 0x0E),
  ("vfsin", 0x0F), ("vfcos", 0x10), ("vftanh", 0x11), ("vfrcp", 0x12), ("vfrsq", 0x13), ("vabs", 0x4C), ("vmov", 0x80), ("vcompress", 0x85)]

/-- Reductions and VBMAX: a v register into a g register (R196, R204). -/
def vecGRows : List (String × Nat × Nat) := [("vbmax", 0x63, 0), ("vradd", 0xA0, 0), ("vrmin", 0xA2, 0), ("vrminu", 0xA2, 8),
  ("vrmax", 0xA3, 0), ("vrmaxu", 0xA3, 8)]

def scalarForms : List Form :=
  immRows.map (fun r => { name := r.1, op := r.2.1, minor := r.2.2, ty := .width, slots := [gr .d, gr .a, .src] }) ++ [
  { name := "clz", op := 0x11, ty := .width, slots := [gr .d, gr .a] },
  { name := "ctz", op := 0x12, ty := .width, slots := [gr .d, gr .a] },
  { name := "popc", op := 0x13, ty := .width, slots := [gr .d, gr .a] },
  { name := "bfx", op := 0x16, ty := .width, slots := [gr .d, gr .a, gr .b, gr .c] },
  { name := "bfi", op := 0x17, ty := .width, slots := [gr .d, gr .a, gr .b, gr .c] },
  { name := "sel", op := 0x18, ty := .width, slots := [gr .d, gr .a, .src, gr .c] },
  { name := "li", op := 0x19, slots := [gr .d, .imm] },
  { name := "mov", op := 0x1A, ty := .width, slots := [gr .d, gr .a] },
  { name := "cmp", op := 0x40, slots := [gr .a, gr .b, condSlot (.minor 0)] },
  { name := "cmpi", op := 0x41, slots := [gr .a, .imm, condSlot (.minor 0)] },
  { name := "b", op := 0x50, slots := [.target] },
  { name := "bl", op := 0x51, slots := [gr .d, .target] },
  { name := "bi", op := 0x52, slots := [gr .a] },
  { name := "bli", op := 0x53, slots := [gr .d, gr .a] },
  { name := "nop", op := 0x54 },
  { name := "exit", op := 0x55 },
  { name := "ld", op := 0x60, ty := .width, slots := [gr .d, memory], mem := true },
  { name := "st", op := 0x61, ty := .width, slots := [gr .d, memory], mem := true },
  { name := "ldx", op := 0x62, ty := .width, slots := [gr .d, .mem (some ("g", 32)) true], mem := true },
  { name := "stx", op := 0x63, ty := .width, slots := [gr .d, .mem (some ("g", 32)) true], mem := true }] ++
  atomicRows.map (fun r => { name := r.1, op := r.2, ty := .width, slots := [gr .d, memory, gr .b], mem := true }) ++ [
  { name := "acas", op := 0x87, ty := .width, slots := [gr .d, memory, gr .b, gr .c], mem := true },
  { name := "fence", op := 0x88, scope := true },
  { name := "fencex", op := 0x89, slots := [.names pathNames (.imm 0) false, .names pathNames (.imm 3) false], scope := true }]

def engineForms : List Form := [
  { name := "cpq", op := 0x90, slots := [gr .a] },
  { name := "cpqn", op := 0x91, slots := [gr .d, gr .a] },
  { name := "ccinit", op := 0x92, slots := [memory, .names [("map", 1)] (.minor 0) true], mem := true },
  { name := "ccexp", op := 0x93, slots := [gr .d, memory, gr .b], mem := true },
  { name := "ccarr", op := 0x94, slots := [memory, gr .b, gr .c], mem := true },
  { name := "ccwait", op := 0x95, slots := [memory, gr .b], mem := true },
  { name := "cctest", op := 0x96, slots := [gr .d, memory, gr .b], mem := true },
  { name := "cmwait", op := 0x97, slots := [memory, gr .b, gr .c], mem := true },
  { name := "cmtest", op := 0x98, slots := [gr .d, memory, gr .b, gr .c], mem := true },
  { name := "lde", op := 0x99, ty := .width, slots := [gr .d, memory], mem := true },
  { name := "ldc", op := 0x9A, ty := .width, slots := [gr .d, memory], mem := true },
  { name := "stf", op := 0x9B, ty := .width, slots := [gr .d, memory], mem := true },
  { name := "few", op := 0x9C, slots := [memory, .names [("empty", 0), ("full", 1)] (.minor 0) false], mem := true },
  { name := "mldw", op := 0xA0, ty := .type, slots := [gr .d, based, gr .b, gr .c],
    keys := [{ name := "edge", p := .imm 0, vals := [("n", 0), ("w", 1)] }, flagKey "comp" (.imm 1)] },
  { name := "mswap", op := 0xA1 },
  { name := "mstrm", op := 0xA2, ty := .type, slots := [gr .d, based, gr .b, gr .c], keys := [flagKey "tr" (.imm 0)] },
  { name := "mdrain", op := 0xA3, ty := .type, slots := [gr .d, based, gr .b, gr .c, .num 7 (.imm 0)], keys := [flagKey "clr" (.imm 7)] },
  { name := "mtile", op := 0xA4, slots := [memory], mem := true },
  { name := "mqw", op := 0xA5, slots := [gr .d, .num 2 (.imm 0)] },
  { name := "mclr", op := 0xA6, slots := [gr .a, gr .b], keys := [flagKey "shadow" (.minor 0)] },
  { name := "lxfam", op := 0xB0, slots := [hf .d, gr .a, gr .b] },
  { name := "lxtab", op := 0xB1, slots := [.reg "lt" 8 .d, based, gr .b], keys := [flagKey "init" (.minor 0)] },
  { name := "lxins", op := 0xB2, slots := [gr .d, hf .c, based, gr .b] },
  { name := "lxdel", op := 0xB3, slots := [gr .d, hf .c, based, gr .b] },
  { name := "lxprb", op := 0xB4, slots := [gr .d, gr .a] },
  { name := "lxrh", op := 0xB5, slots := [hf (.imm 0), hf (.imm 2), based, gr .b] },
  { name := "lxrh", op := 0xB5, minor := 1, slots := [gr .d, .num 7 (.imm 0)] },
  { name := "lxst", op := 0xB6, slots := [gr .d, .num 3 (.imm 0), .reg "hf" 4 (.imm 3) 9] },
  { name := "lxst", op := 0xB6, slots := [gr .d, .num 3 (.imm 0), .reg "lt" 8 (.imm 3) 9] },
  { name := "lxst", op := 0xB6, slots := [gr .d, .num 3 (.imm 0)] },
  { name := "send", op := 0xC0, slots := [cr .d, gr .a, sr .seg] },
  { name := "recv", op := 0xC1, slots := [gr .d, cr .a] },
  { name := "chst", op := 0xC2, slots := [gr .d, cr .a] },
  { name := "recast", op := 0xC3, slots := [gr .a, gr .b, sr .seg] },
  { name := "nred", op := 0xC4, ty := .type, slots := [based, .again, gr .c],
    keys := [{ name := "op", p := .imm 0, vals := [("add", 0), ("min", 1), ("max", 2), ("topk", 3)] }, treeKey] },
  { name := "nbmax", op := 0xC5, slots := [gr .d, gr .a, sr .seg], keys := [treeKey] },
  { name := "nbar", op := 0xC6, slots := [sr .seg], keys := [treeKey] },
  { name := "win", op := 0xC7, minor := 1, slots := [gr .d, .num 2 (.imm 0)] },
  { name := "win", op := 0xC7, slots := [.num 2 (.imm 0), gr .a] }]

def systemForms : List Form := [
  { name := "spawn", op := 0xD0, slots := [gr .d, gr .a, gr .b, gr .c] },
  { name := "join", op := 0xD1, slots := [gr .d, gr .a] },
  { name := "clend", op := 0xD2, slots := [gr .a] },
  { name := "launch", op := 0xD3, slots := [gr .d, memory], mem := true },
  { name := "waitc", op := 0xD4, slots := [gr .d, gr .a, .names levelNames (.minor 0) false], keys := [flagKey "test" (.minor 2)] },
  { name := "cancel", op := 0xD5, slots := [gr .d, gr .a, .names levelNames (.minor 0) false] },
  { name := "dqpush", op := 0xD6, slots := [gr .d, gr .a, gr .b] },
  { name := "dqpop", op := 0xD7, slots := [gr .d, gr .c] },
  { name := "dqsteal", op := 0xD8, slots := [gr .d, gr .a] },
  { name := "dqcnt", op := 0xD9, slots := [gr .d], keys := [flagKey "clr" (.minor 0)] },
  { name := "tkreq", op := 0xE0, slots := [gr .d, gr .a], keys := [flagKey "wait" (.minor 0), flagKey "all" (.minor 1)] },
  { name := "tklend", op := 0xE1, slots := [gr .d, gr .a, gr .b], keys := [flagKey "recall" (.minor 0)] },
  { name := "tkret", op := 0xE2, slots := [gr .d, gr .a] },
  { name := "tkq", op := 0xE3, slots := [gr .d, .num 2 (.imm 0)] },
  { name := "ecset", op := 0xE4, slots := [gr .d, gr .a, .names classNames (.minor 0) false] },
  { name := "pbar", op := 0xE8, slots := [gr .d, sr .seg], scope := true },
  { name := "pseq", op := 0xE9, slots := [gr .d] },
  { name := "ploss", op := 0xEA, slots := [gr .d, .num 2 (.imm 0)] },
  { name := "segld", op := 0xF0, slots := [sr .d, gr .a, gr .b, sr .c] },
  { name := "segld", op := 0xF0, minor := 1, slots := [sr .d, gr .a, gr .b] },
  { name := "segrd", op := 0xF1, slots := [gr .d, sr .a, .num 1 (.minor 0)] },
  { name := "sysrd", op := 0xF2, slots := [gr .d, .names sysNames (.imm 0) false] },
  { name := "syswr", op := 0xF3, slots := [.names sysNames (.imm 0) false, gr .a] },
  { name := "trap", op := 0xF4, slots := [.num 8 (.imm 0)] },
  { name := "rte", op := 0xF5 },
  { name := "yield", op := 0xF6 },
  { name := "sleep", op := 0xF7, slots := [gr .a] },
  { name := "wake", op := 0xF8, slots := [gr .d, gr .a] },
  { name := "iflush", op := 0xF9 },
  { name := "ctxsv", op := 0xFA, slots := [gr .d, gr .a] },
  { name := "ctxld", op := 0xFB, slots := [gr .d, gr .a] },
  { name := "idrd", op := 0xFC, slots := [gr .d, .num 8 (.imm 0)] },
  { name := "clkrd", op := 0xFD, slots := [gr .d] }]

def vectorForms : List Form :=
  let v (name : String) (op : Nat) (slots : List Slot) (imm : Nat := 0) (keys : List Key := []) (ty : Suffix := .type) : Form :=
    { name, unit := 1, op, imm, ty, slots, keys := keys ++ vecKeys }
  let m (name : String) (op : Nat) (slots : List Slot) : Form := { name, unit := 1, op, ty := .type, slots, keys := [predKey .c], mem := true }
  vec3Rows.map (fun r => v r.1 r.2.1 [vr .d, vr .a, vr .b] r.2.2) ++ vec2Rows.map (fun r => v r.1 r.2 [vr .d, vr .a])
    ++ vecGRows.map (fun r => v r.1 r.2.1 [gr .d, vr .a] r.2.2) ++ [
  v "vfma" 0x03 [vr .d, vr .a, vr .b, vr .c], v "vfma" 0x03 [vr .d, vr .a, vr .b, .sameD],
  v "vfms" 0x04 [vr .d, vr .a, vr .b, vr .c], v "vfms" 0x04 [vr .d, vr .a, vr .b, .sameD],
  v "vfnma" 0x05 [vr .d, vr .a, vr .b, vr .c], v "vfnma" 0x05 [vr .d, vr .a, vr .b, .sameD],
  v "vfcmp" 0x0C [pr .d, vr .a, vr .b, .names fcondNames (.imm 4) true], v "vcmp" 0x4D [pr .d, vr .a, vr .b, condSlot (.imm 4)],
  v "vcvt" 0x60 [vr .d, vr .a] 0 [{ name := "from", p := .imm 4, vals := fromNames, need := true },
    { name := "to", p := .imm 9, vals := [("u", 1)] }, partKey],
  v "vqlns" 0x61 [vr .d, vr .a, gr .b] 0 [partKey], v "vdqlns" 0x62 [vr .d, vr .a, gr .b] 0 [partKey],
  v "vwhile" 0x70 [pr .d, gr .a, gr .b], v "pand" 0x71 [pr .d, pr .a, pr .b] (ty := .none), v "por" 0x72 [pr .d, pr .a, pr .b] (ty := .none),
  v "pxor" 0x73 [pr .d, pr .a, pr .b] (ty := .none), v "pnot" 0x74 [pr .d, pr .a] (ty := .none), v "pcnt" 0x75 [gr .d, pr .a],
  v "vqlen" 0x76 [gr .d], v "vdup" 0x81 [vr .d, gr .a], v "vext" 0x82 [gr .d, vr .a, gr .b], v "vslide" 0x84 [vr .d, vr .a, gr .b],
  v "vnzx" 0x86 [vr .d, vr .a, gr .b, gr .c] 0 [partKey], v "vsel" 0x87 [vr .d, vr .a, vr .b, pr .c],
  v "vraddo" 0xA1 [gr .d, vr .a, gr .b],
  m "vld" 0xB0 [vr .d, memory], m "vst" 0xB1 [vr .d, memory], m "vldg" 0xB2 [vr .d, .mem (some ("v", 16)) true],
  m "vsts" 0xB3 [vr .d, .mem (some ("v", 16)) true], m "vldt" 0xB4 [vr .d, gr .b, memory], m "vstt" 0xB5 [vr .d, gr .b, memory]]

/-- Every written form. -/
def forms : List Form := scalarForms ++ engineForms ++ systemForms ++ vectorForms

/-! ## Reading an operation (R8, R51, R52) -/

/-- The number after the letters of a register file. -/
def regDigits (file w : String) : Option Nat :=
  let f := file.toList
  let l := w.toList
  if l.take f.length != f then none
  else
    let d := l.drop f.length
    if d.isEmpty || !d.all isDigit || (d.length > 1 && d.head? == some '0') then none
    else digits 10 none d

/-- The number of a register of a file of `count`, if the word names one. -/
def regNo (file : String) (count : Nat) (w : String) : Option Nat := (regDigits file w).filter (· < count)

/-- The register of a file that an operand names; a number beyond the file is what step 8 of Table 11 stops (R33, R54), or step 9 where the
register is the index of an LXST (R280). -/
def register (file : String) (count : Nat) (w : String) (step : Nat := 8) : Except Err Nat :=
  match regNo file count w with
  | some n => .ok n
  | none => .error { step := if (regDigits file w).isSome then some step else none, what := "register expected at " ++ w }

/-- An operation while it is read: its fields, an immediate or displacement that is still to be placed, and whether an operand holds a value
beyond its bits. -/
structure Draft where
  f : Fields
  value : Option (BitVec 64) := none
  disp : Bool := false
  beyond : Bool := false
deriving DecidableEq, Repr

/-- Whether a value can stand in a word at a place, be it among bits that are reserved there. -/
def roomFor (p : Place) (v : Nat) : Bool :=
  match p with
  | .minor n => v * 2 ^ n < 16
  | .imm n => v * 2 ^ n < 2 ^ 24
  | .skip => v < 4
  | .seg => v < 8
  | _ => v < 32

/-- A number in an operand of `bits`; one that only the reserved bits above it can hold makes a word that Table 11 stops (R54). -/
def putNum (d : Draft) (bits : Nat) (p : Place) (v : Nat) : Except Err Draft :=
  if v < 2 ^ bits then .ok { d with f := put d.f p v }
  else if roomFor p v then .ok { d with f := put d.f p v, beyond := true }
  else fail "value beyond its field"

/-- The displacement of a memory operand, up to its bracket. -/
def readDisp (e : Env) : List Tok → Except Err (BitVec 64 × List Tok)
  | .op "]" :: t => .ok (0, t)
  | .op "+" :: t => close (expr e t)
  | .op "-" :: t => close (expr e (.op "-" :: t))
  | _ => fail "displacement expected"
where
  close (r : Except Err (BitVec 64 × List Tok)) : Except Err (BitVec 64 × List Tok) :=
    match r with
    | .ok (v, .op "]" :: t) => .ok (v, t)
    | .ok _ => fail "missing ]"
    | .error x => .error x

/-- A memory operand: segment and base, and where the form has one an index register. -/
def readMem (e : Env) (index : Option (String × Nat)) : List Tok → Except Err (Nat × Nat × Nat × BitVec 64 × List Tok)
  | .op "[" :: .word s :: .op ":" :: .word g :: t =>
    match register "s" 8 s, register "g" 32 g, index, t with
    | .error r, _, _, _ => .error r
    | _, .error r, _, _ => .error r
    | .ok s, .ok a, none, t => (readDisp e t).map fun r => (s, a, 0, r.1, r.2)
    | .ok s, .ok a, some ix, .op "+" :: .word b :: t =>
      match register ix.1 ix.2 b with
      | .ok b => (readDisp e t).map fun r => (s, a, b, r.1, r.2)
      | .error r => .error r
    | _, _, _, _ => fail "malformed memory operand"
  | _ => fail "memory operand expected"

/-- A branch offset in 4-byte units (R51). The target is no address of .data and lies in .text, whose end belongs to it (log 70); the first
pass does not know where .text ends. -/
def branchOffset (e : Env) (toks : List Tok) : Except Err (BitVec 64 × List Tok) :=
  match value e toks with
  | .error x => .error x
  | .ok (x, t) =>
    let off := x.v.toInt - e.here.v.toInt
    if x.data != 0 || !(e.code.all fun c => c.1 ≤ x.v.toNat && x.v.toNat ≤ c.2) then fail "target in another section"
    else if off % 4 != 0 then fail "target not a multiple of 4 away"
    else .ok (BitVec.ofInt 64 (off / 4), t)

/-- One operand. -/
def readSlot (e : Env) (d : Draft) (slot : Slot) (toks : List Tok) : Except Err (Draft × List Tok) :=
  match slot with
  | .sameD => .ok ({ d with f := { d.f with c := d.f.d } }, toks)
  | .reg file count p step =>
    match toks with
    | .word w :: t => (register file count w step).map fun n => ({ d with f := put d.f p n }, t)
    | _ => fail "register expected"
  | .src =>
    match toks with
    | .word w :: t => match regNo "g" 32 w with
      | some n => .ok ({ d with f := put d.f .b n }, t)
      | none =>
        if (regDigits "g" w).isSome && (e.sym w).isNone then (register "g" 32 w).map fun _ => (d, t)
        else (expr e toks).map fun r => ({ d with f := put d.f (.minor 3) 1, value := some r.1 }, r.2)
    | _ => (expr e toks).map fun r => ({ d with f := put d.f (.minor 3) 1, value := some r.1 }, r.2)
  | .imm => (expr e toks).map fun r => ({ d with value := some r.1 }, r.2)
  | .target => (branchOffset e toks).map fun r => ({ d with value := some r.1 }, r.2)
  | .num bits p =>
    match expr e toks with
    | .error x => .error x
    | .ok (v, t) => (putNum d bits p v.toNat).map fun d => (d, t)
  | .mem index disp =>
    match readMem e index toks with
    | .error x => .error x
    | .ok (s, a, b, v, t) =>
      let f := put (put d.f .seg s) .a a
      let f := if index.isSome then put f .b b else f
      if disp then .ok ({ f, value := some v, disp := true }, t)
      else if v = 0 then .ok ({ d with f }, t) else fail "no displacement here"
  | .again =>
    match readMem e none toks with
    | .error x => .error x
    | .ok (s, a, _, v, t) =>
      if s != d.f.seg then fail "both operands name one segment" else if v = 0 then .ok ({ d with f := put d.f .b a }, t)
      else fail "no displacement here"
  | .names l p _ =>
    match toks with
    | .word w :: t => match l.find? (·.1 == w) with
      | some x => .ok ({ d with f := put d.f p x.2 }, t)
      | none => .error { step := if l == classNames && (regNo "E" 16 w).isSome then some 9 else none, what := "unknown operand " ++ w }
    | _ => fail "operand expected"

/-- The operands of a form, with commas between them. An optional last one may be left out. -/
def readSlots (e : Env) : Bool → Draft → List Slot → List Tok → Except Err (Draft × List Tok)
  | _, d, [], toks => .ok (d, toks)
  | first, d, .sameD :: rest, toks => match readSlot e d .sameD toks with
    | .ok (d, t) => readSlots e first d rest t
    | .error x => .error x
  | first, d, slot :: rest, toks =>
    let next : Option (List Tok) := if first then some toks else match toks with | .op "," :: t => some t | _ => none
    match next, slot with
    | none, .names _ _ true => readSlots e first d rest toks
    | none, _ => fail "operand missing"
    | some t, _ => match readSlot e d slot t with
      | .ok (d, t) => readSlots e false d rest t
      | .error x => .error x

/-- Keyword operands, in any order, each at most once (R52); a comma may stand before one, as in the syntax of R193, R194 and R203. -/
def readKeys (e : Env) : Nat → List String → Draft → List Key → List Tok → Except Err Draft
  | 0, _, _, _, _ => fail "line too long"
  | _ + 1, seen, d, keys, [] => if keys.all fun k => !k.need || seen.contains k.name then .ok d else fail "keyword operand missing"
  | fuel + 1, seen, d, keys, .op "," :: .word n :: .op "=" :: t => readKeys e fuel seen d keys (.word n :: .op "=" :: t)
  | fuel + 1, seen, d, keys, .word n :: .op "=" :: t =>
    match keys.find? (·.name == n) with
    | none => fail ("unknown keyword " ++ n)
    | some k =>
      if seen.contains n then fail ("keyword twice: " ++ n)
      else if k.vals.isEmpty then
        match expr e t with
        | .error x => .error x
        | .ok (v, t) => match putNum d k.bits k.p v.toNat with
          | .ok d => readKeys e fuel (n :: seen) d keys t
          | .error x => .error x
      else match t with
        | .word w :: t => match k.vals.find? (·.1 == w) with
          | some x => readKeys e fuel (n :: seen) { d with f := put d.f k.p x.2 } keys t
          | none => if n == "pred" then (register "p" 8 w).map fun _ => d else fail ("unknown value " ++ w)
        | _ => fail "value expected"
  | _ + 1, _, _, _, _ => fail "unexpected text"

/-- The suffixes of a mnemonic: a type, an ordering, a scope, in this order, each at most once (R8). -/
structure Suffixes where
  ty : Option String := none
  ord : Option Nat := none
  scope : Option Nat := none
deriving DecidableEq, Repr

def readSuffixes (l : List String) : Except Err Suffixes :=
  let take (names : List (String × Nat)) (l : List String) : Option Nat × List String :=
    match l with
    | x :: t => match names.find? (·.1 == x) with
      | some v => (some v.2, t)
      | none => (none, l)
    | [] => (none, [])
  let (ty, l) : Option String × List String := match l with
    | x :: t => if typeNames.any (·.1 == x) then (some x, t) else (none, l)
    | [] => (none, [])
  let (ord, l) := take ordNames l
  let (scope, l) := take scopeNames l
  if l.isEmpty then .ok { ty, ord, scope } else fail "unknown suffix"

/-- What the suffixes set in a form (R8, R36, R52). FENCE, FENCEX and PBAR require their scope (R167, R390); a scope on a plain access is what
step 9 stops (R38). -/
def applySuffixes (fm : Form) (x : Suffixes) : Except Err Fields :=
  let f : Fields := { unit := fm.unit, op := fm.op, minor := fm.minor, imm := fm.imm }
  let typed : Except Err Fields := match fm.ty, x.ty with
    | .none, none => .ok f
    | .none, some _ => fail "no type suffix here"
    | .width, none => .ok f
    | .width, some w => match widthNames.find? (·.1 == w) with
      | some v => .ok (put f (.minor 0) v.2)
      | none => fail "no such width"
    | .type, none => fail "type suffix missing"
    | .type, some w => match typeNames.find? (·.1 == w) with
      | some v => .ok (put f (.minor 0) v.2)
      | none => fail "no such type"
  match x.ord, x.scope with
  | none, none => if fm.scope then fail "scope suffix missing" else typed
  | some _, none => fail "an ordering suffix requires a scope suffix"
  | none, some s =>
    if fm.scope then typed
    else .error { step := if fm.mem && s != 0 then some 9 else none, what := "no scope alone here" }
  | some _, some _ => if fm.mem then typed else .error { step := if fm.scope then some 9 else none, what := "no ordering here" }

/-- A value within n bits, signed (R51). -/
def fits (n : Nat) (v : BitVec 64) : Bool := -2 ^ (n - 1) ≤ v.toInt && v.toInt < 2 ^ (n - 1)

/-- The value of the draft in the short field, or where the operation has an L96 form in the long one (R32, R51). -/
def place (fm : Form) (x : Suffixes) (d : Draft) : Except Err Fields :=
  let o := x.ord.getD 0
  let s := x.scope.getD 0
  let f := if fm.scope then put d.f (.imm 19) s else d.f
  let long := { f with l96 := true }
  match d.value with
  | none => .ok f
  | some v =>
    if d.disp then
      if fits 19 v then .ok { f with imm := v.toNat % 2 ^ 19 + s * 2 ^ 19 + o * 2 ^ 22 }
      else if longFormOk long && fits 51 v then .ok { long with imm := v.toNat % 2 ^ 51 + s * 2 ^ 51 + o * 2 ^ 54 }
      else fail "displacement does not fit"
    else if fits 24 v then .ok { f with imm := v.toNat % 2 ^ 24 }
    else if longFormOk long && fits 56 v then .ok { long with imm := v.toNat % 2 ^ 56 }
    else fail "value does not fit"

/-- The step of Table 11 whose detail code the decoder gives. -/
def stepOf (detail : Nat) : Option Nat := [2, 3, 4, 5, 6, 7, 8, 9, 10, 11].find? fun n => stepDetail n == detail

/-- The step at which the decoder stops the word of an operation, if it stops it. -/
def stopOf (f : Fields) : Option Nat :=
  match decodeWord allEngines 32 (pack (if f.l96 then 1 else 0) f) with
  | .illegal detail => stepOf detail
  | _ => none

/-- One operation in one form. -/
def readForm (e : Env) (fm : Form) (x : Suffixes) (toks : List Tok) : Except Err Fields :=
  match applySuffixes fm x with
  | .error r => .error r
  | .ok f => match readSlots e true { f } fm.slots toks with
    | .error r => .error r
    | .ok (d, t) => match readKeys e (2 * t.length + 1) [] d (skipKey :: fm.keys) t with
      | .error r => .error r
      | .ok d => match place fm x d with
        | .error r => .error r
        | .ok f => if d.beyond then .error { step := stopOf f, what := "value beyond its field" } else .ok f

/-- One operation: the first form of its mnemonic that fits. `send.end` closes a packet (R8). -/
def readOp (e : Env) (toks : List Tok) : Except Err Fields :=
  match toks with
  | .word w :: t =>
    match parts (lower w) with
    | [] => fail "mnemonic expected"
    | name :: suffixes =>
      if name == "send" && suffixes == ["end"] then
        match forms.find? (·.name == "send") with
        | some fm => readForm e { fm with minor := 1 } {} t
        | none => fail "unknown mnemonic"
      else match readSuffixes suffixes with
        | .error r => .error r
        | .ok x =>
          (forms.filter (·.name == name)).foldl (fun (acc : Except Err Fields) fm => match acc with
            | .ok f => .ok f
            | .error r => match readForm e fm x t with
              | .ok f => .ok f
              | .error q => .error (if r.what == "unknown mnemonic" || (r.step.isNone && q.step.isSome) then q else r))
            (fail "unknown mnemonic")
  | _ => fail "mnemonic expected"

/-- The word of an instruction or pair, and its length; checked by the decoder (R51). -/
def readWord (e : Env) (toks : List Tok) : Except Err (Nat × Nat) :=
  let checked (w n : Nat) : Except Err (Nat × Nat) := match decodeWord allEngines 32 w with
    | .instr _ _ => .ok (w, n)
    | .illegal detail => .error { step := stepOf detail, what := "encoding refused" }
    | _ => fail "no instruction"
  let left := toks.takeWhile (· != .op "||")
  match toks.drop left.length with
  | [] => match readOp e toks with
    | .error r => .error r
    | .ok f => if f.l96 then checked (pack 1 f) 12 else checked (pack 0 f) 8
  | _ :: right => match readOp e left, readOp e right with
    | .ok x, .ok y => if x.l96 || y.l96 then .error { step := some 3, what := "a pair has no imm56" } else checked (pack 2 x + 2 ^ 64 * pack 0 y) 16
    | .error r, _ => .error r
    | _, .error r => .error r

/-! ## Sections, directives and passes (R50, R51, R53, R54) -/

/-- Bytes of the image, their typed lines, and the names of the source. -/
structure Image where
  text : List Nat := []
  data : List Nat := []
  typed : List Nat := []          -- addresses of the typed lines
  syms : List (String × Val) := []
deriving DecidableEq, Repr

/-- A pass over the source. -/
structure Pass where
  image : Image := {}
  clauses : List (String × Nat × Nat) := []
  inText : Bool := true
  ended : Bool := false
  errors : List (Nat × Err) := []
deriving DecidableEq, Repr

/-- n bytes of a number, lowest first (R4). -/
def bytesOf : Nat → Nat → List Nat
  | 0, _ => []
  | n + 1, x => x % 256 :: bytesOf n (x / 256)

/-- Names that no label may have (R50). The names of system registers, which SYSRD and SYSWR write out, are not among them (log 70): R50's
names of registers are read as those of the register files that R33 lists. -/
def reserved (s : String) : Bool :=
  [("g", 32), ("v", 16), ("p", 8), ("s", 8), ("c", 8), ("hf", 4), ("lt", 8)].any (fun r => (regNo r.1 r.2 s).isSome)
    || forms.any (·.name == lower s) || (condNames ++ fcondNames).any (·.1 == s)

/-- A well-formed name. -/
def nameOk (s : String) : Bool :=
  match s.toList with
  | c :: t => (isLetter c || c == '_') && t.all nameChar && !reserved s
  | [] => false

def Pass.err (p : Pass) (line : Nat) (e : Err) : Pass := { p with errors := p.errors ++ [(line, e)] }

/-- A new name. -/
def Pass.define (p : Pass) (line : Nat) (name : String) (v : Val) : Pass :=
  if !nameOk name then p.err line { what := "bad name " ++ name }
  else if p.image.syms.any (·.1 == name) then p.err line { what := "name defined twice: " ++ name }
  else { p with image := { p.image with syms := p.image.syms ++ [(name, v)] } }

/-- The next address of the present section. -/
def Pass.loc (p : Pass) (textBase dataBase : Nat) : Nat :=
  if p.inText then textBase + p.image.text.length else dataBase + p.image.data.length

/-- A location of the present section as a value. -/
def Pass.at (p : Pass) (loc : Nat) : Val := ⟨BitVec.ofNat 64 loc, if p.inText then 0 else 1⟩

def Pass.emitText (p : Pass) (l : List Nat) : Pass := { p with image := { p.image with text := p.image.text ++ l } }
def Pass.emitData (p : Pass) (l : List Nat) : Pass := { p with image := { p.image with data := p.image.data ++ l } }

/-- A filler, and zero bytes to the end of its block (R51). -/
def fillBlock (loc : Nat) : List Nat :=
  if loc % 32 = 0 then [] else bytesOf 4 3 ++ List.replicate (28 - loc % 32) 0

/-- Padding of the code section to a multiple of n (R53). -/
def padText (loc n : Nat) : List Nat :=
  let first := fillBlock loc
  let blocks := ((n - (loc + first.length) % n) % n) / 32
  first ++ (List.replicate blocks (bytesOf 4 3 ++ List.replicate 28 0)).flatten

def padData (loc n : Nat) : List Nat := List.replicate ((n - loc % n) % n) 0

/-- Expressions with commas between them. -/
def exprList (e : Env) : Nat → List Tok → Except Err (List (BitVec 64))
  | 0, _ => fail "list too long"
  | fuel + 1, toks =>
    match expr e toks with
    | .error r => .error r
    | .ok (v, []) => .ok [v]
    | .ok (v, .op "," :: t) => (exprList e fuel t).map (v :: ·)
    | .ok _ => fail "unexpected text"

/-- Fields of the shape record that .shape accepts: name, lowest bit, width (R257, Table 8). -/
def shapeFields : List (String × Nat × Nat) := [("cc_phase", 504, 8), ("cc_en", 503, 1), ("cc_seg", 500, 3), ("cc_off", 448, 32),
  ("res_valid", 447, 1), ("obase", 384, 48), ("res_pass", 368, 16), ("xbase", 320, 48), ("res_panel", 304, 16), ("wbase", 256, 48),
  ("ors", 224, 32), ("k_off", 192, 32), ("wps", 160, 32), ("xvs", 128, 32), ("kbound", 112, 16), ("wseg", 109, 3), ("xseg", 106, 3),
  ("oseg", 103, 3), ("kseg", 100, 3), ("wls", 64, 32), ("kind", 60, 4), ("type", 56, 4), ("comp", 55, 1), ("k_ind", 54, 1), ("acc0", 48, 5),
  ("dtype", 44, 4), ("pw", 37, 7), ("m_minus1", 32, 5), ("n", 16, 16), ("k", 0, 16)]

/-- The record of a list of field=value. -/
def shapeRecord (e : Env) : Nat → List String → Nat → List Tok → Except Err Nat
  | 0, _, _, _ => fail "list too long"
  | _ + 1, _, x, [] => .ok x
  | fuel + 1, seen, x, .op "," :: .word n :: .op "=" :: t =>
    match shapeFields.find? (·.1 == n), expr e t with
    | none, _ => fail ("unknown field " ++ n)
    | _, .error r => .error r
    | some fl, .ok (v, t) =>
      if seen.contains n then fail ("field twice: " ++ n)
      else if v.toNat < 2 ^ fl.2.2 then shapeRecord e fuel (n :: seen) (x + v.toNat * 2 ^ fl.2.1) t
      else fail ("value does not fit field " ++ n)
  | _ + 1, _, _, _ => fail "field=value expected"

/-- The line of a .typed directive (R53, R71). -/
def typedLine (vs : List (BitVec 64)) : Except Err Nat :=
  match vs with
  | f :: s :: els =>
    if !(-127 ≤ s.toInt && s.toInt ≤ 127) then fail "scale out of range"
    else if f = 1 then
      if els.length > 80 then fail "too many elements"
      else if els.any fun x => x.toNat > 63 then fail "code out of range"
      else .ok (Machine.mkDense s.toInt fun j => ((els[j]?).map (·.toNat)).getD 0)
    else if f = 3 then
      if s ≠ 0 then fail "a pattern block's scale is 0"
      else if els.length > 62 then fail "too many elements"
      else if els.any fun x => x.toNat > 162 then fail "code out of range"
      else .ok (3 + (els.zipIdx.map fun x => x.1.toNat * 2 ^ (16 + 8 * x.2)).sum)
    else fail "unknown format"
  | _ => fail "format and scale expected"

/-- A label of the line, at a location. -/
def Pass.label (p : Pass) (line : Nat) (l : Option String) (loc : Nat) : Pass :=
  match l with
  | none => p
  | some n => p.define line n (p.at loc)

/-- One line. `old` is the image of the pass before, where there was one. -/
def Pass.line (old : Option Image) (tb db : Nat) (p : Pass) (no : Nat) (chars : List Char) : Pass :=
  if p.ended then p
  else match lex (chars.length + 1) chars with
    | .error r => p.err no r
    | .ok toks =>
      let (lab, toks) : Option String × List Tok := match toks with
        | .word n :: .op ":" :: t => (some n, t)
        | t => (none, t)
      let loc := p.loc tb db
      let env (loc : Nat) : Env :=
        { syms := (old.map (·.syms)).getD [], code := old.map fun i => (tb, tb + i.text.length), clauses := p.clauses, here := p.at loc }
      let data (f : Pass → Pass) : Pass := if p.inText then p.err no { what := ".data only" } else f p
      let text (f : Pass → Pass) : Pass := if p.inText then f p else p.err no { what := ".text only" }
      match toks with
      | [] => p.label no lab loc
      | .word w :: t =>
        if w.toList.head? == some '.' then
          match lower w, t with
          | ".text", [] => { p.label no lab loc with inText := true }
          | ".data", [] => { p.label no lab loc with inText := false }
          | ".end", [] => { p.label no lab loc with ended := true }
          | ".block", [] => text fun p => (p.label no lab loc).emitText (padText loc 32)
          | ".align", t => match exprList (env loc) (t.length + 1) t with
            | .ok [n] =>
              let n := n.toNat
              if n = 0 || 2 ^ n.log2 != n then p.err no { what := "not a power of two" }
              else if !p.inText then (p.label no lab loc).emitData (padData loc n)
              else if n = 4 then p.label no lab loc
              else if n < 32 then p.err no { what := "alignment of code is 4 or at least 32" }
              else (p.label no lab loc).emitText (padText loc n)
            | .ok _ => p.err no { what := "one operand" }
            | .error r => p.err no r
          | ".equ", .word n :: .op "," :: t => match value (env loc) t with
            | .ok (v, []) => (p.label no lab loc).define no n v
            | .ok _ => p.err no { what := "one value" }
            | .error r => p.err no r
          | ".dword", t => data fun p =>
            if loc % 8 != 0 then p.err no { what := "location not a multiple of 8" }
            else match exprList (env loc) (t.length + 1) t with
              | .ok vs => (p.label no lab loc).emitData ((vs.map fun v => bytesOf 8 v.toNat).flatten)
              | .error r => ((p.label no lab loc).err no r).emitData (List.replicate (8 * (1 + (t.filter (· == .op ",")).length)) 0)
          | ".typed", t => data fun p =>
            let pad := padData loc 64
            let q := (p.label no lab (loc + pad.length)).emitData pad
            match exprList (env (loc + pad.length)) (t.length + 1) t with
            | .error r => (q.err no r).emitData (List.replicate 64 0)
            | .ok vs => match typedLine vs with
              | .error r => (q.err no r).emitData (List.replicate 64 0)
              | .ok x => let q := q.emitData (bytesOf 64 x)
                         { q with image := { q.image with typed := q.image.typed ++ [loc + pad.length] } }
          | ".shape", .word n :: t => data fun p =>
            let pad := padData loc 64
            let q := ((p.label no lab (loc + pad.length)).define no n (p.at (loc + pad.length))).emitData pad
            match shapeRecord (env (loc + pad.length)) (t.length + 1) [] 0 t with
            | .error r => (q.err no r).emitData (List.replicate 64 0)
            | .ok x => q.emitData (bytesOf 64 x)
          | ".clause", .word n :: .op "," :: .word c :: .op "," :: t => text fun p =>
            let pad := padText loc 32
            let q := ((p.label no lab (loc + pad.length)).define no n (p.at (loc + pad.length))).emitText pad
            match classNames.find? (·.1 == c), exprList (env (loc + pad.length)) (t.length + 1) t with
            | some c, .ok [v] => if v.toNat < 16 then { q with clauses := q.clauses ++ [(n, c.2, v.toNat)] } else q.err no { what := "priority out of range" }
            | _, .error r => q.err no r
            | _, _ => q.err no { what := "class and priority expected" }
          | d, _ => p.err no { what := "bad directive " ++ d }
        else text fun p =>
          -- the word's address depends on its length, which its value decides; a word that would cross its block moves to the next
          let go (at_ : Nat) := readWord (env at_) toks
          let far := loc + (fillBlock loc).length
          let fitsHere (n : Nat) : Bool := loc % 32 + n ≤ 32
          match go loc with
          | .ok (x, n) =>
            if fitsHere n then (p.label no lab loc).emitText (bytesOf n x)
            else match go far with
              | .ok (x, n) => ((p.label no lab far).emitText (fillBlock loc)).emitText (bytesOf n x)
              | .error r => ((p.label no lab far).err no r).emitText (fillBlock loc ++ List.replicate 8 0)
          | .error r => ((p.label no lab loc).err no r).emitText (List.replicate 8 0)
      | _ => p.err no { what := "instruction or directive expected" }

/-- One pass over the lines, numbered from 1. -/
def pass (old : Option Image) (tb db : Nat) (ls : List (List Char)) : Pass :=
  (ls.zipIdx 1).foldl (fun p l => p.line old tb db l.2 l.1) {}

/-- Passes until the names and the end of the code no longer move, with fuel. -/
def settle (tb db : Nat) (ls : List (List Char)) : Nat → Option Image → Pass
  | 0, old => (pass old tb db ls).err 0 { what := "names do not settle" }
  | fuel + 1, old =>
    let p := pass old tb db ls
    if old.any fun i => p.image.syms == i.syms && p.image.text.length == i.text.length then p else settle tb db ls fuel (some p.image)

/-- R54: the image of a source, with its sections at two bases; or, where a line is in error, its diagnostics and no image. -/
def assemble (textBase dataBase : Nat) (source : String) : Except (List (Nat × Err)) Image :=
  let ls := linesOf source.toList
  let p := settle textBase dataBase ls (ls.length + 3) none
  if p.errors.isEmpty then .ok p.image else .error p.errors

end Sys2Proof.Berdas
end

