-- ==== Sys2Proof/Tests/Slice0.lean ====
section
/-!
SUPPORT. Tests: terms that well-formedness refuses; words written out from the encodings of the spec, and what they decode to; for each
statement of Certificates/Slice0/Obligations.lean, states and operands that meet its hypotheses, clause by clause; and small single steps.
-/
namespace Sys2Proof.Tests
open Sys2Proof Sys2Proof.Machine

set_option Elab.async false

/-! ## Small states -/

/-- The machine has booted and nothing is scheduled. -/
def up : State := { bootState := .ready, clk := 1000 }

/-- A thread of job 1 that has a handler. -/
def thread : Slot := { st := .ready, occ := some { job := 1, launch := 1, uid := 7 }, pc := 0x140100, npc := 0x140108, hbase := 0x140800 }

/-- `s` with thread `t` running in slot 0 of core c. -/
def running (c : Nat) (t : Slot) (s : State := up) : State := { s.setSlot c 0 t with cur := ⟨c, 0⟩ }

/-- `s` with the line of a cell tagged for job 1. -/
def tagged (a : Nat) (s : State := up) : State := s.modLine a fun m => { m with tag := 1 }

/-- The first cell of the slice of tile 5, a sparse tile of die 0. -/
def cell5 : Nat := 0x140000

/-- A general register of a thread, set. -/
def withG (t : Slot) (l : List (G × Word)) : Slot := l.foldl (fun t x => t.wg x.1 x.2) t

/-- No ordering and a displacement. -/
def at_ (n : Nat) : Mem := ⟨.plain, .grp, .d19 (BitVec.ofNat 19 n)⟩

/-- `Reaches` as a Bool. -/
def reaches (s : State) (sg : BitVec 128) (off : Int) (n : Nat) (op : AccOp) (reg : Bool) (c : Nat) : Bool :=
  match segAddr sg off n n op.rights reg with
  | .ok a => match s.checkSpace (s.agent s.cur.core s.cur.slot) a with
    | .ok p => p == .cell c
    | .error _ => false
  | .error _ => false

theorem reaches_of {s : State} {sg : BitVec 128} {off : Int} {n : Nat} {op : AccOp} {reg : Bool} {c : Nat}
    (h : reaches s sg off n op reg c = true) : Reaches s sg off n op reg c := by
  simp only [reaches] at h
  split at h
  · rename_i a ha
    refine ⟨a, ha, ?_⟩
    split at h
    · rename_i p hp
      rw [hp, eq_of_beq h]
    · exact absurd h (by decide)
  · exact absurd h (by decide)

/-- `InOwnSlice` as a Bool. -/
def ownSlice (s : State) (k : AKind) (c : Nat) : Bool :=
  decide (s.cur.core < 12352) && decide (s.homeOf c = s.cur.core) && decide (s.targetCheck s.cur.core s.me.tag k c 1 = none)
    && (s.line c).sound && decide ((s.line c).wiped = none)

theorem ownSlice_of {s : State} {k : AKind} {c : Nat} (h : ownSlice s k c = true) : InOwnSlice s k c := by
  simp only [ownSlice, Bool.and_eq_true, decide_eq_true_eq] at h
  exact ⟨h.1.1.1.1, h.1.1.1.2, fun n => (s.targetCheck_sound s.cur.core s.me.tag k c n 1 h.1.2).trans h.1.1.2, h.1.2, h.2⟩

/-- A result, as a Bool. -/
def okIs {ε α : Type} [DecidableEq α] (x : Except ε α) (a : α) : Bool :=
  match x with
  | .ok b => b == a
  | .error _ => false
def errorIs {ε α : Type} [DecidableEq ε] (x : Except ε α) (e : ε) : Bool :=
  match x with
  | .ok _ => false
  | .error b => b == e

theorem okIs_of {ε α : Type} [DecidableEq α] {x : Except ε α} {a : α} (h : okIs x a = true) : x = .ok a := by
  cases x with
  | ok b => rw [eq_of_beq h]
  | error b => exact absurd h (by simp [okIs])

theorem errorIs_of {ε α : Type} [DecidableEq ε] {x : Except ε α} {e : ε} (h : errorIs x e = true) : x = .error e := by
  cases x with
  | error b => rw [eq_of_beq h]
  | ok b => exact absurd h (by simp [errorIs])

/-! ## Witnesses: integer instructions, control, traps -/

/-- A thread with numbers in its registers. -/
def numbers : State := running 5 (withG thread [(1, 0x8000000000000000), (2, 0xFFFFFFFFFFFFFFFF), (4, 0x140040), (5, 6), (6, 16)])

theorem witness_IntegerRegisterForms : Runs numbers := by decide
theorem witness_IntegerImmediateForms : Runs numbers := by decide
theorem witness_BitFieldsAndMoves : Runs numbers := by decide
theorem witness_CompareAndSkip : ((3 : Fin 4) ≠ 0 ∧ (1 : Fin 4) ≠ 0) ∧ Runs numbers := by decide

/-- An aligned target in g4, an unaligned one in g2. -/
theorem witness_ControlTransfers : Runs numbers ∧ (numbers.me.rg 4).extractLsb' 0 2 = 0 ∧ (numbers.me.rg 2).extractLsb' 0 2 ≠ 0 ∧
    numbers.me.takesTraps := by
  refine ⟨by decide, by decide +kernel, by decide +kernel, ?_⟩
  exact ⟨by decide +kernel, by decide +kernel⟩

/-- The same thread in handler mode, and without a handler. -/
def handling : State := running 5 { numbers.me with flags := 0x800FF, trapPc := 0x140200, trapFlags := 0x123 }
def bare : State := running 5 { numbers.me with hbase := 0 }
/-- An event for slot 0 of tile 5. -/
def told (e : EvArg) (s : State) : State := { s with ev := { e with core := 5 } }
/-- Slot 0 of tile 5 has two asynchronous reports. -/
def reported : State := told { value := 0x55 } (running 5 { numbers.me with reports := [⟨1, 0x0B, 0x62, 0x1234⟩, ⟨2, 0x07, 0x31, 0⟩] })

theorem witness_Traps : (Runs numbers ∧ numbers.me.takesTraps) ∧
    (Runs reported ∧ reported.me.takesTraps ∧ reported.ev.value.toNat < 256 ∧ reported.ev.core = 5 ∧ reported.ev.slot = 0 ∧
      (reported.slot 5 0).takesTraps ∧ (reported.slot 5 0).st = .ready ∧
      (reported.slot 5 0).reports = [⟨1, 0x0B, 0x62, 0x1234⟩, ⟨2, 0x07, 0x31, 0⟩]) ∧
    (Runs handling ∧ ¬handling.me.takesTraps) ∧ Runs bare ∧ ¬bare.me.takesTraps := by decide +kernel

theorem witness_ReturnAndPrivilege : (Runs handling ∧ handling.me.flags.getLsbD 19 = true ∧ handling.me.trapPc.extractLsb' 0 2 = 0) ∧
    Runs numbers ∧ numbers.me.takesTraps ∧ 1 ≤ (4 : BitVec 12).toNat ∧ (4 : BitVec 12).toNat ≤ 4 := by decide +kernel

/-- A parent segment in s1 (0x1000 bytes at 0x140000, every right), bases in g1 and g2, and limits with rights in g3 to g5: within the
parent, up to its last byte, and beyond it. -/
def segments : State := running 5 { withG thread [(1, 0x140000), (2, 0x140FC0), (3, 0x3F000000001000), (4, 0x01000000000040),
  (5, 0x01000000000041), (6, 0x3F)] with s := (Vector.replicate 8 0).set 1 (mkSeg 0x140000 0x1000 0x3F) }
def segmentsHandling : State := running 5 { segments.me with flags := 0x80000 }

theorem witness_SegmentAndSystemRegisters :
    let fits (s : State) (a b : G) : Bool :=
      let x := s.me.rg a
      let y := s.me.rg b
      decide (x.extractLsb' 0 6 = 0 ∧ y.extractLsb' 54 10 = 0) && decide ((s.me.s[1].extractLsb' 0 64).toNat ≤ x.toNat) &&
      decide (x.toNat + (y.extractLsb' 0 48).toNat ≤ (s.me.s[1].extractLsb' 0 64).toNat + (s.me.s[1].extractLsb' 64 48).toNat) &&
      y.extractLsb' 48 6 &&& ~~~s.me.s[1].extractLsb' 112 6 == 0
    Runs segments ∧ segments.me.takesTraps ∧ fits segments 1 3 = true ∧ fits segments 2 4 = true ∧ fits segments 2 5 = false ∧
    (segments.me.rg 5).extractLsb' 54 10 = 0 ∧ Runs segmentsHandling ∧ hmode segmentsHandling.me.flags = true ∧
    (9 : BitVec 12).toNat ≤ 9 ∧ (5 : BitVec 12).toNat ≤ 9 ∧ 4 < (5 : BitVec 12).toNat := by decide +kernel

/-- The running thread names slot 3 of its core in g1 and slot 16 in g2; slot 3 sleeps until clk 999; the event names it. -/
def sleepers : State := told { slot := 3 } (running 5 (withG thread [(1, 3), (2, 16), (3, 0)])
  (up.setSlot 5 3 { thread with st := .parked (.sleep (some 999)), npc := 0x140308 }))

/-- The thread sleeps. -/
def sleeps (t : Slot) : Bool := match t.st with
  | .parked (.sleep _) => true
  | _ => false
/-- The thread names slot n in g1; slot 3 sleeps without a limit, slot 4 is ready, slot 5 is parked, slot 6 has stopped, slot 7 is of another
job and slot 8 is free. -/
def waking (n : Nat) : State := running 5 (withG thread [(1, BitVec.ofNat 64 n)]) (((((up.setSlot 5 3 { thread with st := .parked (.sleep none) }).setSlot
  5 4 thread).setSlot 5 5 { thread with st := .parked (.matrix 1) }).setSlot 5 6 { thread with st := .stopped }).setSlot 5 7
  { thread with occ := some { job := 2 } })

theorem witness_WaitingAndIdentity : (Runs sleepers ∧ sleepers.me.wakePend = false) ∧
    (∀ n ∈ [4, 5], ((waking n).slot 5 n).tag = (waking n).me.tag ∧ ((waking n).slot 5 n).st ≠ .free ∧ ((waking n).slot 5 n).st ≠ .stopped ∧
      sleeps ((waking n).slot 5 n) = false) ∧
    (((waking 0).me.rg 1).toNat = (waking 0).cur.slot ∧ (waking 0).me.st = .ready) ∧
    (((waking 6).slot 5 6).tag = (waking 6).me.tag ∧ ((waking 6).slot 5 6).st = .stopped) ∧
    (((waking 7).slot 5 7).tag ≠ (waking 7).me.tag ∧ ((waking 8).slot 5 8).st = .free) ∧
    (let s := running 5 { thread with wakePend := true }
     Runs s ∧ s.me.wakePend = true) ∧
    (sleepers.ev.core = sleepers.cur.core ∧ sleepers.ev.slot = 3 ∧ 999 ≤ sleepers.clk ∧
      (sleepers.slot sleepers.cur.core 3).st = .parked (.sleep (some 999))) ∧
    ((sleepers.me.rg 1).toNat < 16 ∧ (sleepers.me.rg 1).toNat ≠ sleepers.cur.slot ∧ (sleepers.slot 5 3).tag = sleepers.me.tag) ∧
    15 < (sleepers.me.rg 2).toNat ∧ sleepers.cur.core = 192 * 0 + 96 * 0 + 12 * 0 + 5 ∧
    (running 12287 thread).cur.core = 192 * 63 + 96 * 1 + 12 * 7 + 11 := by decide +kernel

/-! ## Witnesses: loads, stores and atomics -/

/-- s1 spans the slice of tile 5 with every right; g1 and g4 hold offsets, g2 and g3 data. -/
def slice : State := tagged cell5 (tagged (cell5 + 0x3FFC0) (running 5 { withG thread [(1, 0), (2, 0xFEDCBA9876543210), (3, 0x80), (4, 0x3FFF8),
  (5, 1)] with s := (Vector.replicate 8 0).set 1 (mkSeg cell5 0x40000 0x3F) } ((up.writeN cell5 8 0x80FF7F0180FF7F80))))

/-- The first and the last doubleword of the slice, and an indexed byte. -/
theorem witness_LocalLoads : (Runs slice ∧ memRelease (at_ 0) = none) ∧
    (InOwnSlice slice .read cell5 ∧ Reaches slice slice.me.s[(1 : S)] (slice.me.rg 1 + BitVec.ofInt 64 (at_ 0).disp.val).toInt 8 .load true cell5) ∧
    (InOwnSlice slice .read (cell5 + 0x3FFF8) ∧
      Reaches slice slice.me.s[(1 : S)] (slice.me.rg 4 + BitVec.ofInt 64 (at_ 0).disp.val).toInt 8 .load true (cell5 + 0x3FFF8)) ∧
    (InOwnSlice slice .read (cell5 + 1) ∧
      Reaches slice slice.me.s[(1 : S)] (slice.me.rg 1 + slice.me.rg 5 * BitVec.ofNat 64 1 + BitVec.ofInt 64 (at_ 0).disp.val).toInt 1 .load true
        (cell5 + 1)) :=
  ⟨by decide +kernel, ⟨ownSlice_of (by decide +kernel), reaches_of (by decide +kernel)⟩,
    ⟨ownSlice_of (by decide +kernel), reaches_of (by decide +kernel)⟩, ownSlice_of (by decide +kernel), reaches_of (by decide +kernel)⟩

theorem witness_LocalStores : (Runs slice ∧ memRelease (at_ 8) = none) ∧
    (InOwnSlice slice .write (cell5 + 8) ∧
      Reaches slice slice.me.s[(1 : S)] (slice.me.rg 1 + BitVec.ofInt 64 (at_ 8).disp.val).toInt 8
        (.store [(0, (slice.me.rg 2).toNat % 2 ^ 64)]) true (cell5 + 8)) ∧
    InOwnSlice slice .write (cell5 + 2) ∧
      Reaches slice slice.me.s[(1 : S)] (slice.me.rg 1 + slice.me.rg 5 * BitVec.ofNat 64 2 + BitVec.ofInt 64 (at_ 0).disp.val).toInt 2
        (.store [(0, (slice.me.rg 2).toNat % 2 ^ 16)]) true (cell5 + 2) :=
  ⟨by decide +kernel, ⟨ownSlice_of (by decide +kernel), reaches_of (by decide +kernel)⟩, ownSlice_of (by decide +kernel), reaches_of (by decide +kernel)⟩

/-- A compare-and-swap that finds what it expects (g1 = 0 at cell 8), and one that does not. -/
theorem witness_LocalAtomics : (Runs slice ∧ memRelease (at_ 0) = none) ∧ InOwnSlice slice .rmw cell5 ∧ InOwnSlice slice .rmw (cell5 + 8) ∧
    (∀ r ∈ atomicRows 64, Reaches slice slice.me.s[(1 : S)] (slice.me.rg 1 + BitVec.ofInt 64 (at_ 0).disp.val).toInt 8
      (.atomic r.2.1 (slice.me.rg 2).toNat 0) false cell5) ∧
    (Reaches slice slice.me.s[(1 : S)] (slice.me.rg 1 + BitVec.ofInt 64 (at_ 8).disp.val).toInt 8
      (.atomic .cas (slice.me.rg 2).toNat (slice.me.rg 1).toNat) false (cell5 + 8) ∧
      BitVec.ofNat 64 (slice.readN (cell5 + 8) 8) = slice.me.rg 1) ∧
    BitVec.ofNat 64 (slice.readN cell5 8) ≠ slice.me.rg 1 := by
  refine ⟨by decide +kernel, ownSlice_of (by decide +kernel), ownSlice_of (by decide +kernel), ?_, ⟨reaches_of (by decide +kernel), by decide +kernel⟩,
    by decide +kernel⟩
  intro r hr
  apply reaches_of
  revert r
  decide +kernel

/-! ## Witnesses: vector instructions -/

/-- Lanes that repeat a pattern of 256 bits. -/
def fill2048 (x : Nat) : BitVec 2048 := BitVec.ofNat 2048 ((2 ^ 2048 - 1) / (2 ^ 256 - 1) * x)

/-- A thread with vectors in v1 to v3 (ones, zeros, infinities, NaNs and other patterns among the lanes), predicates p1 and p2, and
scales in g1 to g3: within the range, at its end, and beyond it. -/
def lanesOf (w : Nat) : Slot :=
  { withG thread [(1, 3), (2, 127), (3, 128), (4, 0x40490FDB), (5, BitVec.ofInt 64 (-127)), (6, BitVec.ofInt 64 (-128))] with
    v := (((Vector.replicate 16 0).set 1 (fill2048 0x3F8000007F800000FFC000017F8000013C007C00FE017C018000000100000000 &&& allOf w)).set 2
      (fill2048 0xC0000000BF80000000000000004000003F800000417000007F7FFFFF80000000 &&& allOf w)).set 3
      (fill2048 0x0102030405060708090A0B0C0D0E0F101112131415161718191A1B1C1D1E1F20 &&& allOf w)
    p := ((Vector.replicate 8 0).set 1 (BitVec.ofNat 256 0x0F0FF1F3FFFF00FF0F0FF1F3FFFF00FF)).set 2 (BitVec.ofNat 256 0x55555555555555555555555555555555) }
where allOf (w : Nat) : BitVec 2048 := BitVec.ofNat 2048 (2 ^ w - 1)

/-- On the vector engines of tile 5 (1024 bits) and of tile 10, a vector tile (2048 bits). -/
def vectors : State := running 5 (lanesOf 1024)
def wideVectors : State := running 10 (lanesOf 2048)

theorem witness_VectorInteger : Runs vectors ∧ Runs wideVectors ∧ ∀ ty ∈ [VType.i8, .i16, .i32, .i64], ty.isInt = true := by decide
theorem witness_VectorFloat : Runs vectors ∧ Runs wideVectors ∧ (∀ ty ∈ [VType.f32, .f16, .b16], ty.isFp = true) ∧ (4 : Fin 8).val ≤ 4 := by decide
theorem witness_VectorCompareAndPredicates : Runs vectors ∧ Runs wideVectors ∧ VType.i8.notL6 = true ∧ VType.i8.isInt = true ∧
    VType.b16.notL6 = true ∧ VType.b16.isFp = true := by decide

/-- Conversions that narrow, that widen in parts, and that keep the width; scales 127, −127 and beyond. -/
theorem witness_VectorConversions : (Runs vectors ∧ Runs wideVectors) ∧ vcvtOk .f16 .f32 false false 1 0 = true ∧
    vcvtOk .f32 .b16 false false 1 0 = true ∧ vcvtOk .i32 .f32 false false 0 1 = true ∧ (3 : Fin 8).val ≤ 3 ∧
    (vectors.me.rg 2).toInt = 127 ∧ (vectors.me.rg 5).toInt = -127 ∧ (vectors.me.rg 3).toInt = 128 ∧ (vectors.me.rg 6).toInt = -128 ∧
    vectors.me.takesTraps ∧ VType.f16.isFp = true := by decide +kernel

/-- Elements to quantise (π and the least subnormal number), codes at the ends of their range, and a set of elements of which the second is the
greatest. -/
theorem witness_LnsRules : (fp32.dec 0xC0490FDB = .fin true 0xC90FDB (-22) ∧ 2 ^ 23 ≤ 0xC90FDB * 2 ^ 0 ∧ 0xC90FDB * 2 ^ 0 < 2 ^ 24) ∧
    (fp32.dec 1 = .fin false 1 (-149) ∧ 2 ^ 23 ≤ 1 * 2 ^ 23 ∧ 1 * 2 ^ 23 < 2 ^ 24) ∧
    (∀ x ∈ [(0x21, -4, 1), (0x1F, 3, 3), (0x10, 0, 0)], (x.1 : Nat) < 64 ∧ x.1 ≠ 0x20 ∧ x.1 ≠ 0 ∧ x.2.2 < 4 ∧
      4 * (x.2.1 : Int) + (x.2.2 : Nat) = ((x.1 % 32 : Nat) : Int) - 16) ∧
    (fp32.dec 0x7FC00000).isNaN = true ∧ fp32.dec 0xFF800000 = .inf true ∧
    (∀ x ∈ [0x3F800000, 0x40490FDB, 0x7FC00000], fp32.dec x ≠ .inf false ∧ fp32.dec x ≠ .inf true) ∧
    fp32.dec 0x40490FDB = .fin false 0xC90FDB (-22) ∧ fp32.dec 0x3F800000 = .fin false 0x800000 (-23) ∧
    valLt (.fin false 0xC90FDB (-22)) (.fin false 0x800000 (-23)) = false := by decide +kernel

theorem witness_VectorMoves : Runs vectors ∧ VType.i16.notL6 = true ∧ VType.i16.isInt = true ∧ (1 : Fin 8).val < max 1 (32 / VType.i16.bits) ∧
    (3 : Fin 8).val < max 1 (32 / VType.i8.bits) ∧ (0 : Fin 8).val < max 1 (32 / VType.i64.bits) := by decide

/-- Minima and maxima of active elements, and no active element (p3). -/
theorem witness_VectorReductions : Runs vectors ∧ VType.i8.notL6 = true ∧ VType.i8.isInt = true ∧ VType.f32.isFp = true ∧
    (let w := Config.vecBits vectors.cur.core
     let xs := ((List.range (w / 8)).filter (active (vectors.me.rp w 1) 8)).map (lane (vectors.me.rv 3) 8)
     (∀ y ∈ xs, sextN 8 1 ≤ sextN 8 y) ∧ 1 ∈ xs ∧ (∀ y ∈ xs, sextN 8 y ≤ sextN 8 32) ∧ 32 ∈ xs ∧ (∀ y ∈ xs, 1 ≤ y) ∧ ∀ y ∈ xs, y ≤ 32) ∧
    ((List.range (1024 / 8)).filter (active (vectors.me.rp 1024 3) 8)) = [] := by decide +kernel

/-- Two elements (p3) of 32 bits in the slice of tile 5: in line 0 for a strided access, at the same place for an indexed one. -/
def vectorsIn : State :=
  let t := lanesOf 1024
  tagged cell5 (running 5 { withG t [(1, 0)] with
    s := (Vector.replicate 8 0).set 1 (mkSeg cell5 0x40000 0x3F), p := t.p.set 3 (BitVec.ofNat 256 0x11)
    v := t.v.set 4 (BitVec.ofNat 2048 0x100000001) } (up.writeN cell5 8 0x80FF7F0180FF7F80))

theorem witness_VectorMemory : (Runs vectorsIn ∧ VType.f32.notL6 = true ∧ memRelease (at_ 0) = none ∧ activeOf vectorsIn 32 3 = [0, 1]) ∧
    (∀ j ∈ activeOf vectorsIn 32 3,
      Reaches vectorsIn vectorsIn.me.s[(1 : S)] (vectorsIn.me.rg 1 + BitVec.ofInt 64 (at_ 0).disp.val + BitVec.ofNat 64 (j * 4)).toInt 4 .load false
        (cell5 + 4 * j) ∧ InOwnSlice vectorsIn .read (cell5 + 4 * j)) ∧
    (∀ j ∈ activeOf vectorsIn 32 3,
      Reaches vectorsIn vectorsIn.me.s[(1 : S)] (vectorsIn.me.rg 1 + BitVec.ofInt 64 (at_ 0).disp.val +
        BitVec.ofNat 64 (lane (vectorsIn.me.rv 4) 32 j * 4)).toInt 4 .load false (cell5 + 4) ∧ InOwnSlice vectorsIn .read (cell5 + 4)) ∧
    (∀ j ∈ activeOf vectorsIn 32 3,
      Reaches vectorsIn vectorsIn.me.s[(1 : S)] (vectorsIn.me.rg 1 + BitVec.ofInt 64 (at_ 0).disp.val + BitVec.ofNat 64 (j * 4)).toInt 4 (.store [])
        false (cell5 + 4 * j) ∧ InOwnSlice vectorsIn .write (cell5 + 4 * j)) ∧
    ∀ j ∈ activeOf vectorsIn 32 3,
      Reaches vectorsIn vectorsIn.me.s[(1 : S)] (vectorsIn.me.rg 1 + BitVec.ofInt 64 (at_ 0).disp.val +
        BitVec.ofNat 64 (lane (vectorsIn.me.rv 4) 32 j * 4)).toInt 4 (.store []) false (cell5 + 4) ∧ InOwnSlice vectorsIn .write (cell5 + 4) := by
  have h : activeOf vectorsIn 32 3 = [0, 1] := by decide +kernel
  rw [h]
  refine ⟨by decide +kernel, ?_, ?_, ?_, ?_⟩ <;> intro j hj <;> simp only [List.mem_cons, List.not_mem_nil, or_false] at hj <;>
    rcases hj with rfl | rfl <;> exact ⟨reaches_of (by decide +kernel), ownSlice_of (by decide +kernel)⟩

/-- Line 0 of the slice of tile 5 is a typed dense line; line 1 is not typed; line 2 is typed and its scale byte is malformed. -/
def typedLine : State :=
  let s := (tagged (cell5 + 128) (tagged (cell5 + 64) vectorsIn)).writeN cell5 64 (0x01 + 3 * 2 ^ 8 + 0x3F * 2 ^ 16)
  ((s.writeN (cell5 + 128) 2 0x8001).modLine (cell5 + 128) fun m => { m with typed := true }).modLine cell5 fun m => { m with typed := true }
def typedBeyond : State := running 5 (withG typedLine.me [(3, 128)]) typedLine

theorem witness_TypedLines : (Runs typedLine ∧ memRelease (at_ 64) = none) ∧
    (InOwnSlice typedLine .read cell5 ∧
      Reaches typedLine typedLine.me.s[(1 : S)] (typedLine.me.rg 1 + BitVec.ofInt 64 (at_ 0).disp.val).toInt 64 .tload false cell5 ∧
      typedFault (typedLine.line cell5).typed none (typedLine.readN cell5 64) = none) ∧
    (InOwnSlice typedLine .read (cell5 + 64) ∧
      Reaches typedLine typedLine.me.s[(1 : S)] (typedLine.me.rg 1 + BitVec.ofInt 64 (at_ 64).disp.val).toInt 64 .tload false (cell5 + 64) ∧
      typedFault (typedLine.line (cell5 + 64)).typed none (typedLine.readN (cell5 + 64) 64) = some 0x01 ∧ typedLine.me.takesTraps) ∧
    (InOwnSlice typedLine .write cell5 ∧
      Reaches typedLine typedLine.me.s[(1 : S)] (typedLine.me.rg 1 + BitVec.ofInt 64 (at_ 0).disp.val).toInt 64 (.tstore 0) false cell5 ∧
      (typedLine.me.rg 2).toInt = 127) ∧
    (InOwnSlice typedBeyond .write cell5 ∧
      Reaches typedBeyond typedBeyond.me.s[(1 : S)] (typedBeyond.me.rg 1 + BitVec.ofInt 64 (at_ 0).disp.val).toInt 64 (.tstore 0) false cell5 ∧
      (typedBeyond.me.rg 3).toInt = 128 ∧ typedBeyond.me.takesTraps) :=
  ⟨by decide +kernel, ⟨ownSlice_of (by decide +kernel), reaches_of (by decide +kernel), by decide +kernel⟩,
    ⟨ownSlice_of (by decide +kernel), reaches_of (by decide +kernel), by decide +kernel⟩,
    ⟨ownSlice_of (by decide +kernel), reaches_of (by decide +kernel), by decide +kernel⟩,
    ⟨ownSlice_of (by decide +kernel), reaches_of (by decide +kernel), by decide +kernel⟩⟩

/-- Finite operands of both signs, one of them 0, with an exponent below both of theirs; a magnitude of more bits than the format holds. -/
theorem witness_FloatRounding : (fp16 ∈ formats ∧ (3 : Nat) ≠ 0) ∧
    (fp32.dec 0x3F800001 = .fin false 0x800001 (-23) ∧ fp32.dec 0xC0000000 = .fin true 0x800000 (-22) ∧ fp32.dec 0x80000001 = .fin true 1 (-149) ∧
      (-23 : Int) ≤ -23 ∧ (-46 : Int) ≤ -22 + -23 ∧ (-149 : Int) ≤ -149) ∧
    2 ^ (fp16.fbits + 1) ≤ 0x1801 ∧ 0x1801 * 2 ^ 2 < 0x6005 ∧ 0x6005 < (0x1801 + 1) * 2 ^ 2 := by decide +kernel

/-- Operands of single precision that meet the hypotheses of each clause: NaNs, infinities, zeros and numbers. -/
theorem witness_FloatSpecials : (fp32 ∈ formats ∧ 0x80000000 < 2 ^ fp32.width ∧ (match fp32.dec 0 with | .fin s m _ => !s && m == 0 | _ => false) = true ∧
      valLt (fp32.dec 0x80000000) (fp32.dec 0) = false) ∧ (fp32.dec 0x7FC00000).isNaN = true ∧ (fp32.dec 0x7F800001).isSig = true ∧
    fp32.dec 0x7F800000 = .inf false ∧ fp32.dec 0xFF800000 = .inf true ∧ fp32.dec 0x80000000 = .fin true 0 (fp32.dec 0x80000000 |> fun
      | .fin _ _ e => e
      | _ => 0) ∧ (fp32.dec 0x3F800000).isNaN = false ∧ valLt (fp32.dec 0xBF800000) (fp32.dec 0x3F800000) = true := by decide +kernel

/-- Rows of every kind; two active elements of a load in the own slice; a scale beyond the range. -/
theorem witness_Pairs : (Runs vectors ∧ VType.i32.isInt = true ∧ VType.f16.isFp = true ∧ (4 : Fin 8).val ≤ 4 ∧ VType.b16.notL6 = true ∧
      ¬(-127 ≤ (vectors.me.rg 3).toInt ∧ (vectors.me.rg 3).toInt ≤ 127) ∧ vectors.me.takesTraps) ∧
    (Runs vectorsIn ∧ memRelease (at_ 0) = none ∧ activeOf vectorsIn 32 3 = [0, 1]) ∧
    ∀ j ∈ activeOf vectorsIn 32 3,
      Reaches vectorsIn vectorsIn.me.s[(1 : S)] (vectorsIn.me.rg 1 + BitVec.ofInt 64 (at_ 0).disp.val + BitVec.ofNat 64 (j * 4)).toInt 4 .load false
        (cell5 + 4 * j) ∧ InOwnSlice vectorsIn .read (cell5 + 4 * j) := by
  have h : activeOf vectorsIn 32 3 = [0, 1] := by decide +kernel
  refine ⟨by decide +kernel, ⟨by decide +kernel, by decide +kernel, h⟩, ?_⟩
  rw [h]
  intro j hj
  simp only [List.mem_cons, List.not_mem_nil, or_false] at hj
  rcases hj with rfl | rfl <;> exact ⟨reaches_of (by decide +kernel), ownSlice_of (by decide +kernel)⟩

/-! ## Witnesses: fences, stops, fetching -/

/-- `s` with one message under way, number 1, which the present event names. -/
def mail (b : MsgBody) (s : State := up) : State := { s with msgs := [⟨1, 900, b⟩], nextMsg := 2, ev := { id := 1 } }

/-- A store of slot 0 of tile 5, which is on its way to a home. -/
def storeTo (home cell : Nat) : Access :=
  { core := 5, slot := 0, job := 1, op := .store [(0, 0x55)], done := .none, posted := true, counted := true, addr := BitVec.ofNat 64 cell
    parts := [(home, [⟨0, BitVec.ofNat 64 cell, cell, 8⟩])], waiting := [home], results := [], refusals := [] }

/-- Dies 0 and 63 are touched. -/
def fencing : State := running 5 { thread with touched := 0x8000000000000001 }
def probed : State := mail (.probe 5 0 63 .t) fencing
/-- A store of the thread to tile 12287, of die 63, is still on its way. -/
def probedEarly : State := { probed with
  accesses := [(1, some (storeTo 12287 (Config.tileBase 12287)))], nextAcc := 2, msgs := probed.msgs ++ [⟨2, 990, .access 1 12287⟩], nextMsg := 3 }
def echoed (pending : List (Nat × Path)) : State :=
  mail (.echo 5 0 63 .t) (running 5 { fencing.me with st := .parked (.fence .sys pending true (.go (.go 0x140108))) })

/-- No access is on its way: every path's events that are accesses are performed. -/
theorem pathPerformed_t {s : State} {c k die : Nat} (h : s.accesses = []) : PathPerformed s c k die .t := by
  simp [PathPerformed, h, SMap.get, SMap.find?]

/-- The thread has requests in the copy engine, or in the matrix engine, for probes of the paths C and M of its own die. -/
def probedCopy (op : Nat) : State := mail (.probe 5 0 0 .c) (running 5 { thread with touched := 1 } (up.modCore 5 fun x =>
  { x with copyFifo := [{ id := 1, core := 5, slot := 0, uid := 7, job := 1, op, src := 0, dst := 0, idx := 0, cseg := 0, esize := 0, stype := 0, dtype := 0
                          rm := 1, cc := false, fe := false, count := 0, w1 := 0, w2 := 0, w3 := 0 }] }))
def probedMatrix (k : Nat) : State := mail (.probe 5 0 0 .m) (running 5 thread (up.modCore 5 fun x => { x with mxQueue := [⟨9, k, 1, .mswap⟩] }))

theorem witness_Fences : (Runs numbers ∧ touchedDies numbers.me.touched = []) ∧ (Runs fencing ∧ touchedDies fencing.me.touched = [0, 63]) ∧
    (Carries probed (.probe 5 0 63 .t) ∧ PathPerformed probed 5 0 63 .t) ∧
    (Carries probedEarly (.probe 5 0 63 .t) ∧ ¬ PathPerformed probedEarly 5 0 63 .t) ∧
    (Carries (probedCopy 1) (.probe 5 0 0 .c) ∧ PathPerformed (probedCopy 1) 5 0 0 .c) ∧ ¬ PathPerformed (probedCopy 0) 5 0 0 .c ∧
    (Carries (probedMatrix 3) (.probe 5 0 0 .m) ∧ PathPerformed (probedMatrix 3) 5 0 0 .m) ∧ ¬ PathPerformed (probedMatrix 0) 5 0 0 .m ∧
    (Carries (echoed [(63, .t)]) (.echo 5 0 63 .t) ∧ ((echoed [(63, .t)]).slot 5 0).st = .parked (.fence .sys [(63, .t)] true (.go (.go 0x140108)))) ∧
    Carries (echoed [(0, .t), (63, .t)]) (.echo 5 0 63 .t) ∧
    ((echoed [(0, .t), (63, .t)]).slot 5 0).st = .parked (.fence .sys [(0, .t), (63, .t)] true (.go (.go 0x140108))) := by
  refine ⟨by decide +kernel, by decide +kernel, ⟨by decide +kernel, pathPerformed_t (by decide +kernel)⟩, ⟨by decide +kernel, fun h => ?_⟩,
    ⟨by decide +kernel, ⟨by decide +kernel, fun x hx => ?_⟩⟩, fun h => ?_, ⟨by decide +kernel, ⟨by decide +kernel, fun r hr => ?_⟩⟩, fun h => ?_,
    by decide +kernel, by decide +kernel, by decide +kernel⟩
  · exact h ⟨2, 990, .access 1 12287⟩ (by decide +kernel) 1 12287 (storeTo 12287 (Config.tileBase 12287)) rfl rfl rfl rfl rfl
  · exact absurd hx (by simp [(by decide +kernel : (probedCopy 1).accesses = [])])
  · exact (by decide +kernel : ¬ ∀ r ∈ ((probedCopy 0).core 5).copyFifo, r.slot = 0 → r.op = 1) fun r hr => h.1 r (List.mem_append_left _ hr)
  · exact absurd hr (by simp [(by decide +kernel : ((probedMatrix 3).core 5).mxRun = none)])
  · exact h.1 ⟨9, 0, 1, .mswap⟩ (by decide +kernel) rfl

/-- Handler software in slot 0 of tile 5 names slots 1 (free), 2 (of job 2), 3 (stopped), 4 (ready) and 15 (parked) of its core, itself, and
no slot. -/
def saver (n : Nat) : State := running 5 (withG { thread with flags := 0x80000 } [(1, BitVec.ofNat 64 n)])
  ((((up.setSlot 5 2 { thread with occ := some { job := 2 } }).setSlot 5 3 { thread with st := .stopped }).setSlot 5 4 thread).setSlot 5 15
    { thread with st := .parked (.sleep none) })
/-- The event STOP for slot 4: as a request, and for a thread that has been asked to stop. -/
def stopAsked : State := { saver 4 with ev := { core := 5, slot := 4, more := true } }
def stopReady (rq : StopReq) : State := { (saver 4).setSlot 5 4 { withG thread [(9, 0x99)] with stopReq := some rq, touched := 1 } with
  ev := { core := 5, slot := 4 } }
/-- Slots 0 and 1 wait in CTXSV for it. -/
def stopAwaited (rq : StopReq) : State := ((stopReady rq).setSlot 5 0 { thread with st := .parked (.ctxsv 4 3) }).setSlot 5 1
  { thread with st := .parked (.ctxsv 4 9) }
/-- A thread with a report, for its image. -/
def imaged : Slot := { lanesOf 1024 with reports := [⟨3, 0x0B, 0x62, 0x1234⟩], wakePend := true, issueCount := 9, flags := 0xB03FF, trapPc := 0x44 }

theorem witness_StopsAndContexts : (Runs (saver 0) ∧ hmode (saver 0).me.flags = true ∧ 15 < ((saver 16).me.rg 1).toNat ∧
      ((saver 0).me.rg 1).toNat = (saver 0).cur.slot) ∧
    (((saver 1).me.rg 1).toNat ≤ 15 ∧ ((saver 1).slot 5 1).st = .free) ∧
    (((saver 2).slot 5 2).st ≠ .free ∧ ((saver 2).slot 5 2).tag ≠ (saver 2).me.tag) ∧
    (((saver 3).slot 5 3).st = .stopped ∧ ((saver 3).slot 5 3).tag = (saver 3).me.tag ∧ (saver 3).me.st = .ready ∧
      (SMap.get 0 (SMap.get [] (saver 3).images ((saver 3).imageKey 5 3)) 48).extractLsb' 0 2 = 0) ∧
    ((saver 0).me.st = .ready ∧ ((saver 0).me.rg 1).toNat = (saver 0).cur.slot) ∧
    (((saver 4).slot 5 4).alive ∧ ((saver 4).slot 5 4).tag = (saver 4).me.tag ∧ ((saver 15).slot 5 15).alive) ∧
    (stopAsked.ev.core = 5 ∧ stopAsked.ev.slot = 4 ∧ stopAsked.ev.more = true ∧ (stopAsked.slot 5 4).alive) ∧
    (∀ rq ∈ [StopReq.scheduler, .ctxsv 1], ∀ s ∈ [stopReady rq, stopAwaited rq],
      s.ev.more = false ∧ s.ev.core = 5 ∧ s.ev.slot = 4 ∧ (s.slot 5 4).st = .ready ∧ (s.slot 5 4).stopReq = some rq ∧ (s.slot 5 4).inPacket = false ∧
        (s.slot 5 4).posted = 0 ∧ (s.slot 5 4).banks.cont = [] ∧ s.accesses = []) ∧
    (((stopAwaited .scheduler).slot 5 0).st = .parked (.ctxsv 4 3) ∧ ((stopAwaited .scheduler).slot 5 1).st = .parked (.ctxsv 4 9)) ∧
    (imaged.reports.length ≤ 24 ∧ (∀ r ∈ imaged.reports, r.cause < 256 ∧ r.detail < 256) ∧ (∀ i : V, (imaged.rv i).toNat < 2 ^ 1024) ∧
      ∀ i : P, (imaged.rp 1024 i).toNat < 2 ^ (1024 / 8)) :=
  by and_intros <;> decide +kernel

/-- Slot 2 of tile 5 has a word to annul at the end of its block: the last of its skip count, and not the last; or a filler. -/
def annulling (n : Nat) (w : Nat := 0x7A0) : State := { running 5 thread (up.setSlot 5 2 { thread with
  pc := 0x140118, flags := BitVec.ofNat 64 (n * 65536), buf := [⟨0x140100, w * 2 ^ 192⟩] }) with ev := { core := 5, slot := 2 } }
/-- Slot 2 is about to commit ADD g4, g4, g6: for the first time, and again after a retry; the tester finds an answer right and wrong. -/
def committing (retry flag : Bool) (n : Word) : State := { running 5 thread ((up.modCore 5 fun x => { x with chkCount := n }).setSlot 5 2
  { thread with retry := retry, buf := [⟨0x140100, 0xC42008⟩] }) with ev := { core := 5, slot := 2, flag := flag } }
/-- T-cont accesses of slots 2 to 4 of tile 5: bank 3 is wanted by all, and first by slot 4; bank 7 is taken by a T-issue access of slot 1;
bank 9 is free for slot 3. -/
def tconting : State := { (((up.setSlot 5 1 { thread with banks := { clk := 1000, issue := [7] } }).setSlot 5 2 { thread with banks := { clk := 998, cont := [3, 7] } }).setSlot
  5 3 { thread with banks := { clk := 997, cont := [3, 9, 9] } }).setSlot 5 4 { thread with st := .parked .tcont, banks := { clk := 996, cont := [3], left := [⟨0, 0x140030, 0x140030, 4⟩], done := .lanes 3 32 } } with ev := { core := 5 } }

theorem witness_AnnulmentAndChecker : (∀ x ∈ [(1, 0x7A0, 1), (3, 0x7A0, 3), (2, 0x83, 2)], let s := annulling x.1 x.2.1
      s.ev.core = 5 ∧ s.ev.slot = 2 ∧ (s.slot 5 2).st = .ready ∧ (s.slot 5 2).wakeStatus = none ∧ (s.slot 5 2).fetched = .word 8 x.2.1 ∧
        ((s.slot 5 2).flags.extractLsb' 16 2).toNat = x.2.2) ∧
    (0x7A0 % 4 ≠ 3 ∧ wordLength 0x7A0 ≤ 8 ∧ 0x83 % 4 = 3) ∧
    (((committing false true 5).slot 5 2).st = .ready ∧ ((committing false true 5).slot 5 2).retry = false ∧
      ((committing false true 5).slot 5 2).fetched = .word 32 0xC42008 ∧ decodeWord (enginesOf 5) 32 0xC42008 = .instr (.add .w64 4 4 6) 8) ∧
    ((committing true false 5).slot 5 2).retry = true ∧ (committing true false 5).ev.flag = false ∧ (committing false true 5).ev.flag = true ∧
    (tconting.ev.core = 5 ∧ (tconting.slot 5 4).banks.clk < tconting.clk ∧ 3 ∈ (tconting.slot 5 4).banks.cont ∧
      (tconting.slot 5 4).banks.clk < (tconting.slot 5 3).banks.clk ∧ (tconting.slot 5 1).banks.clk = tconting.clk ∧
      7 ∈ (tconting.slot 5 1).banks.issue) := by decide +kernel

/-- Slot 2 of tile 5 fetches the block at an address: s0 spans the slice, or the slice of tile 6, or does not let it execute. -/
def fetching (a base rights : Nat) (more : Bool := false) (hs : List (Word × Nat) := []) : State :=
  { running 5 thread (tagged cell5 (tagged (cell5 + 0x100) (up.setSlot 5 2 { thread with
      pc := BitVec.ofNat 64 (a / 32 * 32 + 8), want := some (BitVec.ofNat 64 (a / 32 * 32)), halves := hs
      s := (Vector.replicate 8 0).set 0 (mkSeg base 0x40000 rights) }))) with
    ev := { core := 5, slot := 2, addr := BitVec.ofNat 64 a, flag := true, more := more } }
/-- A store of slot 2 from before its latest IFLUSH is still on its way. -/
def flushing : State :=
  let s := fetching 0x140100 0x140000 rExec
  { s.modSlot 5 2 (fun t => { t with flushed := 2 }) with
    msgs := [⟨1, 990, .access 1 6⟩], nextMsg := 2, accesses := [(1, some { storeTo 6 0x180000 with slot := 2 })], nextAcc := 2 }
def fetchSeg (base limit rights : Nat) : State := up.setSlot 5 2 { thread with s := (Vector.replicate 8 0).set 0 (mkSeg base limit rights) }

theorem witness_Fetching :
    (let s := fetching 0x140100 0x140000 rExec
     (s.ev.core = 5 ∧ s.ev.slot = 2 ∧ s.ev.more = false ∧ (s.slot 5 2).alive) ∧ s.fetchPlace 5 2 s.ev.addr = .ok (.cell 0x140100) ∧
       s.homeOf 0x140100 = 5 ∧ s.targetCheck 5 (s.slot 5 2).tag .read 0x140100 16 = none ∧ s.targetCheck 5 (s.slot 5 2).tag .read 0x140110 16 = none ∧
       (s.line 0x140100).sound = true ∧ (s.line 0x140110).sound = true ∧ s.msgs = [] ∧ s.ev.flag = true ∧
       s.ev.addr = blockOf (s.slot 5 2).pc) ∧
    (let s := fetching 0x140110 0x140000 rExec true [(0x140100, 0x1234)]
     (s.ev.more = true ∧ (s.slot 5 2).alive ∧ s.ev.addr = blockOf s.ev.addr + 16 ∧ (s.slot 5 2).want = some (blockOf s.ev.addr) ∧
       (s.slot 5 2).halves.find? (·.1 == blockOf s.ev.addr) = some (blockOf s.ev.addr, 0x1234) ∧
       s.targetCheck 5 (s.slot 5 2).tag .read 0x140110 16 = none ∧ (s.line 0x140110).sound = true) ∧
       s.fetchPlace 5 2 (blockOf s.ev.addr) = .ok (.cell 0x140100)) ∧
    (let s := fetching 0x140100 0x140000 rExec true
     s.ev.addr = blockOf s.ev.addr ∧ (s.slot 5 2).halves.find? (·.1 == blockOf s.ev.addr + 16) = none) ∧
    ((⟨1, 990, .access 1 6⟩ ∈ flushing.msgs ∧ 1 < (flushing.slot 5 2).flushed ∧
      SMap.get none flushing.accesses 1 = some { storeTo 6 0x180000 with slot := 2 } ∧ (storeTo 6 0x180000).core = 5 ∧
      (storeTo 6 0x180000).engine = none) ∧ flushing.fetchPlace 5 2 flushing.ev.addr = .ok (.cell 0x140100)) ∧
    (let s := fetching 0x140100 0x140000 rRead
     s.fetchPlace 5 2 s.ev.addr = .error (0x04, 0x12) ∧ s.ev.flag = true ∧ (s.slot 5 2).takesTraps) ∧
    (let s := fetching 0x180100 0x180000 rExec
     s.fetchPlace 5 2 s.ev.addr = .ok (.cell 0x180100) ∧ s.homeOf 0x180100 ≠ 5 ∧ s.ev.flag = true) ∧
    (let s := fetchSeg 0x140000 0x40000 rExec
     let sg := (s.slot 5 2).s[0]
     ((sg.extractLsb' 0 64).toNat = 0x140000 ∧ (sg.extractLsb' 64 48).toNat = 0x40000 ∧ sg.getLsbD 114 = true) ∧
     s.checkSpace (s.agent 5 2) 0x140000 = .ok (.cell 0x140000) ∧ s.checkSpace (s.agent 5 2) 0x17FFE0 = .ok (.cell 0x17FFE0)) ∧
    ((fetchSeg 0x140000 0x40000 rRead).slot 5 2).s[0].getLsbD 114 = false ∧
    (((fetchSeg 0x0FFFFFFFFFFFFFC0 0x40000 rExec).slot 5 2).s[0].extractLsb' 60 4 = 0 ∧ (0x1000000000000000 : Word).extractLsb' 60 4 = 1) ∧
    ((fetchSeg 0x7000000000000000 0x40000 rExec).slot 5 2).s[0].extractLsb' 60 4 = 7 :=
  ⟨⟨by decide +kernel, okIs_of (by decide +kernel), by decide +kernel⟩, ⟨by decide +kernel, okIs_of (by decide +kernel)⟩, by decide +kernel,
    ⟨by decide +kernel, okIs_of (by decide +kernel)⟩, ⟨errorIs_of (by decide +kernel), by decide +kernel⟩,
    ⟨okIs_of (by decide +kernel), by decide +kernel⟩, ⟨by decide +kernel, okIs_of (by decide +kernel), okIs_of (by decide +kernel)⟩,
    by decide +kernel⟩

/-! ## Witnesses: accesses to other homes -/

/-- A thread of tile 5 whose s1 spans the slice of tile 6, with n posted writes. -/
def abroad (n : Nat) : State := tagged 0x180000 (running 5 { withG thread [(1, 0), (2, 0xFEDCBA9876543210)] with
  s := (Vector.replicate 8 0).set 1 (mkSeg 0x180000 0x40000 0x3F), posted := n })

theorem witness_RemoteRequests : (Runs (abroad 15) ∧ memRelease (at_ 8) = none ∧ (abroad 15).homeOf 0x180008 ≠ (abroad 15).cur.core ∧
      0x180008 / 2 ^ 60 ≠ 7 ∧ (abroad 15).me.posted < 16 ∧ 16 ≤ (abroad 16).me.posted) ∧
    Reaches (abroad 15) (abroad 15).me.s[(1 : S)] ((abroad 15).me.rg 1 + BitVec.ofInt 64 (at_ 8).disp.val).toInt 8 .load true 0x180008 ∧
    Reaches (abroad 15) (abroad 15).me.s[(1 : S)] ((abroad 15).me.rg 1 + BitVec.ofInt 64 (at_ 8).disp.val).toInt 8
      (.store [(0, (abroad 15).me.rg 2 |>.toNat)]) true 0x180008 ∧
    Reaches (abroad 16) (abroad 16).me.s[(1 : S)] ((abroad 16).me.rg 1 + BitVec.ofInt 64 (at_ 8).disp.val).toInt 8
      (.store [(0, (abroad 16).me.rg 2 |>.toNat)]) true 0x180008 :=
  ⟨by decide +kernel, reaches_of (by decide +kernel), reaches_of (by decide +kernel), reaches_of (by decide +kernel)⟩

/-- The access of slot 0 of tile 5 to a cell of tile 6. -/
def farUnit : AUnit := ⟨0, 0x180008, 0x180008, 8⟩
def farAccess (op : AccOp) (done : Done := .none) (posted : Bool := false) : Access :=
  { core := 5, slot := 0, job := 1, op, done, posted, counted := posted, addr := 0x180008, parts := [(6, [farUnit])], waiting := [6]
    results := [], refusals := [] }
/-- It has arrived at tile 6, where the line has a tag, and window 0 is as given. -/
def arrived (op : AccOp) (tag : BitVec 8 := 1) (win : Word := 0xE001000000) : State :=
  { mail (.access 1 6) (((up.writeN 0x180008 8 0x1122334455667788).modLine 0x180008 fun m => { m with tag := tag }).modCore 6
      fun x => { x with win := x.win.set 0 win }) with
    accesses := [(1, some (farAccess op))], nextAcc := 2 }

theorem witness_AccessAtHome : (∀ op ∈ [AccOp.load, .store [(0, 0x55)], .atomic .add 3 0, .atomic .cas 3 0x1122334455667788],
      let s := arrived op
      Carries s (.access 1 6) ∧ SMap.get none s.accesses 1 = some (farAccess op) ∧ (farAccess op).parts = [(6, [farUnit])] ∧
        (s.line farUnit.cell).sound = true ∧ (s.line farUnit.cell).wiped = none ∧ s.targetCheck 5 1 op.kind farUnit.cell 8 = none) ∧
    (farAccess .load).core ≠ 6 ∧ farUnit.cell / 2 ^ 60 ≠ 7 ∧ farUnit.cell / 2 ^ 60 ≠ 3 ∧
    atomicNew .add (8 * farUnit.n) 0x1122334455667788 (3 % 2 ^ 64) (0 % 2 ^ 64) = some 0x112233445566778B ∧
    (arrived .load 2).targetCheck 5 1 AccOp.load.kind farUnit.cell 8 = some (0x07, 0x31) ∧
    (arrived .load 1 0).targetCheck 5 1 AccOp.load.kind farUnit.cell 8 = some (0x08, 0x41) := by decide +kernel

/-- The answer of an access comes back: of a load that slot 0 waits for, and of a posted write. -/
def returning (a : Access) (t : Slot) : State :=
  { mail (.reply 1 6) (running 5 t) with accesses := [(1, some a)], nextAcc := 2 }
def loaded (fs : List Refusal1) : State := returning
  { farAccess .load (.g 7 64) with parts := [], results := [(0, 0x1122334455667788)], refusals := fs }
  { thread with st := .parked (.remote 1 [] (.go 0x140108)) }
def stored (fs : List Refusal1) : State := returning { farAccess (.store [(0, 1)]) .none true with parts := [], refusals := fs }
  { thread with posted := 1 }
def fails7 : List Refusal1 := [⟨0, 0x07, 0x31, 0x180008⟩]

theorem witness_AnswersReturn :
    (∀ fs ∈ [[], fails7], let s := loaded fs
      Carries s (.reply 1 6) ∧ SMap.get none s.accesses 1 = some { farAccess .load (.g 7 64) with
        parts := [], results := [(0, 0x1122334455667788)], refusals := fs } ∧
      (s.slot 5 0).st = .parked (.remote 1 [] (.go 0x140108)) ∧ (s.slot 5 0).takesTraps) ∧
    ∀ fs ∈ [[], fails7], let s := stored fs
      Carries s (.reply 1 6) ∧ SMap.get none s.accesses 1 = some { farAccess (.store [(0, 1)]) .none true with parts := [], refusals := fs } ∧
      (s.slot 5 0).st = .ready ∧ (s.slot 5 0).reports = [] := by decide +kernel

/-! ## Witnesses: the copy engine -/

/-- Four request words in g4 to g7: s1 and s2 span the slice of tile 5. The first is a copy of 64 bytes from offset 0 to offset 64. -/
def copyWords (w0 w1 w2 w3 : Word) : Slot := { withG thread [(4, w0), (5, w1), (6, w2), (7, w3)] with
  s := ((Vector.replicate 8 0).set 1 (mkSeg cell5 0x40000 0x3F)).set 2 (mkSeg cell5 0x40000 0x3F) }
/-- op, source s1, destination s2, index segment, esize, types, rounding, count. -/
def copyWord (op idx esize st dt rm count : Nat) : Word :=
  BitVec.ofNat 64 (op * 2 ^ 60 + (if op = 4 then 0 else 1 * 2 ^ 57) + 2 * 2 ^ 54 + idx * 2 ^ 51 + esize * 2 ^ 45 + st * 2 ^ 41 + dt * 2 ^ 37 +
    rm * 2 ^ 34 + count)
def copying (n : Nat) : State := running 5 (copyWords (copyWord 0 0 0 0 0 0 64) 0 64 0) (up.modCore 5 fun x =>
  { x with copyFifo := List.replicate n (copyOf thread 5 1 0 0 0 0) })
def copyReq0 : CopyReq := copyOf (copying 0).me 5 0 (copyWord 0 0 0 0 0 0 64) 0 64 0
/-- Requests that the push checks turn away: a reserved operation code; a count that is no multiple of the element size of a fill; reserved types;
ranges beyond a limit, of the source and of the destination; and an index segment without the read right. -/
def pushing (w0 w1 w2 w3 : Word) : State := running 5 (copyWords w0 w1 w2 w3)
def badCopy : State := pushing 0x5000000000000000 0 0 0
def pushFailures : List (State × Trap) := [(badCopy, ⟨7, 0x0F, 0x71, 0⟩), (pushing (copyWord 4 0 1 0 0 0 3) 0 64 0, ⟨7, 0x0F, 0x72, 0⟩),
  (pushing (copyWord 3 0 0 3 0 0 2) 0 64 0, ⟨7, 0x0F, 0x73, 0⟩), (pushing (copyWord 0 0 0 0 0 0 64) 0x3FFC1 64 0, ⟨7, 0x04, 0x11, 0x17FFC1⟩),
  (pushing (copyWord 0 0 0 0 0 0 64) 0 0x3FFC1 0, ⟨7, 0x04, 0x11, 0x17FFC1⟩), (pushing (copyWord 1 3 2 0 0 0 2) 0 64 0, ⟨7, 0x04, 0x11, 0⟩)]
/-- Two requests wait, and n are in progress. -/
def starting (n : Nat) : State := { up.modCore 5 fun x => { x with
  copyFifo := [copyReq0, { copyReq0 with id := 2 }], copyBusy := List.replicate n copyReq0 } with ev := { core := 5 } }

/-- No slot of the core waits with a request for the command FIFO. -/
def noFifo (s : State) (c : Nat) : Bool := (List.range 16).all fun j => match (s.slot c j).st with
  | .parked (.fifo _) => false
  | _ => true

theorem noFifo_of {s : State} {c : Nat} (h : noFifo s c = true) : ∀ j < 16, ∀ y, (s.slot c j).st ≠ .parked (.fifo y) := by
  intro j hj y hy
  have := List.all_eq_true.mp h j (List.mem_range.mpr hj)
  simp [hy] at this

theorem witness_CopyQueue : (Runs (copying 15) ∧ ¬16 ≤ ((copying 15).core 5).copyFifo.length ∧ Runs (copying 16) ∧
      16 ≤ ((copying 16).core 5).copyFifo.length) ∧ (copying 15).pushed 4 = .ok copyReq0 ∧ (copying 16).pushed 4 = .ok copyReq0 ∧
    (∀ x ∈ pushFailures, x.1.pushed 4 = .error x.2 ∧ x.1.me.takesTraps ∧ x.2.cause < 256 ∧ x.2.detail < 256) ∧
    ((starting 3).ev.core = 5 ∧ ((starting 3).core 5).copyFifo = [copyReq0, { copyReq0 with id := 2 }] ∧
      ((starting 3).core 5).copyBusy.length < 4) ∧ ∀ j < 16, ∀ y, ((starting 3).slot 5 j).st ≠ .parked (.fifo y) :=
  ⟨by decide +kernel, okIs_of (by decide +kernel), okIs_of (by decide +kernel),
    fun x hx => ⟨errorIs_of ((by decide +kernel : ∀ x ∈ pushFailures, errorIs (x.1.pushed 4) x.2 = true) x hx),
      (by decide +kernel : ∀ x ∈ pushFailures, x.1.me.takesTraps ∧ x.2.cause < 256 ∧ x.2.detail < 256) x hx⟩,
    by decide +kernel, noFifo_of (by decide +kernel)⟩

/-- The last unit of a request in progress on tile 5: its unit i, with index element k. -/
def copyLast (op esize st dt rm count i : Nat) (k : Option Nat) (w1 w2 : Word) : CopyReq :=
  let w0 := copyWord op (if op = 1 ∨ op = 2 then 1 else 0) esize st dt rm count
  { copyOf (copyWords w0 w1 w2 0) 5 0 w0 w1 w2 0 with id := 1, due := 900, todo := some [i], got := k.toList.map fun n => (i, n) }
def copyBusyAt (r : CopyReq) : State :=
  { tagged cell5 (tagged (cell5 + 64) (tagged (cell5 + 128) ((up.writeN cell5 8 0x3F80000000000001).modCore 5 fun x => { x with copyBusy := [r] })))
    with ev := { core := 5, id := 1 } }

/-- The request of `copyBusyAt`, changed by f, with its concord at offset 0x100 where it has one. -/
def copyCase (f : CopyReq → CopyReq) (r : CopyReq) : State :=
  copyBusyAt (f { r with cseg := mkSeg cell5 0x40000 0x3F, w3 := 0x100 })
/-- The request itself. -/
def caseReq (s : State) : CopyReq := ((s.core 5).copyBusy.head?).getD copyReq0
theorem finds_of {s : State} {ag : Agent} {a : Word} {wr : Bool} {c : Nat}
    (h : ∀ m l d, ({ s with mem := m, lines := l, draws := d } : State).engCell ag a wr = ({ s with mem := m, lines := l, draws := d }, .ok c)) :
    EngineFinds s ag a wr c := by
  intro u hu
  rw [hu]
  exact h _ _ _

/-- What CopyOperations asks of every request. -/
def copyWaits (op : Nat) (s : State) : Bool :=
  let r := caseReq s
  let c := s.core s.ev.core
  decide ((c.copyBusy.find? fun q => q.id == s.ev.id) = some r) && c.copyReady s.clk r && r.core == s.ev.core && decide (r.slot < 16) && r.op == op &&
  decide (r.fail = none) && !r.dropped && !r.ending && decide (r.chunks < 2 ^ 64) &&
  (op != 3 || (tyOf r.stype).isSome && (tyOf r.dtype).isSome && decide (1 ≤ r.rm ∧ r.rm ≤ 4))
/-- The cell of a destination, or of a source, takes part in a plain unit. -/
def plainAt (s : State) (into n : Nat) : Bool :=
  decide (into / 2 ^ 60 ≠ 3) && decide (into % 64 + n ≤ 64) && (s.line into).sound && decide ((s.line into).wiped = none) &&
  decide (s.targetCheck 5 1 .write into n = none)
def soundAt (s : State) (a n : Nat) : Bool := decide (s.targetCheck 5 1 .read a n = none) && (s.line a).sound

/-- A line copied; a gathered word; two gathered words in one unit, with fe, of which the second lies beyond the limit; a scattered word; a
conversion of a single-precision number to half precision; a fill, without and with a concord. -/
def copyCases : List (Nat × (CopyReq → CopyReq) × CopyReq × (Nat → Nat) × Nat × Nat × List Nat) := [
  (0, id, copyLast 0 0 0 0 0 64 0 none 0 64, fun _ => 0, 0, 0x140040, [0x140000]),
  (1, id, copyLast 1 2 0 0 0 2 1 (some 1) 0 64, fun _ => 1, 1, 0x140044, [0x140004]),
  (1, fun r => { r with fe := true, cc := true, got := [(0, 1), (1, 0x10000)] }, copyLast 1 2 0 0 0 2 0 none 0 64, fun e => if e = 0 then 1 else 0x10000, 0,
    0x140040, [0x140004]),
  (2, id, copyLast 2 3 0 0 0 1 0 (some 8) 0 0, fun _ => 8, 0, 0x140040, [0x140000]),
  (3, fun r => { r with rm := 1 }, copyLast 3 0 0 1 1 2 1 none 0 64, fun _ => 0, 1, 0x140042, [0x140004]),
  (4, fun r => { r with cc := true }, copyLast 4 2 0 0 0 8 1 none 0x12345678 64, fun _ => 0, 1, 0x140044, [])]
def caseOf (x : Nat × (CopyReq → CopyReq) × CopyReq × (Nat → Nat) × Nat × Nat × List Nat) : State := copyCase x.2.1 x.2.2.1

theorem witness_CopyOperations : (∀ x ∈ copyCases, let s := caseOf x
      let r := caseReq s
      let k := x.2.2.2.1
      let i := x.2.2.2.2.1
      let into := x.2.2.2.2.2.1
      let from_ := x.2.2.2.2.2.2
      copyWaits x.1 s = true ∧ r.todo = some [i] ∧ r.status = 0 ∧
        (x.1 = 1 ∨ x.1 = 2 → ∀ e ∈ (if x.1 = 1 then (List.range (perUnit r)).map (perUnit r * i + ·) else [i]), r.got.find? (fun y => y.1 == e) = some (e, k e)) ∧
        (unitOf r k i).into.toNat = into ∧ plainAt s into (unitOf r k i).n = true ∧ s.waiters = [] ∧
        ((unitOf r k i).reads.filterMap (·.1)).map (·.toNat) = from_ ∧
        ((unitOf r k i).reads.all fun y => y.1.all fun a => soundAt s a.toNat y.2) = true ∧
        ¬(x.1 = 2 ∧ limitOf r.dst < k i * 2 ^ r.esize + 2 ^ r.esize)) ∧
    (∀ x ∈ copyCases, ∀ a ∈ [(0x140040 : Word), 0x140044, 0x140042, 0x140000, 0x140004, 0x140100], ∀ wr, EngineFinds (caseOf x) (caseReq (caseOf x)).agent a wr a.toNat) := by
  refine ⟨by decide +kernel, ?_⟩
  intro x hx a ha wr
  apply finds_of
  intro m l d
  simp only [copyCases, List.mem_cons, List.not_mem_nil, or_false] at hx ha
  rcases hx with rfl | rfl | rfl | rfl | rfl | rfl <;> rcases ha with rfl | rfl | rfl | rfl | rfl | rfl <;> rfl

/-- A scattered element beyond the limit. -/
def scatterBeyond : State := copyCase (fun r => { r with got := [(0, 0x8000)], cc := true }) (copyLast 2 3 0 0 0 1 0 none 0 0)
/-- A destination in a line of nobody; a source there; a destination in space 0x4. -/
def copyBadSpace : State := copyCase (fun r => { r with dst := mkSeg 0x4000000000000000 0x40000 0x3F }) (copyLast 4 2 0 0 0 8 1 none 0x55 0x200)
def copyRefused : List (State × Word × Nat × Nat) := [
  (copyCase id (copyLast 4 2 0 0 0 8 1 none 0x55 0x200), 0x140204, 0x07, 0x31),
  (copyCase id (copyLast 0 0 0 0 0 8 0 none 0x200 64), 0x140200, 0x07, 0x31),
  (copyBadSpace, 0x4000000000000204, 0x06, 0x01)]
/-- A destination whose page the job does not map; and a request for which the answer was 0x53. -/
def copyNoPage : State := copyCase (fun r => { r with dst := mkSeg 0x1000000000000000 0x40000 0x3F }) (copyLast 0 0 0 0 0 64 0 none 0 64)
def copyLost : State := copyCase (fun r => { r with status := 0x53, lostAt := 0x1000000000000040, cc := true }) (copyLast 0 0 0 0 0 64 0 none 0 64)
/-- A fill with two units left, in different chunks: bytes 504 to 511 and 512 to 519 of the slice. -/
def fillTwo : State := { copyCase (fun r => { r with todo := some [0, 1], cc := true }) (copyLast 4 3 0 0 0 16 0 none 0x1234567890ABCDEF 504) with
  lines := (tagged (cell5 + 448) (tagged (cell5 + 512) (copyBusyAt copyReq0))).lines }

theorem witness_CopyOperations_ends :
    (copyWaits 2 scatterBeyond = true ∧ limitOf (caseReq scatterBeyond).dst < 0x8000 * 2 ^ (caseReq scatterBeyond).esize + 2 ^ (caseReq scatterBeyond).esize ∧
      (caseReq scatterBeyond).got.find? (fun y => y.1 == 0) = some (0, 0x8000) ∧ (caseReq scatterBeyond).todo = some [0]) ∧
    (∀ x ∈ copyRefused, let r := caseReq x.1
      let i := (r.todo.getD []).getD 0 0
      let u := unitOf r (fun _ => 0) i
      copyWaits r.op x.1 = true ∧ r.status = 0 ∧ r.todo = some [i] ∧
        (u.into = x.2.1 ∧ x.1.targetCheck 5 1 .write x.2.1.toNat u.n = some x.2.2 ∨
          (u.reads.head?.bind (·.1)) = some x.2.1 ∧ u.reads.length = 1 ∧ x.1.targetCheck 5 1 .read x.2.1.toNat 8 = some x.2.2 ∨
          u.into = x.2.1 ∧ u.reads = [] ∧ x.2.1 = 0x4000000000000204)) ∧
    (copyWaits 0 copyNoPage = true ∧ (caseReq copyNoPage).status = 0 ∧ (caseReq copyNoPage).todo = some [0] ∧
      (unitOf (caseReq copyNoPage) (fun _ => 0) 0).into = 0x1000000000000040) ∧
    (copyWaits 0 copyLost = true ∧ (caseReq copyLost).status ≠ 0 ∧ (caseReq copyLost).todo = some [0]) ∧
    (copyWaits 4 fillTwo = true ∧ (caseReq fillTwo).todo = some [0, 1] ∧ (caseReq fillTwo).cc = true ∧ (caseReq fillTwo).fe = false ∧
      (caseReq fillTwo).overAt = none ∧ (caseReq fillTwo).status = 0 ∧ plainAt fillTwo (cell5 + 504) 8 = true ∧ plainAt fillTwo (cell5 + 512) 8 = true ∧
      ∀ y ∈ [0, 1], (unitOf (caseReq fillTwo) (fun _ => 0) y).into = BitVec.ofNat 64 (cell5 + 504 + 8 * y)) ∧
    (∀ v : State, v = { copyNoPage with mem := v.mem, lines := v.lines, draws := v.draws } →
      v.engCell (caseReq copyNoPage).agent 0x1000000000000040 true = (v, .error (.page 0x51 0x1000000000000040))) ∧
    (∀ v : State, v = { copyBadSpace with mem := v.mem, lines := v.lines, draws := v.draws } →
      v.engCell (caseReq copyBadSpace).agent 0x4000000000000204 true = (v, .error (.fault 0x06 0x01 0x4000000000000204))) ∧
    ∀ a ∈ [(0x1401F8 : Word), 0x140200, 0x140100], EngineFinds fillTwo (caseReq fillTwo).agent a true a.toNat := by
  refine ⟨by decide +kernel, by decide +kernel, by decide +kernel, by decide +kernel, by decide +kernel, ?_, ?_, ?_⟩
  · intro v hv
    rw [hv, (by decide +kernel : (caseReq copyNoPage).agent = { core := 5, slot := 0, job := 1 })]
    simp only [State.engCell, State.checkSpace, State.placeCell, State.job, (by decide +kernel : copyNoPage.jobs = [])]
    rfl
  · intro v hv
    rw [hv, (by decide +kernel : (caseReq copyBadSpace).agent = { core := 5, slot := 0, job := 1 })]
    rfl
  · intro a ha
    apply finds_of
    intro m l d
    simp only [List.mem_cons, List.not_mem_nil, or_false] at ha
    rcases ha with rfl | rfl | rfl <;> rfl

/-! ## Witnesses: concords, full/empty words -/

/-- A concord's words: map, sticky bits, pending, phase. -/
def ccWord (map : Nat) (sticky : Nat) (pending : Int) (phase : Nat) : Nat :=
  map * 2 ^ 63 + sticky * 2 ^ 57 + (pending % 2 ^ 40).toNat * 2 ^ 8 + phase

/-- An update by slot 0 of tile 5 has arrived at tile 6, for the concord there with word 0 as given. -/
def ccUnit : AUnit := ⟨0, 0x180010, 0x180010, 16⟩
def ccAccess (op : AccOp) : Access := { farAccess op with parts := [(6, [ccUnit])] }
def ccArrived (op : AccOp) (w0 : Nat) : State :=
  { mail (.access 1 6) (tagged 0x180000 ((up.writeN 0x180010 8 w0).writeN 0x180018 8 0x5)) with accesses := [(1, some (ccAccess op))], nextAcc := 2 }
/-- Updates: an arrival that completes the phase, one that would pass −2^39, one that just does not, expectations at the end of their range. -/
def ccCases : List (AccOp × Nat) := [(.ccinit true, ccWord 1 0x3F 5 255), (.ccarr 5 6 32, ccWord 1 1 5 255), (.ccarr 6 6 0, ccWord 0 0 (-2 ^ 39 + 5) 3),
  (.ccarr 5 6 0, ccWord 0 0 (-2 ^ 39 + 5) 3), (.ccexp 4, ccWord 1 0 (-4) 7), (.ccexp 4, ccWord 0 0 (2 ^ 39 - 5) 7),
  (.ccexp 5, ccWord 0 0 (2 ^ 39 - 5) 7), (.ccexp (2 ^ 39), ccWord 0 0 (-1) 7), (.ccexp (2 ^ 39 - 1), ccWord 0 0 (-1) 7)]

theorem witness_ConcordUpdates : ∀ x ∈ ccCases, let s := ccArrived x.1 x.2
    Carries s (.access 1 6) ∧ SMap.get none s.accesses 1 = some (ccAccess x.1) ∧ (ccAccess x.1).parts = [(6, [ccUnit])] ∧
      ccUnit.n = 16 ∧ ccUnit.cell / 2 ^ 60 ≠ 7 ∧ ccUnit.cell / 2 ^ 60 ≠ 3 ∧ ccUnit.cell % 16 = 0 ∧ (s.line ccUnit.cell).sound = true ∧
      (s.line ccUnit.cell).wiped = none ∧ s.targetCheck 5 1 x.1.kind ccUnit.cell 16 = none := by decide +kernel

/-- The concord at the start of the slice of tile 5 has map = 1, pending 5, phase 3 and chunk map 0xFF. Registers: g1 an offset, g2 and g3 the
phases 3 and 4, g5 to g7 chunk masks and byte counts, up to 2^39. -/
def concords : State := tagged cell5 (running 5 { withG thread [(1, 0), (2, 3), (3, 4), (5, 0x0F), (6, 0x100), (7, 0x8000000000), (8, 0x7FFFFFFFFF)] with
  s := (Vector.replicate 8 0).set 1 (mkSeg cell5 0x40000 0x3F) } ((up.writeN cell5 8 (ccWord 1 0 5 3)).writeN (cell5 + 8) 8 0xFF))

theorem witness_ConcordInstructions : (Runs concords ∧ memRelease (at_ 0) = none ∧ (concords.waiters.filter fun w => w.1 == 5).length < 64 ∧
      concords.me.takesTraps ∧ (concords.me.rg 8).toNat < 2 ^ 39 ∧ 2 ^ 39 ≤ (concords.me.rg 7).toNat) ∧
    (InOwnSlice concords .rmw cell5 ∧ InOwnSlice concords .read cell5) ∧
    (∀ op ∈ [AccOp.ccinit true, .ccexp 3, .ccarr 3 4 0, .ccarr 0x8000000000 4 0, .cctest 3],
      Reaches concords concords.me.s[(1 : S)] (concords.me.rg 1 + BitVec.ofInt 64 (at_ 0).disp.val).toInt 16 op false cell5) ∧
    (concordAt concords cell5).phase = (concords.me.rg 2).extractLsb' 0 8 ∧ (concordAt concords cell5).phase ≠ (concords.me.rg 3).extractLsb' 0 8 ∧
    (concordAt concords cell5).chunks &&& concords.me.rg 5 = concords.me.rg 5 ∧ (concordAt concords cell5).chunks &&& concords.me.rg 6 ≠ concords.me.rg 6 := by
  refine ⟨by decide +kernel, ⟨ownSlice_of (by decide +kernel), ownSlice_of (by decide +kernel)⟩, ?_, by decide +kernel⟩
  intro op hop
  apply reaches_of
  revert op
  decide +kernel

/-- Word 0 of the slice of tile 5 is full or empty; slot 3 waits there in LDE, or nobody does. -/
def words (full waits : Bool) : State :=
  let s := (running 5 { withG thread [(1, 0), (2, 0xFEDCBA9876543210)] with s := (Vector.replicate 8 0).set 1 (mkSeg cell5 0x40000 0x3F) }
    (up.writeN cell5 8 0x1122334455667788)).modLine cell5 fun m => { m with tag := 1, fe := if full then 0xFF else 0xFE }
  if waits then { s.setSlot 5 3 { thread with st := .parked (.remote 1 [] (.go 0x140308)) } with
    waiters := [(5, 1)], nextAcc := 2
    accesses := [(1, some { core := 5, slot := 3, job := 1, op := .lde, done := .gz 9, posted := false, counted := false
                            held := some ⟨0, 0x140000, 0x140000, 8⟩, parts := [], waiting := [5], results := [], refusals := [] })] }
  else s

theorem witness_FullEmptyWords : (Runs (words true false) ∧ memRelease (at_ 0) = none ∧
      ((words true false).line cell5).fe.getLsbD 0 = true ∧ ((words false false).line cell5).fe.getLsbD 0 = false ∧
      ((words false false).waiters.filter fun w => w.1 == 5).length < 64 ∧ (words true false).waiters = []) ∧
    (∀ full ∈ [true, false], ∀ k ∈ [AKind.read, .write, .rmw], InOwnSlice (words full false) k cell5) ∧
    (∀ full ∈ [true, false], ∀ op ∈ [AccOp.lde, .ldc, .stf 0, .few true],
      Reaches (words full false) (words full false).me.s[(1 : S)] ((words full false).me.rg 1 + BitVec.ofInt 64 (at_ 0).disp.val).toInt 8 op false cell5) ∧
    (let s := words false true
     s.waiters = [(5, 1)] ∧ (SMap.get none s.accesses 1).any (fun a => a.op == .lde && a.waiting == [5] && a.core == 5 && a.slot == 3 &&
       !a.posted && a.done == .gz 9 && a.results == [] && a.refusals == [] && a.held == some ⟨0, 0x140000, 0x140000, 8⟩) = true ∧
     (s.slot 5 3).st = .parked (.remote 1 [] (.go 0x140308)) ∧ 3 ≠ s.cur.slot) ∧ InOwnSlice (words false true) .write cell5 := by
  refine ⟨by decide +kernel, ?_, ?_, by decide +kernel, ownSlice_of (by decide +kernel)⟩
  · intro full hf k hk
    apply ownSlice_of
    revert full k
    decide +kernel
  · intro full hf op hop
    apply reaches_of
    revert full op
    decide +kernel

/-- The access of slot 0 of tile 5 that a full waiter table of tile 6 refused, and one whose thread stops; -/
def refusedWaiter : State := { mail (.resend 1 6) up with
  accesses := [(1, some { farAccess .lde (.gz 9) with parts := [], held := some farUnit })], nextAcc := 2 }
def stoppedWaiter : State := { mail (.cancelWaiter 1 6) (running 5 { thread with st := .parked (.remote 1 [] (.go 0x140108)) }) with
  accesses := [(1, some { farAccess .lde (.gz 9) with parts := [], held := some farUnit })], nextAcc := 2, waiters := [(6, 1)] }
/-- and two additions of tiles 5 and 7 to one word of hashed HBM, whose messages meet. -/
def hbmUnit : AUnit := ⟨0, 0x2000000000000040, 2 * 2 ^ 60 + 64, 8⟩
def addition (core y : Nat) : Access := { farAccess (.atomic .add y 0) (.g 3 64) with
  core := core, parts := [(20001, [hbmUnit])], waiting := [20001], addr := 0x2000000000000040 }
def meeting : State := { tagged (2 * 2 ^ 60 + 64) (up.writeN (2 * 2 ^ 60 + 64) 8 100) with
  accesses := [(1, some (addition 5 3)), (2, some (addition 7 (2 ^ 64 - 1)))], nextAcc := 3
  msgs := [⟨1, 990, .access 1 20001⟩, ⟨2, 1006, .access 2 20001⟩], nextMsg := 3, ev := { id := 1 } }

theorem witness_WaitersAndCombining :
    (Carries refusedWaiter (.resend 1 6) ∧ SMap.get none refusedWaiter.accesses 1 = some { farAccess .lde (.gz 9) with parts := [], held := some farUnit }) ∧
    (Carries stoppedWaiter (.cancelWaiter 1 6) ∧ (∀ m ∈ stoppedWaiter.untaken, m.body ≠ .reply 1 6) ∧
      SMap.get none stoppedWaiter.accesses 1 = some { farAccess .lde (.gz 9) with parts := [], held := some farUnit }) ∧
    (SMap.get none meeting.accesses 1 = some (addition 5 3) ∧ SMap.get none meeting.accesses 2 = some (addition 7 (2 ^ 64 - 1)) ∧
      (1006 : Nat) ≤ 990 + 16 ∧ meeting.ev.id = 1 ∧ meeting.nextMsg ≠ 2 ∧ hbmUnit.cell / 2 ^ 60 = 2 ∧ hbmUnit.cell % 8 = 0 ∧
      (meeting.line hbmUnit.cell).sound = true ∧ (meeting.line hbmUnit.cell).wiped = none ∧ meeting.targetCheck 5 1 .rmw hbmUnit.cell 8 = none) ∧
    ∀ t : State, t.dead = meeting.dead → t.cores = meeting.cores → t.line hbmUnit.cell = { meeting.line hbmUnit.cell with typed := false } →
      t.targetCheck 7 1 .rmw hbmUnit.cell 8 = none := by
  refine ⟨by decide +kernel, by decide +kernel, by decide +kernel, ?_⟩
  intro t _ _ hl
  have h : meeting.line hbmUnit.cell = { tag := 1 } := by decide +kernel
  rw [h] at hl
  have hc : hbmUnit.cell = 2305843009213694016 := rfl
  rw [hc] at hl ⊢
  simp [State.targetCheck, State.badBytes, hl, tagAllows, isSup, Config.isTile, Config.tiles]

/-! ## Witnesses: the matrix engine -/

/-- A segment over the slice of tile 5 in s1; g1 to g4: base 64, count n, stride 64 and first number f. -/
def matrix (f n : Nat) : State := running 5 { withG thread [(1, 64), (2, BitVec.ofNat 64 n), (3, 64), (4, BitVec.ofNat 64 f)] with
  s := (Vector.replicate 8 0).set 1 (mkSeg cell5 0x40000 0x3F) } (tagged (cell5 + 64) up)
/-- The checks of a line list: offset, bytes, and the rights it needs. -/
def lineOk (s : State) (off size al : Nat) (need : Nat → Nat) : Bool :=
  match segAddr s.me.s[1] (off : Int) size al need false with
  | .ok y => match s.checkSpace (s.agent s.cur.core s.cur.slot) y with
    | .ok _ => true
    | .error _ => false
  | .error _ => false

theorem lineOk_of {s : State} {off size al : Nat} {need : Nat → Nat} (h : lineOk s off size al need = true) :
    ∃ y p, segAddr s.me.s[1] (off : Int) size al need false = .ok y ∧ s.checkSpace (s.agent s.cur.core s.cur.slot) y = .ok p := by
  simp only [lineOk] at h
  split at h
  · rename_i y hy
    split at h
    · rename_i p hp
      exact ⟨y, p, hy, hp⟩
    · exact absurd h (by decide)
  · exact absurd h (by decide)

/-- A shape record: dense LNS6 weights at 64, activations at 128, single-precision outputs at 192, 80 rows and 1 column. -/
def recordBits : Nat := 80 + 1 * 2 ^ 16 + 3 * 2 ^ 56 + 1 * 2 ^ 60 + 64 * 2 ^ 64 + 1 * 2 ^ 103 + 1 * 2 ^ 106 + 1 * 2 ^ 109 + 80 * 2 ^ 112 +
  64 * 2 ^ 128 + 64 * 2 ^ 160 + 64 * 2 ^ 224 + 64 * 2 ^ 256 + 128 * 2 ^ 320 + 192 * 2 ^ 384
def tileRead : State := { matrix 0 0 with cores := (running 5 { (matrix 0 0).me with stash := [recordBits] }).cores }

/-- Column and row numbers at the end of their ranges and one beyond; the lines of one and of no row; MTILE before and after its record. -/
theorem witness_MatrixQueue : (Runs (matrix 39 1) ∧ (matrix 39 1).widthL6 5 = 40 ∧
      39 + ((matrix 39 1).me.rg 2).toNat ≤ 40 ∧ 40 < 39 + ((matrix 39 2).me.rg 2).toNat ∧ (matrix 39 1).me.takesTraps ∧
      Config.kindOf 5 = .sparse ∧ ((matrix 31 1).me.rg 4).toNat + ((matrix 31 1).me.rg 2).toNat ≤ 32 ∧
      32 < ((matrix 31 2).me.rg 4).toNat + ((matrix 31 2).me.rg 2).toNat ∧
      ((matrix 0 0).me.rg 1).toNat + ((matrix 0 0).me.rg 2).toNat ≠ 32 ∧ 32 < ((matrix 0 0).me.rg 1).toNat + ((matrix 0 0).me.rg 2).toNat ∧
      ((matrix 0 1).me.rg 1).toNat % 64 = 0 ∧ ((matrix 0 1).me.rg 3).toNat % 64 = 0) ∧
    (∃ y p, segAddr (matrix 0 1).me.s[1] (64 + 0 * 64 : Nat) 64 64 (fun _ => rRead) false = .ok y ∧
      (matrix 0 1).checkSpace ((matrix 0 1).agent (matrix 0 1).cur.core (matrix 0 1).cur.slot) y = .ok p) ∧
    (∃ y p, segAddr (matrix 0 1).me.s[1] (64 + 0 * 64 : Nat) (1 * outBytes .f32) (outBytes .f32) destRights false = .ok y ∧
      (matrix 0 1).checkSpace ((matrix 0 1).agent (matrix 0 1).cur.core (matrix 0 1).cur.slot) y = .ok p) ∧
    ((matrix 0 0).me.stash = [] ∧ Reaches (matrix 0 0) (matrix 0 0).me.s[1] (memOffset ((matrix 0 0).me.rg 1) 0 (at_ 0).disp) 64 .loadRec false
      (cell5 + 64) ∧ InOwnSlice (matrix 0 0) .read (cell5 + 64)) ∧
    tileRead.me.stash = [recordBits] ∧ tileRead.recBad 5 recordBits = none ∧ recField recordBits 54 1 = 0 ∧
    tileRead.tileBad 5 (tileRead.agent 5 0) tileRead.me.s recordBits (recordBits % 2 ^ 16) = none :=
  ⟨by decide +kernel, lineOk_of (by decide +kernel), lineOk_of (by decide +kernel),
    ⟨by decide +kernel, reaches_of (by decide +kernel), ownSlice_of (by decide +kernel)⟩, by decide +kernel⟩

/-- `EngineReaches` as a Bool. -/
def engineReaches (s : State) (c k job : Nat) (kind : AKind) (a : Word) (cell : Nat) : Bool :=
  decide (c < 12352) && okIs (s.checkSpace { core := c, slot := k, job } a) (.cell cell) && s.homeOf cell == c &&
    decide (s.targetCheck c job kind cell 1 = none) && (s.line cell).sound && decide ((s.line cell).wiped = none)

theorem engineReaches_of {s : State} {c k job : Nat} {kind : AKind} {a : Word} {cell : Nat} (h : engineReaches s c k job kind a cell = true) :
    EngineReaches s c k job kind a cell := by
  simp only [engineReaches, Bool.and_eq_true, decide_eq_true_eq, beq_iff_eq] at h
  exact ⟨h.1.1.1.1.1, okIs_of h.1.1.1.1.2, h.1.1.1.2, fun n => (s.targetCheck_sound c job kind cell n 1 h.1.2).trans h.1.1.2, h.1.2, h.2⟩

/-- Tile 5 with an instruction of slot 0 at the head of the engine's order; its active plane, its shadow plane and accumulator row 1 hold
something; the line at offset 64 is a typed dense line. -/
def mxSeg : BitVec 128 := mkSeg cell5 0x40000 0x3F
def plane (m : PlaneMode) : Plane := { mode := m, codes := [(3, 0x21), (83, 5)], scales := [(3, 4)] }
def denseLine : State := (tagged cell5 (tagged (cell5 + 128) ((up.writeN (cell5 + 64) 64 (0x01 + 3 * 2 ^ 8 + 0x21 * 2 ^ 16 + 0x05 * 2 ^ 22)).modLine (cell5 + 64)
  fun m => { m with tag := 1, typed := true })))
def mxHead (op : MxOp) (active shadow : PlaneMode) : State :=
  { (denseLine.setSlot 5 0 { thread with st := .parked (.matrix 9) }).modCore 5 (fun x =>
      { x with mxQueue := [⟨9, 0, 1, op⟩], mxActive := plane active, mxShadow := plane shadow, acc := [(80, 0x40490FDB), (81, 0x3F800000)] }) with
    ev := { core := 5 } }
def mxOps : List MxOp := [.mswap, .mclr 1 2 true, .mldw false false false 3 64 1 64 mxSeg, .mdrain .f16 1 true 1 8 1 64 mxSeg,
  .mstrm false false 0 64 1 64 mxSeg, .mtile recordBits 80 0x140040 (Vector.replicate 8 mxSeg)]

/-- Lines at offsets 64 and 128 of the slice, both typed; lines around them with the tag of job 1. -/
def typedLines (lo hi : Nat) (s : State) : State :=
  let line (a x : Nat) (s : State) : State := (s.writeN (cell5 + a) 64 x).modLine (cell5 + a) fun m => { m with tag := 1, typed := true }
  let s := tagged cell5 (tagged (cell5 + 192) (tagged (cell5 + 0x200) s))
  { line 64 lo (line 128 hi s) with ev := s.ev }
/-- A dense line with two elements and scale 3; a pattern line of no position, of positions 0 and 15, and of position 480. -/
def denseBits : Nat := 0x01 + 3 * 2 ^ 8 + 0x21 * 2 ^ 16 + 0x05 * 2 ^ 22
def patterns : List Nat := [0x03, 0x03 + 1 * 2 ^ 16 + 8 * 2 ^ 24, 0x03 + 1 * 2 ^ 496]
def compressed (line : Nat) : State := typedLines line denseBits (mxHead (.mldw false false true 3 64 1 64 mxSeg) .l6 .f16)

/-- Loads of each kind, with the line that each reads. -/
def mldws : List MxOp := [.mldw false false false 3 64 1 64 mxSeg, .mldw false true false 3 64 1 64 mxSeg, .mldw true false false 3 64 1 64 mxSeg,
  .mldw true true false 3 64 1 64 mxSeg]

theorem witness_MatrixEngine : (∀ op ∈ mxOps ++ mldws, ∀ m ∈ [PlaneMode.empty, .l6, .l6c], let s := mxHead op m .f16
      s.ev.core = 5 ∧ (s.core 5).mxRun = none ∧ (s.core 5).mxQueue = [⟨9, 0, 1, op⟩] ∧ (s.slot 5 0).st = .parked (.matrix 9) ∧
        (s.slot 5 0).takesTraps ∧ (s.core 5).mxActive.mode = m) ∧
    (∀ op ∈ mldws, let s := mxHead op .l6 .f16
      typedFault (s.line (cell5 + 64)).typed (some 0x01) (s.readN (cell5 + 64) 64) = none ∧ s.widthF16 5 ≤ 40 ∧
        EngineReaches s 5 0 1 .read (placeIn mxSeg 64 0) (cell5 + 64) ∧
        ∀ i < 40, EngineReaches s 5 0 1 .read (placeIn mxSeg 64 (2 * i)) (cell5 + 64 + 2 * i)) ∧
    (∀ l ∈ patterns, let s := compressed l
      typedFault (s.line (cell5 + 64)).typed (some 0x03) (s.readN (cell5 + 64) 64) = none ∧ s.readN (cell5 + 64) 64 = l ∧
        typedFault (s.line (cell5 + 128)).typed (some 0x01) (s.readN (cell5 + 128) 64) = none ∧
        EngineReaches s 5 0 1 .read (placeIn mxSeg 64 0) (cell5 + 64) ∧ EngineReaches s 5 0 1 .read 0x140080 (cell5 + 128)) ∧
    patterns.map patternPositions = [[], [0, 15], [480]] ∧
    segAddr mxSeg ((64 + 64 : Nat) : Int) 64 64 (fun _ => rRead) false = .ok 0x140080 ∧
    EngineReaches (mxHead (.mdrain .f16 1 true 1 8 1 64 mxSeg) .l6 .f16) 5 0 1 .write (placeIn mxSeg 8 0) (cell5 + 8) ∧
    ((plane .l6).scale 3 ≠ (plane .l6).scale 0 ∧ 3 < (mxHead .mswap .l6 .f16).widthL6 5) ∧ recordBits / 2 ^ 447 % 2 = 0 := by
  refine ⟨by decide +kernel, fun op h => ?_, fun l h => ?_, by decide +kernel, okIs_of (by decide +kernel), engineReaches_of (by decide +kernel),
    by decide +kernel, by decide +kernel⟩
  · have hf : ∀ op ∈ mldws, let s := mxHead op .l6 .f16
        typedFault (s.line (cell5 + 64)).typed (some 0x01) (s.readN (cell5 + 64) 64) = none ∧ s.widthF16 5 ≤ 40 := by decide +kernel
    have hr : ∀ op ∈ mldws, ∀ i < 40,
        engineReaches (mxHead op .l6 .f16) 5 0 1 .read (placeIn mxSeg 64 (2 * i)) (cell5 + 64 + 2 * i) = true := by decide +kernel
    exact ⟨(hf op h).1, (hf op h).2, engineReaches_of (hr op h 0 (by decide)), fun i hi => engineReaches_of (hr op h i hi)⟩
  · have hf : ∀ l ∈ patterns, let s := compressed l
        typedFault (s.line (cell5 + 64)).typed (some 0x03) (s.readN (cell5 + 64) 64) = none ∧ s.readN (cell5 + 64) 64 = l ∧
          typedFault (s.line (cell5 + 128)).typed (some 0x01) (s.readN (cell5 + 128) 64) = none := by decide +kernel
    have hr : ∀ l ∈ patterns, engineReaches (compressed l) 5 0 1 .read (placeIn mxSeg 64 0) (cell5 + 64) = true ∧
        engineReaches (compressed l) 5 0 1 .read 0x140080 (cell5 + 128) = true := by decide +kernel
    exact ⟨(hf l h).1, (hf l h).2.1, (hf l h).2.2, engineReaches_of (hr l h).1, engineReaches_of (hr l h).2⟩

/-- An instruction executes at a stage, with the issue credit as given. -/
def mxAt (op : MxOp) (stage : MxStage) (debt : Nat) (stop : Option StopReq := none) (mode : PlaneMode := .l6) : State :=
  typedLines denseBits denseBits { (up.setSlot 5 0 { thread with st := .parked (.matrix 9), stopReq := stop }).modCore 5 (fun x =>
      { x with mxRun := some { job := ⟨9, 0, 1, op⟩, stage }, mxActive := plane mode, acc := [(83, 0x3F800000)], debt := debt }) with ev := { core := 5 } }
def streaming (f16 tr : Bool) (n : Nat) : MxOp := .mstrm f16 tr 1 64 n 64 mxSeg
/-- The shape record with more rows, or with a chunk wait on a concord at offset 0x200. -/
def tiling (m waits : Nat := 0) : MxOp :=
  .mtile (recordBits + m * 2 ^ 32 + waits * (2 ^ 503 + 0x200 * 2 ^ 448)) 80 0x140000 (Vector.replicate 8 mxSeg)
def recordOf : MxOp → Nat
  | .mtile r .. => r
  | _ => 0
/-- One activation of two elements, as a vector read. -/
def act0 : Activation := ⟨[0x21, 5], 3⟩
/-- A compressed vector of six dense lines. -/
def sixLines : State := (List.range 6).foldl (fun s i => (s.writeN (cell5 + 64 + 64 * i) 64 denseBits).modLine (cell5 + 64 + 64 * i) fun m =>
  { m with tag := 1, typed := true }) (mxAt (streaming false false 1) (.vector 0 []) 0 none .l6c)

/-- Pairs of codes: numbers, one with a NaL; pairs of half-precision numbers: an infinity times zero, infinities of both signs, one infinity,
and finite numbers. -/
theorem witness_PassSums : (∀ e ∈ [(0x21, 5), (0x3F, 1)], e.1 < 64 ∧ e.2 < 64 ∧ e.1 ≠ 0x20 ∧ e.2 ≠ (0x20 : Nat)) ∧
    mulVal (fp16.dec 0x7C00) (fp16.dec 0) = none ∧ mulVal (fp16.dec 0x7C00) (fp16.dec 0x3C00) = some (.inf false) ∧
    mulVal (fp16.dec 0x7C00) (fp16.dec 0xBC00) = some (.inf true) ∧
    (mulVal (fp16.dec 0x3C00) (fp16.dec 0xBC00)).isSome = true := by decide +kernel

theorem witness_MatrixPasses :
    (let s : State := { up.modCore 5 fun x => { x with debt := 32 } with ev := { core := 5 } }
     s.ev.core = 5 ∧ (s.core 5).mxRun = none ∧ (s.core 5).lxRun = none ∧ (s.core 5).debt - ((s.core 5).extra + 1) ≠ 0) ∧
    (∀ x ∈ [(false, false, PlaneMode.l6), (false, true, .l6), (true, false, .f16), (true, true, .f16)], let s := mxAt (streaming x.1 x.2.1 1) (.vector 0 []) 1 none x.2.2
      (s.core 5).mxRun = some { job := ⟨9, 0, 1, streaming x.1 x.2.1 1⟩, stage := .vector 0 [] } ∧ (s.core 5).mxActive.mode = x.2.2 ∧
        typedFault (s.line (cell5 + 64)).typed (some 0x01) (s.readN (cell5 + 64) 64) = none ∧ s.widthF16 5 ≤ 40) ∧
    (∀ f16 ∈ [false, true], ∀ i < 40,
      EngineReaches (mxAt (streaming f16 false 1) (.vector 0 []) 1) 5 0 1 .read (placeIn mxSeg (64 + 0 * 64) (2 * i)) (cell5 + 64 + 2 * i)) ∧
    ((sixLines.core 5).mxActive.mode = .l6c ∧
      ∀ n < 6, typedFault (sixLines.line (cell5 + 64 + 64 * n)).typed (some 0x01) (sixLines.readN (cell5 + 64 + 64 * n) 64) = none ∧
        segAddr mxSeg ((64 + 0 * 64 + 64 * n : Nat) : Int) 64 64 (fun _ => rRead) false = .ok (BitVec.ofNat 64 (0x140040 + 64 * n)) ∧
        EngineReaches sixLines 5 0 1 .read (BitVec.ofNat 64 (0x140040 + 64 * n)) (cell5 + 64 + 64 * n)) ∧
    (∀ n ∈ [1, 2], ∀ left ∈ [[], [act0]], let s := mxAt (streaming false false n) (.vector 0 (act0 :: left)) 1
      (s.core 5).debt - ((s.core 5).extra + 1) = 0 ∧ (s.slot 5 0).st = .parked (.matrix 9) ∧ act0.xs ≠ [] ∧
        (s.core 5).mxRun = some { job := ⟨9, 0, 1, streaming false false n⟩, stage := .vector 0 (act0 :: left) }) ∧
    (let s := mxAt tiling (.tile 2 1) 0 (some .scheduler)
     (s.core 5).mxRun = some { job := ⟨9, 0, 1, tiling⟩, stage := .tile 2 1 } ∧ (s.slot 5 0).stopReq.isSome) ∧
    (let s := mxAt (tiling 0 1) (.tile 0 0) 0
     let r := recordOf (tiling 0 1)
     (s.slot 5 0).stopReq = none ∧ recF16 r = false ∧ recComp r = false ∧ 0 < recRounds r 80 ∧ recField r 503 1 = 1 ∧
       (concordAt s (cell5 + 0x200)).phase.toNat = recField r 504 8 ∧ tileMask r (s.widthL6 5) 80 0 0 (recSeg (Vector.replicate 8 mxSeg) r 109) ≠ 0 ∧
       (concordAt s (cell5 + 0x200)).chunks.toNat = 0) ∧
    EngineReaches (mxAt (tiling 0 1) (.tile 0 0) 0) 5 0 1 .read (placeIn (recSeg (Vector.replicate 8 mxSeg) (recordOf (tiling 0 1)) 500)
      (recField (recordOf (tiling 0 1)) 448 32) 0) (cell5 + 0x200) ∧
    (∀ g ∈ [MxStage.tile 0 0, .work 0 0], let s := mxAt tiling g 0
      let r := recordOf tiling
      (s.core 5).mxRun = some { job := ⟨9, 0, 1, tiling⟩, stage := g } ∧ recField r 503 1 ≠ 1 ∧ recCols r (s.widthL6 5) 0 = 1 ∧
        typedFault (s.line (cell5 + 64)).typed (some 0x01) (s.readN (cell5 + 64) 64) = none ∧
        placeIn (recSeg (Vector.replicate 8 mxSeg) r 109) (recField r 256 48 + 0 * recField r 160 32 + 64 * 0) 0 = 0x140040 ∧
        EngineReaches s 5 0 1 .read 0x140040 (cell5 + 64)) ∧
    (let s := mxAt (tiling 1) (.round 0 0 [] 0) 1
     let r := recordOf (tiling 1)
     recRows r 80 0 ≤ 80 ∧ recM r = 2 ∧ typedFault (s.line (cell5 + 128)).typed (some 0x01) (s.readN (cell5 + 128) 64) = none ∧
       placeIn (recSeg (Vector.replicate 8 mxSeg) r 106) (recField r 320 48 + 0 * recField r 128 32 + 64 * 0) 0 = 0x140080 ∧
       EngineReaches s 5 0 1 .read 0x140080 (cell5 + 128)) ∧
    (∀ paid < 2, let s := mxAt (tiling 1) (.round 0 0 [[act0], [act0]] paid) 1
      (s.core 5).debt - ((s.core 5).extra + 1) = 0 ∧ (s.core 5).mxActive.mode = .l6 ∧ paid < 2 ∧ [act0, act0].length = recM (recordOf (tiling 1)) ∧
        (s.core 5).mxRun = some { job := ⟨9, 0, 1, tiling 1⟩, stage := .round 0 0 [[act0], [act0]] paid }) ∧
    (let s := mxAt tiling (.tile 0 1) 0
     let r := recordOf tiling
     (s.slot 5 0).stopReq = none ∧ ¬ 1 < recRounds r 80 ∧ recM r = 1 ∧ recCols r (s.widthL6 5) 0 = 1 ∧
       placeIn (recSeg (Vector.replicate 8 mxSeg) r 103) (recField r 384 48 + 0 * recWidth r (s.widthL6 5) * outBytes (recOut r)) 0 = 0x1400C0 ∧
       EngineReaches s 5 0 1 .write 0x1400C0 (cell5 + 192)) ∧
    (∀ valid ∈ [false, true], let s := mxAt tiling (.save 2 1 valid none) 0
     (s.core 5).mxRun = some { job := ⟨9, 0, 1, tiling⟩, stage := .save 2 1 valid none } ∧ cell5 % 64 = 0 ∧
       ∀ o < 64, EngineReaches s 5 0 1 .write (0x140000 + BitVec.ofNat 64 o) (cell5 + o)) := by
  have h1 : ∀ f16 ∈ [false, true], ∀ i < 40, engineReaches (mxAt (streaming f16 false 1) (.vector 0 []) 1) 5 0 1 .read
      (placeIn mxSeg (64 + 0 * 64) (2 * i)) (cell5 + 64 + 2 * i) = true := by decide +kernel
  have h2 : ∀ n < 6, okIs (segAddr mxSeg ((64 + 0 * 64 + 64 * n : Nat) : Int) 64 64 (fun _ => rRead) false) (BitVec.ofNat 64 (0x140040 + 64 * n)) = true ∧
      engineReaches sixLines 5 0 1 .read (BitVec.ofNat 64 (0x140040 + 64 * n)) (cell5 + 64 + 64 * n) = true := by decide +kernel
  have h3 : ∀ n < 6, typedFault (sixLines.line (cell5 + 64 + 64 * n)).typed (some 0x01) (sixLines.readN (cell5 + 64 + 64 * n) 64) = none := by
    decide +kernel
  have h4 : ∀ valid ∈ [false, true], ∀ o < 64, engineReaches (mxAt tiling (.save 2 1 valid none) 0) 5 0 1 .write (0x140000 + BitVec.ofNat 64 o)
      (cell5 + o) = true := by decide +kernel
  refine ⟨by decide +kernel, by decide +kernel, fun f hf i hi => engineReaches_of (h1 f hf i hi),
    ⟨by decide +kernel, fun n hn => ⟨h3 n hn, okIs_of (h2 n hn).1, engineReaches_of (h2 n hn).2⟩⟩, by decide +kernel, by decide +kernel,
    by decide +kernel, engineReaches_of (by decide +kernel), fun g hg => ?_,
    (by refine ⟨?_, ?_, ?_, ?_, engineReaches_of ?_⟩ <;> decide +kernel), by decide +kernel,
    (by refine ⟨?_, ?_, ?_, ?_, ?_, engineReaches_of ?_⟩ <;> decide +kernel),
    fun valid hv => ⟨?_, by decide, fun o ho => engineReaches_of (h4 valid hv o ho)⟩⟩
  · simp only [List.mem_cons, List.not_mem_nil, or_false] at hg
    rcases hg with rfl | rfl <;> refine ⟨?_, ?_, ?_, ?_, ?_, engineReaches_of ?_⟩ <;> decide +kernel
  · revert valid
    decide +kernel

/-! ## Witnesses: the lexicon engine -/

/-- A family of kind 2 with 4 projections, one table from t0 on, and keys of dim single-precision numbers; a table of 2^4 buckets. -/
def famWord (t0 dim : Nat) : Nat := 2 + 4 * 2 ^ 16 + t0 * 2 ^ 31 + (dim - 1) * 2 ^ 35
def lexCore (x : Core) : Core :=
  { x with
    hf := ((Vector.replicate 4 0).set 0 (BitVec.ofNat 128 (0x77 + famWord 0 4 * 2 ^ 64))).set 1 (BitVec.ofNat 128 (0x88 + famWord 1 4 * 2 ^ 64))
    lt := ((Vector.replicate 8 0).set 0 (BitVec.ofNat 128 (cell5 + 4 * 2 ^ 64))).set 1 (BitVec.ofNat 128 (cell5 + 0x400 + 4 * 2 ^ 64)) }
/-- g1: a key offset; g2: a row id; g4 to g7: a probe block; s1 spans the slice. -/
def lexicon (row : Nat) (word0 : Nat := 2 ^ 59 + 2 ^ 56 + 16) : State := running 5 { withG thread [(1, 0x800), (2, BitVec.ofNat 64 row),
  (4, BitVec.ofNat 64 word0), (5, 0x800), (6, 0x900), (7, 0xA00)] with s := (Vector.replicate 8 0).set 1 mxSeg } (up.modCore 5 lexCore)
def rehashing : State := { (lexicon 4).modCore 5 (fun x => { x with rh := some ⟨0, 1, 3, 0x140800, 0x800, 16, 0x40000, 0x3F⟩ }) with cur := ⟨5, 0⟩ }

theorem witness_LexiconQueue : (Runs (lexicon 0) ∧ ((lexicon 0).core 5).rh = none ∧ (lexicon 0).me.takesTraps) ∧
    (LegalFamily (BitVec.ofNat 64 (famWord 0 4096)) ∧ ¬LegalFamily 3 ∧ (lexicon (famWord 0 4096)).me.rg 2 = BitVec.ofNat 64 (famWord 0 4096)) ∧
    (LegalTable 4 ∧ LegalTable (BitVec.ofNat 64 (16 + 2 * 2 ^ 20 + 2 ^ 24 + 2 * 2 ^ 28)) ∧ ¬LegalTable 0 ∧ (lexicon 4).me.rg 2 = 4) ∧
    (∃ y p, segAddr (lexicon 0).me.s[1] ((0x800 : Nat) : Int) (64 * (2 ^ 4 + 0)) 64 (fun _ => rRead + rWrite + rAtomic) false = .ok y ∧
      (lexicon 0).checkSpace ((lexicon 0).agent (lexicon 0).cur.core (lexicon 0).cur.slot) y = .ok p) ∧
    (∃ y p, segAddr (lexicon 0).me.s[1] ((0x800 : Nat) : Int) (4 * 4) 4 (fun _ => rRead) false = .ok y ∧
      (lexicon 0).checkSpace ((lexicon 0).agent (lexicon 0).cur.core (lexicon 0).cur.slot) y = .ok p) ∧
    ((∀ f : HF, UsableFamily ((lexicon 0).core 5) f ↔ f.val < 2) ∧ ((lexicon 0xFFFFFFFE).me.rg 2).toNat < 0xFFFFFFFF ∧
      0xFFFFFFFF ≤ ((lexicon 0xFFFFFFFF).me.rg 2).toNat) ∧
    ((4 : G).val + 3 < 32 ∧ ((lexicon 0).me.rg 4).toNat / 2 ^ 16 % 2 ^ 39 = 0 ∧ ((lexicon 0).me.rg 4).toNat % 2 ^ 16 = 16 ∧
      ((lexicon 0).me.rg 4).getLsbD 55 = false ∧ ((lexicon 0 (2 ^ 16 + 1)).me.rg 4).toNat / 2 ^ 16 % 2 ^ 39 ≠ 0) ∧
    (∃ y p, segAddr (lexicon 0).me.s[1] ((0x900 : Nat) : Int) (4 * 16) 4 destRights false = .ok y ∧
      (lexicon 0).checkSpace ((lexicon 0).agent (lexicon 0).cur.core (lexicon 0).cur.slot) y = .ok p) ∧
    (∃ y p, segAddr (lexicon 0).me.s[1] ((0xA00 : Nat) : Int) 4 4 destRights false = .ok y ∧
      (lexicon 0).checkSpace ((lexicon 0).agent (lexicon 0).cur.core (lexicon 0).cur.slot) y = .ok p) ∧
    ((lexicon 16).me.s[1].getLsbD 112 = true ∧ (((lexicon 16).core 5).fam 0).t0 + (((lexicon 16).core 5).fam 0).tables ≤ (((lexicon 16).core 5).fam 1).t0 ∧
      ((lexicon 16).me.rg 1).toNat % 4 = 0 ∧ ((lexicon 16).me.rg 2).toNat % 4 = 0 ∧ ((lexicon (2 ^ 32 - 4)).me.rg 2).toNat < 2 ^ 32 ∧
      2 ^ 32 ≤ ((lexicon (2 ^ 32)).me.rg 2).toNat) ∧
    (rehashing.core 5).rh.isSome = true :=
  ⟨by decide +kernel, by decide +kernel, by decide +kernel, lineOk_of (by decide +kernel), lineOk_of (by decide +kernel), by decide +kernel,
    by decide +kernel, lineOk_of (by decide +kernel), lineOk_of (by decide +kernel), by decide +kernel, by decide +kernel⟩

/-- An instruction at the head of the lexicon engine's order. -/
def lxHead (op : LxOp) : State := { (up.setSlot 5 0 { thread with st := .parked (.lexicon 9) }).modCore 5 (fun x =>
  { lexCore x with lxQueue := [⟨9, 0, 1, op⟩] }) with ev := { core := 5 } }
/-- An instruction that executes with the credit of n steps, with a key of one coordinate, at the bucket of hash 15 of table 0, which holds rows;
that of table 1 holds none. -/
def lexAt (op : LxOp) (paid key : Nat) (rows : List Nat := [5]) (policy : Nat := 0) (rh : Option Rehash := none) (kind : Nat := 2) : State :=
  let s := (([0, 0x7C0, 0x800, 0x900, 0xA00].foldl (fun s a => tagged (cell5 + a) s) (up.writeN (cell5 + 0x800) 4 key)).writeN (cell5 + 0x7C0) 64
    (⟨0x1407C0, [], 0, 0⟩ : LxBlock).bits).writeN (cell5 + 0x3C0) 64 (⟨0x1403C0, rows, 0, 1⟩ : LxBlock).bits
  { ((tagged (cell5 + 0x3C0) s).setSlot 5 0 { thread with st := .parked (.lexicon 9) }).modCore 5 (fun x => { lexCore x with
      hf := ((Vector.replicate 4 0).set 0 (BitVec.ofNat 128 ((famWord 0 1 - 2 + kind) * 2 ^ 64))).set 1 (BitVec.ofNat 128 ((famWord 1 1) * 2 ^ 64))
      lt := ((Vector.replicate 8 0).set 0 (BitVec.ofNat 128 (cell5 + (4 + policy * 2 ^ 20) * 2 ^ 64))).set 1 (BitVec.ofNat 128 (cell5 + 0x400 + 4 * 2 ^ 64))
      rh, lxRun := some { job := ⟨9, 0, 1, op⟩, paid } }) with ev := { core := 5 } }
/-- An insert, a deletion, a probe of row 5 in g3 and a list of one entry, and a step of a rehash whose cursor is at the last bucket. -/
def lexOps : List LxOp := [.ins 3 0 0x140800 7, .ins 3 0 0x140800 5, .del 3 0 0x140800 5, .del 3 0 0x140800 7, .prb 3 0 1 0x140800 0x140900 0x140A00 none]
def rehash1 : Rehash := ⟨0, 1, 15, 0x140800, 0x800, 4, 0x40000, 0x3F⟩
def rehashAt (paid : Nat) (rows : List Nat) : State := lexAt (.rhStep 3 1) paid 0x3F800000 rows 0 (some rehash1)

/-- What the clauses of LexiconEngine ask of family f of tile 5, its key and its bucket. -/
def lexReady (s : State) (f : Nat) (bucket : Word) (bc : Nat) (rows : List Nat) (fl : Nat) : Bool :=
  let x := s.core 5
  let fam := x.fam f
  let tb := x.table fam.t0
  decide (fam.tables = 1) && (fam.kind == 1 || fam.kind == 2) && decide (1 ≤ tb.b ∧ tb.b ≤ fam.k) && fam.dim == 1 && fam.es == 4 &&
    engineReaches s 5 0 1 .read 0x140800 (cell5 + 0x800) && !(fam.fmt.dec (s.readN (cell5 + 0x800) 4)).isNaN &&
    tb.base + BitVec.ofNat 64 (64 * (lxHash fam [s.readN (cell5 + 0x800) 4] 0 % 2 ^ tb.b)) == bucket && engineReaches s 5 0 1 .rmw bucket bc &&
    s.readN bc 64 == (⟨bucket, rows, 0, fl⟩ : LxBlock).bits && fl < 4 && rows.length ≤ tb.slots && rows.all (· < 0xFFFFFFFF)

/-- The hash of a key: a family of each kind with two coordinates, finite, and one infinite. -/
theorem witness_HashRules : ∀ kind ∈ [1, 2], ∀ xs ∈ [[0x3F800000, 0xC0000000], [0x7F800000, 0x7FC00000]],
    let f : Family := { seed := 2 ^ 64 - 1, dim := 2, f16 := false, t0 := 0, tables := 8, k := 16, kind }
    f.dim = xs.length ∧ 1 ≤ xs.length ∧ xs.length ≤ 4096 ∧ 7 < 8 ∧ f.k ≤ 16 ∧ f.seed < 2 ^ 64 ∧ f.kind = kind ∧ 15 < f.k ∧
      ((∀ j < 2, f.fmt.dec (xs.getD j 0) ≠ .inf false ∧ f.fmt.dec (xs.getD j 0) ≠ .inf true) ↔ xs = [0x3F800000, 0xC0000000]) := by decide +kernel

theorem witness_LexiconEngine : (∀ op ∈ [LxOp.fam 2 0x55 3, .tab 7 0x140000 4 false, .rhStep 3 5, .rhStart 0 1 0x140800 0x800 4 0x40000 0x3F,
        .rhStart 0 0 0x140800 0x800 4 0x40000 0x3F], let s := lxHead op
      s.ev.core = 5 ∧ (s.slot 5 0).st = .parked (.lexicon 9) ∧ (s.core 5).rh = none ∧ (s.core 5).lxRun = none ∧
        (s.core 5).lxQueue = [⟨9, 0, 1, op⟩] ∧ (s.slot 5 0).takesTraps ∧ ∀ f < 2, ((s.core 5).fam f).t0 + ((s.core 5).fam f).tables ≤ 8) ∧
    ((UsableFamily ((lxHead (.rhStep 3 5)).core 5) 0 ∧ UsableFamily ((lxHead (.rhStep 3 5)).core 5) 1) ∧
      ((lxHead (.rhStep 3 5)).core 5 |>.fam 0).dim = ((lxHead (.rhStep 3 5)).core 5 |>.fam 1).dim ∧
      ((lxHead (.rhStep 3 5)).core 5 |>.fam 0).t0 + ((lxHead (.rhStep 3 5)).core 5 |>.fam 0).tables ≤ ((lxHead (.rhStep 3 5)).core 5 |>.fam 1).t0) ∧
    (∀ op ∈ lexOps, ∀ paid ∈ [1, 2, 3], ∀ kind ∈ [1, 2], let s := lexAt op paid 0x3F800000 [5] 0 none kind
      (s.core 5).rh = none ∧ (s.core 5).lxRun = some { job := ⟨9, 0, 1, op⟩, paid } ∧ ((s.core 5).fam 0).kind = kind) ∧
    (lexReady (lexAt (.ins 3 0 0x140800 7) 3 0x3F800000) 0 0x1403C0 (cell5 + 0x3C0) [5] 1 = true ∧ 7 ∉ [5] ∧ 5 ∈ [5]) ∧
    (∀ policy ∈ [0, 1], lexReady (lexAt (.ins 3 0 0x140800 7) 3 0x3F800000 [1, 2, 3, 4] policy) 0 0x1403C0 (cell5 + 0x3C0) [1, 2, 3, 4] 1 = true ∧
      [1, 2, 3, 4].length = ((lexAt (.ins 3 0 0x140800 7) 3 0x3F800000 [1, 2, 3, 4] policy).core 5 |>.table 0).slots ∧
      ((lexAt (.ins 3 0 0x140800 7) 3 0x3F800000 [1, 2, 3, 4] policy).core 5 |>.table 0).policy = policy) ∧
    (lexReady (lexAt (.prb 3 0 1 0x140800 0x140900 0x140A00 none) 2 0x3F800000 [9, 5, 9]) 0 0x1403C0 (cell5 + 0x3C0) [9, 5, 9] 1 = true ∧
      [5, 9].Pairwise (· < ·) ∧ (∀ r, r ∈ [5, 9] ↔ r ∈ [9, 5, 9]) ∧ min [5, 9].length 1 = 1 ∧ (cell5 + 0x900) % 4 = 0 ∧ (cell5 + 0xA00) % 4 = 0 ∧
      cell5 + 0x900 + 4 * 1 ≤ cell5 + 0xA00) ∧
    (EngineReaches (lexAt (.prb 3 0 1 0x140800 0x140900 0x140A00 none) 2 0x3F800000 [9, 5, 9]) 5 0 1 .write 0x140900 (cell5 + 0x900) ∧
      EngineReaches (lexAt (.prb 3 0 1 0x140800 0x140900 0x140A00 none) 2 0x3F800000 [9, 5, 9]) 5 0 1 .write 0x140A00 (cell5 + 0xA00)) ∧
    (∀ rows ∈ [[], [0]], (rehashAt 5 rows |>.core 5).rh = some rehash1 ∧ rehash1.cursor < 2 ^ ((rehashAt 5 rows |>.core 5).table 0).b ∧
      (rehashAt 5 rows).readN (cell5 + 0x3C0) 64 = (⟨0x1403C0, rows, 0, 1⟩ : LxBlock).bits ∧
      engineReaches (rehashAt 5 rows) 5 0 1 .rmw 0x1403C0 (cell5 + 0x3C0) = true ∧
      lexReady (rehashAt 5 rows) 1 0x1407C0 (cell5 + 0x7C0) [] 0 = true ∧ (cell5 + 0x3C0) / 64 ≠ (cell5 + 0x7C0) / 64) ∧
    rehash1.off + 0 * rehash1.stride + 1 * 4 ≤ rehash1.limit := by
  refine ⟨by decide +kernel, by decide +kernel, by decide +kernel, by decide +kernel, by decide +kernel,
    ⟨by decide +kernel, by decide, fun r => by simp; omega, by decide, by decide, by decide, by decide⟩,
    ⟨engineReaches_of (by decide +kernel), engineReaches_of (by decide +kernel)⟩, by decide +kernel, by decide⟩

/-! ## Witnesses: the network engine -/

/-- c1 is an out channel to slot 3, in channel 2 of tile 6, where a packet of n words may be open; c2 is an in channel; c3 is not bound. -/
def channelReg (open_ n : Nat) : BitVec 128 := BitVec.ofNat 128 (0x180000 + 3 * 2 ^ 54 + 2 * 2 ^ 58 + 1 * 2 ^ 62 + n * 2 ^ 64 + open_ * 2 ^ 67)
def inReg : BitVec 128 := BitVec.ofNat 128 (2 * 2 ^ 62)
/-- A word of channel 1 of slot 0 of tile 5, on its way to tile 6. -/
def wordMsg (id : Nat) : Msg := ⟨id, 1100, .word 5 0 1 6 3 2 1 7 9 (BitVec.ofNat 64 id) false false⟩
/-- Packets of slot 0, channel 2 of tile 5: two words of which none is read; one word, ended. -/
def pktA : Pkt := { id := 21, slot := 0, ch := 2, job := 1, words := [0x1111, 0x2222], count := 2, read := 0, ended := false, overAt := none }
def pktB : Pkt := { id := 22, slot := 0, ch := 2, job := 1, words := [0x3333], count := 1, read := 0, ended := true, overAt := none }
def channelsAt (open_ n words : Nat) (pkts : List Pkt) : State :=
  let s := running 5 { withG thread [(1, 0xAB)] with
    c := ((Vector.replicate 8 0).set 1 (channelReg open_ n)).set 2 inReg, pktIds := if open_ = 1 then [(1, 9)] else []
    s := (Vector.replicate 8 0).set 1 (mkSeg cell5 0x40000 0x3F) } (up.modCore 5 fun x => { x with pkts })
  { s with msgs := (List.range words).map fun i => wordMsg (i + 1), nextMsg := 30, nextReq := 40 }
/-- A first word arrives at slot 3, in channel 2 of tile 6: the thread there is ready, or waits in RECV. -/
def wordArrives (st : SlotState) (ended : Bool) (dead : List Nat) (uid : Nat := 7) : State :=
  let s := running 5 { thread with s := (Vector.replicate 8 0).set 1 mxSeg } (up.setSlot 6 3 { thread with st := st, pc := 0x180100, npc := 0x180108 })
  { s with msgs := [⟨1, 990, .word 5 0 1 6 3 2 1 uid 9 0x77 true ended⟩], nextMsg := 2, ev := { id := 1 }, dead, cur := ⟨5, 0⟩ }
/-- Slot 4 of tile 5 waits in SEND since clk 0, with a timeout of n × 16 clk. -/
def stalled (n : BitVec 32) : State := { running 5 thread (up.setSlot 5 4 { thread with
  st := .parked (.send 1 0xAB true), stallTimeout := n }) with ev := { core := 5, slot := 4 } }

/-- No slot of the core waits in SEND or in RECV. -/
def noNet (s : State) (c : Nat) : Bool := (List.range 16).all fun j => match (s.slot c j).st with
  | .parked (.send ..) => false
  | .parked (.recv ..) => false
  | _ => true

theorem noSend_of {s : State} {c j : Nat} (h : noNet s c = true) (hj : j < 16) : ∀ y z w, (s.slot c j).st ≠ .parked (.send y z w) := by
  intro y z w hy
  have := List.all_eq_true.mp h j (List.mem_range.mpr hj)
  simp [hy] at this

theorem noRecv_of {s : State} {c j : Nat} (h : noNet s c = true) (hj : j < 16) : ∀ r w, (s.slot c j).st ≠ .parked (.recv r w) := by
  intro r w hy
  have := List.all_eq_true.mp h j (List.mem_range.mpr hj)
  simp [hy] at this

/-- A channel closed, open and with its last word; 15 and 16 words on their way; packets to receive; a word that arrives. -/
theorem witness_Channels : (Runs (channelsAt 0 0 0 []) ∧ (channelsAt 0 0 0 []).me.takesTraps) ∧
    (∀ x ∈ [(0, 0, 0), (1, 1, 15), (1, 7, 16)], let s := channelsAt x.1 x.2.1 x.2.2 []
      let c := s.me.c[1]
      (c.extractLsb' 62 2).toNat = 1 ∧ (c.extractLsb' 64 3).toNat = x.2.1 ∧ c.getLsbD 67 = decide (x.1 = 1) ∧
        (c.extractLsb' 0 32).toNat = baseOf 6 ∧ s.me.s[1].getLsbD 116 = true ∧ s.isDead 6 = false ∧
        (s.msgs.filter fun m => m.body.isWordOf 5 0 1).length = x.2.2) ∧
    (∀ ps ∈ [[], [pktA], [pktB], [pktA, pktB]], let s := channelsAt 0 0 0 ps
      (s.me.c[2].extractLsb' 62 2).toNat = 2 ∧ ((s.core 5).pkts.filter fun p => p.slot == 0 && p.ch == 2) = ps ∧
        ∀ p ∈ ps, p.err = false ∧ p.count = p.words.length ∧ p.read < p.count ∧ p.overAt = none) ∧
    ((channelsAt 0 0 0 []).me.c[3].extractLsb' 62 2).toNat ≠ 1 ∧ ((channelsAt 0 0 0 []).me.c[3].extractLsb' 62 2).toNat ≠ 2 ∧
    (∀ st ∈ [SlotState.ready, .parked (.recv 7 2)], ∀ dead ∈ [[], [6]], let s := wordArrives st true dead
      Carries s (.word 5 0 1 6 3 2 1 7 9 0x77 true true) ∧ s.isDead 6 = dead.contains 6 ∧ (s.core 6).pkts = [] ∧ (s.slot 6 3).tag = 1 ∧
        9 ∉ s.refusedPkts ∧ (s.slot 5 0).alive ∧ (s.slot 5 0).occ.map (·.uid) = some 7 ∧ (s.slot 5 0).reports = [] ∧ (s.slot 6 3).st = st) ∧
    (Carries (wordArrives .ready true [6] 8) (.word 5 0 1 6 3 2 1 8 9 0x77 true true) ∧
      ((wordArrives .ready true [6] 8).slot 5 0).occ.map (·.uid) ≠ some 8) ∧
    (∀ y z w, ((wordArrives .ready true []).slot 5 0).st ≠ .parked (.send y z w)) ∧
    (∀ r w, ((wordArrives .ready true []).slot 6 3).st ≠ .parked (.recv r w)) ∧
    ((stalled 0).ev.core = 5 ∧ (stalled 0).ev.slot = 4 ∧ ((stalled 0).slot 5 4).st = .parked (.send 1 0xAB true) ∧ ((stalled 0).slot 5 4).stallTimeout = 0) ∧
    ((stalled 62).slot 5 4).stallTimeout ≠ 0 ∧ 16 * ((stalled 62).slot 5 4).stallTimeout.toNat ≤ (stalled 62).clk - ((stalled 62).slot 5 4).parkClk ∧
    ((stalled 62).slot 5 4).takesTraps :=
  ⟨by decide +kernel, by decide +kernel, by decide +kernel, by decide +kernel, by decide +kernel, by decide +kernel, by decide +kernel,
    noSend_of (by decide +kernel) (by decide), noRecv_of (by decide +kernel) (by decide), by decide +kernel⟩

/-- RECAST of tile base and role in g1 and g2; tile 5 is in job 1's allocation. -/
def recasting (dst role : Nat) : State := tagged cell5 (tagged 0x180000 (running 5 { withG thread [(1, BitVec.ofNat 64 (baseOf dst)), (2, BitVec.ofNat 64 role)]
  with s := (Vector.replicate 8 0).set 1 (mkSeg cell5 0x40000 0x3F), posted := 15 } (up.modJob 1 fun j => { j with
    ctx := some { addr := 0, hbase := 0, plimit := 0, zoneCtl := false, pbase := 0, root1 := 0, root2 := 0, root3 := 0, ctab := 10, sched := 0
                  alloc := some [5] } })))
/-- A RECAST message of a job at tile 6, or tile 5. -/
def recastAt (dst : Nat) : State := { recasting 5 3 with
  msgs := [⟨1, 990, .access 1 dst⟩], nextMsg := 2, ev := { id := 1 }, nextAcc := 2
  accesses := [(1, some { farAccess (.recast 3) .none true with core := 7, parts := [(dst, [⟨0, BitVec.ofNat 64 (baseOf dst), baseOf dst, 8⟩])], waiting := [dst] })] }
/-- Tile 5 has a pending role; channel 2 is in under its present role; a packet may wait there; slot 4 waits in RECV on channel 2. -/
def adopting (pkts : List Pkt) : State := { recasting 5 3 with ev := { core := 5 } }.modCore 5 fun x =>
  { (x.setSlot 4 { thread with st := .parked (.recv 7 2), c := (Vector.replicate 8 0).set 2 inReg }) with
    pend := some 2, role := 1, roleTab := [(10, 0x8000000000000000)], pkts }
/-- Window words: all rights over the whole slice, and a reserved bit. -/
def window (w : Word) : State := running 5 (withG thread [(1, w)])

theorem witness_RolesAndWindows : (Runs (recasting 5 3) ∧ (recasting 5 3).isDead 5 = false ∧ (recasting 5 3).isDead 6 = false) ∧
    ((recasting 5 3).me.rg 1 = BitVec.ofNat 64 (baseOf 5) ∧ ((recasting 5 3).me.rg 2).toNat < 4 ∧ (recasting 5 3).me.s[1].getLsbD 116 = true ∧
      (recasting 5 3).inAllocation (recasting 5 3).me.tag 5 = true ∧ ((recasting 5 3).line (baseOf 5)).sound = true) ∧
    ((recasting 6 0).me.rg 1 = BitVec.ofNat 64 (baseOf 6) ∧ 6 ≠ (recasting 6 0).cur.core ∧ (recasting 6 0).me.posted < 16) ∧
    (4 ≤ ((recasting 5 4).me.rg 2).toNat ∧ (recasting 5 4).me.takesTraps) ∧
    (∀ dst ∈ [5, 6], let s := recastAt dst
      Carries s (.access 1 dst) ∧ (SMap.get none s.accesses 1).any (fun a => a.parts == [(dst, [⟨0, BitVec.ofNat 64 (baseOf dst), baseOf dst, 8⟩])] &&
        a.op == .recast 3 && a.core != dst) = true ∧ (s.line (baseOf dst)).sound = true) ∧
    ((recastAt 5).inAllocation 1 5 = true ∧ (recastAt 6).inAllocation 1 6 = false) ∧
    ((adopting []).ev.core = 5 ∧ ((adopting []).core 5).pend = some 2 ∧ ((adopting []).core 5).bindsIn 2 ∧ ¬((adopting []).core 5).bindsIn 1 ∧
      ((adopting []).slot 5 4).st = .parked (.recv 7 2) ∧ ((adopting [pktA]).core 5).pkts = [pktA] ∧ pktA.ch = 2) ∧
    ([(0xE001000000 : Word), 0xE000000FFF].all fun w => w.extractLsb' 40 24 == 0 && w.extractLsb' 25 12 == 0 && (w.extractLsb' 12 13).toNat ≤ 4096) ∧
    (0x10000000000 : Word).extractLsb' 40 24 ≠ 0 ∧ ((0x1001000 : Word).extractLsb' 12 13).toNat = 4097 ∧ (window 0x1001000).me.takesTraps ∧
    Runs (window 0xE001000000) := by decide +kernel

/-- Tile 5 is a root without children, a member without children whose parent is tile 6, or outside the tree; g1 a scale or an offset. -/
def treed (cfg : Word) (x : Word) : State := running 5 { withG thread [(1, x), (2, 64), (3, 1)] with
  s := (Vector.replicate 8 0).set 1 (mkSeg cell5 0x40000 0x3F) } ((tagged cell5 (tagged (cell5 + 64) (up.writeN cell5 4 0x12345678))).modCore 5
    fun c => { c with trees := c.trees.set 2 { cfg := cfg, parent := 0x180000, no := 4 } })
/-- Slot 0 of tile 5 waits for NBMAX, as the root of a child at tile 6, a leaf, which sends its part; or as a member, whose parent sends the
result. -/
def treeWaits (cfg : Word) (sent : Bool) (b : MsgBody) : State := mail b (((up.setSlot 5 0 { thread with st := .parked (.tree 2) }).modCore 5
  fun c => { c with trees := c.trees.set 2 { cfg := cfg, parent := 0x180000, kids := [(0, 0x180000)], no := 4
                                             wait := [⟨0, some ⟨1, .i64, 0, [5]⟩, .g 7, sent, false⟩] } }).modCore 6
  fun c => { c with trees := c.trees.set 2 { cfg := 1, parent := 0x140000, no := 4 } })
/-- Only tiles 5 and 6 name a core in their registers of tree 2. -/
theorem unlinked {s : State} {w y : Nat} (h : ∀ x ∈ s.cores, x.1 = 5 ∨ x.1 = 6) (h5 : w ≠ 5) (h6 : w ≠ 6) : s.linkedTo 2 w y = false := by
  have hn : s.core w = { } := by
    simp only [State.core, SMap.get]
    cases hf : SMap.find? s.cores w with
    | none => rfl
    | some v =>
      have key : ∀ l : SMap Core, SMap.find? l w = some v → ∃ x ∈ l, x.1 = w := by
        intro l
        induction l with
        | nil => simp [SMap.find?]
        | cons x t ih =>
          obtain ⟨k, u⟩ := x
          simp only [SMap.find?]
          split
          · exact fun _ => ⟨(k, u), List.mem_cons_self, Eq.symm ‹_›⟩
          · exact fun he => (ih he).elim fun z hz => ⟨z, List.mem_cons_of_mem _ hz.1, hz.2⟩
      obtain ⟨x, hx, rfl⟩ := key _ hf
      exact absurd (h x hx) (by omega)
  rw [State.linkedTo, hn]
  rfl
theorem reservesNothing_of {s : State} {c k : Nat} (h : ∀ tr : Fin 4, ∀ o ∈ (s.core c).trees[tr].wait, o.slot = k → o.val ≠ none)
    (hl : (s.job (s.slot c k).tag).launches = []) (hs : (match (s.slot c k).st with | .parked (.fence ..) => false | _ => true) = true) :
    s.reservesNothing c k :=
  ⟨h, fun x hx => absurd hx (by rw [hl]; exact List.not_mem_nil), fun _ _ _ _ _ he => by rw [he] at hs; cases hs⟩
def partMsg : MsgBody := .treePart 6 5 2 4 ⟨1, .i64, 0, [(BitVec.ofInt 64 (-3)).toNat]⟩
def downMsg : MsgBody := .treeDown 5 2 4 ⟨1, .i64, 0, [9]⟩

theorem witness_TreeOperations : (Runs (treed 3 0) ∧ (treed 3 0).cur.core < 12288 ∧ (treed 3 0).me.s[1].getLsbD 116 = true ∧ (treed 3 0).me.takesTraps) ∧
    ((-127 ≤ ((treed 3 (BitVec.ofInt 64 (-127))).me.rg 1).toInt) ∧ ¬(-127 ≤ ((treed 3 (BitVec.ofInt 64 (-128))).me.rg 1).toInt) ∧
      ((treed 3 127).me.rg 1).toInt ≤ 127 ∧ ¬((treed 3 128).me.rg 1).toInt ≤ 127) ∧
    ([((3 : Word), true), (1, false)].all fun x => let y := ((treed x.1 0).core 5).trees[2]
      decide ((treed x.1 0).me.touched = 0 ∧ y.cfg.getLsbD 0 = true ∧ y.cfg.getLsbD 1 = x.2 ∧ y.wait = [] ∧ (y.cfg.extractLsb' 4 4).toNat = 0 ∧
        (∀ f ∈ y.fails, f.1 ≠ y.no) ∧ (treed x.1 0).isDead (cellTile (y.parent.extractLsb' 0 32).toNat) = false)) ∧
    (((treed 0 0).core 5).trees[2].cfg.getLsbD 0 = false ∧ (treed 3 0).me.rg 3 = 1) ∧
    segAddr (treed 3 0).me.s[1] ((treed 3 0).me.rg 1).toInt 4 4 (fun _ => rRead) false = .ok 0x140000 ∧
    segAddr (treed 3 0).me.s[1] ((treed 3 0).me.rg 2).toInt 4 4 destRights false = .ok 0x140040 ∧
    (EngineReaches (treed 3 0) 5 0 1 .read 0x140000 cell5 ∧ EngineReaches (treed 3 0) 5 0 1 .write 0x140040 (cell5 + 64)) ∧
    (let s := treeWaits 0x13 false partMsg
     let z := (s.core 5).trees[2]
     Carries s partMsg ∧ (s.slot 5 0).st = .parked (.tree 2) ∧ z.no = 4 ∧ (∀ f ∈ z.fails, f.1 ≠ z.no) ∧ z.wait = [⟨0, some ⟨1, .i64, 0, [5]⟩, .g 7, false, false⟩] ∧
       z.cfg.getLsbD 1 = true ∧ z.cfg.getLsbD 0 = true ∧ s.leafOf 2 6 5 ∧ (∀ w, w ≠ 6 → w ≠ 5 → s.linkedTo 2 w 6 = false ∧ s.linkedTo 2 w 5 = false) ∧
       (z.cfg.extractLsb' 4 4).toNat = 1 ∧ cellTile ((SMap.get 0 z.kids 0).extractLsb' 0 32).toNat = 6 ∧
       s.isDead 6 = false ∧ z.got = []) ∧
    (let s := treeWaits 1 true downMsg
     let z := (s.core 5).trees[2]
     Carries s downMsg ∧ z.wait = [⟨0, some ⟨1, .i64, 0, [5]⟩, .g 7, true, false⟩] ∧ (z.cfg.extractLsb' 4 4).toNat = 0) ∧
    (treed 3 0).reservesNothing 5 0 ∧ ∀ w, (treed 3 0).linkedTo 2 w 5 = false := by
  have hc : ∀ x ∈ (treeWaits 0x13 false partMsg).cores, x.1 = 5 ∨ x.1 = 6 := by decide +kernel
  have hd : ∀ x ∈ (treed 3 0).cores, x.1 = 5 ∨ x.1 = 6 := by decide +kernel
  refine ⟨by decide +kernel, by decide +kernel, by decide +kernel, by decide +kernel, okIs_of (by decide +kernel), okIs_of (by decide +kernel),
    ⟨engineReaches_of (by decide +kernel), engineReaches_of (by decide +kernel)⟩, ⟨by decide +kernel, by decide +kernel, by decide +kernel,
    by decide +kernel, by decide +kernel, by decide +kernel, by decide +kernel, by and_intros <;> decide +kernel,
    fun w h6 h5 => ⟨unlinked hc h5 h6, unlinked hc h5 h6⟩, by and_intros <;> decide +kernel⟩,
    by decide +kernel, reservesNothing_of (by decide +kernel) (by decide +kernel) (by decide +kernel), fun w => ?_⟩
  · by_cases h5 : w = 5
    · subst h5
      decide +kernel
    · by_cases h6 : w = 6
      · subst h6
        decide +kernel
      · exact unlinked hd h5 h6

/-! ## Witnesses: the clause scheduler -/

/-- Job 1: a clause table of 2^10 records, of which record 5 (serial 3) waits for n joins; launch 1 (serial 4) runs. -/
def jobCtx : JobCtx :=
  { addr := 0x1000, hbase := 0x140800, plimit := 0, zoneCtl := false, pbase := 0, root1 := 0, root2 := 0, root3 := 0, ctab := 10, sched := 0, alloc := none }
def rec5 (n : Nat) : CRec := { serial := 3, occ := { job := 1, launch := 1, prio := 2 }, join := n, control := BitVec.ofNat 64 n, die := 0 }
def launch1 : Launch := { serial := 4, desc := 1 * 2 ^ 160, segs := [], phase := 0, die := 0, core := 5, counter := 2 }
def job1 (joins : Nat) (cancelled : Bool) : Job :=
  { ctx := some jobCtx, recs := [(5, some (rec5 joins))], launches := [(1, some { launch1 with cancelled := cancelled })] }
def clause (g : List (G × Word)) (posted : Nat := 0) (cancelled : Bool := false) : State :=
  running 5 { withG thread g with posted := posted } (up.modJob 1 fun _ => job1 2 cancelled)
/-- No slot of the core waits in CTXSV. -/
def noCtxsv (s : State) (c : Nat) : Bool := (List.range 16).all fun j => match (s.slot c j).st with
  | .parked (.ctxsv _ _) => false
  | _ => true

theorem noCtxsv_of {s : State} {c k : Nat} (h : noCtxsv s c = true) : ∀ j < 16, ∀ y, (s.slot c j).st ≠ .parked (.ctxsv k y) := by
  intro j hj y hy
  have := List.all_eq_true.mp h j (List.mem_range.mpr hj)
  simp [hy] at this

/-- A JOIN of record 5 from slot 0 of tile 5 is at the record's home. -/
def joining (serial joins : Nat) : State := mail (.join 5 0 8 1 5 serial (some (1, 0, 0)) false) (up.modJob 1 fun _ => job1 joins false)

/-- A thread of a supervisor core, where job 1 alone is bound and owns the record that its handle names. -/
def supClause : State := { running 12290 { withG thread [(1, handleWord 1 3 5)] with occ := some { job := 0 } }
  { up with jobs := [(1, job1 2 false)] } with bootState := .ready }

theorem witness_Clauses : (Runs (clause []) ∧ (clause []).me.occ = some { job := 1, launch := 1, uid := 7 } ∧ (clause []).me.touched = 0 ∧
      (clause []).me.reports = [] ∧ (clause []).me.posted = 0 ∧ (clause [] 1).me.posted ≠ 0) ∧
    (∀ j < 16, ∀ y, ((clause []).slot 5 j).st ≠ .parked (.ctxsv 0 y)) ∧
    (NamesJob (clause []) False 1 ∧ NamesJob supClause (∃ r, SMap.get none (supClause.job 1).recs 5 = some r ∧ r.serial = 3) 1 ∧
      5 < supClause.tableSize 1 ∧ supClause.me.rg 1 = handleWord 1 3 5) ∧
    (let s := clause [(1, 0x140100), (2, 0x55), (3, 0x20FFFF)]
     let control := s.me.rg 3
     s.cur.core < 12288 ∧ control.extractLsb' 40 4 = 0 ∧ control.getLsbD 23 = false ∧ (s.me.rg 1).extractLsb' 0 2 = 0 ∧
       s.launch 1 1 = some launch1 ∧ s.launchCancelled 1 launch1 = false ∧ control.extractLsb' 0 16 ≠ 0 ∧ SMap.wf none (s.job 1).recs = true ∧
       s.freeRecords 1 ≠ 0 ∧ SMap.get none launch1.ranges 0 = none) ∧
    (clause [] 0 true).launchCancelled 1 { launch1 with cancelled := true } = true ∧
    ((clause []).me.rg 1 = 0 ∧ (clause [(1, handleWord 1 0xFFFF 1023)]).me.rg 1 = handleWord 1 0xFFFF 1023 ∧
      1023 < (clause []).tableSize (clause []).me.tag) ∧
    (∀ x ∈ [(2, 2), (3, 2), (3, 1)], let s := joining x.1 x.2
      Carries s (.join 5 0 8 1 5 x.1 (some (1, 0, 0)) false) ∧ SMap.get none (s.job 1).recs 5 = some (rec5 x.2) ∧ (rec5 x.2).occ.range = 0 ∧
        (rec5 x.2).queued = false ∧ (rec5 x.2).control.extractLsb' 40 2 = 0 ∧ s.isDead 5 = false ∧ s.cancels = []) :=
  ⟨by decide +kernel, noCtxsv_of (by decide +kernel), ⟨.inl ⟨by decide +kernel, by decide +kernel⟩,
    .inr ⟨by decide +kernel, ⟨rec5 2, by decide +kernel, rfl⟩, job1 2 false, by decide +kernel, by decide +kernel⟩, by decide +kernel, by decide +kernel⟩,
    by and_intros <;> decide +kernel⟩

/-- A launch descriptor: code 0x140200, frame base 0x140000 and stride 64, n indices, mode, of dense tiles; chunk 4, dies 0 and 1. -/
def descBits (n mode : Nat) : Nat :=
  0x140200 + 0x140000 * 2 ^ 64 + 64 * 2 ^ 128 + n * 2 ^ 160 + 3 * 2 ^ 192 + mode * 2 ^ 392 + 3 * 2 ^ 400 + 1 * 2 ^ 413 + 4 * 2 ^ 432
/-- LAUNCH before and after its read. -/
def launching (stash : List Nat) (touched : Nat := 0) : State :=
  tagged cell5 (running 5 { withG thread [(1, 0)] with s := (Vector.replicate 8 0).set 1 mxSeg, stash, touched := touched } (up.modJob 1 fun _ => job1 2 false))
/-- Its launch has been allocated, and its FENCE part is over. -/
def opened : State := (launching [descBits 1 0, 0x2000000000 + 4 * 2 ^ 20 + 3]).modJob 1 fun j =>
  { j with launches := j.launches ++ [(3, some { launch1 with desc := descBits 1 0 + 2 ^ 414, opening := some 0 })] }
/-- Launch 2 of job 1 waits to become eligible. -/
def waitingLaunch : State := { up.modJob 1 (fun j => { j with launches := [(2, some { launch1 with desc := descBits 8 0 })] }) with
  ev := { size := 1, id := 2 } }
/-- An index of launch 2 waits on tile 7, whose slot 0 runs and whose slot 1 is free. -/
def startingAt (i last : Nat) : State := { ((up.modJob 1 fun j => { j with
    ctx := some jobCtx, launches := [(2, some { launch1 with desc := descBits 8 0, segs := [mxSeg], eligible := true, next := 8 })] }).setSlot 7 0 thread).modCore 7
    fun x => { x with ready := [⟨1, .range 2 i last 0 0, 3, 900, 5, 0⟩] } with ev := { core := 7 } }
/-- Launch 2 in mode 3: eligible, a request and a range on their ways, a sweep. -/
def dist (l : Launch) (b : MsgBody) (e : EvArg := { id := 1 }) : State :=
  { mail b (up.modJob 1 fun j => { j with ctx := some jobCtx, launches := [(2, some l)] }) with ev := e }
def launch3 : Launch := { launch1 with desc := descBits 10 3, eligible := true, next := 8 }
def launch3r : Launch := { launch3 with ranges := [(7, some { die := 1, first := 4, last := 7, gen := 0 })], asking := [1] }

/-- The first count, a descriptor with no index, one with an unaligned code address, one with a reserved bit; a last and an earlier index. -/
theorem witness_Launches : (Runs (launching []) ∧ (launching []).me.stash = []) ∧
    (Reaches (launching []) (launching []).me.s[1] (memOffset ((launching []).me.rg 1) 0 (at_ 0).disp) 64 .load false cell5 ∧
      InOwnSlice (launching []) .read cell5) ∧
    (let s := launching [descBits 1 0]
     s.me.stash = [descBits 1 0] ∧ s.me.touched = 0 ∧ s.cur.core < 12288 ∧ dReserved (descBits 1 0) = false ∧ dCount (descBits 1 0) ≠ 0 ∧
       descBits 1 0 % 4 = 0 ∧ dMode (descBits 1 0) = 0 ∧ SMap.wf none (s.job 1).launches = true ∧ (s.launchTable 1).length < 4096 ∧ s.me.takesTraps) ∧
    ((launching [descBits 1 0] 0x8000000000000001).me.touched ≠ 0) ∧
    (opened.me.stash = [descBits 1 0, 0x2000400003] ∧ opened.me.touched = 0 ∧ 0x2000400003 < 2 ^ 64 ∧ 0x2000400003 % 2 ^ 20 = 3 ∧
      opened.launch 1 3 = some { launch1 with desc := descBits 1 0 + 2 ^ 414, opening := some 0 } ∧ dField (descBits 1 0 + 2 ^ 414) 414 1 = 1) ∧
    (dCount (descBits 0 0) = 0 ∧ (descBits 1 0 + 1) % 4 ≠ 0 ∧ dReserved (descBits 1 0 + 2 ^ 407) = true) ∧
    (let s := waitingLaunch
     s.ev.size = 1 ∧ s.ev.id = 2 ∧ s.launch 1 2 = some { launch1 with desc := descBits 8 0 } ∧ dPreds (descBits 8 0) = [] ∧
       dField (descBits 8 0) 413 1 = 1 ∧ dMode (descBits 8 0) = 0 ∧ s.isDead 5 = false ∧ s.cancels = []) ∧
    (∀ x ∈ [(7, 7), (6, 7)], let s := startingAt x.1 x.2
      s.ev.core = 7 ∧ s.closed = false ∧ s.isDead 7 = false ∧ (s.slot 7 1).st = .free ∧ (∀ q < 1, (s.slot 7 q).st ≠ .free) ∧
        (s.core 7).pkts = [] ∧ (s.launch 1 2).isSome ∧ (s.core 7).ready = [⟨1, .range 2 x.1 x.2 0 0, 3, 900, 5, 0⟩] ∧ (s.job 1).ctx = some jobCtx ∧
        s.lines = []) ∧
    (let s := dist launch3 (.echo 0 0 0 .t) { core := 1, size := 1, id := 2 }
     s.launch 1 2 = some launch3 ∧ dMode launch3.desc = 3 ∧ launch3.more = true ∧ 1 ∈ s.maskDies launch3 ∧ s.askTile 1 2 launch3 1 = some 192) ∧
    (let s := dist launch3 (.distRequest 1 2 4 1 192)
     Carries s (.distRequest 1 2 launch3.serial 1 192) ∧ (s.die 1).fenced = false ∧ launch3.back = [] ∧ launch3.next < dCount launch3.desc) ∧
    (let s := dist launch3r (.distRange 1 2 4 1 192 7)
     Carries s (.distRange 1 2 launch3r.serial 1 192 7) ∧ SMap.get none launch3r.ranges 7 = some { die := 1, first := 4, last := 7, gen := 0 } ∧
       s.askTile 1 2 launch3r 1 = some 192 ∧ s.isDead 192 = false) ∧
    (let l := { launch3 with dirty := [(0, [1]), (1, [0, 1])] }
     let s := dist l (.sweep 1 2 4 0 1)
     Carries s (.sweep 1 2 l.serial 0 1) ∧ s.cores = [] ∧ (s.job 1).recs = [] ∧ l.held = [] ∧ s.launch 1 2 = some l ∧ s.msgs = [⟨1, 900, .sweep 1 2 4 0 1⟩]) := by
  refine ⟨by decide +kernel, ⟨reaches_of (by decide +kernel), ownSlice_of (by decide +kernel)⟩, ?_⟩
  and_intros <;> decide +kernel

/-- A unit in g1; launch 1 is the thread's own, launch 2 of phase 9 and graph 6 another; a deque of n phrases of the jobs given. -/
def units (u : Word) (jobs : List Nat) : State :=
  let s := running 5 (withG thread [(1, u), (2, 0x22)]) ((up.modJob 1 fun _ => { job1 2 false with
    launches := [(1, some launch1), (2, some { launch1 with serial := 5, phase := 9, desc := 1 * 2 ^ 160 + 6 * 2 ^ 424 })] }).modCore 5
      fun x => { x with deque := jobs.map fun j => ⟨j, BitVec.ofNat 64 j, 0x77⟩ })
  { s with nextReq := 40 }
/-- The last die acknowledges a cancel; a steal finds phrases; they come back. -/
def cancelling : State := { mail (.cancel 3 63) (up.setSlot 5 0 thread) with
  cancels := [{ id := 3, job := 2, level := 0, unit := 2 ^ 37, waiting := [63], count := 4, core := 5, slot := 0 }] }
def stealing (n : Nat) (dead : List Nat) : State :=
  { mail (.steal 40 5 0 1 6 64) (up.modCore 6 fun x => { x with deque := List.replicate n ⟨1, 0x11, 0x22⟩ }) with dead }
/-- A thief that has no room, and one that has touched a die. -/
def thief (n touched : Nat) : State :=
  let s := units (BitVec.ofNat 64 (baseOf 6)) (List.replicate n 1)
  { s.modMe fun t => { t with touched := touched } with cur := s.cur }
/-- A unit named by a thread of a supervisor core. -/
def supUnits : State := { running 12290 { withG thread [(1, handleWord 2 4 1)] with occ := some { job := 0 } } up with jobs := [(1, job1 2 false)] }
def stolenBack : State := mail (.stolen 40 5 0 1 6 [⟨1, 0x11, 0x22⟩]) ((up.setSlot 5 0 { thread with st := .parked (.steal 40 9) }).modCore 5
  fun x => { x with steals := [(40, 64)] })

theorem witness_WaitsCancelsAndPhrases : (Runs (units 0 []) ∧ (units 0 []).me.takesTraps ∧ (units 0 []).me.touched = 0) ∧
    ((units (handleWord 2 5 2) []).me.rg 1 = handleWord 2 5 2 ∧ (units 0 []).unitHolds (units 0 []).me 0 (handleWord 2 5 2).toNat = false ∧
      (units 0 []).unitHolds (units 0 []).me 0 (handleWord 2 4 1).toNat = true ∧ (units 0 []).unitHolds (units 0 []).me 2 9 = false ∧
      (units 0 []).unitHolds (units 0 []).me 1 6 = false ∧ (units 0 []).unitHolds (units 0 []).me 3 0 = true) ∧
    (LegalUnit .launch (handleWord 2 0xFFFF 4095) ∧ ¬LegalUnit .launch 5 ∧ LegalUnit .graph 255 ∧ ¬LegalUnit .graph 256 ∧ LegalUnit .phase 65535 ∧
      ¬LegalUnit .phase 65536 ∧ LegalUnit .job 0 ∧ ¬LegalUnit .job 1) ∧
    (∀ die, ((units 0 []).die die).fenced = false) ∧
    (Carries cancelling (.cancel 3 63) ∧ (∀ y ∈ cancelling.cores, y.2.ready = []) ∧ (cancelling.job 2).recs = [] ∧ (cancelling.job 2).launches = []) ∧
    (128 - ((units 5 (List.replicate 128 1)).core 5).deque.length = 0 ∧ 0 < 128 - ((units 5 (List.replicate 127 1)).core 5).deque.length ∧
      (units (BitVec.ofNat 64 (baseOf 5)) []).me.rg 1 = BitVec.ofNat 64 (baseOf 5) ∧ (units 0 []).isDead 5 = false ∧ (units 0 []).isDead 6 = false ∧
      (units (BitVec.ofNat 64 (baseOf 6)) []).me.rg 1 = BitVec.ofNat 64 (baseOf 6)) ∧
    ((∀ p ∈ ((units 0 [2, 3]).core 5).deque, p.job ≠ 1) ∧
      ((units 0 [1, 1, 2]).core 5).deque = [⟨1, 1, 0x77⟩] ++ ⟨1, 1, 0x77⟩ :: [⟨2, 2, 0x77⟩]) ∧
    ((thief 127 0).me.touched = 0 ∧ (thief 127 0).me.stash = [] ∧ 128 - ((thief 127 0).core 5).deque.length = 1 ∧ (thief 127 1).me.touched ≠ 0 ∧
      (thief 127 1).me.stash = [] ∧ (thief 127 1).me.rg 1 = BitVec.ofNat 64 (baseOf 6)) ∧
    NamesJob supUnits (∃ n l, supUnits.me.rg 1 = handleWord 2 l.serial n ∧ supUnits.launch 1 n = some l) 1 ∧
    (∀ n ∈ [0, 1, 5], let s := stealing n []
      Carries s (.steal 40 5 0 1 6 64) ∧ s.isDead 6 = false ∧ ((s.core 6).deque.all fun p => p.job == 1) = true) ∧
    Carries stolenBack (.stolen 40 5 0 1 6 [⟨1, 0x11, 0x22⟩]) ∧ stolenBack.isDead 5 = false ∧ (stolenBack.slot 5 0).st = .parked (.steal 40 9) := by
  refine ⟨by decide +kernel, by decide +kernel, ⟨⟨0xFFFF, 4095, by decide, by decide, rfl⟩, ?_, show (255 : Word).toNat < 2 ^ 8 by decide,
      show ¬(256 : Word).toNat < 2 ^ 8 by decide, show (65535 : Word).toNat < 2 ^ 16 by decide, show ¬(65536 : Word).toNat < 2 ^ 16 by decide, rfl,
      show ¬(1 : Word) = 0 by decide⟩,
    fun _ => rfl, by decide +kernel, by decide +kernel, by decide +kernel, by decide +kernel,
    .inr ⟨by decide +kernel, ⟨1, launch1, by decide +kernel, by decide +kernel⟩, job1 2 false, by decide +kernel, by decide +kernel⟩,
    by and_intros <;> decide +kernel⟩
  rintro ⟨serial, n, hs, hn, h⟩
  have := congrArg BitVec.toNat h
  rw [show (5 : Word).toNat = 5 from rfl] at this
  simp only [handleWord, Nat.shiftLeft_eq, BitVec.toNat_ofNat] at this
  omega

/-! ## Witnesses: the power broker -/

/-- Tile 0 (dense, F = 64) runs a clause with an explicit level; the zone is at rest with a pool of n tokens. -/
def zone (level : Nat) (g : List (G × Word)) (pool : Nat := 4800) (stash : List Nat := []) (grant : Nat := level - 1) : State :=
  { (running 0 { withG thread g with explicit := level, stash } ((up.modDie 0 fun d => { d with pool := pool }).modCore 0
      fun x => { x with grant := grant, extra := grant })) with nextReq := 40 }
/-- The least share of class 0 on tile 0. -/
def base0 : Nat := max 1 (demand 0 0)

/-- The tile's class update is under way to the broker. -/
def raising : State := mail (.classUpdate 0 64) (zone 64 [] 4800 [] 10)

theorem witness_TokenInstructions : (Runs (zone 20 []) ∧ (zone 20 []).me.st = .ready ∧ (zone 20 []).me.stash = []) ∧
    (Config.fullRate (running 11 thread).cur.core = 0 ∧ (running 11 thread).me.takesTraps ∧ Config.fullRate 0 = 64 ∧
      ((zone 20 [(1, 65)]).me.rg 1).toNat = 65 ∧ (zone 20 []).me.takesTraps) ∧
    ((zone 20 []).cur.core < 12288 ∧ (zone 20 []).isDead 0 = false ∧ Config.hasMatrix 0 = true ∧ (zone 64 []).target 0 = (zone 64 []).holding 0 ∧
      SMap.wf { } (zone 64 []).cores = true ∧ (∀ x ∈ (zone 64 []).zoneCores 0, x.2.notices = [] ∧ x.2.short = 0 ∧ x.2.queuedAt = none) ∧
      (zone 64 []).owed 0 = 0 ∧ ((zone 64 []).die 0).returning = []) ∧
    ((zone base0 [(1, 64)]).target 0 = base0 ∧ base0 < 64 ∧ 64 - base0 ≤ (zone base0 [(1, 64)]).freeTokens 0) ∧
    (∀ g ∈ [[((1 : G), (64 : Word))]], (zone base0 g 170).freeTokens 0 < 64 - base0 ∧ (zone base0 g 170).owed 0 = 0) ∧
    ((zone 64 [(1, 40)]).target 0 = 64 ∧ base0 ≤ 40 ∧ (zone 64 [(1, 40)]).me.explicit = 64 ∧
      (∀ j < 16, j ≠ 0 → ((zone 64 [(1, 40)]).slot 0 j).st = .free)) ∧
    ((zone base0 []).me.rg 1 = 0 ∧ ((zone base0 []).modMe fun y => { y with occ := y.occ.map fun o => { o with cls := 0 } }).target 0 = base0) ∧
    (let s := running 0 { (zone base0 [(1, 1), (2, 100)]).me with flags := 0x80000 } (zone base0 [])
     hmode s.me.flags = true ∧ s.me.rg 1 = BitVec.ofNat 64 1 ∧ (s.die 1).fenced = false ∧ (s.me.rg 2).toNat = 100 ∧
       Config.neighbour 0 (1 : Fin 4).val = some 1 ∧ (∀ e : Fin 4, Config.neighbour 0 e.val = some 1 → 1 ≤ e) ∧ 100 ≤ s.freeTokens 0 ∧
       (s.die 0).lentAll + 100 ≤ (s.die 0).pool - s.floors 0 ∧ (s.die 0).loans[(1 : Fin 4)].lent < 100) ∧
    (let s := (running 0 { (zone base0 [(1, 1), (2, 100)]).me with flags := 0x80000 } (zone base0 [])).modDie 0 fun d =>
        { d with loans := d.loans.set 1 { lent := 100 } }
     100 ≤ (s.die 0).loans[(1 : Fin 4)].lent - (s.die 0).loans[(1 : Fin 4)].recalling ∧ s.owed 0 = 0) ∧
    (hmode (zone 20 []).me.flags = false ∧ (((zone 20 []).job 1).ctx.all fun y => !y.zoneCtl) = true) ∧
    ((zone 20 [] 4800 [1]).me.stash = [1] ∧ (zone 20 [] 4800 [1]).target 0 ≤ (zone 20 [] 4800 [1] 63).holding 0 ∧
      (zone 64 [] 4800 [1] 10).holding 0 < (zone 64 [] 4800 [1] 10).target 0) ∧
    (let s := (zone base0 [(1, handleWord 1 3 5), (2, handleWord 2 4 1)]).modJob 1 fun _ => job1 2 false
     s.me.rg 1 = handleWord 1 3 5 ∧ 5 < s.tableSize s.me.tag ∧ s.record 1 5 2 = none ∧ s.record 1 5 3 = some (rec5 2) ∧
       s.me.rg 2 = handleWord 2 4 1 ∧ s.launchAt 1 1 4 = some launch1 ∧ launch1.desc < 2 ^ 512) ∧
    ((raising.msgs = [⟨1, 900, .classUpdate 0 64⟩] ∧ raising.target 0 = 64 ∧ raising.holding 0 = 11 ∧ 64 - 11 ≤ raising.freeTokens 0) ∧
      raising.owed 0 = 0 ∧ SMap.wf { } raising.cores = true ∧ (raising.die 0).returning = [] ∧
      ∀ x ∈ raising.zoneCores 0, x.2.notices = [] ∧ x.2.short = 0 ∧ x.2.queuedAt = none) := by
  and_intros <;> decide +kernel

/-- A target above the holding, at the broker; news of a holding; a notice; a pool; loans with die 1. -/
def brokered (level grant : Nat) (b : MsgBody) : State := mail b (zone level [] 4800 [] grant)
def noticed : State := { (zone base0 [] (160 + base0 - 1) [] (base0 + 9)).modCore 0 (fun x => { x with notices := [⟨10, 1000, 1⟩] }) with ev := { core := 0 } }
def lending (b : MsgBody) (borrowed : Nat) : State := mail b ((zone base0 []).modDie 0 fun d =>
  { d with loans := d.loans.set 1 { borrowed := borrowed, lent := 50, recalling := 50 } })
def recalled : State := mail (.returned 1 0 50 40) (((zone base0 []).setSlot 3 2 { thread with st := .parked (.reply 40 20 (some 9) (.go 0x140108)) }).modDie 0
  fun d => { d with loans := d.loans.set 1 { lent := 50, recalling := 50 } })

theorem witness_BrokerEvents : (Config.dieOf 0 = 0 ∧ (zone 64 []).isDead 0 = false ∧ Config.hasMatrix 0 = true ∧
      ((List.range 16).all fun j => ((zone 64 []).slot 0 j).st == .ready || ((zone 64 []).slot 0 j).st == .free) = true) ∧
    (let s := brokered 64 63 (.classUpdate 0 64)
     Carries s (.classUpdate 0 64) ∧ s.holding 0 = 64 ∧ s.owed 0 = 0) ∧
    (let s := brokered 64 10 (.classUpdate 0 64)
     Carries s (.classUpdate 0 64) ∧ s.holding 0 < 64 ∧ 64 - s.holding 0 ≤ s.freeTokens 0) ∧
    (let s := brokered 64 63 (.classUpdate 0 1)
     Carries s (.classUpdate 0 1) ∧ 1 < s.holding 0 ∧ s.owed 0 = 0 ∧ SMap.wf { } s.cores = true ∧ (s.die 0).returning = [] ∧
       ∀ x ∈ s.zoneCores 0, x.2.notices = [] ∧ x.2.short = 0 ∧ x.2.queuedAt = none) ∧
    (Carries (brokered 64 63 (.holding 0)) (.holding 0) ∧
      let s := brokered 64 63 (.holding 0)
      let u := s.setCore 0 ((s.core 0).setSlot 3 { (s.core 0).slot 3 with st := .parked (.tokens 9) })
      u.target 0 ≤ u.holding 0) ∧
    ((noticed.core 0).notices = [⟨10, 1000, 1⟩] ∧ 1000 ≤ noticed.clk ∧ 10 ≤ (noticed.core 0).grant ∧ (noticed.core 0).short = 0 ∧
      (noticed.core 0).queuedAt = none ∧ noticed.owed 0 = 10 ∧ SMap.wf { } noticed.cores = true ∧ (noticed.die 0).returning = [] ∧
      (∀ y ∈ noticed.zoneCores 0, y.1 ≠ 0 → y.2.notices = [] ∧ y.2.queuedAt = none) ∧ noticed.ev.core = 0) ∧
    (let s := { zone 64 [] with ev := { core := 0, value := 7680 } }
     s.ev.value = BitVec.ofNat 64 7680 ∧ s.owed 0 = 0 ∧ s.floors 0 + s.granted 0 + (s.die 0).lentAll ≤ 7680 + (s.die 0).borrowedAll) ∧
    Config.neighbour 0 (1 : Fin 4).val = some 1 ∧ Carries (lending (.loan 1 0 30 8 false) 0) (.loan 1 0 30 8 false) ∧
    (let s := lending (.loan 1 0 30 8 true) 30
     Carries s (.loan 1 0 30 8 true) ∧ 30 ≤ (s.die 0).loans[(1 : Fin 4)].borrowed ∧ 30 ≤ s.freeTokens 0 ∧ s.owed 0 = 0) ∧
    Carries recalled (.returned 1 0 50 40) ∧ recalled.replyWaiter 40 = some (3, 2) ∧
    (recalled.slot 3 2).st = .parked (.reply 40 20 (some 9) (.go 0x140108)) := by
  and_intros <;> decide +kernel

/-! ## Witnesses: the persistence engine and the supervisor engine -/

/-- A thread whose s1 has some rights, and which has touched die 0 or nothing. -/
def persisting (rights : Nat) (touched : Nat) : State := { running 5 { thread with
  s := (Vector.replicate 8 0).set 1 (mkSeg cell5 0x40000 rights), touched := touched } with nextReq := 40 }
/-- A request for the numbers of a tag, at the sequence home, which is fenced or not. -/
def asking (tag kind : Nat) (fenced : Bool) : State :=
  mail (.seq 5 0 40 tag kind) { up.modDie 3 fun d => { d with fenced := fenced } with
    dseq := [(1, 7), (254, 9)], lseq := [(1, 5)], lword := [(254, 0x10000000003)] }
/-- A store of 8 bytes to the non-volatile tier, which has arrived at stack 0 with an acceptance queue. -/
def nvUnit : AUnit := ⟨0, 0x3000000000000108, 0x3000000000000108, 8⟩
def nvStore : Access :=
  { core := 5, slot := 0, job := 1, op := .store [(0, 0x55)], done := .none, posted := true, counted := true, addr := 0x3000000000000108
    parts := [(30000, [nvUnit])], waiting := [30000], results := [], refusals := [] }
def accepting (q : List (Nat × Nat × LineMeta)) : State := { mail (.access 1 30000) (tagged 0x3000000000000100) with
  accesses := [(1, some nvStore)], nextAcc := 2, nvq := [(0, q)] }

theorem witness_Persistence : (Runs (persisting 0x1F 0) ∧ (persisting 0x1F 0).me.s[(1 : S)].getLsbD 117 = false ∧ (persisting 0x1F 0).me.takesTraps) ∧
    (Runs (persisting 0x20 0) ∧ (persisting 0x20 0).me.s[(1 : S)].getLsbD 117 = true ∧ (persisting 0x20 0).me.touched = 0) ∧
    (Runs (persisting 0x20 1) ∧ (persisting 0x20 1).me.s[(1 : S)].getLsbD 117 = true ∧ (persisting 0x20 1).me.touched ≠ 0) ∧
    (∀ kind < 4, Carries (asking 1 kind true) (.seq 5 0 40 1 kind) ∧ ((asking 1 kind true).die (asking 1 kind true).seqDie).fenced = true ∧
      Carries (asking 1 kind false) (.seq 5 0 40 1 kind) ∧ Carries (asking 254 kind false) (.seq 5 0 40 254 kind) ∧
      ((asking 1 kind false).die (asking 1 kind false).seqDie).fenced = false) ∧
    (let s := accepting [(0x3000000000000200, 1, { })]
     Carries s (.access 1 30000) ∧ SMap.get none s.accesses 1 = some nvStore ∧ nvStore.parts = [(30000, [nvUnit])] ∧ nvStore.core ≠ 30000 ∧
       nvStore.op = .store [(nvUnit.idx, 0x55)] ∧ nvUnit.cell / 2 ^ 60 = 3 ∧ 30000 = s.homeOf nvUnit.cell ∧ 1 ≤ nvUnit.n ∧
       nvUnit.cell % 16 + nvUnit.n ≤ 16 ∧ (SMap.get [] s.nvq (30000 - 30000)).length < 8192 ∧
       s.targetCheck nvStore.core nvStore.job .write nvUnit.cell 8 = none ∧ (s.line nvUnit.cell).sound = true ∧ (s.line nvUnit.cell).wiped = none) ∧
    (∀ x, Carries (accepting (List.replicate 8192 x)) (.access 1 30000) ∧
      8192 ≤ (SMap.get [] (accepting (List.replicate 8192 x)).nvq (30000 - 30000)).length) := by
  refine ⟨by decide +kernel, by decide +kernel, by decide +kernel, by decide +kernel, by decide +kernel, fun x => ⟨?_, ?_⟩⟩
  · rfl
  · have h : SMap.get [] (accepting (List.replicate 8192 x)).nvq (30000 - 30000) = List.replicate 8192 x := rfl
    exact Nat.le_of_eq ((congrArg List.length h).trans List.length_replicate).symm

/-- Die 0 carries out a command. -/
def command (code : Nat) (op0 op1 op2 : Word) (s : State := up) : State :=
  { s.modDie 0 fun d => { d with cmd := some (code, #v[op0, op1, op2]), result := 0xFF } with ev := { core := 0 } }
/-- A job context record at linear offset 0x1000 with fields given as bits. -/
def recordAt (bits : Nat) : State := up.writeN (linCell 0x1000) 64 bits
/-- A region limit of 65,536, a handler base, a clause table of 2^ctab records, every tile. -/
def ctxBits (ctab : Nat) : Nat := 0x140800 + 65536 * 2 ^ 64 + 0x10000 * 2 ^ 144 + ctab * 2 ^ 384 + 1 * 2 ^ 405
/-- The same with an allocation map at linear offset 64 × 0x80, in which tile 5 stands. -/
def ctxMapped : Nat := 0x140800 + 65536 * 2 ^ 64 + 10 * 2 ^ 384 + 0x80 * 2 ^ 406
/-- A stopped clause in slot 0 of tile 5; launch 1 counts it. -/
def stoppedSlot : State := (up.setSlot 5 0 { thread with st := .stopped }).modJob 1 fun _ => job1 2 false
/-- Engine states have been saved at linear offset 0x8000. -/
def savedEngines : State := { up with engImages := [(0x8000, List.replicate 4096 0, (up.core 5).engImage)] }
/-- No line has an error. -/
theorem cleanArea_of {s : State} {a n : Nat} (h : s.lines = []) : CleanArea s a n := by
  intro b _ _
  simp [State.line, h, SMap.get, SMap.find?, LineMeta.sound]
/-- A START of a descriptor at linear offset 0x1000. -/
def startOf (bits : Nat) (ctx : Bool) : State := command 0x0C 0x1000 0x2000 1 ((recordAt bits).modJob 1 fun j => { j with ctx := if ctx then some jobCtx else none })
/-- The timer of die 0 is set, and three threads of its supervisor core are free, ready and asleep. -/
def timed (w : Nat) : State := { (((up.modDie 0 fun d => { d with timer := some w }).setSlot 12288 1 { st := .ready, occ := some { job := 0 } }).setSlot
  12288 2 { st := .parked (.sleep none), occ := some { job := 0 }, npc := 0x40 }) with ev := { core := 0 } }

theorem witness_Commands : (savedEngines.engImages = (0x8000, List.replicate 4096 0, (up.core 5).engImage) :: [] ∧
      (List.replicate 4096 (0 : Word)).length = 4096 ∧ savedEngines.mem = []) ∧
    (∀ x ∈ [0, 0x0D, 0xFF], ((command x 0 0 0).die 0).cmd = some (x, #v[0, 0, 0]) ∧ (command x 0 0 0).ev.core = 0) ∧
    (∀ x ∈ [(0, 1), (0x1000000000000000, 2)], up.physLine (x.1 + 64 * (x.2 - 1)) ≠ none ∧ x.1 % 64 = 0) ∧
    (up.physLine 0x40000000 ≠ none ∧ up.physLine 0x1800000 = none ∧ up.physLine 0x4000000000000000 = none) ∧
    ((127 : Word).toNat % 256 < 128 ∧ 128 ≤ (128 : Word).toNat % 256 ∧ 128 ≤ (0xFE : Word).toNat % 256) ∧
    ((BitVec.ofNat 64 (baseOf 5 + 15)).extractLsb' 4 14 = 0 ∧ (BitVec.ofNat 64 (baseOf 5 + 16)).extractLsb' 4 14 ≠ 0 ∧ up.isDead 5 = false ∧
      0x2000 % 8192 = 0 ∧ 0x2000 + 8192 ≤ up.linSize ∧ up.linSize - 8192 + 8192 ≤ up.linSize) ∧
    (∀ x ∈ [(9, false), (10, true), (20, true), (21, false)],
      decide (10 ≤ dField ((recordAt (ctxBits x.1)).readN (linCell 0x1000) 64) 384 5 ∧ dField ((recordAt (ctxBits x.1)).readN (linCell 0x1000) 64) 384 5 ≤ 20)
        = x.2) ∧
    LegalRecord (recordAt (ctxBits 20)) ((recordAt (ctxBits 20)).readN (linCell 0x1000) 64) 254 ∧
    LegalRecord (recordAt ctxMapped) ((recordAt ctxMapped).readN (linCell 0x1000) 64) 1 ∧
    (0x8000 % 32768 = 0 ∧ 0x8000 + 32768 ≤ up.linSize ∧ (up.core 5).enginesIdle = true ∧
      ((up.modCore 5 fun x => { x with lxQueue := [⟨0, 1, 0, .fam 0 0 0⟩] }).core 5).enginesIdle = false) ∧
    ((stoppedSlot.slot 5 0).st = .stopped ∧ (stoppedSlot.slot 5 0).occ = some { job := 1, launch := 1, uid := 7 } ∧ (∀ ch : Fin 8, (stoppedSlot.slot 5 0).c[ch].getLsbD 67 = false) ∧
      stoppedSlot.accesses = [] ∧ stoppedSlot.cancels = [] ∧ (stoppedSlot.core 5).enginesIdle = true ∧ (up.slot 5 0).st ≠ .stopped ∧
      (∀ tr : Fin 4, ((stoppedSlot.core 5).trees[tr]).wait = []) ∧ launch1.opening = none ∧
      (stoppedSlot.job 1).launches = [(1, some { launch1 with cancelled := false })]) ∧
    (∀ s ∈ [up, recordAt (ctxBits 20), recordAt ctxMapped, startOf (descBits 8 1 + 1 * 2 ^ 464) true, savedEngines], s.lines = []) ∧
    (∀ j < 16, ∀ y, (stoppedSlot.slot 5 j).st ≠ .parked (.ctxsv 0 y)) ∧
    ((up.die 5).fenced = false ∧ ((up.modDie 5 fun d => { d with fenced := true }).die 5).fenced = true ∧ (up.die 24).fenced = false) ∧
    (up.nvq = [] ∧ up.cores = [] ∧ ∀ k < 16, ((stoppedSlot.slot 5 k).st = .free ∨ (stoppedSlot.slot 5 k).st = .stopped)) ∧
    (let s := startOf (descBits 8 1 + 1 * 2 ^ 464) true
     let desc := s.readN (linCell 0x1000) 64
     0x1000 + 64 ≤ s.linSize ∧ 0x2000 + 128 ≤ s.linSize ∧ (s.job 1).ctx ≠ none ∧ dMode desc = 1 ∧ dCount desc = 8 ∧ dReserved desc = false ∧
       desc % 4 = 0 ∧ s.launchBad 1 12288 desc = none ∧ SMap.wf none (s.job 1).launches = true) ∧
    (startOf (descBits 8 1) false |>.job 1).ctx = none ∧ dMode ((startOf (descBits 8 0) true).readN (linCell 0x1000) 64) = 0 ∧
    ((timed 1001).die 0).timer = some 1001 ∧ (timed 1001).clk < 1001 ∧ (timed 1000).clk = 1000 ∧ (timed 1000).powerState = 0 ∧
    ((timed 1000).slot 12288 0).st = .free ∧ ((timed 1000).slot 12288 1).tag = 0 ∧ ((timed 1000).slot 12288 1).st = .ready ∧
    ((timed 1000).slot 12288 2).tag = 0 ∧ ((timed 1000).slot 12288 2).st = .parked (.sleep none) := by
  refine ⟨⟨rfl, List.length_replicate, rfl⟩, by decide +kernel, by decide +kernel, by decide +kernel, by decide +kernel, by decide +kernel,
    by decide +kernel, ?_, ?_, ?_⟩
  · constructor <;> decide +kernel
  · constructor <;> decide +kernel
  · refine ⟨by decide +kernel, by decide +kernel, by decide +kernel, noCtxsv_of (by decide +kernel), ?_⟩
    and_intros <;> decide +kernel

/-! ## Witnesses: hosts and registers, the device -/

/-- Port A has tag 1 and owns the device; a host asks. -/
def hosted (e : EvArg) (s : State := up) : State := { s with ev := e, portA := { tag := 1 }, owner := some .A, nextHost := 3 }
/-- Tables at 0x10000, 0x20000 and 0x30000 map the first 2 MiB of spaces 0x1 and 0x3 of job 1 to offset 0x200000. -/
def mapped (s : State := up) : State :=
  ((((s.modJob 1 fun j => { j with ctx := some { jobCtx with root1 := 0x10000, root3 := 0x10000 } }).writeN (linCell 0x10000) 8 0x20005).writeN
    (linCell 0x20000) 8 0x30005).writeN (linCell 0x30000) 16 (0x200007 + 2 ^ 127)).modLine (linCell 0x200000) fun m => { m with tag := 1 }
/-- What a host access translates to. -/
def hostFound (s : State) : Except Nat Nat :=
  ((s.job 1).ctx.map fun c => (State.translate { s with nextHost := s.nextHost + 1, idleFrom := s.clk + 1 } 6 1 c (s.ev.addr.toNat / 2 ^ 60) (s.ev.addr.toNat % 2 ^ 60) s.ev.flag).2).getD
    (.error 0)
/-- A host access that waits for a wake; a thread that waits for one; a store that has arrived at a register. -/
def held : State := { up with ev := { id := 3, flag := true, value := 0x152 }, hostHeld := [(⟨3, .B, false, 0x1000000000000008, 8, 0⟩, .page)] }
def faulted (value : Word) : State := { up.setSlot 5 0 { thread with st := .parked (.pageFault 0x1000000000000008) } with ev := { core := 5, value := value } }
def regUnit (cell : Nat) : AUnit := ⟨0, BitVec.ofNat 64 cell, cell, 8⟩
def regStore (cell : Nat) : Access :=
  { core := 5, slot := 0, job := 1, op := .store [(0, 100)], done := .none, posted := false, counted := false, addr := BitVec.ofNat 64 cell
    parts := [(40000, [regUnit cell])], waiting := [40000], results := [], refusals := [] }
def regArrived (cell : Nat) : State := { mail (.access 1 40000) with accesses := [(1, some (regStore cell))], nextAcc := 2 }

theorem witness_HostsAndRegisters :
    (∀ p ∈ [1, 2, 3], ({ hosted { addr := 8, size := 8 } with powerState := p } : State).powerState ≠ 0) ∧
    (∀ x ∈ [(0x4000000000000000, 4), (0xE000000000000000, 14), (0x140000, 0), (0x1000000000000000, 1), (0x3000000000000000, 3), (0x7000000000000000, 7)],
      (hosted { addr := BitVec.ofNat 64 x.1, size := 8 }).ev.addr.toNat / 2 ^ 60 = x.2 ∧ (hosted { addr := BitVec.ofNat 64 x.1, size := 8 }).powerState = 0) ∧
    (0x140038 % 64 + 8 ≤ 64 ∧ 0x140000 / 2 ^ 32 = 0 ∧ 0x140000 / 2 ^ 18 % 128 = 5 ∧ up.isDead (cellTile 0x140000) = false ∧
      0x1800000 / 2 ^ 18 % 128 = 96 ∧ 0x100140000 / 2 ^ 32 = 1 ∧ ({ up with dead := [5] } : State).isDead (cellTile 0x140000) = true) ∧
    (tagAllows ((tagged cell5).line cell5).tag.toNat 1 false .write = true ∧ tagAllows (up.line cell5).tag.toNat 1 false .write = false ∧
      winGrants ((tagged cell5).core 5).win[0] (cell5 % 2 ^ 18 / 64) .write = true ∧ ((tagged cell5).line cell5).sound = true ∧
      ((tagged cell5).line cell5).poisoned = false ∧ ((tagged cell5).line cell5).wiped = none ∧
      ((tagged cell5).modLine cell5 fun m => { m with double := 1 }).badBytes cell5 8 .read = true) ∧
    (∀ flag ∈ [false, true], ∀ a ∈ [0x1000000000000008, 0x3000000000000008],
      okIs (hostFound (hosted { addr := BitVec.ofNat 64 a, size := 8, flag := flag } mapped)) 0x200008 = true) ∧
    (¬(jobCtx.pbase < 8 + 8 ∧ 8 < jobCtx.pbase + 196608 * jobCtx.plimit) ∧ ({ jobCtx with plimit := 65536 } : JobCtx).pbase < 8 + 8 ∧
      8 < ({ jobCtx with plimit := 65536 } : JobCtx).pbase + 196608 * 65536) ∧
    (physCell 3 0x200008 % 2 ^ 60 / 2 ^ 39 = 0 ∧ physCell 3 0x200008 / 2 ^ 60 = 3 ∧ (mapped.line (physCell 3 0x200008)).tag = 0) ∧
    (errorIs (hostFound (hosted { addr := 0x1000000000200000, size := 8 } mapped)) 0x51 = true ∧ (up.job 1).ctx = none ∧
      ((mapped).line (linCell 0x200008)).tag = 1 ∧ 2 ^ 48 - 8 + 8 ≤ 2 ^ 48 ∧ 2 ^ 48 < 2 ^ 48 - 7 + 8) ∧
    (∀ x ∈ [0x90, 0x40, 0x2040, 0xA0, 0x80], sharedRegister up 0 x = true ∧ x % 8 = 0 ∧ x < 2 ^ 26) ∧ sharedRegister up 1 0x90 = false ∧
    (held.ev.flag = true ∧ held.hostHeld = [(⟨3, .B, false, 0x1000000000000008, 8, 0⟩, .page)] ∧ held.ev.value.toNat % 256 ≠ 0) ∧
    (∀ v ∈ [0, 0x53], let s := faulted (BitVec.ofNat 64 v)
      s.ev.flag = false ∧ s.ev.more = false ∧ (s.slot 5 0).st = .parked (.pageFault 0x1000000000000008) ∧ (s.slot 5 0).takesTraps) ∧
    (∀ cell ∈ [regCell 0 0x03400008, regCell 0 0x03400018, regCell 0 0x02000000, regCell 0 0x90], let s := regArrived cell
      Carries s (.access 1 40000) ∧ SMap.get none s.accesses 1 = some (regStore cell) ∧ (regStore cell).parts = [(40000, [regUnit cell])] ∧
        (regStore cell).core ≠ 40000 ∧ (regStore cell).op = .store [((regUnit cell).idx, 100)]) ∧
    ((hosted { }).owner = some .A ∧ up.owner = none ∧ up.lastLoser = none ∧ up.attesting = none ∧ ({ up with attesting := some .B } : State).attesting = some .B) ∧
    (∀ w ∈ [0, 1], let s : State := { hosted { } with portA := { downAt := some w }, clk := 2100000 }
      s.owner = some .A ∧ s.portA.downAt = some w ∧ (decide (w + 2100000 ≤ s.clk) = (w == 0))) := by
  and_intros <;> decide +kernel

/-- The device has been idle for a while and may enter the state that a tolerance allows. -/
def quietDevice (tol : Nat) (deep : Bool) : State := { up with latTol := tol, deepOk := deep, clk := 21000 }
/-- A granule of the tier waits in the queue of stack 7. -/
def queuedGranule : State := { (up.writeN 0x3000000000000100 8 0x55) with
  nvq := [(7, [(0x3000000000000100, 0x1122, { })])], ev := { value := 128 } }
def booting (f : Facts) : State := { State.reset with facts := f, fuseDead := [7], fieldLog := [⟨9, 0xFF, 2, 1⟩, ⟨10, 3, 2, 1⟩, ⟨10, 4, 2, 1⟩, ⟨11, 3, 2, 1⟩] }
/-- The scrubber comes to a line of tile 5. -/
def scrubbing (m : LineMeta) : State := { up.modLine 0x140040 (fun _ => m) with ev := { addr := 0x140040 } }

theorem witness_DeviceEvents :
    (∀ x ∈ [((0, false), 0), ((1999, true), 0), ((2000, false), 1), ((150000, false), 2), ((40000000, false), 2), ((40000000, true), 3)],
      let s := quietDevice x.1.1 x.1.2
      lowestAllowed s.latTol s.deepOk = x.2 ∧ s.powerState = 0 ∧ s.idle = true ∧ s.idleFrom + 2100 * s.idleHold ≤ s.clk ∧ s.nvq = [] ∧ s.closed = false) ∧
    (({ up with powerState := 3 } : State).powerState = 3 ∧ up.powerState ≠ 3 ∧ SMap.wf { } up.cores = true ∧ up.ev.value = 0 ∧ queuedGranule.nvq ≠ []) ∧
    (queuedGranule.ev.value = BitVec.ofNat 64 (2 ^ 7) ∧ SMap.get [] queuedGranule.nvq 7 = [(0x3000000000000100, 0x1122, { })] ∧
      0x3000000000000100 / 2 ^ 60 = 3 ∧ 0x3000000000000100 % 16 = 0 ∧ queuedGranule.ev.size = 0) ∧
    (let s : State := { queuedGranule with ev := { value := 128, size := 1 } }
     (SMap.get [] s.nvq 7).length ≤ s.ev.size ∧ s.ev.value = BitVec.ofNat 64 (2 ^ 7)) ∧
    (up.drained = none ∧ ({ up with drained := some (0x7F, true) } : State).drained = some (0x7F, true)) ∧
    (∀ f ∈ [({ } : Facts), { eccBad := [3] }, { stacksDown := [20000] }, { signatureOk := false }, { pathless := [9], linksDown := 2 }], min (booting f).bootShare 48 = (booting f).hshare) ∧
    ((booting { }).laterFacts.head?.getD (booting { }).facts = { } ∧
      ({ booting { } with laterFacts := [{ linksDown := 1 }] } : State).laterFacts.head? = some { linksDown := 1 } ∧
      ({ } : Facts).eccBad = [] ∧ ({ } : Facts).supervisorsBad = [] ∧ ({ } : Facts).stacksDown = [] ∧ ({ } : Facts).signatureOk = true ∧
      ({ } : Facts).pathless = [] ∧ ({ } : Facts).faulty = []) ∧
    (let s : State := { booting { } with agenda := [], phase := 2 }
     s.agenda = [] ∧ s.supply = true ∧ s.bootState = .booting ∧ s.powerState = 0 ∧ s.inputs = [] ∧ s.phase = 2) ∧
    (∀ m ∈ [({ } : LineMeta), { single := 0x101 }, { double := 1 }, { double := 0x80, tag := 1 }, { double := 1, poisoned := true }],
      let s := scrubbing m
      s.ev.addr = BitVec.ofNat 64 (baseOf 5 + 0x140040 % 2 ^ 18) ∧ 0x140040 % 2 ^ 18 < 2 ^ 18 ∧ s.line s.ev.addr.toNat = m ∧
        (s.die 0).corrections + 2 ≤ 2 ^ 16) := by
  and_intros <;> decide +kernel

/-! ## Witnesses: access checks, the step, encodings, invariants -/

/-- A thread of tile 5 with a segment in s1 and an offset in g1. -/
def checking (base limit rights : Nat) (off : Word) (s : State := tagged cell5) : State := running 5 { withG thread [(1, off)] with
  s := (Vector.replicate 8 0).set 1 (mkSeg base limit rights) } s
/-- Which of the checks of AccessChecks an 8-byte access through s1 and g1 meets first, as the cause and detail. -/
def firstCheck (s : State) (store : Bool) : Option (Nat × Nat) :=
  let seg := s.me.s[(1 : S)]
  let off := (s.me.rg 1).toInt
  let base := (seg.extractLsb' 0 64).toNat
  let limit := (seg.extractLsb' 64 48).toNat
  let n := (BitVec.ofInt 64 (base + off)).toNat
  if off < 0 ∨ limit < off + 8 then some (4, 0x11)
  else if seg.getLsbD (if store then 113 else 112) = false ∨ (store = true ∧ n / 2 ^ 60 = 3 ∧ seg.getLsbD 117 = false) then some (4, 0x12)
  else if n / 2 ^ 60 ≠ base / 2 ^ 60 then some (4, 0x13)
  else if n % 8 ≠ 0 then some (5, 0x21)
  else if 4 ≤ n / 2 ^ 60 ∧ n / 2 ^ 60 ≠ 7 ∧ n / 2 ^ 60 ≠ 14 ∧ n / 2 ^ 60 ≠ 15 then some (6, 1)
  else if n / 2 ^ 32 ≠ 0 then some (6, 2)
  else if 96 ≤ n / 2 ^ 18 % 128 then some (6, 3)
  else if s.isDead (cellTile n) = true then some (6, 4)
  else if (s.line n).tag.toNat ≠ s.me.tag ∧ (store = true ∨ (s.line n).tag ≠ 0xFF) then some (7, 0x31)
  else none

/-- An offset below 0, the last one, one beyond; rights; the end of a space; alignment; the spaces that no SRAM or memory has; a die, a column
and a tile that do not exist; an owner tag of nobody and of everybody. -/
theorem witness_AccessChecks : (Runs (checking cell5 0x100 0x3F 0) ∧ (checking cell5 0x100 0x3F 0).me.takesTraps ∧ memRelease (at_ 0) = none ∧
      (checking cell5 0x100 0x3F 0).cur.core < 12288) ∧
    ([(checking cell5 0x100 0x3F 0xFFFFFFFFFFFFFFF8, false), (checking cell5 0x40 0x3F 0x38, false), (checking cell5 0x40 0x3F 0x39, true),
      (checking cell5 0x100 0x3E 0, false), (checking cell5 0x100 0x3D 0, true), (checking 0x3000000000000000 0x100 0x1F 0, true),
      (checking 0x0FFFFFFFFFFFFFF8 0x100 0x3F 8, false), (checking cell5 0x100 0x3F 4, true), (checking 0x4000000000000000 0x100 0x3F 0, false),
      (checking 0x100000000 0x100 0x3F 0, false), (checking 0x1800000 0x100 0x3F 0, true), (checking cell5 0x100 0x3F 0 { tagged cell5 with dead := [5] }, false),
      (checking cell5 0x100 0x3F 0 up, false), (checking cell5 0x100 0x3F 0 (up.modLine cell5 fun m => { m with tag := 0xFF }), true),
      (checking cell5 0x100 0x3F 0 (up.modLine cell5 fun m => { m with tag := 0xFF }), false)].map fun x => firstCheck x.1 x.2)
    = [some (4, 0x11), none, some (4, 0x11), some (4, 0x12), some (4, 0x12), some (4, 0x12), some (4, 0x13), some (5, 0x21), some (6, 1),
       some (6, 2), some (6, 3), some (6, 4), some (7, 0x31), some (7, 0x31), none] := by decide +kernel

/-! ## Witnesses: clauses of those statements that ask for other states -/

/-- Elements 0 and 1 lie at cells 0x100 and 0x10 of the slice (indexed), which share bank 1 in different rows. -/
def vectorsApart : State := running 5 { vectorsIn.me with v := vectorsIn.me.v.set 4 (BitVec.ofNat 2048 (4 * 2 ^ 32 + 64)) }
  (tagged (cell5 + 0x100) vectorsIn)
def apartCell (j : Nat) : Nat := if j = 0 then cell5 + 0x100 else cell5 + 0x10

theorem witness_VectorMemory_again : (activeOf vectorsApart 32 3 = [0, 1] ∧ again [0, 1] apartCell 1 = true ∧ again [0, 1] apartCell 0 = false) ∧
    ∀ j ∈ activeOf vectorsApart 32 3, ∀ op ∈ [AccOp.load, .store []],
      Reaches vectorsApart vectorsApart.me.s[(1 : S)] (vectorsApart.me.rg 1 + BitVec.ofInt 64 (at_ 0).disp.val +
        BitVec.ofNat 64 (lane (vectorsApart.me.rv 4) 32 j * 4)).toInt 4 op false (apartCell j) ∧ InOwnSlice vectorsApart op.kind (apartCell j) := by
  have h : activeOf vectorsApart 32 3 = [0, 1] := by decide +kernel
  have hr : ∀ j ∈ [0, 1], ∀ op ∈ [AccOp.load, .store []], reaches vectorsApart vectorsApart.me.s[(1 : S)] (vectorsApart.me.rg 1 +
      BitVec.ofInt 64 (at_ 0).disp.val + BitVec.ofNat 64 (lane (vectorsApart.me.rv 4) 32 j * 4)).toInt 4 op false (apartCell j) = true ∧
      ownSlice vectorsApart op.kind (apartCell j) = true := by decide +kernel
  refine ⟨by decide +kernel, ?_⟩
  rw [h]
  exact fun j hj op hop => ⟨reaches_of (hr j hj op hop).1, ownSlice_of (hr j hj op hop).2⟩

/-- Slot 4 of tile 5 waits for two elements of bank 1, which lie in different rows, and for one of bank 2. -/
def leftOver (op : AccOp) (done : Done) (st : SlotState) : State :=
  { (tagged cell5 (tagged (cell5 + 0x100) (up.writeN (cell5 + 0x100) 4 0x11223344))).setSlot 5 4 { thread with
      st, banks := { clk := 996, cont := [1, 1, 2], left := [⟨0, 0x140100, cell5 + 0x100, 4⟩, ⟨3, 0x140010, cell5 + 0x10, 4⟩, ⟨5, 0x140020, cell5 + 0x20, 4⟩], op, done } } with
    ev := { core := 5 } }

theorem witness_TcontUnits : ∀ x ∈ [(AccOp.load, Done.lanes 3 32, SlotState.parked .tcont), (.store [(0, 7), (3, 8), (5, 9)], .none, .ready)],
    let s := leftOver x.1 x.2.1 x.2.2
    s.ev.core = 5 ∧ (∀ j < 16, j ≠ 4 → (s.slot 5 j).banks.left = []) ∧
      (∀ u ∈ (s.slot 5 4).banks.left, u.n = 4 ∧ u.cell % u.n = 0 ∧ (s.line u.cell).sound = true ∧ (s.line u.cell).wiped = none ∧ 8 * u.n = 32 ∧
        u.idx < 2048 / 32 ∧ u.cell / 2 ^ 60 ≠ 3) ∧
      (s.slot 5 4).banks.left.Nodup ∧ ((s.slot 5 4).banks.left.map (·.idx)).Nodup ∧ (s.slot 5 4).banks.op = x.1 ∧ (s.slot 5 4).banks.done = x.2.1 := by
  decide +kernel

/-- The block that a thread fetches lies in a tile that has been retired meanwhile. -/
def fetchGone : State := let s := fetching 0x180110 0x180000 rExec true [(0x180100, 0x1234)]
  { s with dead := [6] }
theorem witness_Fetching_retired : fetchGone.ev.more = true ∧ fetchGone.ev.core = 5 ∧ fetchGone.ev.slot = 2 ∧ (fetchGone.slot 5 2).alive ∧
    (fetchGone.slot 5 2).want = some (blockOf fetchGone.ev.addr) ∧ fetchGone.ev.addr = blockOf fetchGone.ev.addr + 16 ∧
    errorIs (fetchGone.fetchPlace 5 2 (blockOf fetchGone.ev.addr)) (0x06, 0x04) = true ∧ (fetchGone.slot 5 2).takesTraps := by decide +kernel

/-- Three elements of one access, of which two lie at one place, have arrived at tile 6. -/
def farUnits : List AUnit := [⟨0, 0x180008, 0x180008, 8⟩, ⟨1, 0x180040, 0x180040, 8⟩, ⟨2, 0x180008, 0x180008, 8⟩]
def manyArrived (op : AccOp) : State := { tagged 0x180040 (arrived op) with accesses := [(1, some { farAccess op with parts := [(6, farUnits)] })] }
def storeMany : AccOp := .store [(0, 1), (1, 2), (2, 3)]

theorem witness_AccessAtHome_units : (∀ op ∈ [AccOp.load, storeMany], let s := manyArrived op
      Carries s (.access 1 6) ∧ SMap.get none s.accesses 1 = some { farAccess op with parts := [(6, farUnits)] } ∧ farUnits.Nodup ∧ 2 ≤ farUnits.length ∧
        ∀ u ∈ farUnits, u.cell / 2 ^ 60 ≠ 7 ∧ u.cell / 2 ^ 60 ≠ 3 ∧ (s.line u.cell).sound = true ∧ (s.line u.cell).wiped = none ∧
          s.targetCheck 5 1 op.kind u.cell u.n = none) ∧
    (arrived (.atomic .cas 3 4)).readN farUnit.cell 8 ≠ 4 % 2 ^ (8 * 8) ∧ (farAccess (.atomic .cas 3 4)).op = .atomic .cas 3 4 := by decide +kernel

/-- An arrival part of a request of clause 7 comes back refused; the clause still runs in slot 0 of tile 5, or has gone. -/
def engineArrival : Access := { farAccess (.ccarr 64 1 0) .none true with parts := [], counted := false, engine := some 7, refusals := fails7 }
def arrivalRefused (uid : Nat) : State := returning engineArrival { thread with occ := some { job := 1, launch := 1, uid := uid } }
theorem witness_AnswersReturn_engine : (∀ uid ∈ [7, 8], let s := arrivalRefused uid
      Carries s (.reply 1 6) ∧ SMap.get none s.accesses 1 = some engineArrival ∧ engineArrival.waiting = [6] ∧ engineArrival.posted = true ∧
        engineArrival.counted = false ∧ engineArrival.engine = some 7 ∧ engineArrival.refusals = fails7 ∧ (s.slot 5 0).st = .ready ∧ (s.slot 5 0).reports = []) ∧
    ((arrivalRefused 7).slot 5 0).occ.map (·.uid) = some 7 ∧ ((arrivalRefused 8).slot 5 0).occ.map (·.uid) ≠ some 7 := by decide +kernel

/-- An update by slot 0 of tile 5 of a concord of its own slice: posted by an engine, or an expectation that its thread waits for. -/
def ccOwn (op : AccOp) (posted : Bool) (w0 : Nat) : State :=
  let a : Access := { core := 5, slot := 0, job := 1, op, done := if posted then .none else .gz 9, posted, counted := false, addr := 0x140010
                      parts := [(5, [⟨0, 0x140010, 0x140010, 16⟩])], waiting := [5], results := [], refusals := [] }
  { mail (.access 1 5) (tagged cell5 ((((running 5 thread).modSlot 5 0 fun t => { t with st := .parked (.remote 1 [.flags t.flags] (.go 0x140108)) }).writeN 0x140010 8 w0).writeN
    0x140018 8 0x5)) with accesses := [(1, some a)], nextAcc := 2 }
theorem witness_ConcordUpdates_own : ∀ x ∈ [(AccOp.ccinit true, true, ccWord 1 0x3F 5 255), (.ccarr 5 6 32, true, ccWord 1 1 5 255), (.ccexp 4, false, ccWord 1 0 (-4) 7),
      (.ccexp (2 ^ 39), false, ccWord 0 0 (-1) 7)], let s := ccOwn x.1 x.2.1 x.2.2
    Carries s (.access 1 5) ∧ (SMap.get none s.accesses 1).any (fun a => a.core == 5 && a.slot == 0 && a.waiting == [5] && a.results == [] && a.refusals == [] &&
      a.posted == x.2.1 && !a.counted && a.done == (if x.2.1 then .none else .gz 9)) = true ∧ (s.line 0x140010).sound = true ∧
      (s.line 0x140010).wiped = none ∧ s.targetCheck 5 1 x.1.kind 0x140010 16 = none ∧ (s.slot 5 0).takesTraps ∧
      (s.slot 5 0).st = .parked (.remote 1 [.flags (s.slot 5 0).flags] (.go 0x140108)) := by decide +kernel

/-- Operands of the special functions: 0.5, which is no integer; 3, which is no power of two; both below 2^30. An overflow, and an underflow
that rounding does not lift. -/
theorem witness_SpecialFunctions : fp16.dec 0x3800 = .fin false 1024 (-11) ∧ fp16.dec 0x4200 = .fin false 1536 (-9) ∧
    (∀ n : Int, (if false then -1 else 1 : ℝ) * ((1024 : Nat) : ℝ) * 2 ^ (-11 : Int) ≠ n) ∧
    (∀ n : Int, (if false then -1 else 1 : ℝ) * ((1536 : Nat) : ℝ) * 2 ^ (-9 : Int) ≠ 2 ^ n) ∧
    |(if false then -1 else 1 : ℝ) * ((1536 : Nat) : ℝ) * 2 ^ (-9 : Int)| < 2 ^ 30 ∧
    ((fp16.bias : Int) < 6 + Nat.log2 2047 ∧ ((-20 : Int) + Nat.log2 7 < 1 - fp16.bias) ∧ (roundPack fp16 .rne false 7 (-20) false).2 &&& Fl.nx = 0 ∧
      (roundPack fp16 .rne false 7 (-26) false).2 &&& Fl.uf ≠ 0) := by
  refine ⟨by decide +kernel, by decide +kernel, fun n h => ?_, fun n h => ?_, by norm_num [abs_lt], by decide +kernel⟩
  · norm_num at h
    have : (1 : ℝ) = ((2 * n : Int) : ℝ) := by push_cast; linarith
    have h2 : (1 : Int) = 2 * n := by exact_mod_cast this
    omega
  · norm_num at h
    rcases le_or_gt 2 n with hn | hn
    · have := zpow_le_zpow_right₀ (by norm_num : (1 : ℝ) ≤ 2) hn
      norm_num at this
      linarith
    · have := zpow_le_zpow_right₀ (by norm_num : (1 : ℝ) ≤ 2) (by omega : n ≤ 1)
      norm_num at this
      linarith

/-- Operands of Table 5: both zeros, both infinities, −1, an integer within the range of the exponents and one beyond each end of it, a power of
two; 2^30 and a number just below it. -/
theorem witness_SpecialValues : fp32.dec 0xFF800000 = .inf true ∧ fp32.dec 0xBF800000 = .fin true 0x800000 (-23) ∧
    (valEq (fp32.dec 0xC3150000) (.fin true 149 0) = true ∧ 1 - (fp32.bias : Int) - fp32.fbits ≤ -149) ∧
    (valEq (fp32.dec 0x43000000) (.fin false 128 0) = true ∧ (fp32.bias : Int) < 128) ∧
    (valEq (fp32.dec 0xC3160000) (.fin true 150 0) = true ∧ (-150 : Int) < 1 - (fp32.bias : Int) - fp32.fbits) ∧
    valEq (fp32.dec 1) (.fin false 1 (-149)) = true ∧
    (fp32.dec 0x4E800000 = .fin false 0x800000 7 ∧ valLt (.fin false 0x800000 7) (.fin false 1 30) = false) ∧
    valLt (fp32.dec 0x4E7FFFFF) (.fin false 1 30) = true := by decide +kernel

/-- MTILE of tile 5 has read a record, or a record and a row count. -/
def tileWith (stash : List Nat) : State :=
  running 5 { (matrix 0 0).me with stash } (tagged (cell5 + 64) (tagged (cell5 + 192) (up.writeN (cell5 + 192) 4 79)))
/-- Records that break a check of R259, with its detail: a reserved bit, the version, the types, the lines of a panel beyond the width of
the array, more rows of the accumulator than there are, no column; a resume beyond the last panel; a row count beyond the record's. -/
def badRecords : List (List Nat × Nat) := [([recordBits + 2 ^ 480], 0x06), ([recordBits + 2 ^ 60], 0x02), ([recordBits + 1 * 2 ^ 57], 0x03),
  ([recordBits + 3 * 2 ^ 44], 0x03), ([recordBits + 100 * 2 ^ 37], 0x04), ([recordBits + 31 * 2 ^ 48 + 2 ^ 32], 0x04), ([recordBits - 2 ^ 16], 0x04),
  ([recordBits + 2 ^ 447 + 2 ^ 304], 0x05), ([recordBits + 2 ^ 447 + 2 * 2 ^ 368], 0x05), ([recordBits + 1], 0x01), ([recordBits + 2 ^ 54, 81], 0x01)]
/-- A record whose row count lies at offset 192 of s1. -/
def countedRecord : Nat := recordBits + 2 ^ 54 + 2 ^ 100 + 192 * 2 ^ 192
def field (r lo n : Nat) : Nat := r / 2 ^ lo % 2 ^ n

theorem witness_MatrixQueue_shape : (∀ x ∈ badRecords, let s := tileWith x.1
      Runs s ∧ s.me.takesTraps ∧ s.me.stash = x.1 ∧ Config.kindOf s.cur.core = .sparse) ∧
    (let s := tileWith []
     let r (n : Nat) : Nat := (badRecords.getD n ([], 0)).1.getD 0 0
     field (r 0) 480 20 ≠ 0 ∧ field (r 1) 60 4 = 2 ∧ (field (r 2) 56 4 ≠ 1 ∧ field (r 2) 56 4 = 1 ∨ field (r 2) 56 4 ≠ 3) ∧ 2 < field (r 3) 44 4 ∧
       s.widthL6 5 < field (r 4) 37 7 ∧ 32 < field (r 5) 48 5 + (field (r 5) 32 5 + 1) ∧ field (r 6) 16 16 = 0 ∧
       (field (r 7) 447 1 = 1 ∧ field (r 7) 16 16 = 1 ∧ field (r 7) 304 16 = 1) ∧ field (r 8) 368 16 = 2 ∧ field (r 9) 112 16 < field (r 9) 0 16 ∧
       field (r 10) 112 16 < 81) ∧
    (let s := tileWith [countedRecord]
     let r := countedRecord
     Runs s ∧ s.me.stash = [r] ∧ field r 480 20 = 0 ∧ field r 432 15 = 0 ∧ field r 96 4 = 0 ∧ field r 53 1 = 0 ∧ field r 60 4 = 1 ∧ field r 56 4 = 3 ∧
       field r 55 1 = 0 ∧ field r 44 4 ≤ 2 ∧ field r 37 7 ≤ s.widthL6 5 ∧ field r 48 5 + (field r 32 5 + 1) ≤ 32 ∧ field r 16 16 = 1 ∧ field r 54 1 = 1) ∧
    Reaches (tileWith [countedRecord]) ((tileWith [countedRecord]).me.s.toList.getD (field countedRecord 100 3) 0) (field countedRecord 192 32) 4 .load
      false (cell5 + 192) ∧ InOwnSlice (tileWith [countedRecord]) .read (cell5 + 192) :=
  ⟨by decide +kernel, by decide +kernel, by decide +kernel, reaches_of (by decide +kernel), ownSlice_of (by decide +kernel)⟩

/-- MTILE at its boundary (0, 0), asked to stop inside an open packet. -/
def stopInPacket (rq : StopReq) : State :=
  (mxAt tiling (.tile 0 0) 0 (some rq)).modSlot 5 0 fun t => { t with c := (Vector.replicate 8 0).set 1 (channelReg 1 3) }
theorem witness_MatrixPasses_packet : (∀ rq ∈ [StopReq.scheduler, .ctxsv 1, .escalation], let s := stopInPacket rq
      s.ev.core = 5 ∧ (s.core 5).mxRun = some { job := ⟨9, 0, 1, tiling⟩, stage := .tile 0 0 } ∧ (s.slot 5 0).stopReq = some rq ∧
        (s.slot 5 0).c[1].getLsbD 67 = true ∧ (s.slot 5 0).st = .parked (.matrix 9) ∧ recCols (recordOf tiling) (s.widthL6 5) 0 = 1 ∧
        typedFault (s.line (cell5 + 64)).typed (some 0x01) (s.readN (cell5 + 64) 64) = none) ∧
    ∀ rq ∈ [StopReq.scheduler, .ctxsv 1, .escalation], EngineReaches (stopInPacket rq) 5 0 1 .read 0x140040 (cell5 + 64) := by
  have h : ∀ rq ∈ [StopReq.scheduler, .ctxsv 1, .escalation], engineReaches (stopInPacket rq) 5 0 1 .read 0x140040 (cell5 + 64) = true := by decide +kernel
  exact ⟨by decide +kernel, fun rq hr => engineReaches_of (h rq hr)⟩

/-- Whole lines, which hold what they should, as a Bool. -/
theorem wholeArea_of {s : State} {a n : Nat} (h : ((List.range n).all fun i => let m := s.line (a + i)
    m.sound && !m.poisoned && decide (m.wiped = none)) = true) : WholeArea s a n := by
  intro b h1 h2
  have := List.all_eq_true.mp h (b - a) (List.mem_range.mpr (by omega))
  rw [show a + (b - a) = b by omega] at this
  simp only [Bool.and_eq_true, Bool.not_eq_true', decide_eq_true_eq] at this
  exact ⟨this.1.1, this.1.2, this.2⟩

/-- Two packets in the hardware entries of slot 3, channel 2 of tile 6, and packets in the overflow entries given, at base 3 × 8192. -/
def queueOf (extra : List Nat) : List Pkt :=
  [{ id := 31, slot := 3, ch := 2, job := 1, words := [1, 2], count := 2, read := 0, ended := false, overAt := none },
   { id := 32, slot := 3, ch := 2, job := 1, words := [3], count := 1, read := 0, ended := true, overAt := none }] ++
  extra.map fun i => { id := 40 + i, slot := 3, ch := 2, job := 1, words := [], count := 2, read := 0, ended := false, overAt := some i }
def fullQueue (extra : List Nat) (enabled : Bool) (job : Nat := 1) : State :=
  let s := wordArrives .ready true []
  { (s.modCore 6 fun x => { x with pkts := queueOf extra, ovf := BitVec.ofNat 64 (3 * 2 ^ 13 + if enabled then 2 ^ 63 else 0) }).modSlot 6 3
      fun t => { t with occ := some { job } } with ev := s.ev, cur := s.cur, msgs := s.msgs }
/-- A second word of packet n arrives there. -/
def nextWord (n : Nat) (extra : List Nat) (refused : List Nat) (ended : Bool) : State :=
  { fullQueue extra true with msgs := [⟨1, 990, .word 5 0 1 6 3 2 1 7 n 0x78 false ended⟩], refusedPkts := refused }
/-- Tile 5, whose queue of slot 0, channel 2 has an ended packet in a hardware entry and one of two words in overflow entry 1. -/
def movingIn : State :=
  let p : Pkt := { id := 23, slot := 0, ch := 2, job := 1, words := [], count := 2, read := 0, ended := true, overAt := some 1 }
  let s := channelsAt 0 0 0 [pktB, p]
  { ((s.modCore 5 fun x => { x with ovf := 0x8000000000006000 }).writeN (cell5 + 0x6080) 8 0x44).writeN (cell5 + 0x6088) 8 0x55 with cur := s.cur }

theorem witness_Channels_overflow :
    (∀ x ∈ [([], true), ([0, 1], true), ([0], false), (List.range 64, true)], let s := fullQueue x.1 x.2
      let y := s.core 6
      Carries s (.word 5 0 1 6 3 2 1 7 9 0x77 true true) ∧ s.isDead 6 = false ∧ (∀ q ∈ y.pkts, q.id ≠ 9) ∧ (s.slot 6 3).tag = 1 ∧
        (s.slot 6 3).st = .ready ∧ y.ovf.getLsbD 63 = x.2 ∧
        ((y.pkts.filter fun p => p.slot == 3 && p.ch == 2).filter fun q => q.overAt.isNone && !q.err).length = 2) ∧
    ((∀ n < 2, ∃ q ∈ ((fullQueue [0, 1] true).core 6).pkts, q.overAt = some n) ∧ (∀ q ∈ ((fullQueue [0, 1] true).core 6).pkts, q.overAt ≠ some 2) ∧
      ∀ n < 64, ∃ q ∈ ((fullQueue (List.range 64) true).core 6).pkts, q.overAt = some n) ∧
    WholeArea (fullQueue [0, 1] true) ((fullQueue [0, 1] true).entryCell 6 2) 128 ∧
    ((fullQueue [] true 2).slot 6 3).st ≠ .free ∧ ((fullQueue [] true 2).slot 6 3).tag ≠ 1 ∧
    (∀ ended ∈ [false, true], Carries (nextWord 99 [0] [99] ended) (.word 5 0 1 6 3 2 1 7 99 0x78 false ended) ∧
      (∀ q ∈ ((nextWord 99 [0] [99] ended).core 6).pkts, q.id ≠ 99) ∧ 99 ∈ (nextWord 99 [0] [99] ended).refusedPkts) ∧
    (∀ n ∈ [31, 40], (((nextWord n [0] [] true).core 6).pkts.find? fun q => q.id == n).any (fun q => q.overAt == (if n = 31 then none else some 0) &&
      q.count == 2 && q.slot == 3 && q.ch == 2) = true) ∧
    WholeArea (nextWord 40 [0] [] true) ((nextWord 40 [0] [] true).entryCell 6 0) 128 ∧
    (Runs movingIn ∧ (movingIn.me.c[2].extractLsb' 62 2).toNat = 2 ∧ (movingIn.core 5).ovf.getLsbD 63 = true ∧
      ((movingIn.core 5).pkts.filter fun p => p.slot == 0 && p.ch == 2).map (fun p => (p.id, p.overAt)) = [(22, none), (23, some 1)]) ∧
    WholeArea movingIn (movingIn.entryCell 5 1) 64 :=
  ⟨by decide +kernel, by decide +kernel, wholeArea_of (by decide +kernel), by decide +kernel, by decide +kernel, by decide +kernel, by decide +kernel,
    wholeArea_of (by decide +kernel), by decide +kernel, wholeArea_of (by decide +kernel)⟩

/-- A thread of the root has touched dies 0 and 63; the operation in whose place it is has failed. -/
def treeTouched : State := (treed 3 0).modMe fun t => { t with touched := 0x8000000000000001 }
def treeFailed : State := (treed 1 0).modCore 5 fun c => { c with trees := c.trees.set 2 { c.trees[2] with fails := [(4, 0x0F, 0x96)] } }
/-- Slot 0 of tile 5, a member without children, waits for NBMAX since clk 0, with a timeout of n × 16 clk; a failure may arrive. -/
def treeMember (cfg n : Nat) (b : MsgBody) : State :=
  let s := treeWaits (BitVec.ofNat 64 cfg) true b
  { s.modSlot 5 0 (fun t => { t with stallTimeout := BitVec.ofNat 32 n }) with ev := { id := 1, core := 5 } }
def failMsg : MsgBody := .treeFail 5 2 4 0x0F 0x96
/-- A barrier's part from tile 6 reaches the root, whose thread waits in NBMAX. -/
def otherPart : MsgBody := .treePart 6 5 2 4 ⟨2, .i64, 0, []⟩

theorem witness_TreeOperations_failures :
    (Runs treeTouched ∧ treeTouched.me.touched ≠ 0 ∧ ((treeTouched.core 5).trees[2]).cfg.getLsbD 0 = true ∧
      (∀ o ∈ ((treeTouched.core 5).trees[2]).wait, o.slot ≠ 0) ∧ treeTouched.me.s[1].getLsbD 116 = true ∧ (treeTouched.me.rg 1).toInt = 0) ∧
    (treeTouched.me.rg 3 = 1 ∧ segAddr treeTouched.me.s[1] 0 4 4 (fun _ => rRead) false = .ok 0x140000 ∧
      segAddr treeTouched.me.s[1] (treeTouched.me.rg 2).toInt 4 4 destRights false = .ok 0x140040 ∧
      EngineReaches treeTouched 5 0 1 .read 0x140000 cell5 ∧ EngineReaches treeTouched 5 0 1 .write 0x140040 (cell5 + 64)) ∧
    (let y := (treeFailed.core 5).trees[2]
     Runs treeFailed ∧ treeFailed.me.touched = 0 ∧ y.cfg.getLsbD 0 = true ∧ y.wait = [] ∧
       (y.fails.find? fun f => f.1 == y.no) = some (y.no, 0x0F, 0x96) ∧ treeFailed.me.takesTraps) ∧
    (let s := treeWaits 0x13 false otherPart
     let z := (s.core 5).trees[2]
     Carries s otherPart ∧ (s.slot 5 0).st = .parked (.tree 2) ∧ z.no = 4 ∧ (∀ f ∈ z.fails, f.1 ≠ z.no) ∧ z.cfg.getLsbD 1 = true ∧
       z.wait = [⟨0, some ⟨1, .i64, 0, [5]⟩, .g 7, false, false⟩] ∧ (z.cfg.extractLsb' 4 4).toNat = 1 ∧
       cellTile ((SMap.get 0 z.kids 0).extractLsb' 0 32).toNat = 6 ∧ s.isDead 6 = false ∧ z.got = [] ∧ (s.slot 5 0).takesTraps) ∧
    (∀ x ∈ [(1, 0), (3, 62)], let s := treeMember x.1 x.2 failMsg
     let z := (s.core 5).trees[2]
     Carries s failMsg ∧ s.ev.core = 5 ∧ s.ev.slot = 0 ∧ (s.slot 5 0).st = .parked (.tree 2) ∧ (z.cfg.extractLsb' 4 4).toNat = 0 ∧
       z.wait = [⟨0, some ⟨1, .i64, 0, [5]⟩, .g 7, true, false⟩] ∧ (s.slot 5 0).stallTimeout.toNat = x.2 ∧ (s.slot 5 0).takesTraps ∧
       16 * x.2 ≤ s.clk - (s.slot 5 0).parkClk) :=
  ⟨by decide +kernel, ⟨by decide +kernel, okIs_of (by decide +kernel), okIs_of (by decide +kernel), engineReaches_of (by decide +kernel),
    engineReaches_of (by decide +kernel)⟩, by decide +kernel, by decide +kernel, by decide +kernel⟩

/-- The thread has touched dies 0 and 63, and names record 5 in g1; its control word in g3 asks for no join. -/
def clauseTouched : State := let s := clause [(1, handleWord 1 3 5), (3, 0x200000)]
  { s.modMe fun t => { t with touched := 0x8000000000000001 } with cur := s.cur }
/-- SPAWN in each placement mode: at home; at tile 7 of die 0; at the ring successor of key 9 of the dense tiles. -/
def controls : List Nat := [0x200000, 0x200000 + 7 * 2 ^ 24 + 1 * 2 ^ 40, 0x200000 + 0 * 2 ^ 38 + 2 * 2 ^ 40 + 9 * 2 ^ 44]
def spawnWith (control : Nat) : State := clause [(1, 0x140100), (2, 0x55), (3, BitVec.ofNat 64 control)]
/-- A JOIN that enqueues record 5, in each placement mode. -/
def joiningAt (control : Nat) (spawn : Bool) : State :=
  let r : CRec := { rec5 (if spawn then 0 else 1) with control := BitVec.ofNat 64 control }
  { mail (.join 5 0 8 1 5 3 (some (1, 0, 0)) spawn) (up.modJob 1 fun _ => { job1 1 false with recs := [(5, some r)] }) with nextReq := 9 }

theorem takesWork_of {s : State} {j sn : Nat} (h : sn < 12288 ∧ s.isDead sn = false ∧ s.inAllocation j sn = true) : s.takesWork j sn := h

/-- The ring successor of key 9 among the dense tiles. -/
theorem ring_of_key9 : ∀ x < 12288, kindOfTile x = 0 →
    (6913 * 0x9E3779B9 % 2 ^ 32 + 2 ^ 32 - keyPlace 9) % 2 ^ 32 ≤ (x * 0x9E3779B9 % 2 ^ 32 + 2 ^ 32 - keyPlace 9) % 2 ^ 32 := by
  have h : ((List.range 128).all fun a => (List.range 96).all fun b => kindOfTile (96 * a + b) != 0 ||
      decide ((6913 * 0x9E3779B9 % 2 ^ 32 + 2 ^ 32 - keyPlace 9) % 2 ^ 32 ≤ ((96 * a + b) * 0x9E3779B9 % 2 ^ 32 + 2 ^ 32 - keyPlace 9) % 2 ^ 32)) = true := by
    decide +kernel
  intro x hx hk
  have := List.all_eq_true.mp (List.all_eq_true.mp h (x / 96) (List.mem_range.mpr (by omega))) (x % 96) (List.mem_range.mpr (by omega))
  rw [show 96 * (x / 96) + x % 96 = x by omega] at this
  simpa [hk] using this

theorem witness_Clauses_placing : (clauseTouched.me.touched ≠ 0 ∧ Runs clauseTouched ∧ clauseTouched.me.reports = [] ∧
      clauseTouched.me.rg 1 = handleWord 1 3 5 ∧ 5 < clauseTouched.tableSize clauseTouched.me.tag ∧ NamesJob clauseTouched False 1) ∧
    ((clauseTouched.me.rg 3).extractLsb' 42 2 = 0 ∧ (clauseTouched.me.rg 3).getLsbD 23 = false ∧ (clauseTouched.me.rg 2).extractLsb' 0 2 = 0) ∧
    (∀ w ∈ controls, let s := spawnWith w
      Runs s ∧ s.me.touched = 0 ∧ (s.me.rg 3).extractLsb' 0 16 = 0 ∧ (s.me.rg 3).extractLsb' 42 2 = 0 ∧ (s.me.rg 3).getLsbD 23 = false ∧
        (s.me.rg 1).extractLsb' 0 2 = 0 ∧ s.launch 1 1 = some launch1 ∧ s.launchCancelled 1 launch1 = false ∧ SMap.wf none (s.job 1).recs = true ∧
        s.freeRecords 1 ≠ 0) ∧
    (∀ sp ∈ [false, true], ∀ w ∈ controls, let s := joiningAt w sp
      let r : CRec := { rec5 (if sp then 0 else 1) with control := BitVec.ofNat 64 w }
      Carries s (.join 5 0 8 1 5 3 (some (1, 0, 0)) sp) ∧ SMap.get none (s.job 1).recs 5 = some r ∧ r.serial = 3 ∧ r.queued = false ∧ r.occ.range = 0 ∧
        r.join = (if sp then 0 else 1) ∧ s.cancels = []) ∧
    (∀ s ∈ [spawnWith (controls.getD 0 0), joiningAt (controls.getD 0 0) true], s.placedAt 1 5 (BitVec.ofNat 64 (controls.getD 0 0)) 5) ∧
    (∀ s ∈ [spawnWith (controls.getD 1 0), joiningAt (controls.getD 1 0) true], s.placedAt 1 5 (BitVec.ofNat 64 (controls.getD 1 0)) 7) ∧
    ∀ s ∈ [spawnWith (controls.getD 2 0), joiningAt (controls.getD 2 0) true], s.placedAt 1 5 (BitVec.ofNat 64 (controls.getD 2 0)) 6913 := by
  have hk : ((BitVec.ofNat 64 (controls.getD 2 0)).extractLsb' 44 20).toNat = 9 := by decide +kernel
  have hr : ((BitVec.ofNat 64 (controls.getD 2 0)).extractLsb' 38 2).toNat = 0 := by decide +kernel
  refine ⟨⟨by decide +kernel, by decide +kernel, by decide +kernel, by decide +kernel, by decide +kernel, .inl ⟨by decide +kernel, by decide +kernel⟩⟩,
    by decide +kernel, by decide +kernel, by decide +kernel, ?_, ?_, ?_⟩ <;> intro s hs <;> simp only [List.mem_cons, List.not_mem_nil, or_false] at hs
  · rcases hs with rfl | rfl <;> exact .inl (by decide +kernel)
  · rcases hs with rfl | rfl <;> exact .inr (.inl ⟨by decide +kernel, by decide +kernel, takesWork_of (by decide +kernel), by decide +kernel⟩)
  · rcases hs with rfl | rfl <;> refine .inr (.inr ⟨by decide +kernel, ?_⟩) <;> rw [hk, hr] <;>
      exact ⟨⟨takesWork_of (by decide +kernel), by decide +kernel⟩, fun x hx => ring_of_key9 x hx.1.1 hx.2⟩

/-- Mode 1: three indices at tiles 90, 92 and 94 of die 1; mode 2: one index with key 9, of dense tiles. -/
def descTiles (n : Nat) : Nat := descBits n 1 + 90 * 2 ^ 448 + 1 * 2 ^ 456 + 2 * 2 ^ 464
def descKey (n : Nat) : Nat := descBits n 2 + 9 * 2 ^ 480
/-- Launch 2 of job 1, so described, waits to become eligible. -/
def waitingFor (desc : Nat) : State :=
  { up.modJob 1 (fun j => { j with ctx := some jobCtx, launches := [(2, some { launch1 with desc := desc })] }) with ev := { size := 1, id := 2 } }
/-- LAUNCH has read a descriptor; job 1 has n records in use, and as many launches. -/
def launchingWith (desc recs launches : Nat) : State :=
  (launching [desc]).modJob 1 fun j => { j with
    recs := (List.range recs).map fun i => (i, some (rec5 2)), launches := (List.range launches).map fun i => (i, some launch1) }
/-- Descriptors that a check of LAUNCH turns away, with its detail: reserved bits, no index, no step; a tile beyond its column; no entry free. -/
def badLaunches : List (State × Nat) := [(launchingWith (descTiles 3 + 2 ^ 407) 0 0, 0xA1), (launchingWith (descTiles 0) 0 0, 0xA1),
  (launchingWith (descBits 3 1 + 90 * 2 ^ 448) 0 0, 0xA1), (launchingWith (descBits 3 3 - 3 * 2 ^ 192) 0 0, 0xA1), (launchingWith (descTiles 4) 0 0, 0xA2)]

theorem witness_Launches_modes :
    (∀ x ∈ badLaunches, Runs x.1 ∧ x.1.me.takesTraps ∧ x.1.me.stash ≠ []) ∧
    (dReserved (descTiles 3 + 2 ^ 407) = true ∧ dCount (descTiles 0) = 0 ∧ (dMode (descBits 3 1) = 1 ∧ dField (descBits 3 1) 464 8 = 0) ∧
      (dMode (descBits 3 3 - 3 * 2 ^ 192) = 3 ∧ dDies (descBits 3 3 - 3 * 2 ^ 192) = []) ∧
      (dReserved (descTiles 4) = false ∧ dMode (descTiles 4) = 1 ∧ descTiles 4 % 4 = 0 ∧ ¬dField (descTiles 4) 448 7 + 3 * dField (descTiles 4) 464 8 < 96)) ∧
    (let s := launchingWith (descKey 1025) 0 0
     s.me.stash = [descKey 1025] ∧ dReserved (descKey 1025) = false ∧ dMode (descKey 1025) = 2 ∧ descKey 1025 % 4 = 0 ∧ s.freeRecords 1 < dCount (descKey 1025)) ∧
    (let s := launchingWith (descKey 1024) 0 0
     Runs s ∧ dCount (descKey 1024) ≤ s.freeRecords 1 ∧ (s.launchTable 1).length < 4096 ∧ SMap.wf none (s.job 1).launches = true) ∧
    (∀ w ∈ [descTiles 3, descKey 1], let s := waitingFor w
      s.ev.size = 1 ∧ s.ev.id = 2 ∧ s.launch 1 2 = some { launch1 with desc := w } ∧ dPreds w = [] ∧ dField w 413 1 = 1 ∧ s.cancels = [] ∧
        SMap.wf none (s.job 1).recs = true ∧ (s.job 1).recs.length < s.tableSize 1) ∧
    (dMode (descTiles 3) = 1 ∧ dField (descTiles 3) 464 8 ≠ 0 ∧ dCount (descTiles 3) = 3 ∧ dMode (descKey 1) = 2 ∧ dCount (descKey 1) = 1) ∧
    (∀ s ∈ [waitingFor (descTiles 3), launchingWith (descTiles 3) 0 0], ∀ i < dCount (descTiles 3), dField (descTiles 3) 448 7 + i * dField (descTiles 3) 464 8 < 96 ∧
      s.takesWork 1 (192 * dField (descTiles 3) 456 6 + 96 * dField (descTiles 3) 455 1 + (dField (descTiles 3) 448 7 + i * dField (descTiles 3) 464 8))) ∧
    ∀ s ∈ [waitingFor (descKey 1), launchingWith (descKey 1024) 0 0], ∃ sn, s.takesWork 1 sn ∧ kindOfTile sn = dField (descKey 1) 394 2 := by
  refine ⟨by decide +kernel, by decide +kernel, by decide +kernel, by decide +kernel, by decide +kernel, by decide +kernel, ?_, ?_⟩
  · intro s hs i hi
    rw [(by decide +kernel : dCount (descTiles 3) = 3)] at hi
    have h : ∀ s ∈ [waitingFor (descTiles 3), launchingWith (descTiles 3) 0 0], ∀ i < 3,
        let sn := 192 * dField (descTiles 3) 456 6 + 96 * dField (descTiles 3) 455 1 + (dField (descTiles 3) 448 7 + i * dField (descTiles 3) 464 8)
        dField (descTiles 3) 448 7 + i * dField (descTiles 3) 464 8 < 96 ∧ sn < 12288 ∧ s.isDead sn = false ∧ s.inAllocation 1 sn = true := by decide +kernel
    exact ⟨(h s hs i hi).1, takesWork_of (h s hs i hi).2⟩
  · intro s hs
    have h : ∀ s ∈ [waitingFor (descKey 1), launchingWith (descKey 1024) 0 0], s.isDead 0 = false ∧ s.inAllocation 1 0 = true := by decide +kernel
    exact ⟨0, takesWork_of ⟨by decide, (h s hs).1, (h s hs).2⟩, by decide +kernel⟩

theorem launches_of (desc recs n : Nat) : ((launchingWith desc recs n).launchTable 1).length = n := by
  have h : ((launchingWith desc recs n).job 1).launches = (List.range n).map fun i => (i, some launch1) := rfl
  simp [State.launchTable, h]

/-- A launch table of 4,096 entries, of which none is free. -/
theorem witness_Launches_full : (Runs (launchingWith (descBits 1 0) 0 4096) ∧ (launchingWith (descBits 1 0) 0 4096).me.stash = [descBits 1 0] ∧
      dReserved (descBits 1 0) = false ∧ descBits 1 0 % 4 = 0 ∧ dMode (descBits 1 0) = 0 ∧ dCount (descBits 1 0) ≠ 0) ∧
    4096 ≤ ((launchingWith (descBits 1 0) 0 4096).launchTable 1).length :=
  ⟨by decide +kernel, by rw [launches_of]⟩

/-- DQSTEAL from tile 6: with room for n more phrases; without any; and after its FENCE part, with what it reserved, where tile 6 is dead by
then. -/
def robbing (n : Nat) : State := { thief (128 - n) 0 with nextReq := 40 }
def robbingAgain : State :=
  { (thief 5 0).modMe fun t => { t with stash := [40, 64] } with dead := [6], cur := (thief 5 0).cur }
theorem witness_DqstealReserves : (∀ n ∈ [0, 1, 128], let s := robbing n
      Runs s ∧ s.me.touched = 0 ∧ s.me.stash = [] ∧ s.isDead 6 = false ∧ s.me.rg 1 = BitVec.ofNat 64 (baseOf 6) ∧
        128 - (s.core 5).deque.length - ((s.core 5).steals.map (·.2)).sum = n ∧ ∀ y ∈ (s.core 5).steals, y.1 ≠ s.nextReq) ∧
    (Runs robbingAgain ∧ robbingAgain.me.touched = 0 ∧ robbingAgain.me.stash = [40, 64] ∧ robbingAgain.isDead 6 = true ∧
      robbingAgain.me.rg 1 = BitVec.ofNat 64 (baseOf 6)) := by decide +kernel

/-- ECSET of launch 1, of which record 6 holds an index that has not started. -/
def classOfLaunch : State :=
  (zone base0 [(1, handleWord 2 4 1)]).modJob 1 fun _ => { job1 2 false with recs :=
    [(5, some (rec5 2)), (6, some { rec5 0 with occ := { (rec5 0).occ with index := some 3 } })] }
theorem witness_ClassOfLaunch : classOfLaunch.me.rg 1 = handleWord 2 4 1 ∧ classOfLaunch.launchAt 1 1 4 = some launch1 ∧
    (SMap.get none (classOfLaunch.job 1).recs 6).any (fun r => r.occ.launch == 1 && r.occ.index == some 3) = true ∧
    (SMap.get none (classOfLaunch.job 1).recs 5).any (fun r => r.occ.launch == 1 && r.occ.index == none) = true ∧ Runs classOfLaunch := by decide +kernel

/-- A host asks before the boot is done; the port that does not own the device writes a command block; a supervisor core's store. -/
def beforeBoot (a : Nat) : State := { hosted { addr := BitVec.ofNat 64 a, size := 8, flag := true, value := 0x151 } with bootState := .booting }
def otherPort (reg : Nat) : State := hosted { addr := BitVec.ofNat 64 (7 * 2 ^ 60 + reg), size := 8, flag := true, value := 7, port := .B }
def supStore (cell : Nat) : State :=
  { mail (.access 1 40000) with accesses := [(1, some { regStore cell with core := 12289 })], nextAcc := 2 }
theorem witness_BootAndOwner : (∀ a ∈ [7 * 2 ^ 60 + 0x80, 7 * 2 ^ 60 + 0x90, 0x140000], (beforeBoot a).powerState = 0 ∧ (beforeBoot a).bootState = .booting ∧
      (beforeBoot a).ev.addr.toNat = a) ∧
    (∀ reg ∈ [0x03400000, 0x03400008, 0x03400020], let s := otherPort reg
      s.powerState = 0 ∧ s.bootState ≠ .booting ∧ s.ev.addr.toNat % 2 ^ 26 = reg ∧ s.owner ≠ some s.ev.port) ∧
    (hosted { }).bootState ≠ .booting ∧
    (∀ cell ∈ [regCell 0 0x03400008, regCell 0 0x03400018, regCell 0 0x02000000], let s := supStore cell
      Carries s (.access 1 40000) ∧ (SMap.get none s.accesses 1).any (fun a => a.core == 12289 && a.parts == [(40000, [regUnit cell])] &&
        a.op == .store [((regUnit cell).idx, 100)]) = true) ∧
    ∀ v ∈ [0, 0x53], (faulted (BitVec.ofNat 64 v)).reservesNothing 5 0 := by
  refine ⟨by decide +kernel, by decide +kernel, by decide +kernel, by decide +kernel, fun v hv => ?_⟩
  simp only [List.mem_cons, List.not_mem_nil, or_false] at hv
  rcases hv with rfl | rfl <;> exact reservesNothing_of (by decide +kernel) (by decide +kernel) (by decide +kernel)

/-- A link has been down since clk 400; the device is reset, or comes back from Deep, at clk 1000. -/
def downFor (p : Nat) : State := { up with portA := { downAt := some 400 }, powerState := p }
theorem witness_LinkAges : (downFor 0).ev.value = 0 ∧ (downFor 3).powerState = 3 ∧ (downFor 0).portA.downAt.map (fun w => w - ((downFor 0).clk : Int)) = some (-600) := by
  decide +kernel

/-! ## Terms that well-formedness refuses, one for each check -/

/-- Widths, rounding codes, orderings and scopes, displacements, types, parts, numbers and selectors beyond their ranges (R36 to R39, R49, step 9). -/
theorem test_wf_codes : ([.add .w16 1 2 3, .ld .w64 1 2 3 ⟨.plain, .die, .d19 0⟩, .ld .w64 1 2 3 ⟨.rel, .grp, .d19 0⟩, .st .w64 1 2 3 ⟨.acq, .grp, .d19 0⟩,
    .aadd .w8 1 2 3 4 (at_ 0), .aadd .w64 1 2 3 4 ⟨.plain, .grp, .d51 0⟩, .fencex .sys .g .g, .sysrd 1 10, .syswr 10 1, .idrd 1 5, .vfadd .i32 0 1 2 3 4,
    .vfadd .f32 5 1 2 3 4, .vfmin .l6 1 2 3 4, .vadd .f32 1 2 3 4, .vcvt .f32 .f32 false false 0 0 1 2 3, .vcvt .f16 .f32 false false 2 0 1 2 3,
    .vcvt .f16 .f32 true false 0 0 1 2 3, .vcvt .f32 .f16 false true 0 0 1 2 3, .vcvt .i8 .i16 false false 0 1 1 2 3, .vcvt .l6 .f32 false false 0 0 1 2 3,
    .vqlns 4 1 2 3 4, .vdqlns 0 5 1 2 3 4, .vmov .l6 1 2 3, .vradd .i32 1 1 2 3, .vraddo .i32 0 1 2 3 4, .vnzx .f32 1 1 2 3 4 5, .vld .l6 1 1 2 3 (at_ 0),
    .vst .f32 1 1 2 3 ⟨.acq, .grp, .d19 0⟩, .vldg .f32 1 1 2 3 4 ⟨.plain, .grp, .d51 0⟩, .vldt 1 2 3 4 ⟨.rel, .grp, .d19 0⟩, .cpq 0, .cpqn 1 6,
    .ccwait 1 2 3 ⟨.acq, .grp, .d19 0⟩, .ccarr 1 2 3 4 ⟨.acq, .grp, .d19 0⟩, .lde 1 2 3 ⟨.rel, .grp, .d19 0⟩, .mldw .f32 false false 1 2 3 4 5,
    .mstrm .b16 false 1 2 3 4 5, .mdrain .f32 81 false 1 2 3 4 5, .mdrain .f32 0 false 1 2 3 4 5, .mdrain .i8 80 false 1 2 3 4 5, .lxprb 1 12, .lxrhStep 1 0,
    .lxrhStep 1 65, .lxst 1 7 0, .lxst 1 3 4, .lxst 1 0 1, .nred .f16 0 0 1 2 3 4, .nred .i64 3 0 1 2 3 4, .dqpop 5 5, .tkreq 1 2 true true, .tkq 1 3,
    .ploss 1 2] : List Instr).all (fun i => !i.wf) = true := by decide +kernel

/-- A compare that skips nothing (R44, step 10). -/
theorem test_wf_skip : ([.cmp .eq 0 1 2, .cmpi .eq 0 1 (.i24 0)] : List Instr).all (fun i => !i.wf) = true := by decide +kernel

/-- Pairs: a half of the wrong side or range, an L96 half, a common destination (g0 too), two accesses to memory (R40, R42, steps 7 and 11). -/
theorem test_wf_pair : ([.pair (.vqlen .f32 1) (.vqlen .f32 2), .pair .nop .nop, .pair .rte (.vqlen .f32 2), .pair (.li 1 (.i56 0)) (.vqlen .f32 2),
    .pair (.mov .w64 0 1) (.vqlen .f32 0), .pair (.ld .w64 1 2 3 (at_ 0)) (.vld .f32 1 1 2 3 (at_ 0)), .pair (.add .w8 1 2 3) (.vqlen .f32 2),
    .pair (.cmp .eq 0 1 2) (.vqlen .f32 2)] : List Instr).all (fun i => !i.wf) = true := by decide +kernel

/-! ## Words written out from the encodings of the spec -/

/-- The fields of R31, Table 2, in their places: opcode at bit 3, unit at 2, d at 11, a at 16, b at 21, c at 26, segment or predicate at 31,
skip at 34, minor at 36, imm24 at 40. -/
def wd (op : Nat) (unit d a b c seg skip minor imm : Nat := 0) : Nat :=
  4 * unit + 8 * op + 2 ^ 11 * d + 2 ^ 16 * a + 2 ^ 21 * b + 2 ^ 26 * c + 2 ^ 31 * seg + 2 ^ 34 * skip + 2 ^ 36 * minor + 2 ^ 40 * imm

/-- R46, R153: the integer operations on registers. -/
theorem test_decode_integer : ([
    (wd 0x01 (d := 3) (a := 5) (b := 6) (minor := 0), Instr.add .w64 3 5 6),
    (wd 0x02 (d := 3) (a := 5) (b := 6) (minor := 1), Instr.sub .w32 3 5 6),
    (wd 0x03 (d := 3) (a := 5) (b := 6) (minor := 0), Instr.mul .w64 3 5 6),
    (wd 0x04 (d := 3) (a := 5) (b := 6) (minor := 1), Instr.mulh .w32 3 5 6),
    (wd 0x04 (d := 3) (a := 5) (b := 6) (minor := 4), Instr.mulhu .w64 3 5 6),
    (wd 0x05 (d := 3) (a := 5) (b := 6) (minor := 1), Instr.div .w32 3 5 6),
    (wd 0x05 (d := 3) (a := 5) (b := 6) (minor := 4), Instr.divu .w64 3 5 6),
    (wd 0x06 (d := 3) (a := 5) (b := 6) (minor := 1), Instr.rem .w32 3 5 6),
    (wd 0x06 (d := 3) (a := 5) (b := 6) (minor := 4), Instr.remu .w64 3 5 6),
    (wd 0x07 (d := 3) (a := 5) (b := 6) (minor := 1), Instr.and .w32 3 5 6),
    (wd 0x08 (d := 3) (a := 5) (b := 6) (minor := 0), Instr.or .w64 3 5 6),
    (wd 0x09 (d := 3) (a := 5) (b := 6) (minor := 1), Instr.xor .w32 3 5 6),
    (wd 0x0A (d := 3) (a := 5) (b := 6) (minor := 0), Instr.andn .w64 3 5 6),
    (wd 0x0B (d := 3) (a := 5) (b := 6) (minor := 1), Instr.orn .w32 3 5 6),
    (wd 0x0C (d := 3) (a := 5) (b := 6) (minor := 0), Instr.shl .w64 3 5 6),
    (wd 0x0D (d := 3) (a := 5) (b := 6) (minor := 1), Instr.shr .w32 3 5 6),
    (wd 0x0E (d := 3) (a := 5) (b := 6) (minor := 0), Instr.sar .w64 3 5 6),
    (wd 0x0F (d := 3) (a := 5) (b := 6) (minor := 1), Instr.rol .w32 3 5 6),
    (wd 0x10 (d := 3) (a := 5) (b := 6) (minor := 0), Instr.ror .w64 3 5 6),
    (wd 0x14 (d := 3) (a := 5) (b := 6) (minor := 1), Instr.min .w32 3 5 6),
    (wd 0x14 (d := 3) (a := 5) (b := 6) (minor := 4), Instr.minu .w64 3 5 6),
    (wd 0x15 (d := 3) (a := 5) (b := 6) (minor := 1), Instr.max .w32 3 5 6),
    (wd 0x15 (d := 3) (a := 5) (b := 6) (minor := 4), Instr.maxu .w64 3 5 6)] : List (Nat × Instr)).all (fun x => decodeTableWord 64 x.1 == some x.2) = true := by
  decide +kernel

/-- R46, R153: their immediate forms. -/
theorem test_decode_immediate : ([
    (wd 0x01 (d := 3) (a := 5) (minor := 9) (imm := 0xFFFFF0), Instr.addImm .w32 3 5 (.i24 0xFFFFF0)),
    (wd 0x02 (d := 3) (a := 5) (minor := 8) (imm := 0xFFFFF1), Instr.subImm .w64 3 5 (.i24 0xFFFFF1)),
    (wd 0x03 (d := 3) (a := 5) (minor := 9) (imm := 0xFFFFF2), Instr.mulImm .w32 3 5 (.i24 0xFFFFF2)),
    (wd 0x04 (d := 3) (a := 5) (minor := 8) (imm := 0xFFFFF3), Instr.mulhImm .w64 3 5 (.i24 0xFFFFF3)),
    (wd 0x04 (d := 3) (a := 5) (minor := 13) (imm := 0xFFFFF4), Instr.mulhuImm .w32 3 5 (.i24 0xFFFFF4)),
    (wd 0x05 (d := 3) (a := 5) (minor := 8) (imm := 0xFFFFF5), Instr.divImm .w64 3 5 (.i24 0xFFFFF5)),
    (wd 0x05 (d := 3) (a := 5) (minor := 13) (imm := 0xFFFFF6), Instr.divuImm .w32 3 5 (.i24 0xFFFFF6)),
    (wd 0x06 (d := 3) (a := 5) (minor := 8) (imm := 0xFFFFF7), Instr.remImm .w64 3 5 (.i24 0xFFFFF7)),
    (wd 0x06 (d := 3) (a := 5) (minor := 13) (imm := 0xFFFFF8), Instr.remuImm .w32 3 5 (.i24 0xFFFFF8)),
    (wd 0x07 (d := 3) (a := 5) (minor := 8) (imm := 0xFFFFF9), Instr.andImm .w64 3 5 (.i24 0xFFFFF9)),
    (wd 0x08 (d := 3) (a := 5) (minor := 9) (imm := 0xFFFFFA), Instr.orImm .w32 3 5 (.i24 0xFFFFFA)),
    (wd 0x09 (d := 3) (a := 5) (minor := 8) (imm := 0xFFFFFB), Instr.xorImm .w64 3 5 (.i24 0xFFFFFB)),
    (wd 0x0A (d := 3) (a := 5) (minor := 9) (imm := 0xFFFFFC), Instr.andnImm .w32 3 5 (.i24 0xFFFFFC)),
    (wd 0x0B (d := 3) (a := 5) (minor := 8) (imm := 0xFFFFFD), Instr.ornImm .w64 3 5 (.i24 0xFFFFFD)),
    (wd 0x0C (d := 3) (a := 5) (minor := 9) (imm := 0xFFFFFE), Instr.shlImm .w32 3 5 (.i24 0xFFFFFE)),
    (wd 0x0D (d := 3) (a := 5) (minor := 8) (imm := 0xFFFFFF), Instr.shrImm .w64 3 5 (.i24 0xFFFFFF)),
    (wd 0x0E (d := 3) (a := 5) (minor := 9) (imm := 0xFFFFF0), Instr.sarImm .w32 3 5 (.i24 0xFFFFF0)),
    (wd 0x0F (d := 3) (a := 5) (minor := 8) (imm := 0xFFFFF1), Instr.rolImm .w64 3 5 (.i24 0xFFFFF1)),
    (wd 0x10 (d := 3) (a := 5) (minor := 9) (imm := 0xFFFFF2), Instr.rorImm .w32 3 5 (.i24 0xFFFFF2)),
    (wd 0x14 (d := 3) (a := 5) (minor := 8) (imm := 0xFFFFF3), Instr.minImm .w64 3 5 (.i24 0xFFFFF3)),
    (wd 0x14 (d := 3) (a := 5) (minor := 13) (imm := 0xFFFFF4), Instr.minuImm .w32 3 5 (.i24 0xFFFFF4)),
    (wd 0x15 (d := 3) (a := 5) (minor := 8) (imm := 0xFFFFF5), Instr.maxImm .w64 3 5 (.i24 0xFFFFF5)),
    (wd 0x15 (d := 3) (a := 5) (minor := 13) (imm := 0xFFFFF6), Instr.maxuImm .w32 3 5 (.i24 0xFFFFF6))] : List (Nat × Instr)).all (fun x => decodeTableWord 64 x.1 == some x.2) = true := by
  decide +kernel

/-- R46, R154, R156 to R160: bit counts, bit fields, selects, moves, compares and branches. -/
theorem test_decode_scalar : ([
    (wd 0x11 (d := 3) (a := 5), Instr.clz .w64 3 5),
    (wd 0x12 (d := 3) (a := 5) (minor := 1), Instr.ctz .w32 3 5),
    (wd 0x13 (d := 3) (a := 5), Instr.popc .w64 3 5),
    (wd 0x16 (d := 3) (a := 5) (b := 6) (c := 7), Instr.bfx .w64 3 5 6 7),
    (wd 0x17 (d := 3) (a := 5) (b := 6) (c := 7) (minor := 1), Instr.bfi .w32 3 5 6 7),
    (wd 0x18 (d := 3) (a := 5) (b := 6) (c := 7), Instr.sel .w64 3 5 6 7),
    (wd 0x18 (d := 3) (a := 5) (c := 7) (minor := 9) (imm := 0x123456), Instr.selImm .w32 3 5 7 (.i24 0x123456)),
    (wd 0x19 (d := 3) (imm := 0x800000), Instr.li 3 (.i24 0x800000)),
    (wd 0x1A (d := 3) (a := 5) (minor := 1), Instr.mov .w32 3 5),
    (wd 0x40 (a := 5) (b := 6) (skip := 1) (minor := 0), Instr.cmp .eq 1 5 6),
    (wd 0x40 (a := 5) (b := 6) (skip := 2) (minor := 1), Instr.cmp .ne 2 5 6),
    (wd 0x40 (a := 5) (b := 6) (skip := 3) (minor := 2), Instr.cmp .lt 3 5 6),
    (wd 0x40 (a := 5) (b := 6) (skip := 1) (minor := 3), Instr.cmp .ge 1 5 6),
    (wd 0x41 (a := 5) (skip := 1) (minor := 4) (imm := 0x64), Instr.cmpi .ltu 1 5 (.i24 100)),
    (wd 0x41 (a := 5) (skip := 2) (minor := 5) (imm := 0x64), Instr.cmpi .geu 2 5 (.i24 100)),
    (wd 0x41 (a := 5) (skip := 3) (minor := 6) (imm := 0x64), Instr.cmpi .tz 3 5 (.i24 100)),
    (wd 0x41 (a := 5) (skip := 3) (minor := 7) (imm := 0x64), Instr.cmpi .tnz 3 5 (.i24 100)),
    (wd 0x50 (imm := 0xFFFFF0), Instr.b (.i24 0xFFFFF0)),
    (wd 0x51 (d := 3) (imm := 4), Instr.bl 3 (.i24 4)),
    (wd 0x52 (a := 5), Instr.bi 5),
    (wd 0x53 (d := 3) (a := 5), Instr.bli 3 5),
    (wd 0x54, Instr.nop),
    (wd 0x55, Instr.exit)] : List (Nat × Instr)).all (fun x => decodeTableWord 64 x.1 == some x.2) = true := by
  decide +kernel

/-- R46, R37, R162, R165, R118, R119: loads, stores, atomics and fences. -/
theorem test_decode_memory : ([
    (wd 0x60 (d := 3) (a := 5) (seg := 2) (minor := 3) (imm := 0x4FFFF8), Instr.ld .w8 2 3 5 ⟨.acq, .core, .d19 0x7FFF8⟩),
    (wd 0x61 (d := 3) (a := 5) (seg := 2) (minor := 2) (imm := 0x900009), Instr.st .w16 2 3 5 ⟨.rel, .clu, .d19 0x9⟩),
    (wd 0x62 (d := 3) (a := 5) (b := 6) (seg := 2) (minor := 1) (imm := 0x580009), Instr.ldx .w32 2 3 5 6 ⟨.acq, .die, .d19 0x9⟩),
    (wd 0x63 (d := 3) (a := 5) (b := 6) (seg := 2) (minor := 0) (imm := 0xA00009), Instr.stx .w64 2 3 5 6 ⟨.rel, .dev, .d19 0x9⟩),
    (wd 0x80 (d := 3) (a := 5) (b := 6) (seg := 2) (minor := 0) (imm := 0x10), Instr.aadd .w64 2 3 5 6 ⟨.plain, .grp, .d19 0x10⟩),
    (wd 0x81 (d := 3) (a := 5) (b := 6) (seg := 2) (minor := 1) (imm := 0x480011), Instr.aand .w32 2 3 5 6 ⟨.acq, .core, .d19 0x11⟩),
    (wd 0x82 (d := 3) (a := 5) (b := 6) (seg := 2) (minor := 0) (imm := 0x900012), Instr.aor .w64 2 3 5 6 ⟨.rel, .clu, .d19 0x12⟩),
    (wd 0x83 (d := 3) (a := 5) (b := 6) (seg := 2) (minor := 1) (imm := 0xD80013), Instr.axor .w32 2 3 5 6 ⟨.ar, .die, .d19 0x13⟩),
    (wd 0x84 (d := 3) (a := 5) (b := 6) (seg := 2) (minor := 0) (imm := 0x14), Instr.amin .w64 2 3 5 6 ⟨.plain, .grp, .d19 0x14⟩),
    (wd 0x85 (d := 3) (a := 5) (b := 6) (seg := 2) (minor := 1) (imm := 0x680015), Instr.amax .w32 2 3 5 6 ⟨.acq, .sys, .d19 0x15⟩),
    (wd 0x86 (d := 3) (a := 5) (b := 6) (seg := 2) (minor := 0) (imm := 0xB00016), Instr.aswp .w64 2 3 5 6 ⟨.rel, .dur, .d19 0x16⟩),
    (wd 0x87 (d := 3) (a := 5) (b := 6) (c := 7) (seg := 2) (imm := 0xE80008), Instr.acas .w64 2 3 5 6 7 ⟨.ar, .sys, .d19 0x8⟩),
    (wd 0x88 (imm := 0x300000), Instr.fence .dur),
    (wd 0x89 (imm := 0x280022), Instr.fencex .sys .g .l)] : List (Nat × Instr)).all (fun x => decodeTableWord 64 x.1 == some x.2) = true := by
  decide +kernel

/-- R46, R168: the system instructions. -/
theorem test_decode_system : ([
    (wd 0xF0 (d := 3) (a := 5) (b := 6) (c := 2), Instr.segldNarrow 3 5 6 2),
    (wd 0xF0 (d := 3) (a := 5) (b := 6) (minor := 1), Instr.segldAbs 3 5 6),
    (wd 0xF1 (d := 3) (a := 5) (minor := 1), Instr.segrd 3 5 true),
    (wd 0xF2 (d := 3) (imm := 9), Instr.sysrd 3 9),
    (wd 0xF3 (a := 5) (imm := 6), Instr.syswr 6 5),
    (wd 0xF4 (imm := 0x2A), Instr.trap 0x2A),
    (wd 0xF5, Instr.rte),
    (wd 0xF6, Instr.yield),
    (wd 0xF7 (a := 5), Instr.sleep 5),
    (wd 0xF8 (d := 3) (a := 5), Instr.wake 3 5),
    (wd 0xF9, Instr.iflush),
    (wd 0xFA (d := 3) (a := 5), Instr.ctxsv 3 5),
    (wd 0xFB (d := 3) (a := 5), Instr.ctxld 3 5),
    (wd 0xFC (d := 3) (imm := 4), Instr.idrd 3 4),
    (wd 0xFD (d := 3), Instr.clkrd 3)] : List (Nat × Instr)).all (fun x => decodeTableWord 64 x.1 == some x.2) = true := by
  decide +kernel

/-- R47, R184, R185, R188 to R191: floating-point operations of the vector side; the conditions are those of R191. -/
theorem test_decode_vector_float : ([
    (wd 0x00 (unit := 1) (d := 3) (a := 5) (b := 6) (seg := 2) (minor := 0) (imm := 4), Instr.vfadd .f32 4 2 3 5 6),
    (wd 0x01 (unit := 1) (d := 3) (a := 5) (b := 6) (seg := 2) (minor := 1) (imm := 3), Instr.vfsub .f16 3 2 3 5 6),
    (wd 0x02 (unit := 1) (d := 3) (a := 5) (b := 6) (seg := 2) (minor := 2) (imm := 2), Instr.vfmul .b16 2 2 3 5 6),
    (wd 0x06 (unit := 1) (d := 3) (a := 5) (b := 6) (seg := 2) (minor := 0) (imm := 1), Instr.vfdiv .f32 1 2 3 5 6),
    (wd 0x03 (unit := 1) (d := 3) (a := 5) (b := 6) (c := 7) (seg := 2) (minor := 0) (imm := 4), Instr.vfma .f32 4 2 3 5 6 7),
    (wd 0x04 (unit := 1) (d := 3) (a := 5) (b := 6) (c := 7) (seg := 2) (minor := 1) (imm := 3), Instr.vfms .f16 3 2 3 5 6 7),
    (wd 0x05 (unit := 1) (d := 3) (a := 5) (b := 6) (c := 7) (seg := 2) (minor := 2) (imm := 2), Instr.vfnma .b16 2 2 3 5 6 7),
    (wd 0x07 (unit := 1) (d := 3) (a := 5) (seg := 2) (minor := 1) (imm := 1), Instr.vfsqrt .f16 1 2 3 5),
    (wd 0x12 (unit := 1) (d := 3) (a := 5) (seg := 2) (minor := 0) (imm := 2), Instr.vfrcp .f32 2 2 3 5),
    (wd 0x13 (unit := 1) (d := 3) (a := 5) (seg := 2) (minor := 1) (imm := 3), Instr.vfrsq .f16 3 2 3 5),
    (wd 0x08 (unit := 1) (d := 3) (a := 5) (b := 6) (seg := 2) (minor := 2), Instr.vfmin .b16 2 3 5 6),
    (wd 0x09 (unit := 1) (d := 3) (a := 5) (b := 6) (seg := 2) (minor := 0), Instr.vfmax .f32 2 3 5 6),
    (wd 0x0A (unit := 1) (d := 3) (a := 5) (seg := 2) (minor := 1), Instr.vfabs .f16 2 3 5),
    (wd 0x0B (unit := 1) (d := 3) (a := 5) (seg := 2) (minor := 2), Instr.vfneg .b16 2 3 5),
    (wd 0x0D (unit := 1) (d := 3) (a := 5) (seg := 2) (minor := 1), Instr.vfexp2 .f16 2 3 5),
    (wd 0x0E (unit := 1) (d := 3) (a := 5) (seg := 2) (minor := 2), Instr.vflog2 .b16 2 3 5),
    (wd 0x0F (unit := 1) (d := 3) (a := 5) (seg := 2) (minor := 0), Instr.vfsin .f32 2 3 5),
    (wd 0x10 (unit := 1) (d := 3) (a := 5) (seg := 2) (minor := 1), Instr.vfcos .f16 2 3 5),
    (wd 0x11 (unit := 1) (d := 3) (a := 5) (seg := 2) (minor := 2), Instr.vftanh .b16 2 3 5),
    (wd 0x0C (unit := 1) (d := 3) (a := 5) (b := 6) (seg := 2) (minor := 0) (imm := 0), Instr.vfcmp .f32 .eq 2 3 5 6),
    (wd 0x0C (unit := 1) (d := 3) (a := 5) (b := 6) (seg := 2) (minor := 1) (imm := 0x10), Instr.vfcmp .f16 .ne 2 3 5 6),
    (wd 0x0C (unit := 1) (d := 3) (a := 5) (b := 6) (seg := 2) (minor := 2) (imm := 0x20), Instr.vfcmp .b16 .lt 2 3 5 6),
    (wd 0x0C (unit := 1) (d := 3) (a := 5) (b := 6) (seg := 2) (minor := 0) (imm := 0x30), Instr.vfcmp .f32 .ge 2 3 5 6),
    (wd 0x0C (unit := 1) (d := 3) (a := 5) (b := 6) (seg := 2) (minor := 1) (imm := 0x40), Instr.vfcmp .f16 .le 2 3 5 6),
    (wd 0x0C (unit := 1) (d := 3) (a := 5) (b := 6) (seg := 2) (minor := 2) (imm := 0x50), Instr.vfcmp .b16 .gt 2 3 5 6),
    (wd 0x0C (unit := 1) (d := 3) (a := 5) (b := 6) (seg := 2) (minor := 0) (imm := 0x60), Instr.vfcmp .f32 .uo 2 3 5 6),
    (wd 0x0C (unit := 1) (d := 3) (a := 5) (b := 6) (seg := 2) (minor := 1) (imm := 0x70), Instr.vfcmp .f16 .ord 2 3 5 6)] : List (Nat × Instr)).all (fun x => decodeTableWord 64 x.1 == some x.2) = true := by
  decide +kernel

/-- R47, R184, R185, R191 to R206: the rest of the vector side. -/
theorem test_decode_vector : ([
    (wd 0x40 (unit := 1) (d := 3) (a := 5) (b := 6) (seg := 2) (minor := 4), Instr.vadd .i8 2 3 5 6),
    (wd 0x41 (unit := 1) (d := 3) (a := 5) (b := 6) (seg := 2) (minor := 5), Instr.vsub .i16 2 3 5 6),
    (wd 0x42 (unit := 1) (d := 3) (a := 5) (b := 6) (seg := 2) (minor := 6), Instr.vmul .i32 2 3 5 6),
    (wd 0x43 (unit := 1) (d := 3) (a := 5) (b := 6) (seg := 2) (minor := 7), Instr.vmulh .i64 2 3 5 6),
    (wd 0x43 (unit := 1) (d := 3) (a := 5) (b := 6) (seg := 2) (minor := 4) (imm := 8), Instr.vmulhu .i8 2 3 5 6),
    (wd 0x44 (unit := 1) (d := 3) (a := 5) (b := 6) (seg := 2) (minor := 4), Instr.vand .i8 2 3 5 6),
    (wd 0x45 (unit := 1) (d := 3) (a := 5) (b := 6) (seg := 2) (minor := 5), Instr.vor .i16 2 3 5 6),
    (wd 0x46 (unit := 1) (d := 3) (a := 5) (b := 6) (seg := 2) (minor := 6), Instr.vxor .i32 2 3 5 6),
    (wd 0x47 (unit := 1) (d := 3) (a := 5) (b := 6) (seg := 2) (minor := 7), Instr.vshl .i64 2 3 5 6),
    (wd 0x48 (unit := 1) (d := 3) (a := 5) (b := 6) (seg := 2) (minor := 4), Instr.vshr .i8 2 3 5 6),
    (wd 0x49 (unit := 1) (d := 3) (a := 5) (b := 6) (seg := 2) (minor := 5), Instr.vsar .i16 2 3 5 6),
    (wd 0x4A (unit := 1) (d := 3) (a := 5) (b := 6) (seg := 2) (minor := 6), Instr.vmin .i32 2 3 5 6),
    (wd 0x4A (unit := 1) (d := 3) (a := 5) (b := 6) (seg := 2) (minor := 7) (imm := 8), Instr.vminu .i64 2 3 5 6),
    (wd 0x4B (unit := 1) (d := 3) (a := 5) (b := 6) (seg := 2) (minor := 7), Instr.vmax .i64 2 3 5 6),
    (wd 0x4B (unit := 1) (d := 3) (a := 5) (b := 6) (seg := 2) (minor := 4) (imm := 8), Instr.vmaxu .i8 2 3 5 6),
    (wd 0x4E (unit := 1) (d := 3) (a := 5) (b := 6) (seg := 2) (minor := 6), Instr.vadds .i32 2 3 5 6),
    (wd 0x4E (unit := 1) (d := 3) (a := 5) (b := 6) (seg := 2) (minor := 7) (imm := 8), Instr.vaddsu .i64 2 3 5 6),
    (wd 0x4F (unit := 1) (d := 3) (a := 5) (b := 6) (seg := 2) (minor := 7), Instr.vsubs .i64 2 3 5 6),
    (wd 0x4F (unit := 1) (d := 3) (a := 5) (b := 6) (seg := 2) (minor := 4) (imm := 8), Instr.vsubsu .i8 2 3 5 6),
    (wd 0x4C (unit := 1) (d := 3) (a := 5) (seg := 2) (minor := 5), Instr.vabs .i16 2 3 5),
    (wd 0x4D (unit := 1) (d := 3) (a := 5) (b := 6) (seg := 2) (minor := 4) (imm := 0), Instr.vcmp .i8 .eq 2 3 5 6),
    (wd 0x4D (unit := 1) (d := 3) (a := 5) (b := 6) (seg := 2) (minor := 5) (imm := 0x10), Instr.vcmp .i16 .ne 2 3 5 6),
    (wd 0x4D (unit := 1) (d := 3) (a := 5) (b := 6) (seg := 2) (minor := 6) (imm := 0x20), Instr.vcmp .i32 .lt 2 3 5 6),
    (wd 0x4D (unit := 1) (d := 3) (a := 5) (b := 6) (seg := 2) (minor := 7) (imm := 0x30), Instr.vcmp .i64 .ge 2 3 5 6),
    (wd 0x4D (unit := 1) (d := 3) (a := 5) (b := 6) (seg := 2) (minor := 4) (imm := 0x40), Instr.vcmp .i8 .ltu 2 3 5 6),
    (wd 0x4D (unit := 1) (d := 3) (a := 5) (b := 6) (seg := 2) (minor := 5) (imm := 0x50), Instr.vcmp .i16 .geu 2 3 5 6),
    (wd 0x4D (unit := 1) (d := 3) (a := 5) (b := 6) (seg := 2) (minor := 6) (imm := 0x60), Instr.vcmp .i32 .tz 2 3 5 6),
    (wd 0x4D (unit := 1) (d := 3) (a := 5) (b := 6) (seg := 2) (minor := 7) (imm := 0x70), Instr.vcmp .i64 .tnz 2 3 5 6),
    (wd 0x60 (unit := 1) (d := 3) (a := 5) (seg := 2) (minor := 1) (imm := 0x403), Instr.vcvt .f16 .f32 false false 1 3 2 3 5),
    (wd 0x60 (unit := 1) (d := 3) (a := 5) (seg := 2) (minor := 4) (imm := 0xF60), Instr.vcvt .i8 .i32 true true 3 0 2 3 5),
    (wd 0x60 (unit := 1) (d := 3) (a := 5) (seg := 2) (minor := 0) (imm := 0x152), Instr.vcvt .f32 .i16 false true 0 2 2 3 5),
    (wd 0x61 (unit := 1) (d := 3) (a := 5) (b := 6) (seg := 2) (minor := 3) (imm := 0xC00), Instr.vqlns 3 2 3 5 6),
    (wd 0x62 (unit := 1) (d := 3) (a := 5) (b := 6) (seg := 2) (imm := 0x801), Instr.vdqlns 2 1 2 3 5 6),
    (wd 0x63 (unit := 1) (d := 3) (a := 5) (seg := 2) (minor := 1), Instr.vbmax .f16 2 3 5),
    (wd 0x70 (unit := 1) (d := 3) (a := 5) (b := 6) (minor := 6), Instr.vwhile .i32 3 5 6),
    (wd 0x71 (unit := 1) (d := 3) (a := 5) (b := 6) (seg := 2), Instr.pand 2 3 5 6),
    (wd 0x72 (unit := 1) (d := 3) (a := 5) (b := 6) (seg := 2), Instr.por 2 3 5 6),
    (wd 0x73 (unit := 1) (d := 3) (a := 5) (b := 6) (seg := 2), Instr.pxor 2 3 5 6),
    (wd 0x74 (unit := 1) (d := 3) (a := 5) (seg := 2), Instr.pnot 2 3 5),
    (wd 0x75 (unit := 1) (d := 13) (a := 5) (seg := 2) (minor := 7), Instr.pcnt .i64 2 13 5),
    (wd 0x76 (unit := 1) (d := 13) (minor := 2), Instr.vqlen .b16 13),
    (wd 0x80 (unit := 1) (d := 3) (a := 5) (seg := 2) (minor := 6), Instr.vmov .i32 2 3 5),
    (wd 0x81 (unit := 1) (d := 3) (a := 25) (seg := 2) (minor := 0), Instr.vdup .f32 2 3 25),
    (wd 0x82 (unit := 1) (d := 23) (a := 5) (b := 26) (minor := 4), Instr.vext .i8 23 5 26),
    (wd 0x83 (unit := 1) (d := 3) (a := 5) (b := 6) (seg := 2) (minor := 5), Instr.vperm .i16 2 3 5 6),
    (wd 0x84 (unit := 1) (d := 3) (a := 5) (b := 26) (seg := 2) (minor := 6), Instr.vslide .i32 2 3 5 26),
    (wd 0x85 (unit := 1) (d := 3) (a := 5) (seg := 2) (minor := 6), Instr.vcompress .i32 2 3 5),
    (wd 0x86 (unit := 1) (d := 3) (a := 5) (b := 26) (c := 27) (seg := 2) (minor := 1) (imm := 0x400), Instr.vnzx .f16 1 2 3 5 26 27),
    (wd 0x87 (unit := 1) (d := 3) (a := 5) (b := 6) (c := 7) (seg := 2) (minor := 0), Instr.vsel .f32 2 3 5 6 7),
    (wd 0xA0 (unit := 1) (d := 23) (a := 5) (seg := 2) (minor := 0) (imm := 1), Instr.vradd .f32 1 2 23 5),
    (wd 0xA1 (unit := 1) (d := 23) (a := 5) (b := 26) (seg := 2) (minor := 1) (imm := 4), Instr.vraddo .f16 4 2 23 5 26),
    (wd 0xA2 (unit := 1) (d := 23) (a := 5) (seg := 2) (minor := 4), Instr.vrmin .i8 2 23 5),
    (wd 0xA2 (unit := 1) (d := 23) (a := 5) (seg := 2) (minor := 7) (imm := 8), Instr.vrminu .i64 2 23 5),
    (wd 0xA3 (unit := 1) (d := 23) (a := 5) (seg := 2) (minor := 2), Instr.vrmax .b16 2 23 5),
    (wd 0xA3 (unit := 1) (d := 23) (a := 5) (seg := 2) (minor := 5) (imm := 8), Instr.vrmaxu .i16 2 23 5),
    (wd 0xB0 (unit := 1) (d := 3) (a := 25) (c := 4) (seg := 2) (minor := 6) (imm := 0x580040), Instr.vld .i32 4 2 3 25 ⟨.acq, .die, .d19 0x40⟩),
    (wd 0xB1 (unit := 1) (d := 3) (a := 25) (c := 4) (seg := 2) (minor := 1) (imm := 0x97FFC0), Instr.vst .f16 4 2 3 25 ⟨.rel, .clu, .d19 0x7FFC0⟩),
    (wd 0xB2 (unit := 1) (d := 3) (a := 25) (b := 6) (c := 4) (seg := 2) (minor := 6) (imm := 4), Instr.vldg .i32 4 2 3 25 6 ⟨.plain, .grp, .d19 0x4⟩),
    (wd 0xB3 (unit := 1) (d := 3) (a := 25) (b := 6) (c := 4) (seg := 2) (minor := 7) (imm := 4), Instr.vsts .i64 4 2 3 25 6 ⟨.plain, .grp, .d19 0x4⟩),
    (wd 0xB4 (unit := 1) (d := 3) (a := 25) (b := 26) (seg := 2) (minor := 3) (imm := 0x40), Instr.vldt 2 3 25 26 ⟨.plain, .grp, .d19 0x40⟩),
    (wd 0xB5 (unit := 1) (d := 3) (a := 25) (b := 26) (seg := 2) (minor := 3) (imm := 0x40), Instr.vstt 2 3 25 26 ⟨.plain, .grp, .d19 0x40⟩)] : List (Nat × Instr)).all (fun x => decodeTableWord 64 x.1 == some x.2) = true := by
  decide +kernel

/-- R46, R235 to R237: copy requests, concords and full/empty words. -/
theorem test_decode_copy : ([
    (wd 0x90 (a := 28), Instr.cpq 28),
    (wd 0x91 (d := 3) (a := 4), Instr.cpqn 3 4),
    (wd 0x92 (a := 5) (seg := 2) (minor := 1) (imm := 0x10), Instr.ccinit true 2 5 ⟨.plain, .grp, .d19 0x10⟩),
    (wd 0x93 (d := 3) (a := 5) (b := 6) (seg := 2) (imm := 0x10), Instr.ccexp 2 3 5 6 ⟨.plain, .grp, .d19 0x10⟩),
    (wd 0x94 (a := 5) (b := 6) (c := 7) (seg := 2) (imm := 0xA00010), Instr.ccarr 2 5 6 7 ⟨.rel, .dev, .d19 0x10⟩),
    (wd 0x95 (a := 5) (b := 6) (seg := 2) (imm := 0x10), Instr.ccwait 2 5 6 ⟨.plain, .grp, .d19 0x10⟩),
    (wd 0x96 (d := 3) (a := 5) (b := 6) (seg := 2) (imm := 0x10), Instr.cctest 2 3 5 6 ⟨.plain, .grp, .d19 0x10⟩),
    (wd 0x97 (a := 5) (b := 6) (c := 7) (seg := 2) (imm := 0x10), Instr.cmwait 2 5 6 7 ⟨.plain, .grp, .d19 0x10⟩),
    (wd 0x98 (d := 3) (a := 5) (b := 6) (c := 7) (seg := 2) (imm := 0x10), Instr.cmtest 2 3 5 6 7 ⟨.plain, .grp, .d19 0x10⟩),
    (wd 0x99 (d := 3) (a := 5) (seg := 2) (imm := 0x480008), Instr.lde 2 3 5 ⟨.acq, .core, .d19 0x8⟩),
    (wd 0x9A (d := 3) (a := 5) (seg := 2) (imm := 8), Instr.ldc 2 3 5 ⟨.plain, .grp, .d19 0x8⟩),
    (wd 0x9B (d := 3) (a := 5) (seg := 2) (imm := 0xA00008), Instr.stf 2 3 5 ⟨.rel, .dev, .d19 0x8⟩),
    (wd 0x9C (a := 5) (seg := 2) (imm := 8), Instr.fewEmpty 2 5 ⟨.plain, .grp, .d19 0x8⟩),
    (wd 0x9C (a := 5) (seg := 2) (minor := 1) (imm := 8), Instr.fewFull 2 5 ⟨.plain, .grp, .d19 0x8⟩)] : List (Nat × Instr)).all (fun x => decodeTableWord 64 x.1 == some x.2) = true := by
  decide +kernel

/-- R46, R248, R280: the matrix and lexicon engines. -/
theorem test_decode_engines : ([
    (wd 0xA0 (d := 3) (a := 5) (b := 6) (c := 7) (seg := 2) (minor := 3) (imm := 2), Instr.mldw .l6 false true 2 3 5 6 7),
    (wd 0xA0 (d := 3) (a := 5) (b := 6) (c := 7) (seg := 2) (minor := 1) (imm := 1), Instr.mldw .f16 true false 2 3 5 6 7),
    (wd 0xA1, Instr.mswap),
    (wd 0xA2 (d := 3) (a := 5) (b := 6) (c := 7) (seg := 2) (minor := 3) (imm := 1), Instr.mstrm .l6 true 2 3 5 6 7),
    (wd 0xA3 (d := 3) (a := 5) (b := 6) (c := 7) (seg := 2) (minor := 2) (imm := 0xD0), Instr.mdrain .b16 80 true 2 3 5 6 7),
    (wd 0xA4 (a := 5) (seg := 2) (imm := 0x40), Instr.mtile 2 5 ⟨.plain, .grp, .d19 0x40⟩),
    (wd 0xA5 (d := 3) (imm := 2), Instr.mqw 3 2),
    (wd 0xA6 (a := 5) (b := 6) (minor := 1), Instr.mclr 5 6 true),
    (wd 0xB0 (d := 3) (a := 5) (b := 6), Instr.lxfam 3 5 6),
    (wd 0xB1 (d := 7) (a := 5) (b := 6) (seg := 2) (minor := 1), Instr.lxtab 7 2 5 6 true),
    (wd 0xB2 (d := 3) (a := 5) (b := 6) (c := 1) (seg := 2), Instr.lxins 3 2 5 6 1),
    (wd 0xB3 (d := 3) (a := 5) (b := 6) (c := 2) (seg := 2), Instr.lxdel 3 2 5 6 2),
    (wd 0xB4 (d := 3) (a := 24), Instr.lxprb 3 24),
    (wd 0xB5 (a := 5) (b := 6) (seg := 2) (imm := 0xD), Instr.lxrhStart 1 3 2 5 6),
    (wd 0xB5 (d := 3) (minor := 1) (imm := 0x40), Instr.lxrhStep 3 64),
    (wd 0xB6 (d := 3) (imm := 0x14), Instr.lxst 3 4 2)] : List (Nat × Instr)).all (fun x => decodeTableWord 64 x.1 == some x.2) = true := by
  decide +kernel

/-- R46, R309 to R315, R347, R367, R390: the network, the clause scheduler, the power broker and persistence. -/
theorem test_decode_units : ([
    (wd 0xC0 (d := 7) (a := 5) (seg := 2), Instr.send 7 5 2 false),
    (wd 0xC0 (d := 7) (a := 5) (seg := 2) (minor := 1), Instr.send 7 5 2 true),
    (wd 0xC1 (d := 3) (a := 7), Instr.recv 3 7),
    (wd 0xC2 (d := 3) (a := 7), Instr.chst 3 7),
    (wd 0xC3 (a := 5) (b := 6) (seg := 2), Instr.recast 5 6 2),
    (wd 0xC4 (a := 5) (b := 6) (c := 7) (seg := 2) (minor := 7) (imm := 0xD), Instr.nred .i64 1 3 2 5 6 7),
    (wd 0xC5 (d := 3) (a := 5) (seg := 2) (imm := 8), Instr.nbmax 3 5 2 2),
    (wd 0xC6 (seg := 2) (imm := 0xC), Instr.nbar 2 3),
    (wd 0xC7 (a := 5) (imm := 3), Instr.winWrite 3 5),
    (wd 0xC7 (d := 3) (minor := 1) (imm := 2), Instr.winRead 3 2),
    (wd 0xD0 (d := 3) (a := 5) (b := 6) (c := 7), Instr.spawn 3 5 6 7),
    (wd 0xD1 (d := 3) (a := 5), Instr.join 3 5),
    (wd 0xD2 (a := 5), Instr.clend 5),
    (wd 0xD3 (d := 3) (a := 5) (seg := 2) (imm := 0x40), Instr.launch 2 3 5 ⟨.plain, .grp, .d19 0x40⟩),
    (wd 0xD4 (d := 3) (a := 5) (minor := 2), Instr.waitcWait .phase 3 5),
    (wd 0xD4 (d := 3) (a := 5) (minor := 7), Instr.waitcTest .job 3 5),
    (wd 0xD5 (d := 3) (a := 5) (minor := 1), Instr.cancel .graph 3 5),
    (wd 0xD6 (d := 3) (a := 5) (b := 6), Instr.dqpush 3 5 6),
    (wd 0xD7 (d := 3) (c := 7), Instr.dqpop 3 7),
    (wd 0xD8 (d := 3) (a := 5), Instr.dqsteal 3 5),
    (wd 0xD9 (d := 3) (minor := 1), Instr.dqcnt 3 true),
    (wd 0xE0 (d := 3) (a := 5) (minor := 1), Instr.tkreq 3 5 true false),
    (wd 0xE0 (d := 3) (a := 5) (minor := 2), Instr.tkreq 3 5 false true),
    (wd 0xE1 (d := 3) (a := 5) (b := 6), Instr.tklendLend 3 5 6),
    (wd 0xE1 (d := 3) (a := 5) (b := 6) (minor := 1), Instr.tklendRecall 3 5 6),
    (wd 0xE2 (d := 3) (a := 5), Instr.tkret 3 5),
    (wd 0xE3 (d := 3) (imm := 2), Instr.tkq 3 2),
    (wd 0xE4 (d := 3) (a := 5) (minor := 7), Instr.ecset 3 5 7),
    (wd 0xE8 (d := 3) (seg := 2) (imm := 0x300000), Instr.pbar 3 2),
    (wd 0xE9 (d := 3), Instr.pseq 3),
    (wd 0xEA (d := 3) (imm := 1), Instr.ploss 3 1)] : List (Nat × Instr)).all (fun x => decodeTableWord 64 x.1 == some x.2) = true := by
  decide +kernel

/-- R28, R32, R40: L96 words with a negative constant and a far displacement, and pairs. -/
theorem test_decode_long :
    decodeTableWord 96 (wd 0x19 (d := 3) (imm := 0x80000000000001) + 1) = some (.li 3 (.i56 0x80000000000001)) ∧
    decodeTableWord 96 (wd 0x01 (d := 3) (a := 5) (minor := 8) (imm := 0x12345678) + 1) = some (.addImm .w64 3 5 (.i56 0x12345678)) ∧
    decodeTableWord 96 (wd 0x60 (d := 3) (a := 5) (seg := 2) (imm := 2 ^ 54 + 3 * 2 ^ 51 + 2 ^ 40) + 1)
      = some (.ld .w64 2 3 5 ⟨.acq, .die, .d51 0x10000000000⟩) ∧
    decodeTableWord 128 (wd 0x60 (d := 5) (a := 31) (seg := 3) (minor := 1) (imm := 8) + 2 + 2 ^ 64 * wd 0x76 (unit := 1) (d := 6))
      = some (.pair (.ld .w32 3 5 31 ⟨.plain, .grp, .d19 8⟩) (.vqlen .f32 6)) := by decide +kernel

/-- R28 to R30, R49: the step of Table 11 that stops a word: a filler that is not exact, codes of a pair's half, the word of zeros, an unassigned
opcode, a missing engine, a form, a register beyond its file, a reserved bit, a skip count, a pair; and words that leave their block. -/
theorem test_decode_stops :
    ([(0x13, 1), (wd 0x54 + 2, 2), (0, 4), (wd 0x1B, 3), (wd 0x14 (unit := 1), 3), (wd 0x55 + 1, 6), (wd 0x90 (a := 4) + 2 + 2 ^ 64 * wd 0x76 (unit := 1), 6),
      (wd 0x80 (unit := 1) (d := 16), 7), (wd 0xC1 (d := 1) (a := 8), 7), (wd 0x54 (d := 1), 8), (wd 0x11 (minor := 4), 8), (wd 0x01 (minor := 2), 8),
      (wd 0x60 (imm := 7 * 2 ^ 19), 8), (wd 0x40, 9), (wd 0x54 (skip := 1), 9),
      (wd 0x1A (d := 6) + 2 + 2 ^ 64 * wd 0x76 (unit := 1) (d := 6), 10)] : List (Nat × Nat)).all
        (fun x => decodeWord allEngines 32 x.1 == .illegal x.2) = true ∧
    decodeWord ⟨false, true⟩ 32 (wd 0xA1) = .illegal 5 ∧ decodeWord ⟨true, false⟩ 32 (wd 0xB4 (d := 1) (a := 8)) = .illegal 5 ∧
    decodeWord allEngines 4 (wd 0x54) = .boundary ∧ decodeWord allEngines 8 1 = .boundary ∧ decodeWord allEngines 12 2 = .boundary ∧
    decodeWord allEngines 4 3 = .filler := by decide +kernel

/-! ## Witnesses: the step, encodings, invariants -/

/-- Slot 8 of tile 5 has fetched `add g4, g4, g6`; its home position, or a spare one, is the next move. The clock counter of die 0 leads by a
multiple of 16, or by 3, with the thread in slot 11. -/
def servedBy (t : Turn) (w : Nat) (lead : Nat := 0) : State :=
  { (up.modDie 0 fun d => { d with lead := lead }).setSlot 5 (8 + lead % 16) { thread with pc := 0x140108, buf := [⟨0x140100, w * 2 ^ 64⟩] } with
    agenda := [t] }

theorem witness_StepRunsDecoded : (∀ t ∈ [Turn.position 5, .spare 5], ∀ w ∈ [0xC42008, 0, 0x0000000080050D84000040800005280A], ∀ l ∈ [0, 3, 32],
      let s := servedBy t w l
      let k := 8 + l % 16
      let x := s.slot 5 k
      x.fetched = .word 24 w ∧ x.wakeStatus = none ∧ x.reports = [] ∧ s.agenda = [t] ∧ (s.clk + (s.die 0).lead) % 16 = k ∧ x.st = .ready ∧
        x.stopReq = none ∧ x.want = none ∧ x.retry = false ∧ x.banks.cont = [] ∧ x.flags.extractLsb' 16 2 = 0 ∧ (x.dist : Int) ≤ s.clk - x.last ∧
        (s.core 5).pickSpare s.clk k = some k ∧ (s.core 5).pickSpare s.clk 1 = some k) ∧
    (decodeWord (enginesOf 5) 24 0xC42008 = .instr (.add .w64 4 4 6) 8 ∧ decodeWord (enginesOf 5) 24 0 = .illegal 4 ∧
      decodeWord (enginesOf 5) 4 0xC42008 = .boundary) ∧
    (servedBy (.event .boot { id := 3 }) 0).agenda = .event .boot { id := 3 } :: [] ∧ (servedBy (.resume 5 8 .exit) 0).agenda = .resume 5 8 .exit :: [] := by
  decide +kernel

theorem witness_EncodingRoundTrip : (∀ x ∈ [(Instr.add .w64 4 4 6, 8), (.li 31 (.i56 0xFFFFFFFFFFFFFF), 12),
      (.pair (.addImm .w64 5 5 (.i24 64)) (.vld .f32 0 1 1 5 ⟨.plain, .grp, .d19 0⟩), 16)],
      x.1.wf = true ∧ (encode x.1).map (·.2) = some x.2) ∧
    encode (.add .w64 4 4 6) = some (0xC42008, 8) := by decide +kernel

theorem witness_DecodingIsExact : decodeWord allEngines 8 0xC42008 = .instr (.add .w64 4 4 6) 8 ∧
    (0xC42008 % 4 = 0 ∧ 0xC42009 % 4 = 1 ∧ 0xC4200A % 4 = 2 ∧ 3 % 4 = 3 ∧ 3 % 2 ^ 32 = 3 ∧ 0x13 % 4 = 3) := by decide +kernel

/-- The machine with one instruction placed. -/
def placed (bits w : Nat) : State := State.reset.withFetchWord bits w

/-- The answer is a next state. -/
def goesOn (o : Out) : Bool :=
  match o with
  | .next _ => true
  | _ => false

theorem next_of {o : Out} (h : goesOn o = true) : ∃ t, o = .next t := by
  cases o with
  | next t => exact ⟨t, rfl⟩
  | _ => exact absurd h (by simp [goesOn])

theorem witness_StepKeepsMemoryForm : (placed 64 0xC42008).MemoryForm ∧ ∃ t, step (placed 64 0xC42008) = .next t :=
  ⟨by decide +kernel, next_of (by decide +kernel)⟩

/-! ## Single steps -/

/-- What a step leaves of slot 0 of tile 5. -/
def after (s : State) : Option Slot :=
  match step s with
  | .next t => some (t.slot 5 0)
  | _ => none

/-- R45, R157: 0 < 0 is false, so one word is to be annulled. -/
theorem test_step_skip : (after (placed 64 0x0000002400000208)).map (fun x => x.flags.extractLsb' 16 2) = some 1 := by decide +kernel

/-- R43: `addi g5, g5, 64` and a vector half that reads the length: both write. -/
theorem test_step_pair : (after (placed 128 (wd 0x01 (d := 5) (a := 5) (minor := 8) (imm := 64) + 2 + 2 ^ 64 * wd 0x76 (unit := 1) (d := 6)))).map
    (fun x => (x.rg 5, x.rg 6, x.pc)) = some (64, 32, 0x140010) := by decide +kernel

/-- R155: a division by 0 gives all ones and sets dz; R141, R172: TRAP with no handler escalates, its state saved. -/
theorem test_step_div0 : (after (placed 64 (wd 0x05 (d := 3) (minor := 8)))).map (fun x => (x.rg 3, x.flags)) = some (0xFFFFFFFFFFFFFFFF, 2) := by
  decide +kernel
theorem test_step_trap : (after (placed 64 (wd 0xF4 (imm := 0x2A)))).map (fun x => (x.st, x.trapCause)) = some (.parked .escalated, 0x102A) := by decide +kernel

/-- R90, R141: a load beyond a segment's limit, with no handler, escalates; g3 keeps its value. -/
theorem test_step_load : (after (placed 64 (wd 0x60 (d := 3) (seg := 1)))).map (fun x => (x.rg 3, x.st)) = some (0, .parked .escalated) := by decide +kernel

/-! ## The litmus outcomes of Table 14 of R108 to R117, and of Table 4 of R385 to R392 -/

namespace Litmus
open Sys2Proof.MemModel

/-- The thread of slot 0 of the first tile of cluster 0 of a die, running clause n of a launch of its own. -/
def at_die (die n : Nat) : Observer := .thread (192 * die) 0 1 n n


/-- One byte of x, of y, of a copy's source and destination, and of its concord: each stands for every byte of its word. -/
def x : Nat := 0x1000000000000000
def y : Nat := 0x1000000000000008
def buf : Nat := 0x1000000000000010
def dst : Nat := 0x1000000000000018
def cc : Nat := 0x1000000000000020

def st (a : Observer) (q b v : Nat) (ord : MemOrd := .plain) (scope : Scope := .grp) : Event :=
  { agent := a, kind := .write, ord, scope, seq := q, bytes := [b], value := [v] }
def ld (a : Observer) (q b v : Nat) (ord : MemOrd := .plain) (scope : Scope := .grp) : Event :=
  { agent := a, kind := .read, ord, scope, seq := q, bytes := [b], got := [v] }
def fence (a : Observer) (q : Nat) (scope : Scope) : Event := { agent := a, kind := .fence, scope, seq := q }

/-- A and B in cluster 0 of die 5: two tiles of it. -/
def A5 : Observer := .thread 960 0 1 1 1
def B5 : Observer := .thread 961 0 1 2 2

/-- a = 1, b = 0 in message passing. -/
def mp (B : Observer) (r q : MemOrd) (scope : Scope) : Run :=
  { events := [st A5 0 x 1, st A5 1 y 1 r scope, ld B 0 y 1 q scope, ld B 1 x 0] }
/-- a = b = 0 in store buffering between dies 0 and 9. -/
def sb (fences : Bool) : Run :=
  let A := at_die 0 1
  let B := at_die 9 2
  { events := [st A 0 x 1, ld A 2 y 0, st B 0 y 1, ld B 2 x 0] ++ if fences then [fence A 1 .dev, fence B 1 .dev] else [] }
/-- a = 1, b = 0, c = 1, d = 0 with the readers in dies c and d. -/
def iriw (c d : Nat) (fences : Bool) : Run :=
  let C := at_die c 3
  let D : Observer := .thread (192 * d + 1) 0 1 4 4
  let ord := if fences then MemOrd.plain else .acq
  { events := [st (at_die 0 1) 0 x 1, st (at_die 1 2) 0 y 1, ld C 0 x 1 ord .dev, ld C 2 y 0, ld D 0 y 1 ord .dev, ld D 2 x 0]
      ++ if fences then [fence C 1 .dev, fence D 1 .dev] else [] }
/-- A store, a copy request that finds the value v, a wait on its concord, and a load of the destination that returns 0. -/
def copied (fenced : Bool) (v : Nat) : Run :=
  { events := [st A5 0 buf 7,
      { agent := A5, path := .c, kind := .read, seq := 2, bytes := [buf], got := [v], role := .copy 1 (.reads none) },
      { agent := A5, path := .c, kind := .write, seq := 2, bytes := [dst], value := [v], role := .copy 1 (.writes 0 none) },
      { agent := A5, path := .c, kind := .rmw, seq := 2, bytes := [cc], got := [0], value := [1], role := .copy 1 (.arrives cc [0]) },
      { agent := A5, kind := .read, seq := 3, bytes := [cc], got := [1], role := .observation cc },
      ld A5 4 dst 0] ++ if fenced then [{ agent := A5, kind := .fencex .t .c, scope := .core, seq := 1 }] else [] }

theorem test_litmus_mp : (mp B5 .plain .plain .grp).allowed = true ∧ (mp B5 .rel .acq .clu).allowed = false ∧
    (mp (at_die 6 2) .rel .acq .clu).allowed = true := by decide +kernel
theorem test_litmus_wrc : ({ events := [st (at_die 0 1) 0 x 1, ld (at_die 1 2) 0 x 1, st (at_die 1 2) 1 y 1,
    ld (at_die 2 3) 0 y 1 .acq .dev, ld (at_die 2 3) 1 x 0] } : Run).allowed = false := by decide +kernel
theorem test_litmus_sb : (sb false).allowed = true ∧ (sb true).allowed = false := by decide +kernel
theorem test_litmus_iriw : (iriw 2 3 false).allowed = true ∧ (iriw 7 7 false).allowed = false ∧ (iriw 2 3 true).allowed = false := by
  decide +kernel
theorem test_litmus_copy : (copied false 0).allowed = true ∧ ∀ v ∈ [0, 7], (copied true v).allowed = false := by decide +kernel

/-- A store, and a clause that reads 0 from its place: without a hand-off, after a SPAWN of that clause, as an index of a LAUNCH, after a unit's
end, or with a phrase (Table 8 of R359). -/
def handed (given taken : Option Act) : Run :=
  let C := at_die 9 9
  { events := [st A5 0 x 1, ld C 1 x 0]
    deeds := (given.map fun a => (⟨A5, 1, a⟩ : Deed)).toList ++ (taken.map fun a => (⟨C, 0, a⟩ : Deed)).toList }

theorem test_litmus_handoff : (handed none none).allowed = true ∧ (handed (some (.launches 3)) (some (.starts none 4))).allowed = true ∧
    ∀ e ∈ [(Act.spawns 3, Act.starts (some 3) 1), (.launches 2, .starts none 2), (.ends [5, 6], .waits 6),
      (.pushes 8, .takes 8)], (handed (some e.1) (some e.2)).allowed = false := by decide +kernel

/-- Table 10 of R291: a probe's read of the old family is before that of the new one and, by its key, after the key's read. -/
theorem test_lexicon_edges :
    let e (q : Nat) (parts : List LexPart) : Event := { agent := A5, path := .l, kind := .read, seq := 0, role := .lexicon 960 q parts }
    lexiconEdges (e 0 [.key 7]) (e 0 [.oldLines, .selected 7]) = [.all] ∧ lexiconEdges (e 0 [.oldLines, .selected 7]) (e 0 [.newLines]) = [.all] ∧
      lexiconEdges (e 0 [.newLines]) (e 0 [.oldLines]) = [] ∧ lexiconEdges (e 0 [.newLines]) (e 1 [.access]) = [.all] := by decide +kernel

/-- Bytes of a and b in space 0x3, and of f in SRAM. -/
def da : Nat := 0x3000000000000000
def db : Nat := 0x3000002800000000
def pbar (q : Nat) : Event := { agent := A5, path := .p, kind := .pbar, scope := .dur, seq := q }
/-- b = 1 and a = 0 recovered: the write of b (event 1) is in D and that of a (event 0) is not. -/
def lost (r : Run) (completed : List Nat := []) : Bool := r.recoverable [1] completed

theorem test_litmus_durable :
    lost { events := [st A5 0 da 1, st A5 1 db 1] } = true ∧
    lost { events := [st A5 0 da 1, st A5 2 db 1, pbar 1] } [2] = false ∧
    lost { events := [st A5 0 da 1, st A5 1 db 1 .rel .dev] } = false ∧
    lost { events := [st B5 0 da 1, st A5 1 db 1, st B5 1 x 1 .rel .dev, ld A5 0 x 1 .acq .dev], rf := [(x, 2, 3)] } = false := by
  decide +kernel
end Litmus

/-! ## berdas: Table 12 of R50 to R54, and lines that it refuses -/

namespace Assembly
open Sys2Proof.Berdas

/-- A fragment with every word form, as the spec assembles it. -/
def table12 : String := " .text
 .block
start: add g4, g4, g6 ; S64
 add g5, g5, 64 || vld.f32 v1, [s1: g5 + 0]
 li g7, 0x12_3456_789A
 cmpi g4, 100, lt skip=2
 add g9, g9, 1
 b start
 exit
 .end"

/-- The words of Table 12 with their lengths: a filler stands before LI and before B. -/
def words12 : List (Nat × Nat) := [(8, 0x0000000000C42008), (16, 0x0000000080050D84000040800005280A), (8, 3),
  (12, 0x000012345678 * 2 ^ 48 + 0x9A00000038C9), (8, 0x0000642800040208), (8, 0x0000018000094808), (4, 3), (8, 0xFFFFF00000000280), (8, 0x2A8)]

/-- Bytes as one number. -/
def num (l : List Nat) : Nat := l.foldr (fun b n => n * 256 + b) 0
/-- The lines in error, with the step of Table 11 that each would fail. -/
def errorsOf (s : String) : List (Nat × Option Nat) := match assemble 0 0 s with | .ok _ => [] | .error l => l.map fun e => (e.1, e.2.step)

theorem test_berdas_table12 : (match assemble 0 0 table12 with | .ok i => num i.text | .error _ => 0) =
    num ((words12.map fun w => bytesOf w.1 w.2).flatten) := by decide +kernel
theorem test_berdas_refuses : errorsOf " li g8, 0x1200_0000_0000_0010
 add g1, g2, g3 skip=1
 vadd.i32 v1, v2, v3 rm=rz" = [(1, none), (2, some 10), (3, some 9)] := by decide +kernel
/-- Step 8: v16; step 9: a scope on a plain load; step 10: a skip count on a vector operation; no step: FENCE without its scope, and a branch
to an address that is in no section. -/
theorem test_berdas_steps : errorsOf " .text
 vadd.i32 v1, v2, v16
 ld.i64.sys g1, [s1: g0 + 0]
 vadd.i32 v1, v2, v3 skip=1
 fence
 b 0x40
 fence.dev" = [(2, some 8), (3, some 9), (4, some 10), (5, none), (6, none)] := by decide +kernel
theorem test_berdas_typed : (match assemble 0 0x40 " .data
 .dword 1
k: .typed 1, -1, 0x10
 .dword k >> 4" with | .ok i => (i.typed, num i.data) | .error _ => ([], 0)) =
    ([0x80], 1 + 2 ^ 512 * (1 + 0xFF * 2 ^ 8 + 0x10 * 2 ^ 16) + 2 ^ 1024 * 8) := by decide +kernel
end Assembly

end Sys2Proof.Tests
end

/-!
THE MEMORY FORM, operation by operation: every operation on the state keeps the canonical form of memory and of the metadata of its lines.
Only four operations change the two maps: a byte written, a line's metadata changed, the loss of what is not kept, and a new share of the
hashed region. The lemmas are named after the operations, so that a proof `h.modSlot.push` reads as the state it is about.
-/
namespace Sys2Proof.Machine

/-! ## Canonical maps -/

section maps
variable {α : Type} [DecidableEq α] {d : α}

/-- What a filter leaves of a canonical map is canonical. -/
theorem SMap.wfFrom_filter (p : Nat × α → Bool) : ∀ {lo : Nat} {m : SMap α}, SMap.wfFrom d lo m = true → SMap.wfFrom d lo (m.filter p) = true
  | _, [], _ => rfl
  | lo, (k, v) :: m, h => by
    rw [SMap.wfFrom_cons] at h
    have rest := SMap.wfFrom_filter p h.2
    by_cases hp : p (k, v) = true
    · rw [List.filter_cons_of_pos hp, SMap.wfFrom_cons]
      exact ⟨h.1, rest⟩
    · rw [List.filter_cons_of_neg hp]
      exact SMap.wfFrom_mono d (Nat.le_succ_of_le h.1.1) rest

theorem keepCells_wf {m : SMap α} (h : SMap.wf d m = true) (keep : Nat → Bool) (scale : Nat) : SMap.wf d (keepCells keep scale m) = true :=
  SMap.wfFrom_filter _ h

/-- No value of a canonical map is what an unlisted key reads as. -/
theorem SMap.ne_of_wfFrom : ∀ {lo : Nat} {m : SMap α}, SMap.wfFrom d lo m = true → ∀ x ∈ m, x.2 ≠ d
  | _, [], _, _, hx => absurd hx List.not_mem_nil
  | _, _ :: _, h, x, hx => by
    rw [SMap.wfFrom_cons] at h
    rcases List.mem_cons.1 hx with rfl | hx
    · exact h.1.2
    · exact SMap.ne_of_wfFrom h.2 x hx

/-- A map that is filled with entries of a canonical one is canonical, wherever its keys go: they are inserted in order. -/
theorem rekey_wf {m : SMap α} (h : SMap.wf d m = true) (old new scale : Nat) : SMap.wf d (rekey old new scale m) = true := by
  refine List.foldlRecOn (motive := fun acc => SMap.wf d acc = true) m _ rfl fun acc hacc x hx => ?_
  have hv : x.2 ≠ d := SMap.ne_of_wfFrom h x hx
  dsimp only
  split
  · exact SMap.wfFrom_insert d hv (Nat.zero_le _) hacc
  · exact SMap.wfFrom_insert d hv (Nat.zero_le _) hacc

end maps

/-! ## What is kept -/

/-- The memory form of a state. A definition and no abbreviation: a proof compares two states and not, field by field, what they hold. -/
def State.Formed (s : State) : Prop := s.MemoryForm

/-- The state that an operation leaves beside its answer is in form. -/
def FstForm {α : Type} (p : State × α) : Prop := p.1.Formed

/-- The state that an operation leaves behind a number that it draws is in form. -/
def SndForm {α : Type} (p : α × State) : Prop := p.2.Formed

/-- An outcome keeps the form: its next state has it, if there is one. -/
def OutForm : Out → Prop
  | .next t => t.Formed
  | _ => True

theorem OutForm.next {s : State} (h : s.Formed) : OutForm (.next s) := h

theorem OutForm.ite {c : Prop} [Decidable c] {o p : Out} (ho : OutForm o) (hp : OutForm p) : OutForm (if c then o else p) := by
  split
  · exact ho
  · exact hp

theorem FstForm.ite {α : Type} {c : Prop} [Decidable c] {p q : State × α} (hp : FstForm p) (hq : FstForm q) :
    FstForm (if c then p else q) := by
  split
  · exact hp
  · exact hq

theorem SndForm.ite {α : Type} {c : Prop} [Decidable c] {p q : α × State} (hp : SndForm p) (hq : SndForm q) :
    SndForm (if c then p else q) := by
  split
  · exact hp
  · exact hq

theorem FstForm.state {α : Type} {p : State × α} (h : FstForm p) : p.1.Formed := h
theorem SndForm.state {α : Type} {p : α × State} (h : SndForm p) : p.2.Formed := h

/-- The state of a pair that a match has taken apart. -/
theorem FstForm.of_eq {α : Type} {p : State × α} {s : State} {a : α} (h : FstForm p) (e : p = (s, a)) : s.Formed := by
  subst e
  exact h

theorem SndForm.of_eq {α : Type} {p : α × State} {s : State} {a : α} (h : SndForm p) (e : p = (a, s)) : s.Formed := by
  subst e
  exact h

/-- A loop that counts beside the state keeps the form when its body does. -/
theorem FstForm.foldl {α β : Type} {f : State × β → α → State × β} {l : List α} {p : State × β} (h : FstForm p)
    (hf : ∀ (q : State × β) (x : α), FstForm q → FstForm (f q x)) : FstForm (l.foldl f p) :=
  List.foldlRecOn (motive := FstForm) l f h fun q hq x _ => hf q x hq

namespace State.Formed
variable {s : State}

/-! ## Shapes -/

/-- EVERY FIELD MAY CHANGE but for the two maps: the rule for a record update. -/
theorem update {clk phase agenda cur ev draws inputs cores dies jobs tlb accesses nextAcc msgs nextMsg waiters nextReq refusedPkts nvq saveAreas
    images reports dead deadCols hshare ring ringCount cancels dseq lseq lword seqDie orderly drained supply closed bootState bootFull
    bootShare bootCount fieldLog pending fuseDead fuseCols logFull census linksRetired failures stacksDown eccFailed supFailed
    signatureFailed pathFailed facts laterFacts engImages powerState deepOk idleHold latTol idleFrom exitAt portA portB owner lastLoser
    hostHeld hostOut nextHost nonce attesting attest} (h : s.Formed) :
    State.Formed ⟨clk, phase, agenda, cur, ev, draws, inputs, s.mem, s.lines, cores, dies, jobs, tlb, accesses, nextAcc, msgs, nextMsg, waiters,
      nextReq, refusedPkts, nvq, saveAreas, images, reports, dead, deadCols, hshare, ring, ringCount, cancels, dseq, lseq, lword, seqDie,
      orderly, drained, supply, closed, bootState, bootFull, bootShare, bootCount, fieldLog, pending, fuseDead, fuseCols, logFull,
      census, linksRetired, failures, stacksDown, eccFailed, supFailed, signatureFailed, pathFailed, facts, laterFacts, engImages,
      powerState, deepOk, idleHold, latTol, idleFrom, exitAt, portA, portB, owner, lastLoser, hostHeld, hostOut, nextHost, nonce,
      attesting, attest⟩ := h

theorem ite {c : Prop} [Decidable c] {t : State} (hs : s.Formed) (ht : t.Formed) : (if c then s else t).Formed := by
  split
  · exact hs
  · exact ht

/-- A loop keeps the form when its body does. -/
theorem foldl {α : Type} {f : State → α → State} {l : List α} (h : s.Formed)
    (hf : ∀ (t : State) (x : α), t.Formed → (f t x).Formed) : (l.foldl f s).Formed :=
  List.foldlRecOn (motive := State.Formed) l f h fun t ht x _ => hf t x ht

/-! ## Cores, slots, dies, jobs, messages: the maps stay as they are -/

theorem modCore {cid f} (h : s.Formed) : (s.modCore cid f).Formed := h
theorem setSlot {cid k t} (h : s.Formed) : (s.setSlot cid k t).Formed := h
theorem modSlot {cid k f} (h : s.Formed) : (s.modSlot cid k f).Formed := h
theorem modMe {f} (h : s.Formed) : (s.modMe f).Formed := h
theorem modDie {d f} (h : s.Formed) : (s.modDie d f).Formed := h
theorem modJob {tag f} (h : s.Formed) : (s.modJob tag f).Formed := h
theorem drawLatency (h : s.Formed) : s.drawLatency.2.Formed := h
theorem drawChoice {n} (h : s.Formed) : (s.drawChoice n).2.Formed := h
theorem drawWord (h : s.Formed) : s.drawWord.2.Formed := h
theorem send {b} (h : s.Formed) : (s.send b).Formed := h
theorem sendAt {n b} (h : s.Formed) : (s.sendAt n b).Formed := h
theorem sendAgain {id b} (h : s.Formed) : (s.sendAgain id b).Formed := h
theorem sendAfter {n b} (h : s.Formed) : (s.sendAfter n b).Formed := h
theorem sendSoon {b} (h : s.Formed) : (s.sendSoon b).Formed := h
theorem tellBroker {cid} (h : s.Formed) : (s.tellBroker cid).Formed := .ite h.sendSoon h
theorem takeMsg {id} (h : s.Formed) : (s.takeMsg id).2.Formed := h
theorem taken {id b t} (h : s.Formed) (e : s.takeMsg id = (b, t)) : t.Formed := SndForm.of_eq h.takeMsg e
theorem push {t} (h : s.Formed) : (s.push t).Formed := h
theorem report {r} (h : s.Formed) : (s.report r).Formed := h
theorem event {code die base w} (h : s.Formed) : (s.event code die base w).Formed := h
theorem park {cid k p} (h : s.Formed) : (s.park cid k p).Formed := h
theorem request (h : s.Formed) : s.request.2.Formed := h

theorem goOn {cid k c} (h : s.Formed) : (s.goOn cid k c).Formed := by
  cases c with
  | go pc => exact h.modSlot
  | exit => exact h.modSlot.push
  | rerun i => exact h.modSlot.push

theorem doneWith {f} (h : s.Formed) : (s.doneWith f).Formed := h.modMe.goOn
theorem doneG {d x} (h : s.Formed) : OutForm (s.doneG d x) := h.doneWith

/-! ## Traps -/

theorem escalate {cid k cause detail addr async} (h : s.Formed) : (s.escalate cid k cause detail addr async).Formed :=
  h.setSlot.report.event

theorem trapEnter {cid k cause detail addr resume async} (h : s.Formed) :
    (s.trapEnter cid k cause detail addr resume async).Formed := .ite h.escalate h.setSlot

theorem trapMe {t} (h : s.Formed) : (s.trapMe t).Formed := h.trapEnter

theorem takeAsync {cid k} (h : s.Formed) : (s.takeAsync cid k).Formed := by
  unfold State.takeAsync
  dsimp only
  split
  · exact h
  · exact h.modSlot.trapEnter

/-! ## Bytes and metadata -/

theorem modLine {a f} (h : s.Formed) : (s.modLine a f).Formed := State.modLine_form h a f
theorem writeN {a n x} (h : s.Formed) : (s.writeN a n x).Formed := State.writeN_form h a n x
theorem writePlain {a n x} (h : s.Formed) : (s.writePlain a n x).Formed := State.writePlain_form h a n x
theorem writeTyped {a x} (h : s.Formed) : (s.writeTyped a x).Formed := State.writeTyped_form h a x
theorem mark {a full} (h : s.Formed) : (s.mark a full).Formed := h.modLine
theorem accept {a n} (h : s.Formed) : (s.accept a n).Formed := .ite h h.update
theorem ccWrite {a w} (h : s.Formed) : (s.ccWrite a w).Formed := h.accept.writePlain

theorem consumeError {a} (h : s.Formed) : (s.consumeError a).Formed := by
  unfold State.consumeError
  split
  · exact h.push
  · exact h.push
  · exact h.modLine.event

theorem countCorrections {die k} (h : s.Formed) : (s.countCorrections die k).Formed := .ite h.modDie.event h.modDie
theorem correctBytes {a n} (h : s.Formed) : (s.correctBytes a n).Formed := .ite h h.modLine.countCorrections

theorem ownRead {a n} (h : s.Formed) : FstForm (s.ownRead a n) := by
  unfold State.ownRead
  split
  · exact h.consumeError
  · exact h.foldl fun _ _ h => h.correctBytes

theorem setEntryBits {a bits} (h : s.Formed) : (s.setEntryBits a bits).Formed := .ite h h.writePlain

/-! ## Translation -/

theorem walkFrom {space va wr clu fuel t lvl} (h : s.Formed) : FstForm (s.walkFrom space va wr clu fuel t lvl) := by
  induction fuel generalizing s t lvl with
  | zero => exact h
  | succ fuel ih =>
    have hc {a} : (s.correctBytes a 16).Formed := h.correctBytes
    unfold State.walkFrom
    refine .ite h (.ite h.consumeError (.ite hc (.ite hc ?_)))
    exact .ite (ih hc.setEntryBits) (.ite hc (.ite hc hc.setEntryBits))

theorem tlbKeep {e} (h : s.Formed) : (s.tlbKeep e).Formed := h

theorem translate {clu job c space va wr} (h : s.Formed) : FstForm (s.translate clu job c space va wr) := by
  unfold State.translate
  rcases hw : s.walkFrom space va wr clu 4 (c.root space) 3 with ⟨t, r | x⟩
  all_goals
    have ht : t.Formed := h.walkFrom.of_eq hw
    split
  · exact ht
  · exact .ite ht (.ite h.update ht.update)
  · exact ht.tlbKeep
  · exact .ite ht.tlbKeep (.ite h.update ht.update)

theorem placeCell {ag p wr} (h : s.Formed) : FstForm (s.placeCell ag p wr) := by
  unfold State.placeCell
  split
  · exact h
  · split
    · exact h
    · exact h.translate

end State.Formed

end Sys2Proof.Machine

namespace Sys2Proof.Machine
namespace State.Formed
variable {s : State}

/-! ## Accesses -/

theorem atomicAt {a n op y cmp} (h : s.Formed) : FstForm (s.atomicAt a n op y cmp) := by
  unfold State.atomicAt
  dsimp only
  split
  · exact h.writePlain
  · exact h

theorem performPlain {op u} (h : s.Formed) : FstForm (s.performPlain op u) := by
  have hc : (s.correctBytes u.cell u.n).Formed := h.correctBytes
  unfold State.performPlain
  cases op with
  | store data => exact hc.accept.writePlain
  | tstore l => exact hc.accept.writeTyped
  | atomic o y c => exact (State.Formed.ite hc.accept hc).atomicAt
  | _ => exact hc

theorem performAll {op us} (h : s.Formed) : FstForm (s.performAll op us) := by
  induction us generalizing s with
  | nil => exact h
  | cons u us ih => exact ih h.performPlain

theorem askUnit {ag ask e} (h : s.Formed) : FstForm (s.askUnit ag ask e) := by
  unfold State.askUnit
  split
  · exact h
  · split
    next hp => exact h.placeCell.of_eq hp
    next hp =>
      have h := h.placeCell.of_eq hp
      dsimp only
      split
      · exact h
      · exact h

theorem askUnits {ag ask es} (h : s.Formed) : FstForm (s.askUnits ag ask es) := by
  induction es generalizing s with
  | nil => exact h
  | cons e es ih =>
    unfold State.askUnits
    split
    next he => exact h.askUnit.of_eq he
    next he => exact ih (h.askUnit.of_eq he)

theorem checkAsk {cid k ask} (h : s.Formed) : FstForm (s.checkAsk cid k ask) := by
  unfold State.checkAsk
  split
  next he => exact State.Formed.ite h (h.askUnits.of_eq he)
  next he => exact h.askUnits.of_eq he
  next he => exact h.askUnits.of_eq he

theorem homeOp {job op u} (h : s.Formed) : FstForm (s.homeOp job op u) := by
  have hc : (s.correctBytes u.cell u.n).Formed := h.correctBytes
  unfold State.homeOp
  cases op with
  | lde => exact .ite hc hc
  | ldc => exact .ite hc.accept.mark hc
  | stf x => exact hc.accept.writePlain.mark
  | few full => exact hc.accept.mark
  | ccinit map => exact hc.ccWrite
  | ccarr n m st => exact hc.ccWrite
  | ccexp x =>
    dsimp only
    split
    · exact hc.ccWrite
    · exact hc
  | cctest ph => exact hc
  | cmtest ph m => exact hc
  | ccwait ph => exact hc
  | cmwait ph m => exact hc
  | recast role => exact .ite hc.modCore hc
  | _ => exact hc.performPlain

/-! ## Replies -/

theorem engineReport {cid k uid seq cause detail addr request} (h : s.Formed) :
    (s.engineReport cid k uid seq cause detail addr request).Formed := .ite h.modSlot h.report

theorem finishAccess {id a} (h : s.Formed) : (s.finishAccess id a).Formed := by
  have h : ({ s with accesses := SMap.set none s.accesses id none } : State).Formed := h.update
  unfold State.finishAccess
  dsimp only
  split
  · refine .ite h ?_
    split
    · exact h.modSlot.trapEnter
    · split
      · exact h.modSlot.goOn
      · exact h.modSlot.trapEnter
  · exact h

theorem finishPosted {id a} (h : s.Formed) : (s.finishPosted id a).Formed := by
  have h : ({ s with accesses := SMap.set none s.accesses id none } : State).Formed := h.update
  have h := State.Formed.ite (c := a.counted = true) (h.modSlot (cid := a.core) (k := a.slot) (f := fun t => { t with posted := t.posted - 1 })) h
  unfold State.finishPosted
  dsimp only
  split
  · exact h
  · exact h.engineReport
  · exact h.modSlot

theorem closePart {id home} (h : s.Formed) : (s.closePart id home).Formed := by
  unfold State.closePart
  split
  · exact h
  · exact .ite h.update (.ite h.finishPosted h.finishAccess)

theorem answer {id home rs fs} (h : s.Formed) : (s.answer id home rs fs).Formed := by
  unfold State.answer
  split
  · exact h
  · exact .ite h.update.closePart h.update.send

theorem dropWaiter {id} (h : s.Formed) : (s.dropWaiter id).Formed := h.update

theorem serveFrom {cell ws} (h : s.Formed) : (s.serveFrom cell ws).Formed := by
  induction ws generalizing s with
  | nil => exact h
  | cons w ws ih =>
    unfold State.serveFrom
    split
    · split
      · refine .ite (.ite (ih h.consumeError.dropWaiter.answer) (ih ?_)) (ih h)
        exact (State.Formed.ite h.correctBytes.accept.mark h.correctBytes).dropWaiter.answer
      · exact ih h
    · exact ih h

theorem serveWord {cell} (h : s.Formed) : (s.serveWord cell).Formed := h.serveFrom

theorem hold {id home u} (h : s.Formed) : (s.hold id home u).Formed := by
  unfold State.hold
  split
  · exact h
  · exact .ite h.update h.update.sendAfter

/-! ## Starting an access -/

theorem launchAccess {cid k r remote got failed} (h : s.Formed) : (s.launchAccess cid k r remote got failed).2.Formed :=
  h.update.modSlot.foldl fun _ _ h => h.send

theorem startHome {cid k r undo c} (h : s.Formed) : (s.startHome cid k r undo c).Formed := by
  unfold State.startHome
  split
  · exact h.goOn
  · dsimp only
    refine .ite (.ite h.update.goOn h.update.park) ?_
    split
    next he =>
      have h := (h.modSlot.homeOp).of_eq he
      split
      · exact .ite h.modSlot.goOn.serveWord h.modSlot.goOn
      · exact h.trapEnter
    next he =>
      have h := (h.modSlot.homeOp).of_eq he
      exact h.update.park.hold
    next he =>
      have h := (h.modSlot.homeOp).of_eq he
      exact .ite h.modSlot.goOn.update h.trapEnter

theorem startAccess {cid k r undo c failed} (h : s.Formed) : (s.startAccess cid k r undo c failed).Formed := by
  unfold State.startAccess
  dsimp only
  refine .ite h.park (.ite h.startHome (.ite ?_ ?_))
  · split
    · split
      · exact h.performAll.state.modSlot.modSlot.goOn
      · exact h.performAll.state.modSlot.modSlot.modSlot.update.goOn
    · exact h.performAll.state.modSlot.modSlot.trapEnter
  · exact .ite h.performAll.state.modSlot.launchAccess.modSlot.goOn h.performAll.state.modSlot.launchAccess.park

theorem fenceThen {scope i go} (h : s.Formed) (hgo : ∀ t : State, t.Formed → (go t).Formed) : (s.fenceThen scope i go).Formed :=
  .ite (hgo s h) (h.park.foldl fun _ _ h => h.send)

theorem runFence {scope path c} (h : s.Formed) : (s.runFence scope path c).Formed :=
  .ite h.goOn (h.park.foldl fun _ _ h => h.send)

/-! ## Plans -/

theorem runPlan {i p isPair late} (h : s.Formed) : (s.runPlan i p isPair late).Formed := by
  unfold State.runPlan
  dsimp only
  split
  · split
    · exact h.trapMe
    · split
      · exact h.modSlot.runFence
      · exact h.modSlot.goOn
  · split
    next he => exact (h.checkAsk.of_eq he).trapMe
    next he => exact (h.checkAsk.of_eq he).consumeError
    next he =>
      have h := h.checkAsk.of_eq he
      refine .ite ?_ h.report.park
      split
      · exact h.fenceThen fun _ h => h.report.modSlot.park
      · exact h.report.modSlot.park
    next he =>
      have h := h.checkAsk.of_eq he
      split
      · exact .ite h.trapMe h.startAccess
      · split
        · exact h.fenceThen fun _ h => h.modSlot.startAccess
        · exact .ite (h.fenceThen fun _ h => h.modSlot.startAccess) h.modSlot.startAccess

theorem runOne {i p} (h : s.Formed) : (s.runOne i p).Formed := by
  cases p with
  | ok p => exact h.runPlan
  | error t => exact h.trapMe

theorem runBoth {i x y} (h : s.Formed) : (s.runBoth i x y).Formed := by
  unfold State.runBoth
  split
  · exact h.runPlan
  · split
    · exact h
    · refine .ite h.trapMe ?_
      split
      · exact h.runPlan
      · exact h.runPlan
      · exact h.trapMe

theorem execPlan {i p} (h : s.Formed) : OutForm (execPlan i p s) := h.runOne

theorem execPair {x y} (h : s.Formed) : OutForm (execPair x y s) := by
  unfold Machine.execPair
  dsimp only
  split
  · exact .next h.runBoth
  · exact .next h.goOn

end State.Formed
end Sys2Proof.Machine

namespace Sys2Proof.Machine
namespace State.Formed
variable {s : State}

/-! ## Stops and saved contexts -/

theorem answerCtxsv {cid k chosen st} (h : s.Formed) : (s.answerCtxsv cid k chosen st).Formed := by
  refine h.foldl fun t j h => ?_
  split
  · exact .ite h.modSlot h
  · exact h

theorem saveSlot {cid k} (h : s.Formed) : (s.saveSlot cid k).Formed := h.update.modSlot.tellBroker.answerCtxsv
theorem restoreSlot {cid k} (h : s.Formed) : (s.restoreSlot cid k).Formed := h.modSlot.tellBroker

theorem reportTo {cid k uid cause detail addr} (h : s.Formed) : (s.reportTo cid k uid cause detail addr).Formed :=
  .ite h.report (.ite h.update h.update)

theorem abandon {cid k row} (h : s.Formed) : (s.abandon cid k row).Formed := h.modSlot
theorem dropAccess {id} (h : s.Formed) : (s.dropAccess id).Formed := h.update

theorem cancelHeld {id a} (h : s.Formed) : (s.cancelHeld id a).Formed := by
  unfold State.cancelHeld
  split
  · exact h
  · exact .ite h (.ite h.sendAt h.send)

theorem modTree {cid t f} (h : s.Formed) : (s.modTree cid t f).Formed := h.modCore

theorem dropReserved {cid k} (h : s.Formed) : (s.dropReserved cid k).Formed := by
  unfold State.dropReserved
  refine foldl ?_ fun _ _ h => .ite h.modTree h
  split
  · exact (State.Formed.ite h.modJob h).modCore
  · exact .ite h.modJob h

theorem stopStep {cid k} (h : s.Formed) : (s.stopStep cid k).Formed := by
  unfold State.stopStep
  dsimp only
  split
  · exact h
  · split
    · exact h.modSlot.answerCtxsv
    · exact h.modSlot.answerCtxsv
    · refine .ite h ?_
      split
      · exact h
      · exact h
      · exact .ite h.saveSlot h
      · exact h.dropReserved.modSlot.abandon
      · exact .ite h.modCore.abandon h
      · exact .ite h.modCore.abandon h
      · split
        · split
          · exact h.cancelHeld
          · exact h.cancelHeld
          · exact h.dropAccess.abandon
          · exact h.dropAccess.abandon
          · exact h
        · exact h
      · exact .ite h.update.modCore.abandon h
      · split
        · exact h
        · exact .ite h.saveSlot h
        · exact h.abandon

theorem execStop (h : s.Formed) : OutForm (execStop s) := .ite (.next h.modSlot) (.next h.stopStep)

/-! ## System instructions -/

theorem execSegldNarrow {d a b c} (h : s.Formed) : OutForm (execSegldNarrow d a b c s) :=
  .ite (.next h.trapMe) (.ite (.next h.trapMe) (.next h.doneWith))

theorem execSegldAbs {d a b} (h : s.Formed) : OutForm (execSegldAbs d a b s) :=
  .ite (.next h.trapMe) (.ite (.next h.trapMe) (.next h.doneWith))

theorem execSegrd {d a half} (h : s.Formed) : OutForm (execSegrd d a half s) := h.doneG
theorem execSysrd {d num} (h : s.Formed) : OutForm (execSysrd d num s) := .ite (.next h.trapMe) h.doneG
theorem execSyswr {num a} (h : s.Formed) : OutForm (execSyswr num a s) := .ite (.next h.trapMe) (.next h.doneWith)
theorem execTrap {code} (h : s.Formed) : OutForm (execTrap code s) := .next h.trapEnter
theorem execRte (h : s.Formed) : OutForm (execRte s) := .ite (.next h.trapMe) (.ite (.next h.trapMe) (.next h.modMe.goOn))
theorem execYield (h : s.Formed) : OutForm (execYield s) := .next h.doneWith
theorem execSleep {a} (h : s.Formed) : OutForm (execSleep a s) := .ite (.next h.doneWith) (.next h.park)

theorem execSleepTimeout (h : s.Formed) : OutForm (execSleepTimeout s) := by
  unfold Machine.execSleepTimeout
  split
  · exact .ite (.next h.modSlot) (.next h)
  · exact .next h

theorem wakeSlot {cid job k} (h : s.Formed) : FstForm (s.wakeSlot cid job k) := by
  unfold State.wakeSlot
  dsimp only
  refine .ite h ?_
  split
  · exact h
  · refine .ite h ?_
    split
    · exact h.modSlot
    · exact h.update
    · exact h.modSlot

theorem execWake {d a} (h : s.Formed) : OutForm (execWake d a s) := h.wakeSlot.state.doneG
theorem execIflush (h : s.Formed) : OutForm (execIflush s) := .next h.update.doneWith

theorem execCtxsv {d a} (h : s.Formed) : OutForm (execCtxsv d a s) := by
  unfold Machine.execCtxsv
  dsimp only
  refine .ite (.next h.trapMe) (.ite h.doneG ?_)
  split
  · exact h.doneG
  · exact .ite h.doneG (.ite h.doneG (.next h.modSlot.park))

theorem execCtxld {d a} (h : s.Formed) : OutForm (execCtxld d a s) := by
  unfold Machine.execCtxld
  dsimp only
  refine .ite (.next h.trapMe) (.ite h.doneG ?_)
  split
  · exact h.doneG
  · exact .ite h.doneG (.ite h.doneG (.ite (.next h.trapMe) h.restoreSlot.doneG))

theorem execIdrd {d sel} (h : s.Formed) : OutForm (execIdrd d sel s) := by
  unfold Machine.execIdrd
  dsimp only
  split
  · exact h.doneG
  · exact h.doneG
  · refine .ite h.drawWord.doneG ?_
    split
    · exact h.doneG
    · exact h.doneG
    · exact h.doneG

theorem execClkrd {d} (h : s.Formed) : OutForm (execClkrd d s) := h.doneG

/-! ## Accesses of the engines -/

theorem engCell {ag a wr} (h : s.Formed) : FstForm (s.engCell ag a wr) := by
  unfold State.engCell
  refine .ite h (.ite h ?_)
  split
  · exact h
  · split
    next he => exact h.placeCell.of_eq he
    next he => exact h.placeCell.of_eq he

theorem engCheck {ag a cell n kind} (h : s.Formed) : FstForm (s.engCheck ag a cell n kind) := by
  unfold State.engCheck
  split
  · exact h.correctBytes
  · exact State.Formed.ite h.consumeError h

theorem engUnit {ag a n kind} (h : s.Formed) : FstForm (s.engUnit ag a n kind) := by
  unfold State.engUnit
  split
  next he => exact h.engCell.of_eq he
  next he =>
    have h := h.engCell.of_eq he
    split
    next he => exact h.engCheck.of_eq he
    next he => exact h.engCheck.of_eq he

theorem engRead {ag a n} (h : s.Formed) : FstForm (s.engRead ag a n) := by
  unfold State.engRead
  split
  next he => exact h.engUnit.of_eq he
  next he => exact h.engUnit.of_eq he

theorem engWrite {ag a n x} (h : s.Formed) : FstForm (s.engWrite ag a n x) := by
  unfold State.engWrite
  split
  next he => exact h.engUnit.of_eq he
  next he => exact (h.engUnit.of_eq he).accept.writePlain

/-! ## Copy requests -/

theorem enqueueCopy {r} (h : s.Formed) : (s.enqueueCopy r).Formed := h.modCore.update

theorem execCpq {a} (h : s.Formed) : OutForm (execCpq a s) := by
  unfold Machine.execCpq
  split
  · exact .next h.trapMe
  · exact .ite (.next h.park) (.next h.enqueueCopy.doneWith)

theorem execCpqn {d a} (h : s.Formed) : OutForm (execCpqn d a s) := by
  unfold Machine.execCpqn
  split
  · exact .next h.trapMe
  · exact .ite h.doneG h.enqueueCopy.doneG

theorem fillFifo {cid n} (h : s.Formed) : (s.fillFifo cid n).Formed := by
  induction n generalizing s with
  | zero => exact h
  | succ n ih =>
    unfold State.fillFifo
    refine .ite h ?_
    split
    · exact ih h.enqueueCopy.modSlot
    · exact h

theorem execCopyRequestStart (h : s.Formed) : OutForm (execCopyRequestStart s) := by
  unfold Machine.execCopyRequestStart
  dsimp only
  split
  · exact .next h
  · exact .ite (.next h) (.next h.drawLatency.modCore.fillFifo)

theorem resolvePieces {ag ps} (h : s.Formed) : FstForm (s.resolvePieces ag ps) := by
  induction ps generalizing s with
  | nil => exact h
  | cons p ps ih =>
    obtain ⟨_ | a, n⟩ := p
    · exact ih h
    · unfold State.resolvePieces
      split
      next he => exact h.engCell.of_eq he
      next he => exact ih (h.engCell.of_eq he)

theorem resolveMove {ag m} (h : s.Formed) : FstForm (s.resolveMove ag m) := by
  unfold State.resolveMove
  split
  next he => exact h.resolvePieces.of_eq he
  next he =>
    have h := h.resolvePieces.of_eq he
    split
    next he => exact h.engCell.of_eq he
    next he => exact h.engCell.of_eq he

theorem readPieces {ag ps} (h : s.Formed) : FstForm (s.readPieces ag ps) := by
  induction ps generalizing s with
  | nil => exact h
  | cons p ps ih =>
    obtain ⟨_ | ⟨a, c⟩, n⟩ := p
    · exact ih h
    · unfold State.readPieces
      split
      next he => exact h.engCheck.of_eq he
      next he => exact ih (h.engCheck.of_eq he)

theorem markWritten {cell n} (h : s.Formed) : (s.markWritten cell n).Formed := h.foldl fun _ _ h => h.mark.serveWord

theorem doMove {r m} (h : s.Formed) : FstForm (s.doMove r m) := by
  unfold State.doMove
  split
  next he => exact h.readPieces.of_eq he
  next he =>
    have h := h.readPieces.of_eq he
    split
    next he => exact h.engCheck.of_eq he
    next he =>
      have h := h.engCheck.of_eq he
      exact State.Formed.ite (State.Formed.ite h.accept.writeTyped h.accept.writePlain).markWritten
        (.ite h.accept.writeTyped h.accept.writePlain)

theorem keepCopy {r} (h : s.Formed) : (s.keepCopy r).Formed := h.modCore
theorem blockCopy {r reason a} (h : s.Formed) : (s.blockCopy r reason a).Formed := h.keepCopy.report
theorem copyReport {r cause detail addr} (h : s.Formed) : (s.copyReport r cause detail addr).Formed := h.engineReport.update

theorem sendArrival {r cell n chunks status} (h : s.Formed) : (s.sendArrival r cell n chunks status).Formed :=
  .ite h.update.sendAt h.update.send

theorem leaveCopy {r concord lost} (h : s.Formed) : (s.leaveCopy r concord lost).Formed := by
  have overrun (o : Option (Nat × Word)) {t : State} (h : t.Formed) :
      (match o with | some o => t.copyReport r cSegment 0x11 o.2 | none => t).Formed := by
    cases o with
    | none => exact h
    | some o => exact h.copyReport
  have failed (o : Option (Nat × Nat × Word)) {t : State} (h : t.Formed) :
      (match o with | some (c, d, a) => t.copyReport r c d a | none => t).Formed := by
    cases o with
    | none => exact h
    | some o => exact h.copyReport
  have gone (o : Option EngFail) {t : State} (h : t.Formed) :
      (match o with | some e => t.copyReport r e.parts.1 e.parts.2.1 e.parts.2.2 | none => t).Formed := by
    cases o with
    | none => exact h
    | some o => exact h.copyReport
  cases concord with
  | none => exact gone lost (failed r.fail (overrun r.overAt h.modCore))
  | some cell => exact (gone lost (failed r.fail (overrun r.overAt h.modCore))).sendArrival

theorem endCopy {r} (h : s.Formed) : (s.endCopy r).Formed := by
  unfold State.endCopy
  refine .ite h.leaveCopy ?_
  split
  next he => exact (h.engCell.of_eq he).leaveCopy
  next he =>
    have h := h.engCell.of_eq he
    exact .ite h.blockCopy h.leaveCopy
  next he => exact (h.engCell.of_eq he).leaveCopy

theorem readIndex {r es} (h : s.Formed) : FstForm (s.readIndex r es) := by
  induction es generalizing s r with
  | nil => exact h
  | cons e es ih =>
    unfold State.readIndex
    refine .ite (ih h) ?_
    split
    next he => exact h.engRead.of_eq he
    next he => exact ih (h.engRead.of_eq he)

theorem copyUnit {r i} (h : s.Formed) : FstForm (s.copyUnit r i) := by
  unfold State.copyUnit
  split
  next he => exact h.readIndex.of_eq he
  next he =>
    have h := h.readIndex.of_eq he
    split
    · exact h
    · split
      next he => exact h.resolveMove.of_eq he
      next he =>
        have h := h.resolveMove.of_eq he
        split
        next he => exact h.doMove.of_eq he
        next he => exact h.doMove.of_eq he

theorem copyUnits {r is} (h : s.Formed) : FstForm (s.copyUnits r is) := by
  induction is generalizing s r with
  | nil => exact h
  | cons i is ih =>
    unfold State.copyUnits
    split
    next he => exact ih (h.copyUnit.of_eq he)
    next he => exact h.copyUnit.of_eq he

theorem copyPart {r left} (h : s.Formed) : (s.copyPart r left).Formed := by
  unfold State.copyPart
  dsimp only
  refine .ite h.keepCopy ?_
  split
  next he => exact (h.engCell.of_eq he).keepCopy.sendArrival
  next he => exact (h.engCell.of_eq he).keepCopy

theorem failCopy {r e} (h : s.Formed) : (s.failCopy r e).Formed := by
  cases e with
  | page reason a => exact h.blockCopy
  | fault c d a => exact h.endCopy

theorem pauseCopy {r} (h : s.Formed) : (s.pauseCopy r).Formed :=
  .ite h.endCopy (.ite h.drawLatency.drawChoice.copyPart h.drawLatency.drawChoice.keepCopy)

theorem runCopy {r} (h : s.Formed) : (s.runCopy r).Formed := by
  unfold State.runCopy
  dsimp only
  refine .ite h.endCopy (.ite h.endCopy ?_)
  split
  next he => exact (h.drawChoice.drawChoice.readIndex.of_eq he).failCopy
  next he =>
    have h := h.drawChoice.drawChoice.readIndex.of_eq he
    refine .ite h.endCopy (.ite h.pauseCopy ?_)
    split
    next he => exact (h.drawChoice.drawChoice.copyUnits.of_eq he).failCopy
    next he => exact (h.drawChoice.drawChoice.copyUnits.of_eq he).pauseCopy

theorem abandonCopy {r} (h : s.Formed) : (s.abandonCopy r).Formed := h.modCore.modCore.endCopy

theorem copyEvent {op} (h : s.Formed) : OutForm (s.copyEvent op) := by
  unfold State.copyEvent
  dsimp only
  split
  · exact .ite (.next h.runCopy) (.next h)
  · exact .next h

theorem dropCopies {cid of} (h : s.Formed) : (s.dropCopies cid of).Formed := (h.foldl fun _ _ h => h.abandonCopy).fillFifo
theorem cancelCopies {job die} (h : s.Formed) : (s.cancelCopies job die).Formed := h.foldl fun _ _ h => h.dropCopies

end State.Formed
end Sys2Proof.Machine

namespace Sys2Proof.Machine
namespace State.Formed
variable {s : State}

/-! ## The matrix engine -/

theorem mxEnter {op} (h : s.Formed) : (s.mxEnter op).Formed := h.modCore.update.park

theorem mxIssue {op} (h : s.Formed) : OutForm (s.mxIssue op) := by
  unfold State.mxIssue
  split
  · exact .next h.trapMe
  · exact .next h.mxEnter

theorem execMqw {d sel} (h : s.Formed) : OutForm (execMqw d sel s) := by
  unfold Machine.execMqw
  dsimp only
  split
  · exact h.doneG
  · exact h.doneG
  · exact h.doneG
  · exact h.modCore.doneG

theorem readTyped {ag a format} (h : s.Formed) : FstForm (s.readTyped ag a format) := by
  unfold State.readTyped
  split
  next he => exact h.engUnit.of_eq he
  next he =>
    have h := h.engUnit.of_eq he
    dsimp only
    split
    · exact h
    · exact h

theorem readF16s {ag a n} (h : s.Formed) : FstForm (s.readF16s ag a n) := by
  induction n generalizing s a with
  | zero => exact h
  | succ n ih =>
    unfold State.readF16s
    split
    next he => exact h.engRead.of_eq he
    next he => exact ih (h.engRead.of_eq he)

theorem readRun {ag sg off} (h : s.Formed) : FstForm (s.readRun ag sg off) := by
  unfold State.readRun
  split
  next he => exact h.readTyped.of_eq he
  next he =>
    have h := h.readTyped.of_eq he
    dsimp only
    refine .ite h (.ite h ?_)
    split
    · exact h
    · split
      next he => exact h.readTyped.of_eq he
      next he => exact h.readTyped.of_eq he

theorem readLine {ag f16 comp sg off len} (h : s.Formed) : FstForm (s.readLine ag f16 comp sg off len) := by
  unfold State.readLine
  dsimp only
  refine .ite ?_ (.ite h.readRun ?_)
  · split
    next he => exact h.readF16s.of_eq he
    next he => exact h.readF16s.of_eq he
  · split
    next he => exact h.readTyped.of_eq he
    next he => exact h.readTyped.of_eq he

theorem readLines {ag f16 comp sg stride len n off} (h : s.Formed) : FstForm (s.readLines ag f16 comp sg stride len n off) := by
  induction n generalizing s off with
  | zero => exact h
  | succ n ih =>
    unfold State.readLines
    split
    next he => exact h.readLine.of_eq he
    next he => exact ih (h.readLine.of_eq he)

theorem setMx {cid r} (h : s.Formed) : (s.setMx cid r).Formed := h.modCore
theorem mxDone {cid j} (h : s.Formed) : (s.mxDone cid j).Formed := .ite h.setMx.goOn h.setMx
theorem mxTrap {cid j t} (h : s.Formed) : (s.mxTrap cid j t).Formed := .ite h.setMx.trapEnter h.setMx
theorem mxBlock {cid r reason a} (h : s.Formed) : (s.mxBlock cid r reason a).Formed := h.setMx.report

theorem mxStopped {cid r e} (h : s.Formed) : (s.mxStopped cid r e).Formed := by
  cases e with
  | page reason a => exact h.mxBlock
  | trap t => exact h.mxTrap

theorem drainCells {ag sg es} (h : s.Formed) : FstForm (s.drainCells ag sg es) := by
  induction es generalizing s with
  | nil => exact h
  | cons e es ih =>
    unfold State.drainCells
    dsimp only
    split
    next he => exact h.engCell.of_eq he
    next he => exact ih (h.engCell.of_eq he)

theorem drainWrites {cid ag ty clr cells} (h : s.Formed) : FstForm (s.drainWrites cid ag ty clr cells) := by
  induction cells generalizing s with
  | nil => exact h
  | cons c cells ih =>
    unfold State.drainWrites
    dsimp only
    split
    next he => exact h.engCheck.of_eq he
    next he => exact ih (h.engCheck.of_eq he).accept.writePlain.modCore

theorem drainSome {cid ag ty clr cells t} (h : s.Formed) : FstForm (s.drainSome cid ag ty clr cells t) := by
  have hc : SndForm (if cells.length ≤ 1 then (0, s) else s.drawChoice cells.length) := .ite h h.drawChoice
  unfold State.drainSome
  dsimp only
  split
  next he => exact hc.state.drainWrites.of_eq he
  next he =>
    have h := hc.state.drainWrites.of_eq he
    split
    · exact h
    · exact h

theorem drain {cid ag ty clr sg es} (h : s.Formed) : FstForm (s.drain cid ag ty clr sg es) := by
  unfold State.drain
  split
  next he => exact h.drainCells.of_eq he
  next he => exact (h.drainCells.of_eq he).drainSome
  next he => exact (h.drainCells.of_eq he).drainSome

theorem drainNext {cid r} {d : State × Drained} (h : FstForm d) : (drainNext cid r d).Formed := by
  unfold Machine.drainNext
  split
  · exact h.state.mxStopped
  · exact h.state.mxDone
  · exact h.state.setMx

theorem drainStep {cid r left t} (h : s.Formed) : (s.drainStep cid r left t).Formed := by
  unfold State.drainStep
  split
  · exact drainNext h.drainSome
  · exact h

theorem mxStart {cid r} (h : s.Formed) : (s.mxStart cid r).Formed := by
  unfold State.mxStart
  dsimp only
  split
  · split
    next he => exact (h.readLines.of_eq he).mxStopped
    next he =>
      have h := h.readLines.of_eq he
      exact .ite h.mxTrap (State.Formed.ite h h.modCore).mxDone
  · exact h.modCore.mxDone
  · split
    · exact h.mxTrap
    · exact .ite h.mxDone h.setMx
  · exact drainNext h.drain
  · exact h.modCore.mxDone
  · exact (State.Formed.ite h h.modCore).setMx

theorem readWindows {ag sg off known n t} (h : s.Formed) : FstForm (s.readWindows ag sg off known n t) := by
  induction n generalizing s t with
  | zero => exact h
  | succ n ih =>
    unfold State.readWindows
    split
    · exact h
    · split
      next he => exact h.readTyped.of_eq he
      next he => exact ih (h.readTyped.of_eq he)

theorem mstrmVector {cid ag f16 tr off sg} (h : s.Formed) : FstForm (s.mstrmVector cid ag f16 tr off sg) := by
  unfold State.mstrmVector
  dsimp only
  refine .ite ?_ (.ite h.readWindows ?_)
  · split
    next he => exact h.readF16s.of_eq he
    next he => exact h.readF16s.of_eq he
  · split
    next he => exact h.readTyped.of_eq he
    next he => exact h.readTyped.of_eq he

theorem mstrmRead {cid r i} (h : s.Formed) : (s.mstrmRead cid r i).Formed := by
  unfold State.mstrmRead
  split
  · split
    next he => exact (h.mstrmVector.of_eq he).mxStopped
    next he => exact (h.mstrmVector.of_eq he).setMx
  · exact h

theorem mstrmStep {cid r i x left} (h : s.Formed) : (s.mstrmStep cid r i x left).Formed := by
  unfold State.mstrmStep
  split
  · exact .ite h.modCore.setMx (.ite h.modCore.setMx h.modCore.mxDone)
  · exact h

/-! ## MTILE -/

theorem readFor {i ask} (h : s.Formed) : (s.readFor i ask).Formed := by
  unfold State.readFor
  dsimp only
  split
  next he => exact (h.checkAsk.of_eq he).trapMe
  next he => exact (h.checkAsk.of_eq he).consumeError
  next he => exact (h.checkAsk.of_eq he).report.park
  next he => exact (h.checkAsk.of_eq he).startAccess

theorem tileEnter {sg a m r k} (h : s.Formed) : (s.tileEnter sg a m r k).Formed := by
  unfold State.tileEnter
  dsimp only
  split
  · exact h.trapMe
  · exact h.modMe.mxEnter

theorem execMtile {sg a m} (h : s.Formed) : OutForm (execMtile sg a m s) := by
  unfold Machine.execMtile
  dsimp only
  split
  · exact .next h.readFor
  · split
    · exact .next h.trapMe
    · exact .ite (.next h.readFor) (.next h.tileEnter)
  · exact .next h.tileEnter

theorem tileSave {cid r j p valid t} (h : s.Formed) : (s.tileSave cid r j p valid t).Formed := h.setMx

theorem tileStopped {cid r j p e} (h : s.Formed) : (s.tileStopped cid r j p e).Formed := by
  cases e with
  | page reason a => exact h.mxBlock
  | trap t => exact h.tileSave

theorem tileWait {ag segs r live k j p} (h : s.Formed) : FstForm (s.tileWait ag segs r live k j p) := by
  unfold State.tileWait
  refine .ite h ?_
  split
  next he => exact h.engUnit.of_eq he
  next he => exact h.engUnit.of_eq he

theorem tileLoad {cid ag segs r k j p} (h : s.Formed) : FstForm (s.tileLoad cid ag segs r k j p) := by
  unfold State.tileLoad
  dsimp only
  split
  next he => exact h.readLines.of_eq he
  next he => exact (h.readLines.of_eq he).modCore

theorem tileVector {ag sg r k p m} (h : s.Formed) : FstForm (s.tileVector ag sg r k p m) := by
  unfold State.tileVector
  dsimp only
  refine .ite ?_ (.ite ?_ ?_)
  · split
    next he => exact h.readF16s.of_eq he
    next he => exact h.readF16s.of_eq he
  · split
    next he => exact h.readWindows.of_eq he
    next he => exact h.readWindows.of_eq he
  · split
    next he => exact h.readTyped.of_eq he
    next he => exact h.readTyped.of_eq he

theorem tileRead {cid r j p vs paid} (h : s.Formed) : (s.tileRead cid r j p vs paid).Formed := by
  unfold State.tileRead
  split
  · split
    next he => exact (h.tileVector.of_eq he).tileStopped
    next he => exact (h.tileVector.of_eq he).setMx
  · exact h

theorem tileStep {cid r j p vs paid} (h : s.Formed) : (s.tileStep cid r j p vs paid).Formed := by
  unfold State.tileStep
  split
  · exact .ite h.setMx h.modCore.setMx
  · exact h

theorem tileDrained {cid r rec j p live} {d : State × Drained} (h : FstForm d) : (tileDrained cid r rec j p live d).Formed := by
  unfold Machine.tileDrained
  split
  · exact h.state.tileStopped
  · exact .ite h.state.modCore.setMx h.state.tileSave
  · exact h.state.setMx

theorem tileWork {cid r rec k segs j p} (h : s.Formed) : (s.tileWork cid r rec k segs j p).Formed := by
  unfold State.tileWork
  dsimp only
  refine .ite ?_ (tileDrained h.drain)
  split
  next he => exact (h.tileLoad.of_eq he).tileStopped
  next he => exact (h.tileLoad.of_eq he).setMx

theorem tileBoundary {cid r rec k segs j p} (h : s.Formed) : (s.tileBoundary cid r rec k segs j p).Formed := by
  unfold State.tileBoundary
  refine .ite h.tileSave (.ite ?_ h.tileWork)
  split
  next he => exact (h.tileWait.of_eq he).tileStopped
  next he => exact h.tileWait.of_eq he
  next he => exact (h.tileWait.of_eq he).tileWork

theorem progressCells {ag at_ es} (h : s.Formed) : FstForm (s.progressCells ag at_ es) := by
  induction es generalizing s with
  | nil => exact h
  | cons e es ih =>
    unfold State.progressCells
    dsimp only
    split
    next he => exact h.engUnit.of_eq he
    next he => exact ih (h.engUnit.of_eq he)

theorem tileProgress {cid r at_ j p valid t} (h : s.Formed) : (s.tileProgress cid r at_ j p valid t).Formed := by
  unfold State.tileProgress
  split
  next he => exact (h.progressCells.of_eq he).mxBlock
  next he => exact (h.progressCells.of_eq he).mxTrap
  next cells he =>
    have h := h.progressCells.of_eq he
    have h := h.foldl (l := cells) (f := fun s (x : Word × Nat × Nat × Nat) => (s.accept x.2.1 x.2.2.1).writePlain x.2.1 x.2.2.1 x.2.2.2)
      fun _ _ h => h.accept.writePlain
    dsimp only
    split
    · exact h.mxTrap
    · exact .ite h.setMx.abandon h.mxDone

theorem execMtileChunkResume (h : s.Formed) : OutForm (execMtileChunkResume s) := by
  unfold Machine.execMtileChunkResume
  dsimp only
  split
  · refine .ite (.next h) ?_
    split
    · exact .next h.tileBoundary
    · exact .next h.tileWork
    · exact .next (tileDrained h.drainSome)
    · exact .next h.tileProgress
    · exact .next h
  · exact .next h

theorem execMatrixDispatch (h : s.Formed) : OutForm (execMatrixDispatch s) := by
  unfold Machine.execMatrixDispatch
  dsimp only
  split
  · refine .ite (.next h) ?_
    split
    · exact .next h.mxStart
    · exact .next h.mstrmRead
    · exact .next h.drainStep
    · exact .ite (.next h) (.next h.tileRead)
    · exact .next h
  · split
    · exact .next h
    · exact .next h.modCore.mxStart

theorem mxLost {cid r status a} (h : s.Formed) : (s.mxLost cid r status a).Formed := by
  unfold State.mxLost
  dsimp only
  split
  · exact h.tileSave
  · exact h.tileSave
  · exact h.tileSave
  · exact h.mxTrap

end State.Formed
end Sys2Proof.Machine

namespace Sys2Proof.Machine

/-! ## The lexicon engine -/

/-- A computation of the lexicon engine keeps the form, whether it ends or stops. -/
def LxForm {α : Type} (m : LxM α) : Prop := ∀ p : State × Nat, p.1.Formed → (m.run.run p).2.1.Formed

namespace LxForm
variable {α β : Type}

theorem pure {a : α} : LxForm (Pure.pure a : LxM α) := fun _ h => h
theorem throw {e : MxStop} : LxForm (throw e : LxM α) := fun _ h => h

theorem bind {m : LxM α} {f : α → LxM β} (hm : LxForm m) (hf : ∀ a, LxForm (f a)) : LxForm (m >>= f) := by
  intro p h
  have hp := hm p h
  rcases e : m.run.run p with ⟨r | a, q⟩
  · rw [e] at hp
    simp only [ExceptT.run_bind, StateT.run_bind, e]
    exact hp
  · rw [e] at hp
    simp only [ExceptT.run_bind, StateT.run_bind, e]
    exact hf a q hp

theorem ite {c : Prop} [Decidable c] {m n : LxM α} (hm : LxForm m) (hn : LxForm n) : LxForm (if c then m else n) := by
  split
  · exact hm
  · exact hn

/-- A step that is made under a condition, and what follows it. -/
theorem when {c : Prop} [Decidable c] {m : LxM Unit} {k : Unit → LxM β} (hm : LxForm m) (hk : ∀ u, LxForm (k u)) :
    LxForm (if c then m >>= k else k ()) := .ite (hm.bind hk) (hk ())

/-- One of two steps, and what follows them. -/
theorem iteBind {c : Prop} [Decidable c] {m n : LxM α} {k : α → LxM β} (hm : LxForm m) (hn : LxForm n) (hk : ∀ a, LxForm (k a)) :
    LxForm (if c then m >>= k else n >>= k) := .ite (hm.bind hk) (hn.bind hk)

theorem modify {f : State × Nat → State × Nat} (hf : ∀ p : State × Nat, p.1.Formed → (f p).1.Formed) :
    LxForm (modify f : LxM Unit) := fun p h => hf p h

theorem lxState : LxForm lxState := fun _ h => h
theorem lxMod {cid f} : LxForm (lxMod cid f) := modify fun _ h => h.modCore
theorem lxTick {n} : LxForm (lxTick n) := modify fun _ h => h
theorem lxSet {cid n} : LxForm (lxSet cid n) := lxMod
theorem lxMalformed {a} : LxForm (lxMalformed a : LxM α) := throw

theorem getBind {k : State × Nat → LxM α} (hk : ∀ p : State × Nat, p.1.Formed → ((k p).run.run p).2.1.Formed) :
    LxForm (get >>= k) := fun p h => hk p h

theorem lxMem {f : State → State × Except EngFail α} (hf : ∀ s : State, s.Formed → FstForm (f s)) : LxForm (lxMem f) := by
  refine getBind fun p h => ?_
  split
  next e => exact (hf _ h).of_eq e
  next e => exact (hf _ h).of_eq e

theorem engRead {ag a n} : LxForm (Machine.lxMem fun s => s.engRead ag a n) := lxMem fun _ h => h.engRead
theorem engWrite {ag a n x} : LxForm (Machine.lxMem fun s => s.engWrite ag a n x) := lxMem fun _ h => h.engWrite
theorem engCell {ag a wr} : LxForm (Machine.lxMem fun s => s.engCell ag a wr) := lxMem fun _ h => h.engCell

theorem readKey {ag es a n} : LxForm (readKey ag es a n) := by
  induction n generalizing a with
  | zero => exact pure
  | succ n ih => exact engRead.bind fun _ => ih.bind fun _ => pure

theorem hashKey {cid ag f a} : LxForm (hashKey cid ag f a) :=
  readKey.bind fun _ => lxTick.bind fun _ => .when lxSet fun _ => pure

theorem readBlock {ag t slots a} : LxForm (readBlock ag t slots a) := by
  refine engRead.bind fun l => lxTick.bind fun _ => ?_
  split
  · exact pure
  · exact lxMalformed

theorem editLine {ag a f} : LxForm (editLine ag a f) := by
  refine (lxMem fun s h => ?_).bind fun _ => lxTick
  split
  next he => exact h.engUnit.of_eq he
  next he => exact (h.engUnit.of_eq he).accept.writePlain

theorem writeLine {ag a x} : LxForm (writeLine ag a x) := editLine
theorem writeBlock {ag b} : LxForm (writeBlock ag b) := writeLine

theorem readChain {ag t prev n i} : LxForm (readChain ag t prev n i) := by
  induction n generalizing prev i with
  | zero => cases i with
    | zero => exact pure
    | succ i => exact lxMalformed
  | succ n ih => cases i with
    | zero => exact pure
    | succ i => exact readBlock.bind fun _ => ih.bind fun _ => pure

theorem readBucket {ag t h} : LxForm (readBucket ag t h) := readBlock.bind fun _ => readChain.bind fun _ => pure
theorem readHeader {ag t} : LxForm (readHeader ag t) := engRead.bind fun _ => lxTick.bind fun _ => .ite lxMalformed pure
theorem writeHeader {ag t free next} : LxForm (writeHeader ag t free next) := writeLine

theorem lxAlloc {ag t} : LxForm (lxAlloc ag t) :=
  readHeader.bind fun ⟨_, _⟩ => .ite (readBlock.bind fun _ => writeHeader.bind fun _ => pure) (.ite (writeHeader.bind fun _ => pure) pure)

theorem lxFree {ag t n} : LxForm (lxFree ag t n) := readHeader.bind fun ⟨_, _⟩ => writeBlock.bind fun _ => writeHeader

theorem chainSeen {cid ag b chain} : LxForm (chainSeen cid ag b chain) := by
  induction chain generalizing b with
  | nil => exact pure
  | cons x rest ih =>
    exact lxState.bind fun _ => engCell.bind fun _ => .ite (.bind (modify fun _ h => h.update) fun _ => pure)
      (ih.bind fun _ => pure)

theorem lxLinked {cid ag prev n} : LxForm (lxLinked cid ag prev n) :=
  engCell.bind fun _ => modify fun _ h => h.foldl fun _ _ h => h.modCore

theorem lxInsert {cid ag t h x} : LxForm (lxInsert cid ag t h x) := by
  refine readBucket.bind fun ⟨b, chain⟩ => chainSeen.bind fun chain => .ite pure (.ite (writeBlock.bind fun _ => pure) ?_)
  split
  · exact writeBlock.bind fun _ => lxSet.bind fun _ => pure
  · exact writeBlock.bind fun _ => lxSet.bind fun _ => pure
  · split
    · exact writeBlock.bind fun _ => pure
    · refine .iteBind lxAlloc pure fun got => ?_
      cases got with
      | none => exact writeBlock.bind fun _ => lxSet.bind fun _ => pure
      | some n => exact writeBlock.bind fun _ => editLine.bind fun _ => lxLinked.bind fun _ => pure

theorem deleteChain {ag t x b chain} : LxForm (deleteChain ag t x b chain) := by
  induction chain generalizing b with
  | nil => exact pure
  | cons e rest ih =>
    exact .ite (.ite (writeBlock.bind fun _ => lxFree.bind fun _ => pure) (writeBlock.bind fun _ => pure)) ih

theorem lxDelete {ag t h x} : LxForm (lxDelete ag t h x) :=
  readBucket.bind fun ⟨_, _⟩ => .ite (writeBlock.bind fun _ => pure) deleteChain

theorem insertAll {cid ag x l} : LxForm (insertAll cid ag x l) := by
  induction l with
  | nil => exact pure
  | cons e l ih => exact lxInsert.bind fun _ => ih.bind fun _ => pure

theorem deleteAll {ag x l} : LxForm (deleteAll ag x l) := by
  induction l with
  | nil => exact pure
  | cons e l ih => exact lxDelete.bind fun _ => ih.bind fun _ => pure

theorem probeAll {ag l} : LxForm (probeAll ag l) := by
  induction l with
  | nil => exact pure
  | cons e l ih => exact readBucket.bind fun ⟨_, _⟩ => ih.bind fun _ => pure

theorem writeRows {ag a l} : LxForm (writeRows ag a l) := by
  induction l generalizing a with
  | nil => exact pure
  | cons x l ih => exact engWrite.bind fun _ => ih

theorem moveRows {cid ag r l} : LxForm (moveRows cid ag r l) := by
  induction l with
  | nil => exact pure
  | cons x l ih => exact lxState.bind fun _ => .when throw fun _ => hashKey.bind fun ⟨_, _⟩ => insertAll.bind fun _ => ih

theorem freeAll {ag t l} : LxForm (freeAll ag t l) := by
  induction l with
  | nil => exact pure
  | cons n l ih => exact lxFree.bind fun _ => ih

theorem rhMove {cid ag n} : LxForm (rhMove cid ag n) := by
  induction n with
  | zero => exact pure
  | succ n ih =>
    refine lxState.bind fun s => ?_
    dsimp only
    split
    · exact pure
    · split
      · exact pure
      · refine readBucket.bind fun ⟨_, _⟩ => moveRows.bind fun _ => editLine.bind fun _ => freeAll.bind fun _ => ?_
        exact .ite (lxMod.bind fun _ => ih) (lxMod.bind fun _ => ih)

theorem initBuckets {ag t n i} : LxForm (initBuckets ag t n i) := by
  induction n generalizing i with
  | zero => exact pure
  | succ n ih => exact writeBlock.bind fun _ => ih

theorem lxRunOp {cid ag op} : LxForm (lxRunOp cid ag op) := by
  refine lxState.bind fun s => ?_
  cases op with
  | fam d seed cfg => exact .when throw fun _ => lxMod.bind fun _ => pure
  | tab d at_ cfg init => exact .when throw fun _ => lxMod.bind fun _ => .ite (initBuckets.bind fun _ => .when writeHeader fun _ => pure) pure
  | ins d f key row => exact .when throw fun _ => hashKey.bind fun ⟨_, _⟩ => insertAll.bind fun _ => pure
  | del d f key row =>
    refine .when throw fun _ => hashKey.bind fun ⟨_, _⟩ => deleteAll.bind fun _ => ?_
    dsimp only
    split
    · exact hashKey.bind fun ⟨_, _⟩ => deleteAll.bind fun _ => pure
    · exact pure
  | prb d f cap key list count gather =>
    refine .when throw fun _ => hashKey.bind fun ⟨_, _⟩ => probeAll.bind fun _ => ?_
    dsimp only
    split
    · exact hashKey.bind fun ⟨_, _⟩ => probeAll.bind fun _ => writeRows.bind fun _ => engWrite.bind fun _ => .when lxSet fun _ => pure
    · exact writeRows.bind fun _ => engWrite.bind fun _ => .when lxSet fun _ => pure
  | rhStart fo fn base off stride limit rights => exact .when throw fun _ => lxMod.bind fun _ => pure
  | rhStep d count => exact .when throw fun _ => rhMove.bind fun _ => lxState.bind fun _ => pure
end LxForm

end Sys2Proof.Machine

namespace Sys2Proof.Machine
namespace State.Formed
variable {s : State}

theorem lxEnter {op} (h : s.Formed) : (s.lxEnter op).Formed := h.modCore.update.park

theorem execLxfam {d a b} (h : s.Formed) : OutForm (execLxfam d a b s) := .ite (.next h.trapMe) (.ite (.next h.trapMe) (.next h.lxEnter))

theorem execLxtab {d sg a b init} (h : s.Formed) : OutForm (execLxtab d sg a b init s) := by
  unfold Machine.execLxtab
  dsimp only
  refine .ite (.next h.trapMe) ?_
  split
  · exact .next h.trapMe
  · exact .ite (.next h.trapMe) (.ite (.next h.trapMe) (.next h.lxEnter))

theorem lxRow {sg a b f op} (h : s.Formed) : OutForm (s.lxRow sg a b f op) := by
  unfold State.lxRow
  split
  · exact .next h.trapMe
  · exact .ite (.next h.trapMe) (.ite (.next h.trapMe) (.next h.lxEnter))

theorem execLxprb {d a} (h : s.Formed) : OutForm (execLxprb d a s) := by
  unfold Machine.execLxprb
  dsimp only
  split
  · exact .next h.trapMe
  · exact .next h.lxEnter

theorem execLxrhStart {fo fn sg a b} (h : s.Formed) : OutForm (execLxrhStart fo fn sg a b s) :=
  .ite (.next h.trapMe) (.ite (.next h.trapMe) (.next h.lxEnter))

theorem execLxrhStep {d count} (h : s.Formed) : OutForm (execLxrhStep d count s) := .next h.lxEnter

theorem execLxst {d sel idx} (h : s.Formed) : OutForm (execLxst d sel idx s) := by
  unfold Machine.execLxst
  dsimp only
  split
  · exact h.doneG
  · exact h.modCore.doneG
  · exact h.doneG
  · exact h.doneG
  · exact h.doneG
  · exact h.doneG
  · exact h.doneG

theorem lxDone {cid j e} (h : s.Formed) : (s.lxDone cid j e).Formed := by
  have h : (s.modCore cid fun c => { c with lxRun := none }).Formed := h.modCore
  unfold State.lxDone
  dsimp only
  split
  · refine .ite ?_ h.enqueueCopy
    split
    · exact h.enqueueCopy.modSlot.goOn
    · exact h.enqueueCopy.goOn
  · refine .ite ?_ h
    split
    · exact h.modSlot.goOn
    · exact h.goOn

theorem lxTrap {cid j t} (h : s.Formed) : (s.lxTrap cid j t).Formed := .ite h.modCore.trapEnter h.modCore

theorem lxTry {cid r t} (h : s.Formed) (e : s.lxTry cid r = .done t) : t.Formed := by
  have hq := LxForm.lxRunOp (cid := cid) (ag := { core := cid, slot := r.job.slot, job := r.job.job }) (op := r.job.op) (s, 0) h
  unfold State.lxTry at e
  dsimp only at e
  split at e
  · cases e
  · split at e
    · cases e
      exact h.modCore.report
    · cases e
      exact lxTrap hq
    · split at e
      · cases e
        exact h
      · cases e
        exact lxDone hq

theorem lxGo {cid} (h : s.Formed) : (s.lxGo cid).Formed := by
  unfold State.lxGo
  split
  · exact h
  · refine .ite h ?_
    split
    next => exact h
    next e => exact h.lxTry e

theorem execLexiconDispatch (h : s.Formed) : OutForm (execLexiconDispatch s) := by
  unfold Machine.execLexiconDispatch
  dsimp only
  split
  · exact .next h.lxGo
  · exact .next h
  · exact .next h.modCore.lxGo

theorem lxLost {cid r status a} (h : s.Formed) : (s.lxLost cid r status a).Formed := by
  have hq := LxForm.lxRunOp (cid := cid) (ag := { core := cid, slot := r.job.slot, job := r.job.job, lost := some a }) (op := r.job.op) (s, 0) h
  unfold State.lxLost
  dsimp only
  split
  · exact lxTrap hq
  · exact h.lxTrap

theorem startPass {cid} (h : s.Formed) : (s.startPass cid).Formed := by
  unfold State.startPass
  split
  · exact h
  · split
    · exact h.mstrmStep
    · exact h.tileStep
    · exact h

theorem mayDraw {c : Prop} [Decidable c] {n} (h : s.Formed) : SndForm (if c then s.drawChoice n else (0, s)) := .ite h h

theorem execIssueCreditStart (h : s.Formed) : OutForm (execIssueCreditStart s) := by
  unfold Machine.execIssueCreditStart
  dsimp only
  refine .ite (.next h.modCore) (.ite (.next h.modCore.modCore.startPass) (.ite (.next (.ite (lxGo ?_) ?_)) (.next h.modCore)))
  all_goals
    refine SndForm.state ?_
    exact mayDraw h.modCore.modCore.modCore

/-! ## Channels -/

theorem transmit {cid k ch data last} (h : s.Formed) : (s.transmit cid k ch data last).Formed := .ite h.send.modSlot.update h.send.modSlot

theorem execSend {ch a sg last} (h : s.Formed) : OutForm (execSend ch a sg last s) := by
  unfold Machine.execSend
  dsimp only
  refine .ite (.next h.trapMe) ?_
  split
  · exact .next h.trapMe
  · split
    · exact .next h.trapMe
    · exact .ite (.next h.park) (.next h.transmit.doneWith)

theorem writeWord {a x} (h : s.Formed) : (s.writeWord a x).Formed := .ite h.consumeError h.writePlain

theorem writeWords {a xs} (h : s.Formed) : (s.writeWords a xs).Formed := by
  induction xs generalizing s a with
  | nil => exact h
  | cons x xs ih => exact ih h.writeWord

theorem addWord {cid p data last} (h : s.Formed) : (s.addWord cid p data last).Formed := by
  unfold State.addWord
  dsimp only
  split
  · exact h.modCore
  · exact h.modCore.writeWord.writeWord

theorem openPkt {cid k ch id job src overAt} (h : s.Formed) : (s.openPkt cid k ch id job src overAt).Formed := by
  cases overAt with
  | none => exact h.modCore
  | some i => exact h.modCore.writeWords

theorem freePkt {cid p} (h : s.Formed) : (s.freePkt cid p).Formed := by
  unfold State.freePkt
  dsimp only
  refine .ite h.modCore ?_
  split
  · exact .ite h.modCore.consumeError h.modCore.correctBytes.modCore
  · exact h.modCore

theorem endPkt {cid p} (h : s.Formed) : (s.endPkt cid p).Formed := by
  unfold State.endPkt
  dsimp only
  refine .ite h.freePkt ?_
  split
  · exact h.modCore
  · exact h.modCore.writeWord

theorem takeWord {cid k d ch t} (h : s.Formed) (e : s.takeWord cid k d ch = some t) : t.Formed := by
  unfold State.takeWord at e
  dsimp only at e
  split at e
  · cases e
  · split at e
    · split at e
      · cases e
        exact h.consumeError
      · cases e
        cases s.wordCell cid _ with
        | none => exact .ite h.modSlot.freePkt h.modSlot.modCore
        | some a => exact .ite h.correctBytes.modSlot.freePkt h.correctBytes.modSlot.modCore
    · cases e

theorem execRecv {d ch} (h : s.Formed) : OutForm (execRecv d ch s) := by
  unfold Machine.execRecv
  dsimp only
  refine .ite (.next h.trapMe) (.ite (.next h.trapMe) ?_)
  split
  next e => exact .next (h.takeWord e).doneWith
  next => exact .next h.park

theorem execChst {d ch} (h : s.Formed) : OutForm (execChst d ch s) := h.doneG

theorem wakeSender {cid k ch} (h : s.Formed) : (s.wakeSender cid k ch).Formed := by
  unfold State.wakeSender
  split
  · exact .ite h.transmit.goOn h
  · exact h

theorem wakeReceiver {cid k ch} (h : s.Formed) : (s.wakeReceiver cid k ch).Formed := by
  unfold State.wakeReceiver
  split
  · refine .ite h (.ite h.trapEnter ?_)
    split
    next e => exact (h.takeWord e).goOn
    next => exact h
  · exact h

theorem refusePacket {cid k uid dst cause detail pkt last} (h : s.Formed) : (s.refusePacket cid k uid dst cause detail pkt last).Formed :=
  .ite (State.Formed.ite h h.reportTo).update (.ite (.ite h h.reportTo) (State.Formed.ite h h.reportTo).update)

theorem execPacketWordArrival (h : s.Formed) : OutForm (execPacketWordArrival s) := by
  unfold Machine.execPacketWordArrival
  split
  next e =>
    have hg := h.taken e
    dsimp only
    refine .ite (.next hg.refusePacket.wakeSender) ?_
    split
    · exact .next hg.addWord.wakeReceiver.wakeSender
    · refine .ite (.next hg.refusePacket.wakeSender) ?_
      split
      · exact .next h
      · split
        · exact .next hg.openPkt.addWord.wakeReceiver.wakeSender
        · exact .next hg.openPkt
  next => exact .next h

theorem discardPkts {cid k job} (h : s.Formed) : (s.discardPkts cid k job).Formed :=
  h.foldl fun _ _ h => .ite h.freePkt h.freePkt.report.event

theorem closePackets {cid k} (h : s.Formed) : (s.closePackets cid k).Formed := by
  refine h.foldl fun t ch h => ?_
  dsimp only
  refine .ite h ?_
  split
  · exact h.modSlot.update
  · split
    · exact h.modSlot.endPkt
    · exact h.modSlot.update

theorem execRecast {a b sg} (h : s.Formed) : OutForm (execRecast a b sg s) := by
  unfold Machine.execRecast
  dsimp only
  split
  · exact .next h.trapMe
  · split
    · exact .next h.trapMe
    · exact .ite (.next h.trapMe) (.next h.startAccess)

theorem execRecastMessage (h : s.Formed) : OutForm (execRecastMessage s) := by
  unfold Machine.execRecastMessage
  split
  next e =>
    have h := h.taken e
    split
    · split
      · refine .ite (.next h.answer) ?_
        split
        next e => exact .next (h.homeOp.of_eq e).answer
        next e => exact .next (h.homeOp.of_eq e).answer
      · exact .next h
    · exact .next h
  next => exact .next h

theorem execRecastAdopt (h : s.Formed) : OutForm (execRecastAdopt s) := by
  unfold Machine.execRecastAdopt
  dsimp only
  split
  · exact .next h
  · refine .ite (.next h) (.next (h.modCore.foldl fun t k h => ?_))
    split
    · exact .ite h.modSlot.goOn h
    · exact h

theorem execWinWrite {idx a} (h : s.Formed) : OutForm (execWinWrite idx a s) := .ite (.next h.trapMe) (.next h.modCore.doneWith)
theorem execWinRead {d idx} (h : s.Formed) : OutForm (execWinRead d idx s) := h.doneG

/-! ## Trees -/

theorem writeResult {ag a es xs} (h : s.Formed) : FstForm (s.writeResult ag a es xs) := by
  induction xs generalizing s a with
  | nil => exact h
  | cons x xs ih =>
    unfold State.writeResult
    split
    next e => exact h.engWrite.of_eq e
    next e => exact ih (h.engWrite.of_eq e)

theorem resultFailed {cid k uid cause detail addr} (h : s.Formed) : (s.resultFailed cid k uid cause detail addr).Formed := h.engineReport.update

theorem finishResult {cid k a es vals} (h : s.Formed) : (s.finishResult cid k a es vals).Formed := by
  unfold State.finishResult
  dsimp only
  split
  next e => exact (h.writeResult.of_eq e).goOn
  next e => exact (h.writeResult.of_eq e).report.modSlot
  next e => exact (h.writeResult.of_eq e).resultFailed.goOn

theorem giveResult {cid t o v} (h : s.Formed) : (s.giveResult cid t o v).Formed := by
  unfold State.giveResult
  refine .ite h ?_
  split
  · exact h.goOn
  · exact h.modSlot.goOn
  · exact h.finishResult

theorem treeDone {cid t v} (h : s.Formed) : (s.treeDone cid t v).Formed := by
  unfold State.treeDone
  dsimp only
  split
  · exact (h.foldl fun _ _ h => h.send).modTree.giveResult
  · exact (h.foldl fun _ _ h => h.send).modTree

theorem treeFailed {cid t no cause detail} (h : s.Formed) : (s.treeFailed cid t no cause detail).Formed :=
  .ite h ((State.Formed.ite h.modTree h.modTree.send).foldl fun _ _ h => h.send)

theorem treeTraps {cid t} (h : s.Formed) : (s.treeTraps cid t).Formed := by
  refine h.foldl fun u e h => ?_
  split
  · exact .ite h.modTree.trapEnter h
  · exact h

theorem treeGo {cid t n} (h : s.Formed) : (s.treeGo cid t n).Formed := by
  induction n generalizing s with
  | zero => exact h
  | succ n ih =>
    have h : (s.treeTraps cid t).Formed := h.treeTraps
    unfold State.treeGo
    dsimp only
    split
    · exact h
    · split
      · exact h
      · refine .ite (ih h.modTree) (.ite (ih h.treeFailed) (.ite (ih h.treeFailed) (.ite h ?_)))
        exact .ite (.ite (ih h.treeDone) h) h.modTree.send

theorem treeIssue {t i go} (h : s.Formed) (hgo : ∀ t : State, t.Formed → (go t).Formed) : (s.treeIssue t i go).Formed :=
  (State.Formed.ite h h.modTree).fenceThen hgo

theorem leaveTrees {cid k} (h : s.Formed) : (s.leaveTrees cid k).Formed := h.foldl fun _ _ h => .ite h.modTree.treeFailed.treeGo h
theorem contribute {t v dest} (h : s.Formed) : (s.contribute t v dest).Formed := h.park.modTree.treeGo
theorem trapTree {t} (h : s.Formed) : (s.trapTree t).Formed := h.dropReserved.trapMe

theorem readElems {ag a es n} (h : s.Formed) : FstForm (s.readElems ag a es n) := by
  induction n generalizing s a with
  | zero => exact h
  | succ n ih =>
    unfold State.readElems
    split
    next e => exact h.engRead.of_eq e
    next e => exact ih (h.engRead.of_eq e)

theorem execNred {ty op tree sg a b c} (h : s.Formed) : OutForm (execNred ty op tree sg a b c s) := by
  unfold Machine.execNred
  dsimp only
  split
  · exact .next h.trapTree
  · refine .next (h.treeIssue fun t h => ?_)
    split
    next e => exact (h.readElems.of_eq e).report.park
    next e => exact (h.readElems.of_eq e).trapTree
    next e => exact (h.readElems.of_eq e).contribute

theorem execNbmax {d a sg tree} (h : s.Formed) : OutForm (execNbmax d a sg tree s) := by
  unfold Machine.execNbmax
  dsimp only
  split
  · exact .next h.trapTree
  · exact .ite (.next h.trapTree) (.ite (.next h.trapTree) (.next (h.treeIssue fun _ h => h.contribute)))

theorem execNbar {sg tree} (h : s.Formed) : OutForm (execNbar sg tree s) := by
  unfold Machine.execNbar
  split
  · exact .next h.trapTree
  · exact .ite (.next h.trapTree) (.next (h.treeIssue fun _ h => h.contribute))

theorem execTreePartial (h : s.Formed) : OutForm (execTreePartial s) := by
  unfold Machine.execTreePartial
  split
  next e =>
    have h := h.taken e
    dsimp only
    split
    · exact .ite (.next h) (.next h.modTree.treeGo)
    · exact .next h
  next => exact .next h

theorem execTreeResult (h : s.Formed) : OutForm (execTreeResult s) := by
  unfold Machine.execTreeResult
  split
  next e => exact .ite (.next (h.taken e).treeDone.treeGo) (.next (h.taken e))
  next e => exact .next (h.taken e).treeFailed.treeGo
  next => exact .next h

theorem execChannelStallTimeout (h : s.Formed) : OutForm (execChannelStallTimeout s) := by
  unfold Machine.execChannelStallTimeout
  dsimp only
  refine .ite (.next h) ?_
  split
  · exact .next h.trapEnter
  · exact .next h.treeFailed.treeGo
  · exact .next h

end State.Formed
end Sys2Proof.Machine

namespace Sys2Proof.Machine

/-- What a position answers keeps the form: the state after a turn, and the state in which an instruction runs. -/
def ServedForm : Served → Prop
  | .turn s => s.Formed
  | .run _ s => s.Formed

theorem ServedForm.turn {s : State} (h : s.Formed) : ServedForm (.turn s) := h
theorem ServedForm.run {i} {s : State} (h : s.Formed) : ServedForm (.run i s) := h

theorem ServedForm.ite {c : Prop} [Decidable c] {x y : Served} (hx : ServedForm x) (hy : ServedForm y) :
    ServedForm (if c then x else y) := by
  split
  · exact hx
  · exact hy

namespace State.Formed
variable {s : State}

/-! ## Fetching and positions -/

theorem fetchFail {cid k demand cause detail} (h : s.Formed) : (s.fetchFail cid k demand cause detail).Formed := .ite h.modSlot.trapEnter h.modSlot

theorem readHalf {cid k cell x demand} (h : s.Formed) : (s.readHalf cid k cell x demand).Formed := by
  unfold State.readHalf
  refine .ite h ?_
  dsimp only
  split
  · exact .ite (.ite h.consumeError h.consumeError.fetchFail) h.fetchFail
  · exact h.correctBytes.modSlot

theorem fetchBlock {cid k a demand arrived} (h : s.Formed) : (s.fetchBlock cid k a demand arrived).Formed := by
  unfold State.fetchBlock
  dsimp only
  split
  · exact .ite h.fetchFail h.fetchFail
  · split
    next he =>
      have h := h.placeCell.of_eq he
      exact .ite h.report.modSlot.park h.modSlot
    next he =>
      have h := h.placeCell.of_eq he
      refine .ite h.readHalf (.ite ?_ h.modSlot.send.send)
      split
      · exact h.modSlot.drawChoice.readHalf.readHalf
      · exact h.modSlot.drawChoice.readHalf.send
      · exact h.modSlot.drawChoice.readHalf.send

theorem execFetchBlock (h : s.Formed) : OutForm (execFetchBlock s) :=
  .ite (.next h) (.ite (.ite (.next h.fetchBlock) (.ite (.next h.fetchBlock) (.next h))) (.next h.fetchBlock))

theorem keptTrap {cid k status} (h : s.Formed) : (s.keptTrap cid k status).Formed := h.modSlot.trapEnter

theorem annul {cid k} (h : s.Formed) : (s.annul cid k).Formed := by
  unfold State.annul
  dsimp only
  refine .ite h ?_
  split
  · exact h.keptTrap
  · split
    · exact .ite h h.push.push
    · exact .ite h.modSlot.push (.ite h.trapEnter (.ite h.modSlot h.modSlot.push))

theorem execSkipAnnul (h : s.Formed) : OutForm (execSkipAnnul s) := h.annul
theorem execIllegalEncoding (h : s.Formed) : OutForm (execIllegalEncoding s) := .ite (.next h.trapMe) (.next h.trapMe)
theorem execAsyncTrapTaken (h : s.Formed) : OutForm (execAsyncTrapTaken s) := .ite (.next h.takeAsync) (.next h)

theorem performLeft {cid k p} (h : s.Formed) : (s.performLeft cid k p).Formed := by
  unfold State.performLeft
  dsimp only
  refine .ite h ?_
  split
  · exact h.performAll.state.modSlot.modSlot
  · exact h.performAll.state.modSlot

theorem serveBank {cid b k} (h : s.Formed) : (s.serveBank cid b k).Formed := by
  unfold State.serveBank
  dsimp only
  split
  · exact h.performLeft.modSlot
  · exact h.modSlot

theorem serveTcont {cid} (h : s.Formed) : (s.serveTcont cid).Formed := by
  refine h.foldl fun t b h => ?_
  split
  · exact h.serveBank
  · exact h

theorem execTcontAccess (h : s.Formed) : OutForm (execTcontAccess s) := h.serveTcont.modCore

theorem execCheckerRetry (h : s.Formed) : OutForm (execCheckerRetry s) :=
  .ite (.next h) (.ite (.next h.push) (.next h.modCore.modSlot))

theorem execKnownAnswerTest (h : s.Formed) : OutForm (execKnownAnswerTest s) := .ite (.next h.push) (.next h)

theorem issue {cid k n i home} (h : s.Formed) : (s.issue cid k n i home).Formed := h.update.modSlot

theorem serve {cid k home again} (h : s.Formed) : ServedForm (s.serve cid k home again) := by
  unfold State.serve
  dsimp only
  refine .ite (.turn h.push.push) ?_
  split
  · exact .turn h.push.keptTrap
  · split
    · exact .turn (State.Formed.ite h h.modSlot).push.push
    · split
      · exact .run h.issue
      · exact .turn h.modSlot.push
      · exact .run h.issue.update
      · exact .run h.issue.update

theorem spare {cid} (h : s.Formed) : ServedForm (s.spare cid) := by
  unfold State.spare
  split
  · exact .turn h
  · exact h.serve

theorem position {cid} (h : s.Formed) : ServedForm (s.position cid) :=
  .ite h.spare (.ite h.park.spare (.ite (.turn h.push.push) (.ite h.serve h.spare)))

/-! ## Clauses and records -/

theorem modLaunch {job num f} (h : s.Formed) : (s.modLaunch job num f).Formed := h.modJob
theorem dropped {cid k job launch} (h : s.Formed) : (s.dropped cid k job launch).Formed := h.report.event

theorem countEnd {cid k job launch range gen index} (h : s.Formed) : (s.countEnd cid k job launch range gen index).Formed :=
  .ite h.modLaunch h.dropped

theorem countIndices {cid job launch range gen first n} (h : s.Formed) : (s.countIndices cid job launch range gen first n).Formed := by
  induction n generalizing s first with
  | zero => exact h
  | succ n ih => exact ih h.countEnd

theorem freeRecord {job num} (h : s.Formed) : (s.freeRecord job num).Formed := h.modJob

theorem removeItem {cid e} (h : s.Formed) : FstForm (s.removeItem cid e) := by
  unfold State.removeItem
  split
  · split
    · exact h.freeRecord.countEnd
    · exact h
  · exact h.countIndices
  · exact h.countEnd

theorem enqueueAt {sn e} (h : s.Formed) : (s.enqueueAt sn e).Formed := by
  unfold State.enqueueAt
  split
  · exact h.removeItem.state.update
  · exact h.modCore

theorem redirected {sn job x} (h : s.Formed) : (s.redirected sn job x).Formed := h.report.event

theorem enqueueRecord {job num cid} (h : s.Formed) : (s.enqueueRecord job num cid).Formed := by
  unfold State.enqueueRecord
  split
  · exact h
  · split
    · exact h
    · exact (State.Formed.ite h.modJob.redirected h.modJob).enqueueAt

theorem newRecord {job die occ join control} (h : s.Formed) : SndForm (s.newRecord job die occ join control) := h.update

theorem spawn {d code frame control} (h : s.Formed) : (s.spawn d code frame control).Formed := by
  unfold State.spawn
  dsimp only
  refine .ite h.doneWith (.ite h.dropped.doneWith (.ite h.trapMe (.ite ?_ h.newRecord.state.modLaunch.doneWith)))
  exact h.newRecord.state.modLaunch.request.park.send

theorem execSpawn {d a b c} (h : s.Formed) : OutForm (execSpawn d a b c s) := by
  have fence {t : State} {x y z} (h : t.Formed) :
      OutForm (.next (t.fenceThen .dev (.spawn d a b c) fun s => (s.modMe fun t => { t with stash := [] }).spawn d x y z)) :=
    .next (h.fenceThen fun _ h => h.modMe.spawn)
  exact .ite (fence h) (.ite (.next h.trapMe) (.ite (.next h.trapMe) (.ite (.next h.trapMe) (fence h.modMe))))

theorem sendJoin {x d c} (h : s.Formed) : (s.sendJoin x d c).Formed := h.request.park.send

theorem execJoin {d a} (h : s.Formed) : OutForm (execJoin d a s) :=
  .ite (.next h.trapMe) (.next (h.fenceThen fun _ h => .ite h.doneWith h.sendJoin))

theorem execJoinAtHome (h : s.Formed) : OutForm (execJoinAtHome s) := by
  unfold Machine.execJoinAtHome
  split
  next e =>
    have h := h.taken e
    dsimp only
    split
    · exact .next h.send
    · refine .ite (.ite (.next h.dropped.freeRecord.send) (.next h.enqueueRecord.send)) (.ite (.next h.dropped.send) (.ite (.next h.send) ?_))
      exact .ite (.next h.modJob.enqueueRecord.send) (.next h.modJob.send)
  next => exact .next h

theorem endThread {cid k} (h : s.Formed) : (s.endThread cid k).Formed := by
  unfold State.endThread
  dsimp only
  split
  · exact h.countEnd.modSlot.tellBroker.answerCtxsv
  · exact h.modSlot.tellBroker.answerCtxsv

theorem execExit (h : s.Formed) : OutForm (execExit s) :=
  .ite (.next h.takeAsync) (.next (h.fenceThen fun _ h => .ite h.park h.endThread))

theorem execClend {a} (h : s.Formed) : OutForm (execClend a s) :=
  .ite (.next h.trapMe) (.next (h.fenceThen fun _ h => .ite h.goOn h.sendJoin))

/-! ## Launches -/

theorem allocLaunch {job cid k d segs} (h : s.Formed) : SndForm (s.allocLaunch job cid k d segs) := h.update
theorem openLaunch {job num} (h : s.Formed) : (s.openLaunch job num).Formed := h.modJob
theorem createLaunch {job cid k d segs} (h : s.Formed) : SndForm (s.createLaunch job cid k d segs) := h.allocLaunch.state.openLaunch

theorem execLaunch {sg d a m} (h : s.Formed) : OutForm (execLaunch sg d a m s) := by
  unfold Machine.execLaunch
  dsimp only
  split
  · exact .next h.readFor
  · split
    · exact .next h.trapMe
    · exact .next (h.allocLaunch.state.modMe.fenceThen fun _ h => h.openLaunch.doneWith)
  · exact .next (h.fenceThen fun _ h => h.openLaunch.doneWith)

theorem placeIndex {job num l i} (h : s.Formed) : (s.placeIndex job num l i).Formed := by
  unfold State.placeIndex
  dsimp only
  split
  · exact h
  · refine enqueueAt (SndForm.state (.ite ?_ ?_))
    · exact State.Formed.ite h.redirected h
    · exact (State.Formed.ite h.redirected h).newRecord.state.modJob

theorem execLaunchEligible (h : s.Formed) : OutForm (execLaunchEligible s) := by
  unfold Machine.execLaunchEligible
  dsimp only
  split
  · exact .next h
  · refine .ite (.next h) ?_
    split
    · split
      · exact .next h.modLaunch.enqueueAt
      · exact .next h.modLaunch
    · exact .next h.modLaunch
    · exact .next (h.modLaunch.foldl fun _ _ h => h.placeIndex)

theorem refreshCtx {job} (h : s.Formed) : (s.refreshCtx job).Formed := by
  unfold State.refreshCtx
  split
  · exact h
  · split
    next e => exact (h.ownRead.of_eq e).modJob
    next e => exact h.ownRead.of_eq e

theorem takeNext {cid e o t} (h : s.Formed) (he : s.takeNext cid e = some (o, t)) : t.Formed := by
  unfold State.takeNext at he
  dsimp only at he
  split at he
  · obtain ⟨_, -, e⟩ := Option.map_eq_some_iff.1 he
    cases e
    exact h.modCore.freeRecord
  · obtain ⟨_, -, e⟩ := Option.map_eq_some_iff.1 he
    cases e
    exact .ite h.modCore h.modCore
  · cases he
    exact h.modCore

theorem startClause {cid k o} (h : s.Formed) : (s.startClause cid k o).Formed := h.refreshCtx.request.discardPkts.modSlot.tellBroker

theorem execClauseStart (h : s.Formed) : OutForm (execClauseStart s) := by
  unfold Machine.execClauseStart
  dsimp only
  split
  · exact .next h
  · refine .ite (.next h) ?_
    split
    · exact .next h.modCore
    · split
      next e => exact .next (h.modCore.takeNext e).startClause
      next => exact .next h.modCore

/-! ## Waits and cancels -/

theorem execWaitcWait {level d a} (h : s.Formed) : OutForm (execWaitcWait level d a s) :=
  .ite (.next h.trapMe) (.ite (.next h.trapMe) (.next h.park))

theorem execWaitcTest {level d a} (h : s.Formed) : OutForm (execWaitcTest level d a s) := .ite (.next h.trapMe) h.doneG
theorem markCancelled {job level unit} (h : s.Formed) : (s.markCancelled job level unit).Formed := h.modJob

theorem execCancel {level d a} (h : s.Formed) : OutForm (execCancel level d a s) :=
  .ite (.next h.trapMe) (.next (h.request.markCancelled.update.park.foldl fun _ _ h => h.send))

theorem dropUnplaced {job num l} (h : s.Formed) : FstForm (s.dropUnplaced job num l) := h.modLaunch

theorem cancelDie {c die} (h : s.Formed) : FstForm (s.cancelDie c die) := by
  unfold State.cancelDie
  refine .foldl (.foldl (.foldl h ?_) ?_) ?_
  · exact fun _ _ h => h.state.modCore.removeItem.state
  · exact fun _ _ h => h.state.removeItem.state
  · exact fun _ _ h => h.state.dropUnplaced.state

theorem execCancelAtHome (h : s.Formed) : OutForm (execCancelAtHome s) := by
  unfold Machine.execCancelAtHome
  split
  next e =>
    have h := h.taken e
    split
    · exact .next h
    · dsimp only
      refine .ite (.next ?_) (.next ?_)
      · exact (State.Formed.ite h.cancelDie.state.cancelCopies h.cancelDie.state).update.send
      · exact (State.Formed.ite h.cancelDie.state.cancelCopies h.cancelDie.state).update
  next => exact .next h

theorem wakeWaitc {cid} (h : s.Formed) : (s.wakeWaitc cid).Formed := by
  refine h.foldl fun t k h => ?_
  dsimp only
  split
  · exact .ite h.modSlot.goOn h
  · exact h

theorem freeLaunches {job} (h : s.Formed) : (s.freeLaunches job).Formed := h.foldl fun _ _ h => h.modJob

/-! ## Phrases -/

theorem execDqpush {d a b} (h : s.Formed) : OutForm (execDqpush d a b s) :=
  .next (h.fenceThen fun _ h => .ite h.doneWith (.ite h.doneWith h.modCore.doneWith))

theorem execDqpop {d c} (h : s.Formed) : OutForm (execDqpop d c s) := by
  unfold Machine.execDqpop
  dsimp only
  split
  · exact .next h.doneWith
  · exact .next h.modCore.doneWith

theorem execDqsteal {d a} (h : s.Formed) : OutForm (execDqsteal d a s) := by
  unfold Machine.execDqsteal
  dsimp only
  split
  · exact .next (h.fenceThen fun _ h => .ite h.modMe.modCore.doneWith h.modMe.park.send)
  · split
    · exact .next h.trapMe
    · exact .ite (.next h.doneWith) (.next (h.request.modCore.modMe.fenceThen fun _ h => .ite h.modMe.modCore.doneWith h.modMe.park.send))

theorem execDqcnt {d clr} (h : s.Formed) : OutForm (execDqcnt d clr s) := (State.Formed.ite h.modCore h).doneG

theorem execStealArrival (h : s.Formed) : OutForm (execStealArrival s) := by
  unfold Machine.execStealArrival
  split
  next e =>
    have h := h.taken e
    exact .ite (.next h.send) (.next (State.Formed.ite h h.modCore).send)
  next => exact .next h

theorem movePhrases {sn ps} (h : s.Formed) : (s.movePhrases sn ps).Formed := by
  refine h.foldl fun t p h => ?_
  split
  · exact .ite h.report.report h.modCore
  · exact h.report.report

theorem execStealReply (h : s.Formed) : OutForm (execStealReply s) := by
  unfold Machine.execStealReply
  split
  next e =>
    have h := h.taken e
    dsimp only
    refine .ite (.next h.movePhrases) ?_
    split
    · exact .ite (.next h.modCore.modSlot.goOn) (.next h.modCore)
    · exact .next h.modCore
  next => exact .next h

/-! ## Ranges and generations -/

theorem execDistributorRequest (h : s.Formed) : OutForm (execDistributorRequest s) := by
  unfold Machine.execDistributorRequest
  dsimp only
  split
  · exact .next h
  · refine .ite (.next h) ?_
    split
    · exact .next h
    · exact .next h.modLaunch.send

theorem handOut {job num die tile l} (h : s.Formed) : (s.handOut job num die tile l).Formed := .ite h.modLaunch h.modLaunch.send

theorem placeRange {job num die tile n l} (h : s.Formed) : (s.placeRange job num die tile n l).Formed := by
  unfold State.placeRange
  dsimp only
  split
  · exact h.modLaunch
  · split
    · exact h.modLaunch
    · exact h.modLaunch.enqueueAt

theorem execRangeHandout (h : s.Formed) : OutForm (execRangeHandout s) := by
  unfold Machine.execRangeHandout
  split
  next e =>
    split
    · exact .next (h.taken e).handOut
    · exact .next (h.taken e)
  next e =>
    split
    · exact .next (h.taken e).placeRange
    · exact .next (h.taken e)
  next => exact .next h

theorem reissue {job num rs} (h : s.Formed) : (s.reissue job num rs).Formed := by
  unfold State.reissue
  split
  · exact h
  · exact h.modLaunch.foldl fun _ _ h => h.send

theorem loseDie {job num die} (h : s.Formed) : (s.loseDie job num die).Formed := by
  unfold State.loseDie
  split
  · exact h
  · refine .ite h (.ite (.ite ?_ ?_) (.ite ?_ (.ite ?_ ?_)))
    · exact h.modLaunch.modLaunch.modLaunch
    · exact h.modLaunch.modLaunch.modLaunch.foldl fun _ _ h => h.report
    · exact h.modLaunch.modLaunch
    · exact h.modLaunch.modLaunch.modLaunch
    · exact h.modLaunch.modLaunch.reissue

theorem discardJoin {m} (h : s.Formed) : (s.discardJoin m).Formed := by
  unfold State.discardJoin
  split
  · exact h.update.dropped.send
  · exact h

theorem execGenerationSweep (h : s.Formed) : OutForm (execGenerationSweep s) := by
  unfold Machine.execGenerationSweep
  split
  next e =>
    have h := h.taken e
    split
    · exact .next h
    · dsimp only
      split
      · exact .ite (.next ((h.foldl fun _ _ h => h.discardJoin).foldl fun _ _ h => h.modCore).modJob.modLaunch)
          (.next ((h.foldl fun _ _ h => h.discardJoin).foldl fun _ _ h => h.modCore).modJob.modLaunch.modLaunch.reissue)
      · exact .next ((h.foldl fun _ _ h => h.discardJoin).foldl fun _ _ h => h.modCore).modJob.modLaunch
  next => exact .next h

end State.Formed
end Sys2Proof.Machine

namespace Sys2Proof.Machine
namespace State.Formed
variable {s : State}

/-! ## The token brokers -/

theorem giveTokens {cid n} (h : s.Formed) : (s.giveTokens cid n).Formed := .ite h h.modCore.sendSoon

theorem cancelNotices {die n fuel} (h : s.Formed) : (s.cancelNotices die n fuel).Formed := by
  induction fuel generalizing s n with
  | zero => exact h
  | succ fuel ih =>
    unfold State.cancelNotices
    refine .ite h ?_
    split
    · exact h
    · exact ih h.modCore

theorem serveQueue {die fuel} (h : s.Formed) : (s.serveQueue die fuel).Formed := by
  induction fuel generalizing s with
  | zero => exact h
  | succ fuel ih =>
    unfold State.serveQueue
    split
    · exact h
    · exact .ite h (ih h.giveTokens.modCore)

theorem revoke {die n fuel} (h : s.Formed) : (s.revoke die n fuel).Formed := by
  induction fuel generalizing s n with
  | zero => exact h
  | succ fuel ih =>
    unfold State.revoke
    refine .ite h ?_
    split
    · exact h
    · exact ih h.drawLatency.request.modCore

theorem giveBack {die avail rs} (h : s.Formed) : (s.giveBack die avail rs).Formed := by
  induction rs generalizing s avail with
  | nil => exact h
  | cons r rs ih =>
    unfold State.giveBack
    refine .ite ?_ h
    dsimp only
    split
    · exact ih h.modDie.sendSoon
    · exact ih h.modDie

theorem trimNotices {die} (h : s.Formed) : (s.trimNotices die).Formed := h.foldl fun _ _ h => .ite h h.modCore
theorem settleZone {die} (h : s.Formed) : (s.settleZone die).Formed := h.cancelNotices.trimNotices.serveQueue.revoke.giveBack

theorem wakeTokens {cid} (h : s.Formed) : (s.wakeTokens cid).Formed := by
  refine h.foldl fun t k h => ?_
  split
  · exact .ite h.modSlot.goOn h
  · exact h

theorem retarget {cid t} (h : s.Formed) : (s.retarget cid t).Formed :=
  .ite h (State.Formed.ite h.giveTokens.modCore (.ite h.modCore h.modCore.modCore.sendSoon)).settleZone.wakeTokens

theorem execBrokerClassUpdate (h : s.Formed) : OutForm (execBrokerClassUpdate s) := by
  unfold Machine.execBrokerClassUpdate
  split
  next e => exact .next (h.taken e).retarget
  next => exact .next h

theorem catchUp {cid} (h : s.Formed) : (s.catchUp cid).Formed := h.foldl fun _ _ h => h.takeMsg.retarget

theorem execHoldingChange (h : s.Formed) : OutForm (execHoldingChange s) := by
  unfold Machine.execHoldingChange
  split
  next e => exact .next (h.taken e).modCore.wakeTokens
  next => exact .next h

theorem execRevocationNoticeExpiry (h : s.Formed) : OutForm (execRevocationNoticeExpiry s) :=
  .ite (.next h) (.next h.modCore.sendSoon.settleZone)

theorem brokerReply {d x c} (h : s.Formed) : (s.brokerReply d x c).Formed := h.request.park.sendSoon
theorem setExplicit {f} (h : s.Formed) : (s.setExplicit f).Formed := h.modMe.retarget

theorem execTkreq {d a wait all} (h : s.Formed) : OutForm (execTkreq d a wait all s) :=
  .ite (.ite (.next h.modMe.doneWith) (.next h.modMe.park)) (.ite (.next h.trapMe) (.ite (.next h.trapMe)
    (.ite (.next h.catchUp.brokerReply) (.ite (.next h.catchUp.setExplicit.modMe.brokerReply) (.next h.catchUp.setExplicit.brokerReply)))))

theorem execTkret {d a} (h : s.Formed) : OutForm (execTkret d a s) :=
  .ite (.next h.trapMe) (.ite (.next h.trapMe) (.next h.catchUp.setExplicit.brokerReply))

theorem execTkq {d sel} (h : s.Formed) : OutForm (execTkq d sel s) := .next h.catchUp.brokerReply

theorem execEcset {d a cls} (h : s.Formed) : OutForm (execEcset d a cls s) := by
  unfold Machine.execEcset
  dsimp only
  refine .ite (.next h.catchUp.modMe.retarget.brokerReply) (.ite ?_ (.ite ?_ (.next h.trapMe)))
  · split
    · exact .next h.modJob.brokerReply
    · exact .next h.brokerReply
  · split
    · exact .next h.modJob.modLaunch.brokerReply
    · exact .next h.brokerReply

/-! ## Loans -/

theorem modLoan {die k f} (h : s.Formed) : (s.modLoan die k f).Formed := h.modDie

theorem execTklendLend {d a b} (h : s.Formed) : OutForm (execTklendLend d a b s) := by
  unfold Machine.execTklendLend
  split
  · exact .next h.trapMe
  · exact .ite (.next h.catchUp.brokerReply) (.next h.catchUp.modLoan.settleZone.sendSoon.brokerReply)

theorem execTklendRecall {d a b} (h : s.Formed) : OutForm (execTklendRecall d a b s) := by
  unfold Machine.execTklendRecall
  split
  · exact .next h.trapMe
  · exact .ite (.next h.catchUp.brokerReply) (.next h.catchUp.request.modLoan.park.sendSoon)

theorem execLoanMessage (h : s.Formed) : OutForm (execLoanMessage s) := by
  unfold Machine.execLoanMessage
  split
  next e =>
    have h := h.taken e
    split
    · exact .next h
    · exact .next (State.Formed.ite h.modLoan.modDie h.modLoan).settleZone
  next => exact .next h

theorem takeReply {cid k id x} (h : s.Formed) : (s.takeReply cid k id x).Formed := by
  unfold State.takeReply
  split
  next d c _ =>
    refine .ite h ?_
    cases d with
    | some d => exact h.modSlot.goOn
    | none => exact h.goOn
  next => exact h

theorem execRecallReturn (h : s.Formed) : OutForm (execRecallReturn s) := by
  unfold Machine.execRecallReturn
  split
  next e =>
    have h := h.taken e
    split
    · exact .next h
    · dsimp only
      split
      · exact .next h.modLoan.settleZone.takeReply
      · exact .next h.modLoan.settleZone
  next => exact .next h

theorem endLoans {die} (h : s.Formed) : (s.endLoans die).Formed := by
  refine (h.update.modDie.foldl fun t k h => ?_).foldl fun t id h => ?_
  · split
    · exact h
    · split
      · exact h
      · exact h.modLoan.modDie.settleZone
  · split
    · exact h.takeReply
    · exact h

theorem execPoolWrite (h : s.Formed) : OutForm (execPoolWrite s) := .next h.modDie.settleZone

/-! ## Accesses at a home elsewhere -/

theorem homeUnits {a us sum} (h : s.Formed) : FstForm (s.homeUnits a us sum) := by
  induction us generalizing s sum with
  | nil => exact h
  | cons u us ih =>
    unfold State.homeUnits
    split
    · exact ih (.ite h.consumeError h)
    · refine .ite (ih h) ?_
      split
      next e => exact ih (h.homeOp.of_eq e)
      next e => exact ih (h.homeOp.of_eq e)
      next e => exact ih (h.homeOp.of_eq e)

theorem pickUnits {late us} (h : s.Formed) : FstForm (s.pickUnits late us) := by
  induction us generalizing s late with
  | nil => exact h
  | cons u us ih => exact .ite (ih h.drawChoice).state (ih h.drawChoice).state

theorem performPart {msg id home} (h : s.Formed) : (s.performPart msg id home).Formed := by
  unfold State.performPart
  split
  · exact h
  · have pick {us : List AUnit} : FstForm (if us.length ≤ 1 then (s, us, []) else s.pickUnits [] us) := .ite h h.pickUnits
    dsimp only
    split
    · exact pick.state.homeUnits.state.hold
    · refine .ite pick.state.homeUnits.state.update.sendAgain (.ite ?_ ?_)
      · exact pick.state.homeUnits.state.update.answer.foldl fun _ _ h => h.serveWord
      · exact pick.state.homeUnits.state.update.answer

theorem accessEvent (h : s.Formed) : OutForm s.accessEvent := by
  unfold State.accessEvent
  split
  next e => exact .next (h.taken e).performPart
  next => exact .next h

theorem execRemoteAccess (h : s.Formed) : OutForm (execRemoteAccess s) := by
  unfold Machine.execRemoteAccess
  split
  next e => exact .ite (.next h) (.next (h.taken e).send)
  next => exact h.accessEvent

theorem execCombineWindowExpiry (h : s.Formed) : OutForm (execCombineWindowExpiry s) := by
  unfold Machine.execCombineWindowExpiry
  split
  · exact .next h
  · split
    · exact .next h
    · refine .next (h.foldl fun t x h => ?_)
      split
      next e => exact (h.taken e).performPart
      next e => exact h.taken e

theorem ackThread {cid k} (h : s.Formed) : (s.ackThread cid k).Formed := by
  unfold State.ackThread
  dsimp only
  split
  · exact .ite h.startAccess h
  · exact .ite h.goOn h
  · exact h

theorem execPostedWriteAck (h : s.Formed) : OutForm (execPostedWriteAck s) := by
  unfold Machine.execPostedWriteAck
  split
  next e =>
    split
    · exact .next (h.taken e).closePart.ackThread
    · exact .next (h.taken e)
  next => exact .next h

theorem takeFailure {cid k id cause detail} (h : s.Formed) : (s.takeFailure cid k id cause detail).Formed :=
  .ite h.modCore.trapEnter h.modCore

theorem execRemoteReply (h : s.Formed) : OutForm (execRemoteReply s) := by
  unfold Machine.execRemoteReply
  split
  next e => exact .next (h.taken e).closePart
  next e => exact .next (h.taken e).takeReply
  next e => exact .next (h.taken e).takeFailure
  next => exact .next h

theorem execWaiterResend (h : s.Formed) : OutForm (execWaiterResend s) := by
  unfold Machine.execWaiterResend
  split
  next e =>
    have h := h.taken e
    split
    · exact .ite (.next h.update.performPart) (.next h.update.send)
    · exact .next h
  next => exact .next h

theorem execWaiterCancel (h : s.Formed) : OutForm (execWaiterCancel s) := by
  unfold Machine.execWaiterCancel
  split
  next e =>
    have h := h.taken e
    split
    · exact .ite (.next h) (.next h.dropAccess.abandon)
    · exact .next h
  next => exact .next h

theorem wakeConcords {l} (h : s.Formed) : (s.wakeConcords l).Formed := by
  induction l generalizing s with
  | nil => exact h
  | cons x l ih =>
    unfold State.wakeConcords
    split
    · split
      · exact .ite (ih h.dropWaiter.answer) (ih h)
      · exact .ite (ih h.dropWaiter.answer) (ih h)
      · exact ih h
    · exact ih h

theorem execFenceProbe (h : s.Formed) : OutForm (execFenceProbe s) := by
  unfold Machine.execFenceProbe
  split
  next e => exact .ite (.next (h.taken e).send) (.next h)
  next => exact .next h

theorem execFenceEcho (h : s.Formed) : OutForm (execFenceEcho s) := by
  unfold Machine.execFenceEcho
  split
  next e =>
    have h := h.taken e
    split
    · refine .ite (.next h.modSlot) ?_
      dsimp only
      split
      · exact .next (State.Formed.ite h.modSlot h).goOn
      · exact .next (State.Formed.ite h.modSlot h).goOn
    · exact .next h
  next => exact .next h

/-! ## Service of a waiting access -/

theorem wakeCopy {cid id status} (h : s.Formed) : (s.wakeCopy cid id status).Formed := by
  unfold State.wakeCopy
  exact h.modCore

theorem wakeEngine {cid id status} (h : s.Formed) : (s.wakeEngine cid id status).Formed := by
  unfold State.wakeEngine
  split
  · exact .ite h.setMx h.mxLost
  · split
    · exact .ite h.modCore.lxGo h.lxLost
    · exact h.wakeCopy

theorem wakeThread {cid k status} (h : s.Formed) : (s.wakeThread cid k status).Formed := by
  unfold State.wakeThread
  extract_lets t
  rcases t.st with _ | _ | p | _
  · exact h
  · exact h
  · cases p with
    | pageFault a => exact .ite h.modSlot h.dropReserved.trapEnter
    | postedFault a f b =>
      dsimp only
      split
      next e => exact (h.checkAsk.of_eq e).startAccess
      next e => exact (h.checkAsk.of_eq e).report.park
      next e => exact (h.checkAsk.of_eq e).consumeError
      next e => exact (h.checkAsk.of_eq e).modSlot.update
    | treeWrite a es vals => exact .ite h.finishResult h.resultFailed.goOn
    | stopping _ => exact h.modSlot
    | _ => exact h
  · exact h.update

/-! ## Persistence -/

theorem execPersistAccept (h : s.Formed) : OutForm (execPersistAccept s) := by
  unfold Machine.execPersistAccept
  split
  · exact .ite h.accessEvent (.next h)
  · exact .next h

theorem execMediaWrite (h : s.Formed) : OutForm (execMediaWrite s) := .next h.update
theorem askSeq {d row kind} (h : s.Formed) : (s.askSeq d row kind).Formed := h.request.park.send
theorem execPbar {d sg} (h : s.Formed) : OutForm (execPbar d sg s) := .ite (.next h.trapMe) (.next (h.fenceThen fun _ h => h.askSeq))
theorem execPseq {d} (h : s.Formed) : OutForm (execPseq d s) := .next h.askSeq
theorem execPloss {d sel} (h : s.Formed) : OutForm (execPloss d sel s) := .next h.askSeq

theorem execSeqIncrement (h : s.Formed) : OutForm (execSeqIncrement s) := by
  unfold Machine.execSeqIncrement
  split
  next e => exact .ite (.next h) (.next (State.Formed.ite (h.taken e).update (h.taken e)).send)
  next => exact .next h

end State.Formed
end Sys2Proof.Machine

namespace Sys2Proof.Machine
namespace State.Formed
variable {s : State}

/-! ## Containment -/

theorem dropThread {cid k} (h : s.Formed) : (s.dropThread cid k).Formed :=
  (h.performLeft.dropReserved.closePackets.foldl fun _ _ h => .ite h.dropAccess h.update).modCore.modSlot.leaveTrees.tellBroker.answerCtxsv

theorem restart {o sn} (h : s.Formed) : (s.restart o sn).Formed := h.enqueueAt

theorem restartAway {o sn} (h : s.Formed) : (s.restartAway o sn).Formed := by
  unfold State.restartAway
  split
  · exact h.restart
  · exact h.report

theorem moveEntries {sn q} (h : s.Formed) : (s.moveEntries sn q).Formed := by
  refine h.foldl fun t x h => ?_
  split
  · exact h.enqueueAt
  · exact h.modCore

theorem sealChannel {cid k ch} (h : s.Formed) : (s.sealChannel cid k ch).Formed := by
  unfold State.sealChannel
  dsimp only
  refine .ite h (State.Formed.ite ?_ ?_).wakeReceiver
  · exact (h.update.foldl fun _ _ h => h.endPkt).request.modCore
  · exact h.update.foldl fun _ _ h => h.endPkt

theorem sealChannels {cid} (h : s.Formed) : (s.sealChannels cid).Formed := h.foldl fun _ _ h => h.foldl fun _ _ h => h.sealChannel
theorem failHeld {cid} (h : s.Formed) : (s.failHeld cid).Formed := h.foldl fun _ _ h => h.dropWaiter.answer
theorem failTrees {cid} (h : s.Formed) : (s.failTrees cid).Formed := h.foldl fun _ _ h => .ite h (h.treeFailed.foldl fun _ _ h => h.treeGo)

theorem emptyTile {cid} (h : s.Formed) : (s.emptyTile cid).Formed := by
  unfold State.emptyTile
  dsimp only
  refine (State.Formed.foldl ?_ fun t x h => ?_).modCore.movePhrases
  · exact (h.dropCopies.foldl fun _ _ h => h.dropThread).modCore.modCore.moveEntries
  · split
    · exact .ite h h.restartAway
    · exact h

theorem logEntry {tile column cause} (h : s.Formed) : (s.logEntry tile column cause).Formed := .ite h.update h.update
theorem addPending {cid cause} (h : s.Formed) : (s.addPending cid cause).Formed := .ite h (.ite h.update h.logEntry)

theorem containDead {cid cause} (h : s.Formed) : (s.containDead cid cause).Formed := by
  unfold State.containDead
  dsimp only
  refine .ite (State.Formed.foldl ?_ fun _ _ h => .ite h h.dropThread) ?_
  · exact (State.Formed.ite h.event.report h.event).dropCopies
  · exact (State.Formed.ite (State.Formed.ite h.event.report h.event)
      (State.Formed.ite h.event.report h.event).addPending).sealChannels.failHeld.failTrees.emptyTile.modCore.settleZone

theorem contain {cid cause} (h : s.Formed) : (s.contain cid cause).Formed := .ite h.containDead (.ite h h.update.containDead)

theorem fenceDie {die} (h : s.Formed) : (s.fenceDie die).Formed := by
  refine .ite h (State.Formed.foldl ?_ fun _ _ h => h.foldl fun _ _ h => h.loseDie)
  exact (h.update.modDie.endLoans.foldl fun _ _ h => h.containDead).containDead

theorem endJob {tag} (h : s.Formed) : (s.endJob tag).Formed :=
  (h.foldl fun _ _ h => (h.foldl fun _ _ h => h.dropThread).dropCopies.modCore).modJob.update.event

theorem poisonLine {a} (h : s.Formed) : (s.poisonLine a).Formed := .ite h.modLine.event.endJob h.modLine.event
theorem execScrub (h : s.Formed) : OutForm (execScrub s) := .ite (.next h.correctBytes.poisonLine) (.next h.correctBytes)
theorem execMemoryError (h : s.Formed) : OutForm (execMemoryError s) := .next h.modLine

/-! ## Commands of the supervisors -/

theorem cmdDone {die result} (h : s.Formed) : OutForm (s.cmdDone die result) := .next h.modDie
theorem giveCommand {die x} (h : s.Formed) : (s.giveCommand die x).Formed := h.modDie
theorem execCommandUnassigned (h : s.Formed) : OutForm (execCommandUnassigned s) := .ite h.cmdDone (.next h)

theorem tagLines {a tag n} (h : s.Formed) : (s.tagLines a tag n).Formed := by
  induction n generalizing s a with
  | zero => exact h
  | succ n ih =>
    unfold State.tagLines
    split
    · exact ih h.modLine
    · exact ih h

theorem execTag (h : s.Formed) : OutForm (execTag s) := .ite (.next h) (.ite h.cmdDone h.tagLines.cmdDone)
theorem execTbinv (h : s.Formed) : OutForm (execTbinv s) := .ite (.next h) (.ite h.cmdDone h.update.cmdDone)

theorem execSavearea (h : s.Formed) : OutForm (execSavearea s) := by
  unfold Machine.execSavearea
  refine .ite (.next h) ?_
  split
  · exact h.cmdDone
  · exact .ite h.cmdDone h.update.cmdDone

theorem readAlloc {r} (h : s.Formed) : FstForm (s.readAlloc r) := by
  unfold State.readAlloc
  refine .ite h ?_
  split
  next e => exact h.ownRead.of_eq e
  next e => exact h.ownRead.of_eq e

theorem bindTag {tag a r alloc} (h : s.Formed) : (s.bindTag tag a r alloc).Formed := h.modJob

theorem execJobctx (h : s.Formed) : OutForm (execJobctx s) := by
  unfold Machine.execJobctx
  refine .ite (.next h) (.ite h.cmdDone ?_)
  split
  next e => exact (h.ownRead.of_eq e).cmdDone
  next e =>
    have h := h.ownRead.of_eq e
    refine .ite h.cmdDone ?_
    split
    next e => exact (h.readAlloc.of_eq e).bindTag.cmdDone
    next e => exact (h.readAlloc.of_eq e).cmdDone

theorem areaWords {a n} (h : s.Formed) : FstForm (s.areaWords a n) := by
  unfold State.areaWords
  split
  next e => exact h.ownRead.of_eq e
  next e => exact h.ownRead.of_eq e

theorem drawWords {n} (h : s.Formed) : SndForm (s.drawWords n) := by
  induction n generalizing s with
  | zero => exact h
  | succ n ih => exact ih (s := s.drawWord.2) h.drawWord

/- The two image commands work on areas of a fixed size. Their proofs name that size and the cut into lines, so that neither is evaluated. -/

theorem execEngsv (h : s.Formed) : OutForm (execEngsv s) := by
  obtain ⟨n, hn⟩ : ∃ n, n = engWords := ⟨_, rfl⟩
  obtain ⟨cut, hc⟩ : ∃ cut, cut = linePieces := ⟨_, rfl⟩
  unfold Machine.execEngsv
  rw [← hn, ← hc]
  dsimp only
  refine .ite (.next h) ?_
  split
  · exact h.cmdDone
  · split
    · exact h.consumeError.cmdDone
    · exact (h.drawWords.state.foldl fun _ _ h => h.writePlain).update.cmdDone

theorem execEngld (h : s.Formed) : OutForm (execEngld s) := by
  obtain ⟨n, hn⟩ : ∃ n, n = engWords := ⟨_, rfl⟩
  unfold Machine.execEngld
  rw [← hn]
  dsimp only
  refine .ite (.next h) ?_
  split
  · exact h.cmdDone
  · split
    next e => exact (h.areaWords.of_eq e).cmdDone
    next e => exact (h.areaWords.of_eq e).modCore.cmdDone

theorem execSlotEnd (h : s.Formed) : OutForm (execSlotEnd s) := by
  unfold Machine.execSlotEnd
  dsimp only
  split
  · exact h.closePackets.endThread.cmdDone
  · exact .ite h.cmdDone (.next h)

theorem execSlotRestore (h : s.Formed) : OutForm (execSlotRestore s) := by
  unfold Machine.execSlotRestore
  dsimp only
  split
  · exact h.restoreSlot.cmdDone
  · exact .ite h.cmdDone (.next h)

theorem execSlotRestart (h : s.Formed) : OutForm (execSlotRestart s) := by
  unfold Machine.execSlotRestart
  dsimp only
  split
  · split
    · exact h.dropThread.restart.cmdDone
    · exact h.cmdDone
  · exact .ite h.cmdDone (.next h)

theorem execFenceCommand (h : s.Formed) : OutForm (execFenceCommand s) := .ite (.next h) h.fenceDie.cmdDone
theorem execHome (h : s.Formed) : OutForm (execHome s) := .ite (.next h) (.ite h.cmdDone h.update.cmdDone)
theorem execShutdown (h : s.Formed) : OutForm (execShutdown s) := .ite (.next h) (.ite h.update.update.cmdDone (.next h.update))
theorem execTimer (h : s.Formed) : OutForm (execTimer s) := .ite (.next h) (.ite h.cmdDone h.modDie.cmdDone)

theorem execService (h : s.Formed) : OutForm (execService s) := by
  unfold Machine.execService
  refine .ite (.next h) ?_
  have read {a n} : FstForm (if n = 0 then (s, some []) else s.areaWords a n) := .ite h h.areaWords
  dsimp only
  split
  next e => exact (read.of_eq e).cmdDone
  next e =>
    have h := read.of_eq e
    split
    · exact h.cmdDone
    · exact .ite h.update.cmdDone h.cmdDone

theorem execStart (h : s.Formed) : OutForm (execStart s) := by
  unfold Machine.execStart
  refine .ite (.next h) (.ite h.cmdDone ?_)
  split
  next e => exact (h.ownRead.of_eq e).cmdDone
  next e =>
    have h := h.ownRead.of_eq e
    refine .ite h.cmdDone ?_
    split
    next e => exact (h.ownRead.of_eq e).cmdDone
    next e => exact (h.ownRead.of_eq e).createLaunch.state.modDie.cmdDone

theorem execTimerExpiry (h : s.Formed) : OutForm (execTimerExpiry s) := by
  unfold Machine.execTimerExpiry
  generalize List.range 16 = slots
  dsimp only
  split
  · refine .ite (.next h) (.ite (.next ?_) (.next ?_))
    · exact (h.modDie.foldl fun _ _ h => h.wakeSlot.state).update
    · exact h.modDie.foldl fun _ _ h => h.wakeSlot.state
  · exact .next h

end State.Formed
end Sys2Proof.Machine

namespace Sys2Proof.Machine
namespace State.Formed
variable {s : State}

/-! ## Registers -/

theorem netWrite {cid o x} (h : s.Formed) : (s.netWrite cid o x).Formed := by
  unfold State.netWrite
  refine .ite h.modCore (.ite h.modCore (.ite h.modCore (.ite h.modCore (.ite ?_ h))))
  dsimp only
  split
  · exact h.modTree
  · exact h.modTree
  · exact .ite h.modTree h

theorem homeWrite {o x} (h : s.Formed) : (s.homeWrite o x).Formed := by
  unfold State.homeWrite
  refine .ite h ?_
  split
  · exact h.update
  · exact h.update
  · exact h.update
  · exact h

theorem commandWrite {die o x} (h : s.Formed) : (s.commandWrite die o x).Formed := .ite h.giveCommand (.ite h.modDie (.ite h.modDie h))

theorem rootWrite {port off x} (h : s.Formed) : (s.rootWrite port off x).Formed := by
  unfold State.rootWrite
  refine .ite h.push (.ite (.ite h.update h) (.ite ?_ (.ite (.ite h.update h) (.ite (.ite h.update h) (.ite (.ite h.update h) (.ite ?_ h))))))
  · split
    · exact h
    · exact .ite h.push (.ite h.push h)
  · split
    · exact .ite h.push h
    · exact h

theorem regWrite {port bySup die off x} (h : s.Formed) : (s.regWrite port bySup die off x).Formed := by
  unfold State.regWrite
  split
  · exact h.netWrite
  · exact .ite (.ite h.push h) (.ite h.homeWrite (.ite (.ite h.commandWrite h) (.ite h.rootWrite h)))

theorem execRegisterWrite (h : s.Formed) : OutForm (execRegisterWrite s) := by
  unfold Machine.execRegisterWrite
  split
  next e =>
    have h := h.taken e
    split
    · exact .next (h.foldl fun _ _ h => h.regWrite).update.answer
    · exact .next h
  next => exact .next h

theorem execSemaphoreClaim (h : s.Formed) : OutForm (execSemaphoreClaim s) := by
  unfold Machine.execSemaphoreClaim
  split
  · exact .next h
  · exact .next h.update

theorem execSemaphoreRelease (h : s.Formed) : OutForm (execSemaphoreRelease s) := .next h.update

theorem modPort {p f} (h : s.Formed) : (s.modPort p f).Formed := by
  cases p with
  | A => exact h.update
  | B => exact h.update

theorem execLinkDown (h : s.Formed) : OutForm (execLinkDown s) := .next h.modPort
theorem execLinkUp (h : s.Formed) : OutForm (execLinkUp s) := .next h.modPort
theorem execLinkDownTimeout (h : s.Formed) : OutForm (execLinkDownTimeout s) := .next (.ite h.update h)

/-! ## The hosts -/

theorem hostCells {port job ctx wr ps} (h : s.Formed) : FstForm (s.hostCells port job ctx wr ps) := by
  induction ps generalizing s with
  | nil => exact h
  | cons p ps ih =>
    obtain ⟨a, n⟩ := p
    unfold State.hostCells
    dsimp only
    split
    next e => exact h.translate.of_eq e
    next e => exact ih (h.translate.of_eq e)

theorem hostCheck {q} (h : s.Formed) : FstForm (s.hostCheck q) := by
  unfold State.hostCheck
  dsimp only
  refine .ite h (.ite ?_ (.ite h (.ite h ?_)))
  · split
    · exact h
    · refine .ite h ?_
      split
      · exact .ite h h
      · exact h
  · split
    · exact h
    · refine .ite h ?_
      split
      next e => exact h.hostCells.of_eq e
      next e =>
        have h := h.hostCells.of_eq e
        split
        · exact .ite h h
        · exact h

theorem hostAnswer {q data refusal} (h : s.Formed) : (s.hostAnswer q data refusal).Formed := h.update

theorem writePiecesAt {x l} (h : s.Formed) : (s.writePiecesAt x l).Formed := by
  induction l generalizing s x with
  | nil => exact h
  | cons c l ih => exact ih h.accept.writePlain

theorem hostMemory {q onWay} (h : s.Formed) : (s.hostMemory q onWay).Formed := by
  unfold State.hostMemory
  split
  next e => exact (h.hostCheck.of_eq e).hostAnswer
  next e => exact (h.hostCheck.of_eq e).consumeError.hostAnswer
  next e => exact (h.hostCheck.of_eq e).update.report
  next e =>
    have h := h.hostCheck.of_eq e
    dsimp only
    refine .ite h.update (.ite ?_ ?_)
    · exact (h.foldl fun _ _ h => h.correctBytes).writePiecesAt.hostAnswer
    · exact (h.foldl fun _ _ h => h.correctBytes).hostAnswer

theorem hostRegister {q} (h : s.Formed) : (s.hostRegister q).Formed :=
  .ite h.hostAnswer (.ite h.hostAnswer (.ite h.hostAnswer (.ite h.regWrite.hostAnswer h.hostAnswer)))

theorem hostServe {q} (h : s.Formed) : (s.hostServe q).Formed := by
  unfold State.hostServe
  dsimp only
  refine .ite h.hostRegister (.ite (hostMemory (SndForm.state ?_)) (update (SndForm.state ?_)))
  · exact mayDraw h
  · exact mayDraw h

theorem execHostAccess (h : s.Formed) : OutForm (execHostAccess s) :=
  .ite (.next h.update) (.ite (.next h.update) (.next h.update.hostServe))

theorem hostResume {x} (h : s.Formed) : (s.hostResume x).Formed := by
  unfold State.hostResume
  split
  · exact h.hostServe
  · exact .ite h.drawChoice.hostMemory h.update
  · exact h.hostMemory
  · exact h.update

theorem resumeHosts (h : s.Formed) : s.resumeHosts.Formed := .ite h (h.update.foldl fun _ _ h => h.hostResume)

theorem wakeHost {id status} (h : s.Formed) : (s.wakeHost id status).Formed := by
  unfold State.wakeHost
  split
  · exact h
  · exact .ite h.update.hostMemory h.update.hostAnswer

theorem execWakeMessage (h : s.Formed) : OutForm (execWakeMessage s) := .ite (.next h.wakeHost) (.ite (.next h.wakeEngine) (.next h.wakeThread))
theorem execAttestGo (h : s.Formed) : OutForm (execAttestGo s) := .next h.update

theorem execAttestReportReady (h : s.Formed) : OutForm (execAttestReportReady s) := by
  unfold Machine.execAttestReportReady
  split
  · exact .next h
  · exact .next h.drawWords.state.update

theorem execPowerControlWrite (h : s.Formed) : OutForm (execPowerControlWrite s) := .next h.update

/-! ## Power, reset and boot -/

/-- What is left of the two maps is listed as it was. -/
theorem lose {deep} (h : s.Formed) : (s.lose deep).Formed := by
  obtain ⟨hm, hl⟩ := h
  have kept := keepCells_wf hm (fun space => space == 3 || (deep && (space == 1 || space == 2))) 1
  have keptLines := keepCells_wf hl (fun space => space == 3 || (deep && (space == 1 || space == 2))) 64
  exact .ite ⟨kept, keptLines⟩ ⟨kept, keptLines⟩

theorem execIdleHoldExpiry (h : s.Formed) : OutForm (execIdleHoldExpiry s) := .ite (.next h) (.ite (.next h.lose.update) (.next h.update))
theorem toFloors (h : s.Formed) : s.toFloors.Formed := (h.foldl fun _ _ h => h.modCore).foldl fun _ _ h => h.settleZone
theorem execPowerStateExit (h : s.Formed) : OutForm (execPowerStateExit s) := .ite (.next h.lose.update) (.next h.toFloors.update)

theorem undoGranules {l} (h : s.Formed) : (s.undoGranules l).Formed := by
  induction l with
  | nil => exact h
  | cons x l ih => exact ih.writeN.modLine

theorem drainStack {stack n fails} (h : s.Formed) : (s.drainStack stack n fails).Formed := .ite h.update.undoGranules h.update
theorem interrupt {fails n} (h : s.Formed) : (s.interrupt fails n).Formed := (h.foldl fun _ _ h => h.drainStack).update
theorem execInterruption (h : s.Formed) : OutForm (execInterruption s) := .next h.interrupt.lose.update

theorem recordLoss (h : s.Formed) : s.recordLoss.Formed := by
  unfold State.recordLoss
  split
  · exact h
  · exact h.update.foldl fun _ _ h => h.update

theorem execPowerUp (h : s.Formed) : OutForm (execPowerUp s) := .next h.update
theorem execDeviceReset (h : s.Formed) : OutForm (execDeviceReset s) := .next h.interrupt.lose.update

/-- The hashed region is laid out anew: its entries are inserted one by one. -/
theorem setShare (h : s.Formed) : s.setShare.Formed := by
  obtain ⟨hm, hl⟩ := h
  exact .ite ⟨hm, hl⟩ ⟨rekey_wf hm _ _ _, rekey_wf hl _ _ _⟩

theorem selfTests (h : s.Formed) : FstForm s.selfTests := FstForm.foldl h.update fun _ _ h => .ite h h.state.logEntry
theorem startCounters (h : s.Formed) : s.startCounters.Formed := h.foldl fun _ _ h => h.modDie

theorem execBoot (h : s.Formed) : OutForm (execBoot s) := by
  unfold Machine.execBoot
  extract_lets facts first start tested columns dead _ last after
  have hstart : start.Formed := h.update.startCounters.setShare
  have htested : FstForm tested := .ite hstart.selfTests hstart
  have hlast : last.Formed := htested.state.update
  have hafter : after.Formed := hlast.recordLoss
  clear_value after last tested start
  exact .ite (.next hstart.update) (.ite (.next hstart.update) (.ite (.next hlast.update) (.next hafter.update)))

end State.Formed
end Sys2Proof.Machine

namespace Sys2Proof.Machine
namespace State.Formed
variable {s : State}

/-! ## Every instruction and every event -/

theorem exec {i} (h : s.Formed) : OutForm (exec i s) := by
  cases i with
  | add | addImm | sub | subImm | mul | mulImm | mulh | mulhImm | mulhu | mulhuImm | div | divImm | divu | divuImm | rem | remImm | remu |
  remuImm | and | andImm | or | orImm | xor | xorImm | andn | andnImm | orn | ornImm | shl | shlImm | shr | shrImm | sar | sarImm | rol |
  rolImm | ror | rorImm | clz | ctz | popc | min | minImm | minu | minuImm | max | maxImm | maxu | maxuImm | bfx | bfi | sel | selImm | li
  | mov | cmp | cmpi | b | bl | bi | bli | nop | ld | st | ldx | stx | aadd | aand | aor | axor | amin | amax | aswp | acas | fence |
  fencex | vfadd | vfsub | vfmul | vfma | vfms | vfnma | vfdiv | vfsqrt | vfmin | vfmax | vfabs | vfneg | vfcmp | vfexp2 | vflog2 | vfsin
  | vfcos | vftanh | vfrcp | vfrsq | vadd | vsub | vmul | vmulh | vmulhu | vand | vor | vxor | vshl | vshr | vsar | vmin | vminu | vmax |
  vmaxu | vabs | vcmp | vadds | vaddsu | vsubs | vsubsu | vcvt | vqlns | vdqlns | vbmax | vwhile | pand | por | pxor | pnot | pcnt | vqlen
  | vmov | vdup | vext | vperm | vslide | vcompress | vnzx | vsel | vradd | vraddo | vrmin | vrminu | vrmax | vrmaxu | vld | vst | vldg |
  vsts | vldt | vstt | ccinit | ccexp | ccarr | ccwait | cctest | cmwait | cmtest | lde | ldc | stf | fewEmpty | fewFull => exact
  h.execPlan
  | mldw | mstrm | mdrain | mclr => exact h.mxIssue
  | lxins | lxdel => exact h.lxRow
  | copy | gather | scatter | convert | fill => exact h.copyEvent
  | concordInit | concordArrival | concordExpectation => exact h.accessEvent
  | exit => exact h.execExit
  | segldNarrow => exact h.execSegldNarrow
  | segldAbs => exact h.execSegldAbs
  | segrd => exact h.execSegrd
  | sysrd => exact h.execSysrd
  | syswr => exact h.execSyswr
  | trap => exact h.execTrap
  | rte => exact h.execRte
  | yield => exact h.execYield
  | sleep => exact h.execSleep
  | wake => exact h.execWake
  | iflush => exact h.execIflush
  | ctxsv => exact h.execCtxsv
  | ctxld => exact h.execCtxld
  | idrd => exact h.execIdrd
  | clkrd => exact h.execClkrd
  | pair => exact h.execPair
  | cpq => exact h.execCpq
  | cpqn => exact h.execCpqn
  | mswap => exact h.mxIssue (op := .mswap)
  | mtile => exact h.execMtile
  | mqw => exact h.execMqw
  | lxfam => exact h.execLxfam
  | lxtab => exact h.execLxtab
  | lxprb => exact h.execLxprb
  | lxrhStart => exact h.execLxrhStart
  | lxrhStep => exact h.execLxrhStep
  | lxst => exact h.execLxst
  | send => exact h.execSend
  | recv => exact h.execRecv
  | chst => exact h.execChst
  | recast => exact h.execRecast
  | nred => exact h.execNred
  | nbmax => exact h.execNbmax
  | nbar => exact h.execNbar
  | winWrite => exact h.execWinWrite
  | winRead => exact h.execWinRead
  | spawn => exact h.execSpawn
  | join => exact h.execJoin
  | clend => exact h.execClend
  | launch => exact h.execLaunch
  | waitcWait => exact h.execWaitcWait
  | waitcTest => exact h.execWaitcTest
  | cancel => exact h.execCancel
  | dqpush => exact h.execDqpush
  | dqpop => exact h.execDqpop
  | dqsteal => exact h.execDqsteal
  | dqcnt => exact h.execDqcnt
  | tkreq => exact h.execTkreq
  | tklendLend => exact h.execTklendLend
  | tklendRecall => exact h.execTklendRecall
  | tkret => exact h.execTkret
  | tkq => exact h.execTkq
  | ecset => exact h.execEcset
  | pbar => exact h.execPbar
  | pseq => exact h.execPseq
  | ploss => exact h.execPloss
  | skipAnnul => exact h.execSkipAnnul
  | fenceProbe => exact h.execFenceProbe
  | fenceEcho => exact h.execFenceEcho
  | sleepTimeout => exact h.execSleepTimeout
  | fetchBlock => exact h.execFetchBlock
  | checkerRetry => exact h.execCheckerRetry
  | knownAnswerTest => exact h.execKnownAnswerTest
  | tcontAccess => exact h.execTcontAccess
  | asyncTrapTaken => exact h.execAsyncTrapTaken
  | stop => exact h.execStop
  | remoteAccess => exact h.execRemoteAccess
  | remoteReply => exact h.execRemoteReply
  | postedWriteAck => exact h.execPostedWriteAck
  | wakeMessage => exact h.execWakeMessage
  | combineWindowExpiry => exact h.execCombineWindowExpiry
  | copyRequestStart => exact h.execCopyRequestStart
  | waiterResend => exact h.execWaiterResend
  | waiterCancel => exact h.execWaiterCancel
  | matrixDispatch => exact h.execMatrixDispatch
  | mtileChunkResume => exact h.execMtileChunkResume
  | lexiconDispatch => exact h.execLexiconDispatch
  | packetWordArrival => exact h.execPacketWordArrival
  | channelStallTimeout => exact h.execChannelStallTimeout
  | recastMessage => exact h.execRecastMessage
  | recastAdopt => exact h.execRecastAdopt
  | treePartial => exact h.execTreePartial
  | treeResult => exact h.execTreeResult
  | stealArrival => exact h.execStealArrival
  | stealReply => exact h.execStealReply
  | joinAtHome => exact h.execJoinAtHome
  | cancelAtHome => exact h.execCancelAtHome
  | clauseStart => exact h.execClauseStart
  | launchEligible => exact h.execLaunchEligible
  | distributorRequest => exact h.execDistributorRequest
  | rangeHandout => exact h.execRangeHandout
  | generationSweep => exact h.execGenerationSweep
  | brokerClassUpdate => exact h.execBrokerClassUpdate
  | holdingChange => exact h.execHoldingChange
  | revocationNoticeExpiry => exact h.execRevocationNoticeExpiry
  | loanMessage => exact h.execLoanMessage
  | recallReturn => exact h.execRecallReturn
  | poolWrite => exact h.execPoolWrite
  | powerControlWrite => exact h.execPowerControlWrite
  | idleHoldExpiry => exact h.execIdleHoldExpiry
  | powerStateExit => exact h.execPowerStateExit
  | persistAccept => exact h.execPersistAccept
  | seqIncrement => exact h.execSeqIncrement
  | interruption => exact h.execInterruption
  | powerUp => exact h.execPowerUp
  | boot => exact h.execBoot
  | deviceReset => exact h.execDeviceReset
  | tag => exact h.execTag
  | tbinv => exact h.execTbinv
  | savearea => exact h.execSavearea
  | jobctx => exact h.execJobctx
  | engsv => exact h.execEngsv
  | engld => exact h.execEngld
  | slotEnd => exact h.execSlotEnd
  | slotRestore => exact h.execSlotRestore
  | slotRestart => exact h.execSlotRestart
  | fenceCommand => exact h.execFenceCommand
  | home => exact h.execHome
  | shutdown => exact h.execShutdown
  | timer => exact h.execTimer
  | timerExpiry => exact h.execTimerExpiry
  | service => exact h.execService
  | start => exact h.execStart
  | commandUnassigned => exact h.execCommandUnassigned
  | scrub => exact h.execScrub
  | hostAccess => exact h.execHostAccess
  | semaphoreClaim => exact h.execSemaphoreClaim
  | semaphoreRelease => exact h.execSemaphoreRelease
  | linkDownTimeout => exact h.execLinkDownTimeout
  | attestGo => exact h.execAttestGo
  | attestReportReady => exact h.execAttestReportReady
  | registerWrite => exact h.execRegisterWrite
  | illegalEncoding => exact h.execIllegalEncoding
  | issueCreditStart => exact h.execIssueCreditStart
  | memoryError => exact h.execMemoryError
  | mediaWrite => exact h.execMediaWrite
  | linkDown => exact h.execLinkDown
  | linkUp => exact h.execLinkUp

/-! ## The schedule -/

theorem msgTurns {l} (h : s.Formed) : FstForm (s.msgTurns l) := by
  induction l generalizing s with
  | nil => exact h
  | cons m l ih => exact ih (mayDraw h).state

theorem startDeliveries (h : s.Formed) : s.startDeliveries.Formed := h.msgTurns.state.update

theorem someOf {l} (h : s.Formed) : FstForm (s.someOf l) := by
  induction l generalizing s with
  | nil => exact h
  | cons t l ih => exact ih h.drawChoice

theorem engineTurns {cid c} (h : s.Formed) : FstForm (s.engineTurns cid c) := by
  have some {c : Prop} [Decidable c] {t : State} {l} (h : t.Formed) : FstForm (if c then t.someOf l else (t, l)) := .ite h.someOf h
  exact (some (some h).state).state

theorem allEngineTurns {l} (h : s.Formed) : FstForm (s.allEngineTurns l) := by
  induction l generalizing s with
  | nil => exact h
  | cons c l ih => exact ih h.engineTurns.state

theorem startEngines (h : s.Formed) : s.startEngines.Formed := h.allEngineTurns.state.someOf.state.update

theorem settle (h : s.Formed) : s.settle.Formed := by
  unfold State.settle
  dsimp only
  refine .ite ?_ (update ?_)
  · exact ((h.foldl fun _ _ h => h.wakeWaitc).wakeConcords.foldl fun _ _ h => h.freeLaunches).foldl fun _ _ h => h.settleZone
  · exact ((h.foldl fun _ _ h => h.wakeWaitc).wakeConcords.foldl fun _ _ h => h.freeLaunches).foldl fun _ _ h => h.settleZone

theorem deviceTurns (h : s.Formed) : FstForm s.deviceTurns := (mayDraw h).state

theorem takeInput (h : s.Formed) : FstForm s.takeInput := by
  unfold State.takeInput
  split
  · exact h.update
  · exact h

theorem bootTurns (h : s.Formed) : FstForm s.bootTurns := FstForm.ite h (.ite h (h.drawChoice (n := 2)))
theorem startEnd (h : s.Formed) : s.startEnd.Formed := h.resumeHosts.deviceTurns.state.takeInput.state.bootTurns.state.update
theorem close (h : s.Formed) : s.close.Formed := h.update
theorem dark (h : s.Formed) : OutForm s.dark := .ite (.next h.update) trivial

theorem nextPart (h : s.Formed) : OutForm s.nextPart := by
  unfold State.nextPart
  refine .ite h.dark ?_
  dsimp only
  split
  · exact .next (.ite h.update.startDeliveries h.update)
  · exact .next (.ite h.update.startEngines h.update)
  · exact .next h.update.startEnd
  · exact .next h.update

end State.Formed

theorem ServedForm.outcome {x : Served} (h : ServedForm x) : OutForm x.outcome := by
  cases x with
  | turn s => exact .next h
  | run i s => exact State.Formed.exec h

/-- THE INVARIANT: every step keeps the form. -/
theorem State.Formed.step {s : State} (h : s.Formed) : OutForm (step s) := by
  unfold Machine.step
  split
  · exact h.nextPart
  · exact h.update.position.outcome
  · exact h.update.spare.outcome
  · exact .next h.update.contain
  · exact h.update.exec
  · exact .next h.update.settle
  · exact .next h.update.close
  · exact h.update.exec

/-- Settles O59: every step keeps the form (`State.Formed.step`), and so the state that it answers has it. -/
theorem stepKeepsMemoryForm : Obligations.StepKeepsMemoryForm := by
  intro s t h e
  have kept : OutForm (Machine.step s) := State.Formed.step h
  rw [e] at kept
  exact kept

end Sys2Proof.Machine

namespace Sys2Proof.Machine

/-! ## The state after reset -/

/-- A slot of a core that nothing has changed is a slot right after reset, whatever its number. -/
theorem State.slot_reset (c k : Nat) : State.reset.slot c k = { } := by
  have slots : (State.reset.core c).slots = Vector.replicate 16 { } := rfl
  unfold State.slot Core.slot
  rw [slots]
  by_cases hk : k < 16 <;> simp [hk]

theorem State.line_reset (a : Nat) : State.reset.line a = { } := rfl
theorem State.core_reset (c : Nat) : State.reset.core c = { } := rfl
theorem State.die_reset (d : Nat) : State.reset.die d = { } := rfl

/-- Settles O60: nothing is listed after reset, so that every core, slot, die and line reads as its default. -/
theorem resetState : Obligations.ResetState := by
  refine ⟨⟨rfl, rfl⟩, rfl, fun c k => ?_, State.line_reset, fun c => ?_, fun d => ?_, ?_⟩
  · rw [State.slot_reset]
    exact ⟨rfl, rfl, rfl, rfl, rfl, rfl, rfl, rfl, rfl, rfl, rfl⟩
  · rw [State.core_reset]
    exact ⟨rfl, rfl, rfl, rfl, rfl, rfl, rfl, rfl, rfl, rfl, fun _ => rfl, rfl⟩
  · rw [State.die_reset]
    exact ⟨rfl, rfl, rfl, rfl, rfl⟩
  · exact ⟨rfl, rfl, rfl, rfl, rfl, rfl, rfl, rfl, rfl, rfl⟩

end Sys2Proof.Machine

namespace Sys2Proof.Machine

/-! ## Taking a trap (R140) -/

/-- The cause word as the bits of its fields. -/
theorem causeWord_eq_or (async : Bool) {cause detail : Nat} (hc : cause < 256) (hd : detail < 256) :
    causeWord async cause detail = BitVec.ofNat 64 ((if async then 1 else 0) <<< 16 ||| cause <<< 8 ||| detail) := by
  have low : cause <<< 8 ||| detail = cause * 2 ^ 8 + detail := by
    rw [← Nat.shiftLeft_add_eq_or_of_lt (by omega : detail < 2 ^ 8), Nat.shiftLeft_eq]
  have whole : (if async then 1 else 0) <<< 16 ||| (cause <<< 8 ||| detail) = (if async then 1 else 0) <<< 16 + (cause * 2 ^ 8 + detail) := by
    rw [low, Nat.shiftLeft_add_eq_or_of_lt (by omega : cause * 2 ^ 8 + detail < 2 ^ 16)]
  rw [Nat.or_assoc, whole, causeWord, Nat.mod_eq_of_lt hc, Nat.mod_eq_of_lt hd]
  cases async <;> simp [Nat.add_assoc]

theorem withSkip_withHmode (f : Word) : withSkip (withHmode f true) 0 = (f ||| 0x80000) &&& ~~~(0x30000 : Word) := by
  simp [withSkip, withHmode]

/-- A thread that takes traps goes to its handler, and its own slot alone changes. -/
theorem State.trapEnter_takes (s : State) {c k cause detail : Nat} (addr resume : Word) (async : Bool) (h : (s.slot c k).takesTraps)
    (hc : cause < 256) (hd : detail < 256) :
    s.trapEnter c k cause detail addr resume async = s.setSlot c k ((s.slot c k).trapped cause detail addr resume async) := by
  have takes : ¬ (hmode (s.slot c k).flags || (s.slot c k).hbase == 0) = true := by
    simpa only [hmode, Bool.or_eq_true, beq_iff_eq, not_or, Bool.not_eq_true] using h
  unfold State.trapEnter
  dsimp only
  rw [if_neg takes]
  simp only [Slot.recordTrap, Slot.trapped, causeWord_eq_or async hc hd, withSkip_withHmode]

/-! ## Changes of one slot beside which free values are drawn -/

@[simp] theorem State.slot_drawChoice (s : State) (n d j : Nat) : (s.drawChoice n).2.slot d j = s.slot d j := rfl
@[simp] theorem State.slot_send (s : State) (b : MsgBody) (d j : Nat) : (s.send b).slot d j = s.slot d j := rfl

/-- Slot `k` of core `c` may differ, and free values may have been drawn; nothing else has changed. -/
structure SlotDraws (s t : State) (c k : Nat) : Prop extends CoresBut s t c k where
  rest : t = { s with cores := t.cores, draws := t.draws }

theorem OnlySlot.slotDraws {s t : State} {c k : Nat} (h : OnlySlot s t c k) : SlotDraws s t c k where
  toCoresBut := ⟨h.cores, h.core, h.slots⟩
  rest := by rw [h.rest]

namespace SlotDraws
variable {s t : State} {c k : Nat}

theorem modSlot (h : SlotDraws s t c k) (f : Slot → Slot) (hk : k < 16) : SlotDraws s (t.modSlot c k f) c k where
  cores d hd := by rw [State.core_modSlot_other _ hd, h.cores d hd]
  core := by rw [(OnlySlot.modSlot t c k f hk).core, h.core]
  slots j hj := by rw [(OnlySlot.modSlot t c k f hk).slots j hj, h.slots j hj]
  rest := by rw [(OnlySlot.modSlot t c k f hk).rest, h.rest]

theorem drawChoice (h : SlotDraws s t c k) (n : Nat) : SlotDraws s (t.drawChoice n).2 c k where
  toCoresBut := ⟨h.cores, h.core, h.slots⟩
  rest := by rw [State.drawChoice, h.rest]

/-- The windows of every tile are as they were. -/
theorem win (h : SlotDraws s t c k) (d : Nat) : (t.core d).win = (s.core d).win := by
  by_cases hd : d = c
  · rw [hd, h.core]
  · rw [h.cores d hd]

theorem line (h : SlotDraws s t c k) (a : Nat) : t.line a = s.line a := by rw [h.rest]; rfl

/-- The target checks (R99, R303, R100) look at the lines, the retired tiles and the windows only. -/
theorem targetCheck (h : SlotDraws s t c k) (cid job : Nat) (kind : AKind) (a n : Nat) :
    t.targetCheck cid job kind a n = s.targetCheck cid job kind a n := by
  have dead (sn : Nat) : t.isDead sn = s.isDead sn := by rw [h.rest]; rfl
  have bad : t.badBytes a n kind = s.badBytes a n kind := by rw [h.rest]; rfl
  have windows (sn off : Nat) : t.windowsAllow sn off kind = s.windowsAllow sn off kind := by simp only [State.windowsAllow, h.win]
  unfold State.targetCheck
  rw [h.line, dead, bad, windows]

theorem readN (h : SlotDraws s t c k) (a n : Nat) : t.readN a n = s.readN a n :=
  State.readN_congr _ _ _ _ fun b _ _ => by rw [h.rest]; rfl

/-- No message goes. -/
theorem slotSends (h : SlotDraws s t c k) : SlotSends s t c k s.msgs [] where
  toCoresBut := h.toCoresBut
  rest := by rw [h.rest]
  sent := ⟨[], by rw [h.rest]; simp⟩

end SlotDraws

/-- One more message goes. -/
theorem SlotSends.send {s t : State} {c k : Nat} {kept : List Msg} {bodies : List MsgBody} (h : SlotSends s t c k kept bodies) (b : MsgBody) :
    SlotSends s (t.send b) c k kept (bodies ++ [b]) where
  toCoresBut := ⟨h.cores, h.core, h.slots⟩
  rest := by rw [State.send, State.drawLatency, h.rest]
  sent := by
    obtain ⟨new, msgs, carried, later⟩ := h.sent
    have clk : t.clk = s.clk := by rw [h.rest]
    refine ⟨new ++ [⟨t.nextMsg, t.clk + 1 + t.drawLatency.1, b⟩], ?_, by simp [carried], fun m hm => ?_⟩
    · rw [← List.append_assoc, ← msgs]
      rfl
    · rcases List.mem_append.1 hm with old | last
      · exact later m old
      · rw [List.mem_singleton.1 last, clk]
        dsimp only
        omega

/-! ## Blocks and their halves (R30, R148) -/

theorem toNat_blockOf (a : Word) : (blockOf a).toNat = a.toNat / 32 * 32 := by
  simp only [blockOf, BitVec.toNat_ofNat]
  omega

/-- `h` and `o` are the two 16-byte halves of block `b`. -/
structure IsHalves (b h o : Word) : Prop where
  block : blockOf b = b
  pair : [h, o] ∈ [[b, b + 16], [b + 16, b]]

/-- The lower half first, or the upper. -/
theorem IsHalves.cases {b h o : Word} (p : IsHalves b h o) : h = b ∧ o = b + 16 ∨ h = b + 16 ∧ o = b := by
  simpa using p.pair

theorem blockOf_blockOf (a : Word) : blockOf (blockOf a) = blockOf a := by
  apply BitVec.eq_of_toNat_eq
  simp only [toNat_blockOf]
  omega

theorem isHalves_low (a : Word) : IsHalves (blockOf a) (blockOf a) (blockOf a + 16) := ⟨blockOf_blockOf a, by simp⟩

theorem isHalves_high (a : Word) : IsHalves (blockOf a) (blockOf a + 16) (blockOf a) := ⟨blockOf_blockOf a, by simp⟩

namespace IsHalves
variable {b h o : Word}

theorem symm (p : IsHalves b h o) : IsHalves b o h := ⟨p.block, by rcases p.cases with ⟨rfl, rfl⟩ | ⟨rfl, rfl⟩ <;> simp⟩

theorem ne (p : IsHalves b h o) : h ≠ o := by
  rcases p.cases with ⟨rfl, rfl⟩ | ⟨rfl, rfl⟩ <;> bv_omega

/-- Where a half begins in its block. -/
theorem toNat (p : IsHalves b h o) : h.toNat = b.toNat + h.toNat % 32 := by
  have aligned : b.toNat = b.toNat / 32 * 32 := by rw [← toNat_blockOf, p.block]
  rcases p.cases with ⟨rfl, -⟩ | ⟨rfl, -⟩
  · omega
  · have sum : (b + 16).toNat = (b.toNat + 16) % 2 ^ 64 := BitVec.toNat_add b 16
    omega

theorem blockOf_eq (p : IsHalves b h o) : blockOf h = b := by
  have aligned : b.toNat = b.toNat / 32 * 32 := by rw [← toNat_blockOf, p.block]
  have place := p.toNat
  apply BitVec.eq_of_toNat_eq
  rw [toNat_blockOf]
  omega

theorem offset (p : IsHalves b h o) : (h - b).toNat = h.toNat % 32 := by
  have place := p.toNat
  rw [BitVec.toNat_sub_of_le (BitVec.le_def.2 (by omega))]
  omega

end IsHalves

/-! ## A half that has been read -/

/-- The halves that a slot keeps of other blocks. -/
abbrev Slot.halvesBut (t : Slot) (b : Word) : List (Word × Nat) := t.halves.filter fun y => blockOf y.1 != b

theorem Slot.halvesBut_apart (t : Slot) {b h o : Word} (p : IsHalves b h o) {y : Word × Nat} (hy : y ∈ t.halvesBut b) : y.1 ≠ h := by
  have apart : blockOf y.1 ≠ b := by simpa using (List.mem_filter.1 hy).2
  exact fun e => apart (e ▸ p.blockOf_eq)

/-- The bytes of a block from its two halves. -/
def blockBits (b h : Word) (x v : Nat) : Nat := if h = b then x + 2 ^ 128 * v else v + 2 ^ 128 * x

/-- THE OTHER HALF IS NOT THERE YET: this one is kept. -/
theorem Slot.takeHalf_first (t : Slot) {b h o : Word} (x : Nat) (p : IsHalves b h o) (missing : t.halves.find? (·.1 == o) = none) :
    t.takeHalf h x = { t with halves := (h, x) :: t.halves.filter fun y => y.1 != h } := by
  have gone : ((h, x) :: t.halves.filter fun y => y.1 != h).find? (·.1 == o) = none := by
    simp only [List.find?_eq_none, List.mem_cons, List.mem_filter, beq_iff_eq] at missing ⊢
    rintro y (rfl | ⟨hy, -⟩)
    · exact p.ne
    · exact missing y hy
  unfold Slot.takeHalf
  simp only [p.blockOf_eq]
  rcases p.cases with ⟨-, rfl⟩ | ⟨-, rfl⟩
  · rw [gone]
    cases List.find? _ _ <;> rfl
  · rw [gone]

/-- THE OTHER HALF IS THERE: the block enters the buffer, and neither half is kept. -/
theorem Slot.takeHalf_second (t : Slot) {b h o : Word} (x v : Nat) (p : IsHalves b h o) (there : t.halves.find? (·.1 == o) = some (o, v)) :
    t.takeHalf h x = { t with halves := t.halvesBut b }.load ⟨b, blockBits b h x v⟩ := by
  have own : ((h, x) :: t.halves.filter fun y => y.1 != h).find? (·.1 == h) = some (h, x) := by simp
  have other : ((h, x) :: t.halves.filter fun y => y.1 != h).find? (·.1 == o) = some (o, v) := by
    rw [List.find?_cons_of_neg (by simpa using p.ne), List.find?_filter, ← there]
    congr 1
    funext y
    by_cases e : y.1 = o
    · simp [e, p.ne.symm]
    · simp [e]
  have kept : ((h, x) :: t.halves.filter fun y => y.1 != h).filter (fun y => blockOf y.1 != b) = t.halvesBut b := by
    rw [List.filter_cons_of_neg (by simp [p.blockOf_eq]), List.filter_filter]
    refine List.filter_congr fun y _ => ?_
    by_cases e : y.1 = h
    · simp [e, p.blockOf_eq]
    · simp [e]
  unfold Slot.takeHalf
  simp only [p.blockOf_eq]
  rcases p.cases with ⟨rfl, rfl⟩ | ⟨rfl, rfl⟩
  · rw [own, other]
    simp only [kept, blockBits, if_true]
  · rw [own, other]
    simp only [kept, blockBits, if_neg p.ne]

/-- A block has entered the buffer: `y` is slot `x` with it, and waits for it no more. -/
def Slot.BlockEntered (x y : Slot) (b : Word) (bits : Nat) (wanted : Bool) : Prop :=
  (b = blockOf x.pc ∨ b = blockOf x.pc + 32 → bufFind y.buf b = some ⟨b, bits⟩) ∧
  y = { x with buf := y.buf, halves := x.halvesBut b
               want := if wanted then none else x.want
               pre := if x.pre = some b then none else x.pre }

/-- The buffer finds the block that has just entered it, where it keeps the block at all (R147). -/
theorem Slot.bufFind_load (t : Slot) (b : Block) (h : b.addr = blockOf t.pc ∨ b.addr = blockOf t.pc + 32) :
    bufFind (t.load b).buf b.addr = some b := by
  have kept : (b.addr == blockOf t.pc || b.addr == blockOf t.pc + 32) = true := by simpa using h
  unfold bufFind Slot.load
  dsimp only
  rw [List.filter_cons, if_pos kept]
  exact List.find?_cons_of_pos (beq_self_eq_true _)

/-- A slot that waits for `w` takes in block `b`. -/
theorem Slot.load_entered (x : Slot) (b : Word) (bits : Nat) (wanted : Bool) (w : Option Word)
    (hw : (if w == some b then none else w) = if wanted then none else x.want) :
    x.BlockEntered ({ x with halves := x.halvesBut b, want := w }.load ⟨b, bits⟩) b bits wanted := by
  refine ⟨fun place => Slot.bufFind_load _ ⟨b, bits⟩ place, ?_⟩
  rw [← hw]
  simp [Slot.load]

theorem Slot.takeHalf_entered (t : Slot) {y : Slot} {b h o : Word} {x : Nat} (v : Nat) (p : IsHalves b h o)
    (there : t.halves.find? (·.1 == o) = some (o, v)) (taken : y = t.takeHalf h x) :
    t.BlockEntered y b (blockBits b h x v) (t.want == some b) := by
  rw [taken, t.takeHalf_second x v p there]
  exact t.load_entered b _ _ _ rfl

/-- The half at `h` of the block at `cell` passes the target checks, and its line has no error. -/
abbrev State.HalfReadable (s : State) (c k cell : Nat) (b h : Word) : Prop :=
  s.targetCheck c (s.slot c k).tag .read (cell + (h - b).toNat) 16 = none ∧ (s.line (cell + (h - b).toNat)).sound = true

theorem SlotDraws.halfReadable {s t : State} {c k cell : Nat} {b h : Word} (d : SlotDraws s t c k) (tag : (t.slot c k).tag = (s.slot c k).tag)
    (r : s.HalfReadable c k cell b h) : t.HalfReadable c k cell b h := by
  unfold State.HalfReadable
  rw [tag, d.targetCheck, d.line]
  exact r

/-- A READABLE HALF of a block that the thread wants is read as one unit (R94, R148). -/
theorem State.readHalf_readable (s : State) {c k cell : Nat} {b h o : Word} (demand : Bool) (p : IsHalves b h o)
    (wants : (s.slot c k).wants b = true) (r : s.HalfReadable c k cell b h) :
    s.readHalf c k cell h demand = s.modSlot c k (·.takeHalf h (s.readN (cell + (h - b).toNat) 16)) := by
  obtain ⟨passes, sound⟩ := r
  rw [p.offset] at passes sound ⊢
  simp [State.readHalf, p.blockOf_eq, wants, passes, State.correctBytes_sound _ _ _ sound]

/-! ## FETCH_BLOCK, case by case -/

/-- An access from before the thread's latest IFLUSH is on its way (R149). -/
theorem State.flushPending_iff (s : State) (c k : Nat) : s.flushPending c k = true ↔
    ∃ m ∈ s.msgs, ∃ id home acc, m.body = .access id home ∧ id < (s.slot c k).flushed ∧
      SMap.get none s.accesses id = some acc ∧ acc.core = c ∧ acc.slot = k ∧ acc.engine = none := by
  simp only [State.flushPending, List.any_eq_true]
  refine exists_congr fun m => and_congr_right fun _ => ?_
  cases m.body with
  | access id home => simp [Option.any_eq_true, and_assoc]
  | _ => simp

/-- A slot whose fetch of block `b` begins. -/
def Slot.asksFor (t : Slot) (b : Word) (demand : Bool) : Slot :=
  { t with halves := t.halvesBut b, want := if demand then some b else t.want }

theorem State.flushPending_asksFor (s : State) {c k : Nat} (b : Word) (demand : Bool) (hk : k < 16) :
    (s.modSlot c k (·.asksFor b demand)).flushPending c k = s.flushPending c k := by
  simp only [State.flushPending, State.slot_modSlot_same _ _ _ _ hk]
  rfl

section
variable {s : State} {c k cell : Nat} {a : Word} {demand : Bool}

theorem State.fetchBlock_arrived (place : s.fetchPlace c k (blockOf a) = .ok (.cell cell)) :
    s.fetchBlock c k a demand true = s.readHalf c k cell a demand := by
  simp [State.fetchBlock, place, State.placeCell]

/-- Elsewhere, or with an earlier access under way: a message for each half. -/
theorem State.fetchBlock_away (hk : k < 16) (place : s.fetchPlace c k (blockOf a) = .ok (.cell cell))
    (away : s.homeOf cell ≠ c ∨ s.flushPending c k = true) :
    s.fetchBlock c k a demand false =
      ((s.modSlot c k (·.asksFor (blockOf a) demand)).send (.fetch c k (blockOf a))).send (.fetch c k (blockOf a + 16)) := by
  have remote : (isLocal c (s.homeOf cell) && !(s.modSlot c k (·.asksFor (blockOf a) demand)).flushPending c k) = false := by
    rw [State.flushPending_asksFor s _ _ hk]
    rcases away with h | h <;> simp [isLocal, h]
  unfold State.fetchBlock
  simp only [place, State.placeCell]
  exact if_neg (Bool.eq_false_iff.1 remote)

/-- In the own slice, with no earlier access under way: the choice of log 29, of both halves now or of one now and the other later. -/
theorem State.fetchBlock_own (hk : k < 16) (place : s.fetchPlace c k (blockOf a) = .ok (.cell cell)) (own : s.homeOf cell = c)
    (clear : s.flushPending c k = false) :
    let t := ((s.modSlot c k (·.asksFor (blockOf a) demand)).drawChoice 3).2
    s.fetchBlock c k a demand false ∈ [
      (t.readHalf c k cell (blockOf a) demand).readHalf c k cell (blockOf a + 16) demand,
      (t.readHalf c k cell (blockOf a) demand).send (.fetch c k (blockOf a + 16)),
      (t.readHalf c k cell (blockOf a + 16) demand).send (.fetch c k (blockOf a))] := by
  have here : (isLocal c ((s.modSlot c k (·.asksFor (blockOf a) demand)).homeOf cell) &&
      !(s.modSlot c k (·.asksFor (blockOf a) demand)).flushPending c k) = true := by
    rw [State.flushPending_asksFor s _ _ hk, show (s.modSlot c k (·.asksFor (blockOf a) demand)).homeOf cell = c from own]
    simp [isLocal, clear]
  unfold State.fetchBlock
  simp only [place, State.placeCell, Bool.false_eq_true, if_false, Slot.asksFor, Slot.halvesBut] at here ⊢
  rw [if_pos here]
  generalize State.drawChoice _ 3 = d
  split
  · exact .head _
  · exact .tail _ (.head _)
  · exact .tail _ (.tail _ (.head _))

/-- R92: a demanded block that s0 does not let the thread execute traps at the word that the thread would issue. -/
theorem State.fetchFail_traps (s : State) {c k cause detail : Nat} (hk : k < 16) (takes : (s.slot c k).takesTraps) (hc : cause < 256)
    (hd : detail < 256) : OnlySlot s (s.fetchFail c k true cause detail) c k ∧ (s.fetchFail c k true cause detail).slot c k =
      { s.slot c k with want := none, pre := none, halves := [] }.trapped cause detail (s.slot c k).pc (s.slot c k).pc false := by
  have cleared := State.slot_modSlot_same s c k (fun t => { t with want := none, pre := none, halves := [] }) hk
  have fails : s.fetchFail c k true cause detail = (s.modSlot c k fun t => { t with want := none, pre := none, halves := [] }).modSlot c k
      (·.trapped cause detail (s.slot c k).pc (s.slot c k).pc false) := by
    simp only [State.fetchFail, if_true]
    rw [State.trapEnter_takes _ _ _ _ (by rw [cleared]; exact takes) hc hd]
    rfl
  rw [fails]
  exact ⟨(OnlySlot.modSlot s c k _ hk).trans (OnlySlot.modSlot _ c k _ hk), by rw [State.slot_modSlot_same _ _ _ _ hk, cleared]⟩

theorem State.fetchBlock_fails {cause detail : Nat} (place : s.fetchPlace c k (blockOf a) = .error (cause, detail)) :
    s.fetchBlock c k a demand false = s.fetchFail c k demand cause detail := by
  simp [State.fetchBlock, place]

/-- R13: a half arrives whose tile has been retired. -/
theorem State.fetchBlock_retired (place : s.fetchPlace c k (blockOf a) = .error (0x06, 0x04)) :
    s.fetchBlock c k a demand true = s.fetchFail c k demand 0x0B 0x62 := by
  simp [State.fetchBlock, place, cAddress, cContained]

end

/-! ## What FETCH_BLOCK leaves -/

theorem Slot.asksFor_wants {x : Slot} {b : Word} {demand : Bool} (asked : demand = true ∨ x.pre = some b) :
    (x.asksFor b demand).wants b = true := by
  rcases asked with rfl | h
  · simp [Slot.wants, Slot.asksFor]
  · simp [Slot.wants, Slot.asksFor, h]

/-- What the slot keeps of the block that it asked for, after the half at `h`. -/
theorem Slot.asksFor_takeHalf (x : Slot) {b h o : Word} (demand : Bool) (v : Nat) (p : IsHalves b h o) :
    (x.asksFor b demand).takeHalf h v =
      { x with halves := (h, v) :: x.halvesBut b, want := if demand then some b else x.want } := by
  have missing : (x.asksFor b demand).halves.find? (·.1 == o) = none :=
    List.find?_eq_none.2 fun y hy => by simpa using x.halvesBut_apart p.symm hy
  have all : (x.asksFor b demand).halves.filter (fun y => y.1 != h) = x.halvesBut b :=
    List.filter_eq_self.2 fun y hy => by simpa using x.halvesBut_apart p hy
  rw [Slot.takeHalf_first _ v p missing, all]
  rfl

/-- Both halves, one after the other: the block enters the buffer. -/
theorem Slot.asksFor_takeHalves (x : Slot) {b h o : Word} (demand : Bool) (v w : Nat) (p : IsHalves b h o) :
    x.BlockEntered (((x.asksFor b demand).takeHalf h v).takeHalf o w) b (blockBits b o w v) (demand || x.want == some b) := by
  rw [x.asksFor_takeHalf demand v p, Slot.takeHalf_second _ w v p.symm (by simp)]
  have kept : ((h, v) :: x.halvesBut b).filter (fun y => blockOf y.1 != b) = x.halvesBut b := by
    rw [List.filter_cons_of_neg (by simp [p.blockOf_eq]), Slot.halvesBut, List.filter_filter]
    simp only [Bool.and_self]
  simp only [Slot.halvesBut] at kept ⊢
  rw [kept]
  refine x.load_entered b _ _ _ ?_
  cases demand <;> simp

section
variable {s t : State} {c k cell : Nat} {b h o : Word}

/-- A readable half of the block, in a state in which only the slot has changed and free values have been drawn. -/
theorem SlotDraws.readHalf (d : SlotDraws s t c k) (hk : k < 16) (demand : Bool) (p : IsHalves b h o) (wants : (t.slot c k).wants b = true)
    (tag : (t.slot c k).tag = (s.slot c k).tag) (r : s.HalfReadable c k cell b h) :
    SlotDraws s (t.readHalf c k cell h demand) c k ∧
    (t.readHalf c k cell h demand).slot c k = (t.slot c k).takeHalf h (s.readN (cell + (h - b).toNat) 16) := by
  rw [State.readHalf_readable t demand p wants (d.halfReadable tag r), d.readN]
  exact ⟨d.modSlot _ hk, State.slot_modSlot_same _ _ _ _ hk⟩

end

section
variable {s : State} {c k cell : Nat} {a : Word} {demand : Bool}

/-- The state in which the thread has asked for a block and the choice of log 29 has been made. -/
theorem State.asked_draws (s : State) (b : Word) (demand : Bool) (hk : k < 16) :
    SlotDraws s ((s.modSlot c k (·.asksFor b demand)).drawChoice 3).2 c k ∧
    ((s.modSlot c k (·.asksFor b demand)).drawChoice 3).2.slot c k = (s.slot c k).asksFor b demand :=
  ⟨(OnlySlot.modSlot s c k _ hk).slotDraws.drawChoice 3, by rw [State.slot_drawChoice, State.slot_modSlot_same _ _ _ _ hk]⟩

/-- One half is read now. -/
theorem State.asked_readHalf (hk : k < 16) {b h o : Word} (p : IsHalves b h o) (r : s.HalfReadable c k cell b h)
    (asked : demand = true ∨ (s.slot c k).pre = some b) :
    let t := ((s.modSlot c k (·.asksFor b demand)).drawChoice 3).2.readHalf c k cell h demand
    SlotDraws s t c k ∧ t.slot c k = { s.slot c k with
      halves := (h, s.readN (cell + (h - b).toNat) 16) :: (s.slot c k).halvesBut b, want := if demand then some b else (s.slot c k).want } := by
  obtain ⟨draws, slot⟩ := State.asked_draws (c := c) s b demand hk
  have wants := Slot.asksFor_wants asked
  obtain ⟨draws, taken⟩ := draws.readHalf hk demand p (slot ▸ wants) (by rw [slot]; rfl) r
  exact ⟨draws, by rw [taken, slot, Slot.asksFor_takeHalf _ demand _ p]⟩

/-- Both halves are read now. -/
theorem State.asked_readHalves (hk : k < 16) {b h o : Word} (p : IsHalves b h o) (r : s.HalfReadable c k cell b h)
    (ro : s.HalfReadable c k cell b o) (asked : demand = true ∨ (s.slot c k).pre = some b) :
    let t := (((s.modSlot c k (·.asksFor b demand)).drawChoice 3).2.readHalf c k cell h demand).readHalf c k cell o demand
    SlotDraws s t c k ∧ (s.slot c k).BlockEntered (t.slot c k) b
      (blockBits b o (s.readN (cell + (o - b).toNat) 16) (s.readN (cell + (h - b).toNat) 16)) (demand || (s.slot c k).want == some b) := by
  obtain ⟨draws, first⟩ := State.asked_readHalf hk p r asked
  have wants : Slot.wants { s.slot c k with
      halves := (h, s.readN (cell + (h - b).toNat) 16) :: (s.slot c k).halvesBut b
      want := if demand then some b else (s.slot c k).want } b = true := Slot.asksFor_wants asked
  obtain ⟨draws, both⟩ := draws.readHalf hk demand p.symm (first ▸ wants) (by rw [first]; rfl) ro
  rw [first, ← Slot.asksFor_takeHalf _ demand _ p] at both
  exact ⟨draws, by rw [both]; exact Slot.asksFor_takeHalves _ demand _ _ p⟩

/-- R147, R148, log 29: in the own slice both halves are read now, and the block enters the buffer, or one is read and a message goes for
the other. -/
theorem State.fetchBlock_own_reads (hk : k < 16) (place : s.fetchPlace c k (blockOf a) = .ok (.cell cell)) (own : s.homeOf cell = c)
    (clear : s.flushPending c k = false) (low : s.HalfReadable c k cell (blockOf a) (blockOf a))
    (high : s.HalfReadable c k cell (blockOf a) (blockOf a + 16)) (asked : demand = true ∨ (s.slot c k).pre = some (blockOf a)) :
    let b := blockOf a
    let t := s.fetchBlock c k a demand false
    let value (h : Word) : Nat := s.readN (cell + (h - b).toNat) 16
    (SlotDraws s t c k ∧ (s.slot c k).BlockEntered (t.slot c k) b (value b + 2 ^ 128 * value (b + 16)) (demand || (s.slot c k).want == some b)) ∨
    ∃ now_ later, [now_, later] ∈ [[b, b + 16], [b + 16, b]] ∧ SlotSends s t c k s.msgs [.fetch c k later] ∧
      t.slot c k = { s.slot c k with
        halves := (now_, value now_) :: (s.slot c k).halvesBut b, want := if demand then some b else (s.slot c k).want } := by
  have choice := State.fetchBlock_own (demand := demand) hk place own clear
  simp only [List.mem_cons, List.not_mem_nil, or_false] at choice
  rcases choice with both | lowNow | highNow
  · have entered := State.asked_readHalves hk (isHalves_low a) low high asked
    rw [blockBits, if_neg (isHalves_high a).ne] at entered
    rw [both]
    exact .inl entered
  · obtain ⟨draws, slot⟩ := State.asked_readHalf hk (isHalves_low a) low asked
    rw [lowNow]
    exact .inr ⟨_, _, (isHalves_low a).pair, draws.slotSends.send _, slot⟩
  · obtain ⟨draws, slot⟩ := State.asked_readHalf hk (isHalves_high a) high asked
    rw [highNow]
    exact .inr ⟨_, _, (isHalves_high a).pair, draws.slotSends.send _, slot⟩

/-- R94, R149: elsewhere, or with an access from before the latest IFLUSH on its way, a message goes for each half. -/
theorem State.fetchBlock_away_sends (hk : k < 16) (place : s.fetchPlace c k (blockOf a) = .ok (.cell cell))
    (away : s.homeOf cell ≠ c ∨ s.flushPending c k = true) :
    let t := s.fetchBlock c k a demand false
    SlotSends s t c k s.msgs [.fetch c k (blockOf a), .fetch c k (blockOf a + 16)] ∧ t.slot c k = (s.slot c k).asksFor (blockOf a) demand := by
  rw [State.fetchBlock_away hk place away]
  exact ⟨((OnlySlot.modSlot s c k _ hk).slotDraws.slotSends.send _).send _,
    by rw [State.slot_send, State.slot_send, State.slot_modSlot_same _ _ _ _ hk]⟩

/-- R148: a half that has arrived is read; it is kept (`Slot.takeHalf_first`), or with its other half the block enters the buffer
(`Slot.takeHalf_second`). -/
theorem State.fetchBlock_arrived_reads {o : Word} (hk : k < 16) (p : IsHalves (blockOf a) a o)
    (place : s.fetchPlace c k (blockOf a) = .ok (.cell cell)) (wants : (s.slot c k).wants (blockOf a) = true)
    (r : s.HalfReadable c k cell (blockOf a) a) :
    OnlySlot s (s.fetchBlock c k a demand true) c k ∧
    (s.fetchBlock c k a demand true).slot c k = (s.slot c k).takeHalf a (s.readN (cell + (a - blockOf a).toNat) 16) := by
  rw [State.fetchBlock_arrived place, State.readHalf_readable s demand p wants r]
  exact ⟨OnlySlot.modSlot s c k _ hk, State.slot_modSlot_same _ _ _ _ hk⟩

end

/-! ## The event -/

section
variable {s : State}

/-- The fetch of a block begins, for a thread that has not ended. -/
theorem exec_fetchBlock_begins (alive : (s.slot s.ev.core s.ev.slot).alive) (more : s.ev.more = false) :
    exec .fetchBlock s = .next (s.fetchBlock s.ev.core s.ev.slot s.ev.addr s.ev.flag false) := by
  obtain ⟨held, running⟩ := alive
  change execFetchBlock s = _
  simp [execFetchBlock, held, running, more]

/-- A half has reached its home, for a thread that has not ended and still wants the block. -/
theorem exec_fetchBlock_arrives (alive : (s.slot s.ev.core s.ev.slot).alive) (more : s.ev.more = true)
    (wants : (s.slot s.ev.core s.ev.slot).wants (blockOf s.ev.addr) = true) :
    exec .fetchBlock s = .next (s.fetchBlock s.ev.core s.ev.slot s.ev.addr
      ((s.slot s.ev.core s.ev.slot).want == some (blockOf s.ev.addr)) true) := by
  obtain ⟨held, running⟩ := alive
  change execFetchBlock s = _
  unfold Slot.wants at wants
  by_cases demanded : (s.slot s.ev.core s.ev.slot).want = some (blockOf s.ev.addr)
  · simp [execFetchBlock, held, running, more, demanded]
  · have ahead : (s.slot s.ev.core s.ev.slot).pre = some (blockOf s.ev.addr) := by simpa [demanded] using wants
    simp [execFetchBlock, held, running, more, beq_eq_false_iff_ne.2 demanded, ahead]

end

/-! ## The checks against s0 (R92) -/

theorem segBase_eq_extract (sg : BitVec 128) : segBase sg = (sg.extractLsb' 0 64).toNat := by
  simp [segBase, BitVec.extractLsb'_toNat]

theorem segLimit_eq_extract (sg : BitVec 128) : segLimit sg = (sg.extractLsb' 64 48).toNat := by
  simp [segLimit, BitVec.extractLsb'_toNat, Nat.shiftRight_eq_div_pow]

/-- The execute right is bit 114 of a segment value. -/
theorem lacks_rExec (sg : BitVec 128) : lacks rExec (segRights sg) = !sg.getLsbD 114 := by
  have bit : (segRights sg).testBit 2 = sg.getLsbD 114 := by
    rw [segRights, Nat.testBit_mod_two_pow (j := 6), Nat.testBit_div_two_pow]
    simp [BitVec.getLsbD]
  rw [lacks, rExec, show (4 : Nat) = 2 ^ 2 from rfl, Nat.two_pow_and, bit]
  cases sg.getLsbD 114 <;> rfl

/-- The space of an address is its highest four bits. -/
theorem spaceOf_eq_extract (a : Word) : spaceOf a = (a.extractLsb' 60 4).toNat := by
  simp [spaceOf, BitVec.extractLsb'_toNat, Nat.shiftRight_eq_div_pow]
  omega

theorem segSpace_eq_extract (sg : BitVec 128) : segBase sg / 2 ^ 60 = (sg.extractLsb' 60 4).toNat := by
  simp [segBase, BitVec.extractLsb'_toNat, Nat.shiftRight_eq_div_pow]
  omega

/-- The checks of R90 on a fetch block, in their order. -/
theorem segAddr_fetch (sg : BitVec 128) (a : Word) :
    segAddr sg ((a.toNat : Int) - segBase sg) 32 32 (fun _ => rExec) true =
      if a.toNat < segBase sg ∨ segBase sg + segLimit sg < a.toNat + 32 then .error (cSegment, 0x11)
      else if sg.getLsbD 114 = false then .error (cSegment, 0x12)
      else if a.extractLsb' 60 4 ≠ sg.extractLsb' 60 4 then .error (cSegment, 0x13)
      else if a.toNat % 32 ≠ 0 ∨ a.extractLsb' 60 4 = 7 then .error (cAlign, 0x21)
      else .ok a := by
  have address : ofInt (segBase sg + ((a.toNat : Int) - segBase sg)) = a := by
    rw [add_sub_cancel, ofInt, BitVec.ofInt_natCast, BitVec.ofNat_toNat, BitVec.setWidth_eq]
  have outside : ((decide ((a.toNat : Int) - segBase sg < 0) || decide ((a.toNat : Int) - segBase sg + (32 : Nat) > segLimit sg)) = true) ↔
      (a.toNat < segBase sg ∨ segBase sg + segLimit sg < a.toNat + 32) := by
    rw [Bool.or_eq_true, decide_eq_true_iff, decide_eq_true_iff]
    omega
  have space : (spaceOf a != segBase sg / 2 ^ 60) = true ↔ a.extractLsb' 60 4 ≠ sg.extractLsb' 60 4 := by
    rw [bne_iff_ne, spaceOf_eq_extract, segSpace_eq_extract, Ne, BitVec.toNat_inj]
  have registers : (spaceOf a == 7) = true ↔ a.extractLsb' 60 4 = 7 := by
    rw [beq_iff_eq, spaceOf_eq_extract, ← BitVec.toNat_inj]
    rfl
  unfold segAddr
  simp only [address, outside, lacks_rExec, space]
  simp [registers]

section
variable {s : State} {c k : Nat} {a : Word}

/-- A block that lies beyond the limit of s0, or below its base. -/
theorem State.fetchPlace_outside (h : a.toNat < segBase (s.slot c k).s[0] ∨ segBase (s.slot c k).s[0] + segLimit (s.slot c k).s[0] < a.toNat + 32) :
    s.fetchPlace c k a = .error (0x04, 0x11) := by
  simp [State.fetchPlace, segAddr_fetch, h, cAlign, cSegment]

variable (inside : ¬(a.toNat < segBase (s.slot c k).s[0] ∨ segBase (s.slot c k).s[0] + segLimit (s.slot c k).s[0] < a.toNat + 32))
include inside

theorem State.fetchPlace_noExec (right : (s.slot c k).s[0].getLsbD 114 = false) : s.fetchPlace c k a = .error (0x04, 0x12) := by
  simp only [State.fetchPlace, segAddr_fetch, if_neg inside, if_pos right]
  rfl

variable (right : (s.slot c k).s[0].getLsbD 114 = true)
include right

theorem State.fetchPlace_otherSpace (space : a.extractLsb' 60 4 ≠ (s.slot c k).s[0].extractLsb' 60 4) :
    s.fetchPlace c k a = .error (0x04, 0x13) := by
  simp only [State.fetchPlace, segAddr_fetch, if_neg inside, right, Bool.true_eq_false, if_false, if_pos space]
  rfl

variable (space : a.extractLsb' 60 4 = (s.slot c k).s[0].extractLsb' 60 4)
include space

/-- Registers are not executed: space 0x7 has no access of 32 bytes (R87). -/
theorem State.fetchPlace_registers (registers : a.extractLsb' 60 4 = 7) : s.fetchPlace c k a = .error (0x06, 0x02) := by
  have seven : spaceOf a = 7 := by
    rw [spaceOf_eq_extract, registers]
    rfl
  simp only [State.fetchPlace, segAddr_fetch, if_neg inside, right, Bool.true_eq_false, if_false, if_neg (not_not.2 space),
    if_pos (Or.inr registers), seven]
  rfl

/-- Every check against s0 passes: the space decides the block's place. -/
theorem State.fetchPlace_checkSpace (memory : a.extractLsb' 60 4 ≠ 7) (aligned : a.toNat % 32 = 0) {p : Place}
    (place : s.checkSpace (s.agent c k) a = .ok p) : s.fetchPlace c k a = .ok p := by
  have passes : ¬(a.toNat % 32 ≠ 0 ∨ a.extractLsb' 60 4 = 7) := not_or.2 ⟨not_not.2 aligned, memory⟩
  simp only [State.fetchPlace, segAddr_fetch, if_neg inside, right, Bool.true_eq_false, if_false, if_neg (not_not.2 space), if_neg passes, place]

end

/-- Settles O27: the event is `fetchBlock` for the block or the half that it names (`exec_fetchBlock_begins`, `exec_fetchBlock_arrives`), whose
cases are the lemmas above, one for each clause. -/
theorem fetching : Obligations.Fetching := by
  refine ⟨fun c k cell s hk hc hslot alive => ?_, fun c k a s => ?_⟩
  · subst hc hslot
    intro x a others readable value buffered pending
    have pending_iff : s.flushPending s.ev.core s.ev.slot = true ↔ pending := s.flushPending_iff _ _
    refine ⟨fun more aligned place => ⟨fun own clear low high asked => ?_, fun away => ?_⟩, fun h other pair more at_ wanted place read => ?_,
      fun cause detail more hcause hdetail place demand takes => ?_, fun more wanted place takes => ?_⟩
    · have cases := State.fetchBlock_own_reads hk place own (Bool.eq_false_iff.2 (mt pending_iff.1 clear)) low high asked
      refine ⟨_, exec_fetchBlock_begins alive more, ?_⟩
      exact cases.imp (fun h => ⟨h.1.rest, h.1.toCoresBut, h.2⟩) id
    · exact ⟨_, exec_fetchBlock_begins alive more, State.fetchBlock_away_sends hk place (away.imp id pending_iff.2)⟩
    · have p : IsHalves a h other := ⟨blockOf_blockOf _, pair⟩
      subst at_
      have wants : x.wants a = true := by simpa [Slot.wants] using wanted
      obtain ⟨only, taken⟩ := State.fetchBlock_arrived_reads (demand := x.want == some a) hk p place wants read
      exact ⟨fun v there => ⟨_, exec_fetchBlock_arrives alive more wants, only, x.takeHalf_entered v p there taken⟩,
        fun missing => ⟨_, exec_fetchBlock_arrives alive more wants, only, taken.trans (x.takeHalf_first _ p missing)⟩⟩
    · refine ⟨_, exec_fetchBlock_begins alive more, ?_⟩
      rw [State.fetchBlock_fails place, demand]
      exact State.fetchFail_traps s hk takes hcause hdetail
    · have wants : x.wants a = true := by simp [Slot.wants, wanted]
      refine ⟨_, exec_fetchBlock_arrives alive more wants, ?_⟩
      rw [State.fetchBlock_retired place, beq_iff_eq.2 wanted]
      exact State.fetchFail_traps s hk takes (by decide) (by decide)
  · intro sg base limit
    have hbase : base = segBase sg := (segBase_eq_extract sg).symm
    have hlimit : limit = segLimit sg := (segLimit_eq_extract sg).symm
    rw [hbase, hlimit]
    refine ⟨State.fetchPlace_outside, fun above below => ?_⟩
    have inside : ¬(a.toNat < segBase sg ∨ segBase sg + segLimit sg < a.toNat + 32) := by omega
    refine ⟨State.fetchPlace_noExec inside, State.fetchPlace_otherSpace inside,
      fun right space seven => State.fetchPlace_registers inside right (space.trans seven.symm) space,
      fun right space memory aligned p => State.fetchPlace_checkSpace inside right space memory ?_⟩
    have low := congrArg BitVec.toNat aligned
    simpa [BitVec.extractLsb'_toNat] using low

end Sys2Proof.Machine

/-!
## The words of instructions (R28, R31 to R34, R40, R49)

SUPPORT and the statements O56 to O58. The codes of the operands read back what they write; `buildOp` reads an instruction back from its
fields; `unpack` reads the fields back from their bits. `decodeOp_eq_instr` says once when the decoder accepts an operation.
-/

namespace Sys2Proof

/-! ### Codes of the operands (R36, R37, R191, R347) -/

theorem wcode_lt (w : Width) : wcode w < 4 := by cases w <;> decide
theorem tcode_lt (t : VType) : tcode t < 8 := by cases t <;> decide
theorem ccode_lt (c : Cond) : ccode c < 8 := by cases c <;> decide
theorem fcode_lt (c : FCond) : fcode c < 8 := by cases c <;> decide
theorem scode_lt (s : Scope) : scode s < 7 := by cases s <;> decide
theorem pcode_lt (path : Path) : pcode path < 7 := by cases path <;> decide
theorem ocode_lt (o : MemOrd) : ocode o < 4 := by cases o <;> decide
theorem lcode_lt (l : Level) : lcode l < 4 := by cases l <;> decide
theorem bit_lt (b : Bool) : bit b < 2 := by cases b <;> decide

theorem wOf_wcode (w : Width) : wOf (wcode w) = w := by cases w <;> rfl
theorem tyOf_tcode (t : VType) : tyOf (tcode t) = some t := by cases t <;> rfl
theorem condOf_ccode (c : Cond) : condOf (ccode c) = some c := by cases c <;> rfl

theorem scopeOf_scode (s : Scope) : scopeOf (scode s) = some s := by cases s <;> rfl
theorem pathOf_pcode (path : Path) : pathOf (pcode path) = some path := by cases path <;> rfl
theorem ordOf_ocode (o : MemOrd) : ordOf (ocode o) = o := by cases o <;> rfl
theorem levelOf_lcode (l : Level) : levelOf (lcode l) = l := by cases l <;> rfl
theorem bit_mod_two (b : Bool) : (bit b % 2 == 1) = b := by cases b <;> rfl

/-- R191: the condition of a vector compare stands in imm[7:4]. -/
theorem condOf_imm (c : Cond) : condOf (16 * ccode c / 16 % 16) = some c := by cases c <;> rfl
theorem fcondOf_imm (c : FCond) : fcondOf (16 * fcode c / 16 % 16) = some c := by cases c <;> rfl

/-- R46: the high two bits of minor name the form, beside the width. -/
theorem wcode_form (w : Width) :
    wcode w / 4 = 0 ∧ (wcode w + 4) / 4 = 1 ∧ (wcode w + 8) / 4 = 2 ∧ (wcode w + 12) / 4 = 3 := by
  have := wcode_lt w
  omega

/-- The form does not touch the width. -/
theorem wOf_wcode_form (w : Width) : wOf (wcode w + 4) = w ∧ wOf (wcode w + 8) = w ∧ wOf (wcode w + 12) = w := by
  cases w <;> exact ⟨rfl, rfl, rfl⟩

/-- R352: minor[2] tells a test from a wait, beside the level. -/
theorem lcode_form (l : Level) : lcode l / 4 % 2 = 0 ∧ (lcode l + 4) / 4 % 2 = 1 ∧ levelOf (lcode l + 4) = l := by
  cases l <;> exact ⟨rfl, rfl, rfl⟩

/-- A register or small field is its own number. -/
theorem finOf_val {n : Nat} [NeZero n] (x : Fin n) : Fin.ofNat n x.val = x := Fin.ofNat_val_eq_self x

/-- The lower of two fields of an immediate. -/
theorem finOf_add_mul {n : Nat} [NeZero n] (x : Fin n) (k : Nat) : Fin.ofNat n (x.val + n * k) = x := by
  apply Fin.ext
  rw [Fin.val_ofNat, Nat.add_mul_mod_self_left, Nat.mod_eq_of_lt x.isLt]

/-- The upper of two fields of an immediate. -/
theorem finOf_add_mul_div {n m : Nat} [NeZero m] {x : Nat} (hx : x < n) (y : Fin m) : Fin.ofNat m ((x + n * y.val) / n) = y := by
  apply Fin.ext
  rw [Fin.val_ofNat, Nat.add_mul_div_left _ _ (Nat.zero_lt_of_lt hx), Nat.div_eq_of_lt hx, Nat.zero_add, Nat.mod_eq_of_lt y.isLt]

/-- A field above zeros. -/
theorem finOf_mul_div {n m : Nat} [NeZero m] (hn : 0 < n) (y : Fin m) : Fin.ofNat m (n * y.val / n) = y := by
  simpa using finOf_add_mul_div hn y

/-! ### Immediates and memory layouts (R32, R37) -/

theorem Imm.bits_lt (i : Imm) : i.bits < 2 ^ 56 ∧ ((!i.short) = false → i.bits < 2 ^ 24) := by
  cases i with
  | i24 v => exact ⟨v.isLt.trans (by decide), fun _ => v.isLt⟩
  | i56 v => exact ⟨v.isLt, nofun⟩

theorem Mem.bits_lt (m : Mem) : m.bits < 2 ^ 56 ∧ ((!m.disp.short) = false → m.bits < 2 ^ 24) := by
  obtain ⟨o, s, disp⟩ := m
  have := scode_lt s
  have := ocode_lt o
  cases disp with
  | d19 v =>
    have := v.isLt
    dsimp only [Mem.bits]
    omega
  | d51 v =>
    have := v.isLt
    exact ⟨by dsimp only [Mem.bits]; omega, nofun⟩

theorem immOf_bits (i : Imm) (unit op d a b c seg skip minor : Nat) :
    immOf ⟨!i.short, unit, op, d, a, b, c, seg, skip, minor, i.bits⟩ = i := by
  cases i <;> simp [immOf, Imm.short, Imm.bits]

theorem memOf_bits (m : Mem) (unit op d a b c seg skip minor : Nat) :
    memOf ⟨!m.disp.short, unit, op, d, a, b, c, seg, skip, minor, m.bits⟩ = some m := by
  obtain ⟨o, s, disp⟩ := m
  have := scode_lt s
  cases disp with
  | d19 v =>
    have := v.isLt
    have scope : (v.toNat + 2 ^ 19 * scode s + 2 ^ 22 * ocode o) / 2 ^ 19 % 8 = scode s := by omega
    have order : (v.toNat + 2 ^ 19 * scode s + 2 ^ 22 * ocode o) / 2 ^ 22 = ocode o := by omega
    have place : BitVec.ofNat 19 (v.toNat + 2 ^ 19 * scode s + 2 ^ 22 * ocode o) = v := by
      apply BitVec.eq_of_toNat_eq
      rw [BitVec.toNat_ofNat]
      omega
    simp only [memOf, Mem.bits, Disp.short, Bool.not_true, Bool.false_eq_true, if_false, scope, order, place, scopeOf_scode, ordOf_ocode,
      Option.bind_some]
  | d51 v =>
    have := v.isLt
    have scope : (v.toNat + 2 ^ 51 * scode s + 2 ^ 54 * ocode o) / 2 ^ 51 % 8 = scode s := by omega
    have order : (v.toNat + 2 ^ 51 * scode s + 2 ^ 54 * ocode o) / 2 ^ 54 = ocode o := by omega
    have place : BitVec.ofNat 51 (v.toNat + 2 ^ 51 * scode s + 2 ^ 54 * ocode o) = v := by
      apply BitVec.eq_of_toNat_eq
      rw [BitVec.toNat_ofNat]
      omega
    simp only [memOf, Mem.bits, Disp.short, Bool.not_false, if_true, scope, order, place, scopeOf_scode, ordOf_ocode, Option.bind_some]

/-! ### The fields of an instruction lie in their places (R31, R32) -/

/-- Each field is a number of its width in Table 2; the immediate has 56 bits, in an operation of 64 bits 24. -/
structure Fields.Fits (f : Fields) : Prop where
  registers : f.unit < 2 ∧ f.op < 256 ∧ f.d < 32 ∧ f.a < 32 ∧ f.b < 32 ∧ f.c < 32 ∧ f.seg < 8 ∧ f.skip < 4
  minor : f.minor < 16
  imm : f.imm < 2 ^ 56 ∧ (f.l96 = false → f.imm < 2 ^ 24)

theorem Instr.fields_registers_lt {i : Instr} {f : Fields} (h : i.fields = some f) :
    f.unit < 2 ∧ f.op < 256 ∧ f.d < 32 ∧ f.a < 32 ∧ f.b < 32 ∧ f.c < 32 ∧ f.seg < 8 ∧ f.skip < 4 := by
  cases i <;> cases h <;> dsimp only <;> omega

theorem Instr.fields_minor_lt {i : Instr} {f : Fields} (h : i.fields = some f) : f.minor < 16 := by
  cases i <;> cases h <;> grind only [wcode_lt, tcode_lt, ccode_lt, lcode_lt, bit_lt]

theorem Instr.fields_imm_lt {i : Instr} {f : Fields} (h : i.fields = some f) : f.imm < 2 ^ 56 ∧ (f.l96 = false → f.imm < 2 ^ 24) := by
  cases i <;> cases h
  any_goals exact Imm.bits_lt _
  any_goals exact Mem.bits_lt _
  case fence sc => have := scode_lt sc; dsimp only; omega
  case fencex sc p1 p2 => have := scode_lt sc; have := pcode_lt p1; have := pcode_lt p2; dsimp only; omega
  case vfcmp ty cond p d a b => have := fcode_lt cond; dsimp only; omega
  case vcmp ty cond p d a b => have := ccode_lt cond; dsimp only; omega
  case vcvt ty src toU fromU part rm p d a =>
    have := tcode_lt src; have := bit_lt toU; have := bit_lt fromU; dsimp only; omega
  case mldw ty west comp sg d a b c => have := bit_lt west; have := bit_lt comp; dsimp only; omega
  case mstrm ty tr sg d a b c => have := bit_lt tr; dsimp only; omega
  case mdrain ty cols clr sg d a b c => have := bit_lt clr; dsimp only; omega
  all_goals dsimp only; omega

theorem Instr.fields_fits {i : Instr} {f : Fields} (h : i.fields = some f) : f.Fits :=
  ⟨Instr.fields_registers_lt h, Instr.fields_minor_lt h, Instr.fields_imm_lt h⟩

/-! ### An instruction is read back from its fields (R46, R47) -/

/-- R193: the parts of the immediate of VCVT. -/
theorem vcvt_parts (src : VType) (toU fromU : Bool) (part rm : Fin 8) :
    let imm := rm.val + 16 * tcode src + 256 * bit fromU + 512 * bit toU + 1024 * part.val
    imm / 16 % 16 = tcode src ∧ (imm / 512 % 2 == 1) = toU ∧ (imm / 256 % 2 == 1) = fromU ∧ Fin.ofNat 8 (imm / 1024) = part ∧
      Fin.ofNat 8 imm = rm := by
  intro imm
  have := tcode_lt src
  have := bit_lt toU
  have := bit_lt fromU
  have hto : imm / 512 % 2 = bit toU % 2 := by omega
  have hfrom : imm / 256 % 2 = bit fromU % 2 := by omega
  refine ⟨by omega, ?_, ?_, ?_, ?_⟩
  · rw [hto, bit_mod_two]
  · rw [hfrom, bit_mod_two]
  · apply Fin.ext
    rw [Fin.val_ofNat]
    omega
  · apply Fin.ext
    rw [Fin.val_ofNat]
    omega

/-- R119: the parts of the immediate of FENCEX. -/
theorem fencex_parts (sc : Scope) (p1 p2 : Path) :
    let imm := pcode p1 + 8 * pcode p2 + scode sc * 2 ^ 19
    imm / 2 ^ 19 = scode sc ∧ imm % 8 = pcode p1 ∧ imm / 8 % 8 = pcode p2 := by
  have := pcode_lt p1
  have := pcode_lt p2
  dsimp only
  omega

/-- Two flags side by side. -/
theorem bits_parts (x y : Bool) : ((bit x + 2 * bit y) % 2 == 1) = x ∧ ((bit x + 2 * bit y) / 2 % 2 == 1) = y := by
  cases x <;> cases y <;> exact ⟨rfl, rfl⟩

/-- R254: the parts of the immediate of MDRAIN. -/
theorem mdrain_parts (cols : BitVec 7) (clr : Bool) :
    BitVec.ofNat 7 (cols.toNat + 128 * bit clr) = cols ∧ ((cols.toNat + 128 * bit clr) / 128 % 2 == 1) = clr := by
  have high : (cols.toNat + 128 * bit clr) / 128 = bit clr := by omega
  refine ⟨BitVec.eq_of_toNat_eq ?_, by rw [high, bit_mod_two]⟩
  rw [BitVec.toNat_ofNat]
  omega

theorem buildVector_fields {i : Instr} {f : Fields} (h : i.fields = some f) (vector : f.unit = 1) : buildVector f = some i := by
  cases i <;> cases h <;> cases vector
  -- a row is an instruction, a choice between two forms, or the reading of a code
  any_goals change some _ = _
  any_goals change ite _ _ _ = _
  any_goals change Option.bind _ _ = _
  case vcvt ty src toU fromU part rm p d a =>
    obtain ⟨hsrc, hto, hfrom, hpart, hrm⟩ := vcvt_parts src toU fromU part rm
    simp only [tyOf_tcode, Option.bind_some, hsrc, hto, hfrom, hpart, hrm, finOf_val]
  case vdqlns part rm p d a b =>
    have hrm : Fin.ofNat 8 (rm.val + 1024 * part.val) = rm := by rw [show 1024 = 8 * 128 from rfl, Nat.mul_assoc, finOf_add_mul]
    rw [hrm, finOf_add_mul_div (by omega)]
    simp only [finOf_val]
  case vfcmp | vcmp =>
    simp only [tyOf_tcode, Option.bind_some, finOf_val, condOf_imm, fcondOf_imm]
  all_goals
    simp only [tyOf_tcode, memOf_bits, Option.bind_some, finOf_val, finOf_mul_div, Nat.ofNat_pos, Nat.reduceDiv, Nat.reduceMod,
      ↓reduceIte, zero_ne_one]

theorem buildScalar_fields {i : Instr} {f : Fields} (h : i.fields = some f) (scalar : f.unit = 0) : buildScalar f = some i := by
  cases i <;> cases h <;> cases scalar
  any_goals change some _ = _
  any_goals change ite _ _ _ = _
  any_goals change Option.bind _ _ = _
  case fence sc => rw [Nat.mul_div_cancel _ (by decide), scopeOf_scode, Option.bind_some]
  case fencex sc p1 p2 =>
    obtain ⟨hsc, hp1, hp2⟩ := fencex_parts sc p1 p2
    simp only [hsc, hp1, hp2, scopeOf_scode, pathOf_pcode, Option.bind_some]
  case mldw | tkreq => simp only [tyOf_tcode, Option.bind_some, bits_parts, finOf_val]
  case mdrain ty cols clr sg d a b c =>
    obtain ⟨hcols, hclr⟩ := mdrain_parts cols clr
    simp only [tyOf_tcode, Option.bind_some, hcols, hclr, finOf_val]
  case lxrhStart | lxst | nred =>
    simp only [tyOf_tcode, Option.bind_some, finOf_add_mul, finOf_add_mul_div, Fin.is_lt, finOf_val]
  all_goals
    simp only [tyOf_tcode, memOf_bits, immOf_bits, wOf_wcode, wOf_wcode_form, wcode_form, condOf_ccode, levelOf_lcode, lcode_form,
      bit_mod_two, Option.bind_some, finOf_val, finOf_mul_div, Nat.ofNat_pos, BitVec.ofNat_toNat, BitVec.setWidth_eq, ↓reduceIte,
      Nat.reduceEqDiff, zero_ne_one]

theorem buildOp_fields {i : Instr} {f : Fields} (h : i.fields = some f) : buildOp f = some i := by
  have unit : f.unit = 0 ∨ f.unit = 1 := Nat.le_one_iff_eq_zero_or_eq_one.1 (Nat.le_of_lt_succ (Instr.fields_registers_lt h).1)
  unfold buildOp
  rcases unit with scalar | vector
  · rw [if_pos scalar, buildScalar_fields h scalar]
  · rw [if_neg (by omega), buildVector_fields h vector]

/-! ### The checks that the fields of an instruction pass (R49, steps 5 to 8) -/

theorem Instr.fields_assigned {i : Instr} {f : Fields} (h : i.fields = some f) : opAssigned f.unit f.op = true := by
  cases i <;> cases h <;> rfl

theorem regsOk_iff (f : Fields) : regsOk f = true ↔
    f.d < (fileSizes f).1 ∧ f.a < (fileSizes f).2.1 ∧ f.b < (fileSizes f).2.2.1 ∧ f.c < (fileSizes f).2.2.2 := by
  simp only [regsOk, Bool.and_eq_true, decide_eq_true_eq, and_assoc]

/-- R33: a field is a register of the file that the operation names there, or 0. -/
theorem Instr.fields_regsOk {i : Instr} {f : Fields} (h : i.fields = some f) : regsOk f = true := by
  rw [regsOk_iff]
  cases i <;> cases h <;> refine ⟨?_, ?_, ?_, ?_⟩
  any_goals exact Nat.succ_pos _
  all_goals exact Fin.isLt _

/-- R32: an instruction whose codes pass stands in an L96 word exactly when it has an operand of that length. -/
theorem Instr.fields_l96 {i : Instr} {f : Fields} (h : i.fields = some f) (ok : i.codesOk = true) : f.l96 = i.long := by
  cases i <;> cases h
  any_goals rfl
  -- the others with a memory layout have no L96 form: the last of their checks asks for the short one
  all_goals exact congrArg not (Bool.and_eq_true_iff.1 ok).2

/-- R46: both immediate forms have minor[3]. -/
theorem wcode_immForm (w : Width) : (wcode w + 8) / 8 = 1 ∧ (wcode w + 12) / 8 = 1 := by
  have := wcode_lt w
  omega

theorem Instr.fields_longFormOk {i : Instr} {f : Fields} (h : i.fields = some f) (long : i.long = true) : longFormOk f = true := by
  cases i <;> cases h
  any_goals cases long
  any_goals rfl
  all_goals simp only [longFormOk, wcode_immForm]; rfl

theorem enginePresent_all (unit op : Nat) : enginePresent allEngines unit op = true := by
  unfold enginePresent
  split
  · rfl
  · split <;> rfl

/-- R49: the decoder accepts an operation exactly when steps 5 to 10 of Table 11 pass, and the instruction writes every bit back (R34). -/
theorem decodeOp_eq_instr (e : Engines) (f : Fields) (i : Instr) :
    decodeOp e f = .instr i ↔
      (opAssigned f.unit f.op = true ∧ enginePresent e f.unit f.op = true ∧ (f.l96 = true → longFormOk f = true) ∧ regsOk f = true) ∧
      buildOp f = some i ∧ i.codesOk = true ∧ i.skipOk = true ∧ i.fields = some f := by
  unfold decodeOp
  cases hb : buildOp f with
  | none => grind
  | some j => grind

/-- An instruction passes every step from its own fields. -/
theorem decodeOp_fields {i : Instr} {f : Fields} (h : i.fields = some f) (codes : i.codesOk = true) (skip : i.skipOk = true) :
    decodeOp allEngines f = .instr i :=
  (decodeOp_eq_instr _ _ _).2 ⟨⟨Instr.fields_assigned h, enginePresent_all _ _,
    fun long => Instr.fields_longFormOk h ((Instr.fields_l96 h codes).symm.trans long), Instr.fields_regsOk h⟩,
    buildOp_fields h, codes, skip, h⟩

/-! ### Fields and bits (R31, R32) -/

theorem unpack_pack {f : Fields} (fits : f.Fits) (short : f.l96 = false) {len : Nat} (hlen : len < 4) (rest : Nat) :
    unpack (pack len f + 2 ^ 64 * rest) = f := by
  obtain ⟨l96, unit, op, d, a, b, c, seg, skip, minor, imm⟩ := f
  obtain ⟨⟨_, _, _, _, _, _, _, _⟩, _, _, himm⟩ := fits
  dsimp only at *
  subst short
  have := himm rfl
  simp only [unpack, pack, Fields.mk.injEq]
  refine ⟨trivial, ?_, ?_, ?_, ?_, ?_, ?_, ?_, ?_, ?_, ?_⟩ <;> omega

theorem unpackLong_pack {f : Fields} (fits : f.Fits) (long : f.l96 = true) {len : Nat} (hlen : len < 4) (rest : Nat) :
    unpackLong (pack len f + 2 ^ 96 * rest) = f := by
  obtain ⟨l96, unit, op, d, a, b, c, seg, skip, minor, imm⟩ := f
  obtain ⟨⟨_, _, _, _, _, _, _, _⟩, _, _, _⟩ := fits
  dsimp only at *
  subst long
  simp only [unpackLong, unpack, pack, Fields.mk.injEq]
  refine ⟨trivial, ?_, ?_, ?_, ?_, ?_, ?_, ?_, ?_, ?_, ?_⟩ <;> omega

theorem pack_unpack (w : Nat) : pack (w % 4) (unpack w) = w % 2 ^ 64 := by
  simp only [unpack, pack]
  omega

theorem pack_unpackLong (w : Nat) : pack (w % 4) (unpackLong w) = w % 2 ^ 96 := by
  simp only [unpackLong, unpack, pack]
  omega

theorem pack_lt {f : Fields} (fits : f.Fits) {len : Nat} (hlen : len < 4) : pack len f < 2 ^ 96 ∧ (f.l96 = false → pack len f < 2 ^ 64) := by
  obtain ⟨⟨_, _, _, _, _, _, _, _⟩, _, _, himm⟩ := fits
  unfold pack
  refine ⟨by omega, fun short => ?_⟩
  have := himm short
  omega

/-- The length code and the unit bit of a word. -/
theorem pack_mod {f : Fields} (fits : f.Fits) {len : Nat} (hlen : len < 4) : pack len f % 4 = len ∧ pack len f / 4 % 2 = f.unit := by
  obtain ⟨⟨_, _, _, _, _, _, _, _⟩, _, _, _⟩ := fits
  unfold pack
  omega

/-- No operation is the word of zeros: opcode 0 is assigned on the vector side only. -/
theorem pack_ne_zero {f : Fields} (assigned : opAssigned f.unit f.op = true) (len : Nat) : pack len f ≠ 0 := by
  have coded : f.unit ≠ 0 ∨ f.op ≠ 0 := by
    by_contra none
    push Not at none
    rw [none.1, none.2] at assigned
    cases assigned
  unfold pack
  omega

/-! ### The words of the three lengths (R28) -/

/-- What the decoder answers for a word of one operation. -/
def OpRes.decoded (bytes : Nat) : OpRes → Decoded
  | .instr i => .instr i bytes
  | .stop n => .illegal (stepDetail n)

theorem OpRes.decoded_eq_instr {r : OpRes} {i : Instr} {n bytes : Nat} : r.decoded n = .instr i bytes ↔ r = .instr i ∧ n = bytes := by
  cases r <;> simp [OpRes.decoded]

theorem decodeWord_short (e : Engines) (avail : Nat) {w : Nat} (code : w % 4 = 0) :
    decodeWord e avail w = if avail < 8 then .boundary else if w % 2 ^ 64 = 0 then .illegal (stepDetail 4) else
      (decodeOp e (unpack w)).decoded 8 := by
  unfold decodeWord OpRes.decoded
  rw [code]
  rfl

theorem decodeWord_long (e : Engines) (avail : Nat) {w : Nat} (code : w % 4 = 1) :
    decodeWord e avail w = if avail < 12 then .boundary else (decodeOp e (unpackLong w)).decoded 12 := by
  unfold decodeWord OpRes.decoded
  rw [code]
  rfl

theorem decodeWord_pair (e : Engines) (avail : Nat) {w : Nat} (code : w % 4 = 2) :
    decodeWord e avail w = if avail < 16 then .boundary else decodePair e w := by
  unfold decodeWord
  rw [code]
  rfl

theorem decodeWord_other (e : Engines) (avail : Nat) {w : Nat} (code : w % 4 = 3) :
    decodeWord e avail w = if w % 2 ^ 32 = 3 then .filler else .illegal 0x01 := by
  unfold decodeWord
  rw [code]
  rfl

/-! ### Encoding (R28, R31, R32, R40) -/

theorem Instr.ne_pair_of_fields {i : Instr} {f : Fields} (h : i.fields = some f) (x y : Instr) : i ≠ .pair x y := by
  rintro rfl
  cases h

theorem encode_of_ne_pair {i : Instr} (h : ∀ x y, i ≠ .pair x y) :
    encode i = i.fields.map fun f => if f.l96 then (pack 1 f, 12) else (pack 0 f, 8) := by
  unfold encode
  split
  · exact absurd rfl (h _ _)
  · rfl

theorem encode_of_fields {i : Instr} {f : Fields} (h : i.fields = some f) :
    encode i = some (if f.l96 then (pack 1 f, 12) else (pack 0 f, 8)) := by
  rw [encode_of_ne_pair (Instr.ne_pair_of_fields h), h, Option.map_some]

theorem encode_pair {x y : Instr} {fx fy : Fields} (hx : x.fields = some fx) (hy : y.fields = some fy) :
    encode (.pair x y) = some (pack 2 fx + 2 ^ 64 * pack 0 fy, 16) := by
  simp only [encode, hx, hy]

/-- What has an encoding is one operation, or a pair of two. -/
theorem encode_isSome {i : Instr} (h : (encode i).isSome) :
    (∃ f, i.fields = some f) ∨ ∃ x y fx fy, i = .pair x y ∧ x.fields = some fx ∧ y.fields = some fy := by
  by_cases pair : ∃ x y, i = .pair x y
  · obtain ⟨x, y, rfl⟩ := pair
    cases hx : x.fields <;> cases hy : y.fields <;> simp only [encode, hx, hy] at h <;> cases h
    exact .inr ⟨x, y, _, _, rfl, hx, hy⟩
  · rw [encode_of_ne_pair fun x y e => pair ⟨x, y, e⟩, Option.isSome_map] at h
    exact .inl (Option.isSome_iff_exists.1 h)

theorem Instr.wf_of_fields {i : Instr} {f : Fields} (h : i.fields = some f) : i.wf = (i.codesOk && i.skipOk) := by
  unfold Instr.wf
  split
  · cases h
  · rfl

/-! ### Pairs (R40, R42) -/

theorem Instr.fields_scalarHalf {i : Instr} {f : Fields} (h : i.fields = some f) (scalar : i.scalarHalf = true) :
    f.unit = 0 ∧ f.op < 0x90 := by
  cases i <;> cases scalar <;> cases h <;> exact ⟨rfl, of_decide_eq_true rfl⟩

theorem Instr.fields_vectorSide {i : Instr} {f : Fields} (h : i.fields = some f) (vector : i.vectorSide = true) : f.unit = 1 := by
  cases i <;> cases vector <;> cases h <;> rfl

/-- The halves of a pair have no L96 form, and the unit and opcode that their places ask for. -/
theorem pairOk_halves {x y : Instr} (ok : pairOk x y = true) :
    x.scalarHalf = true ∧ y.vectorSide = true ∧ x.long = false ∧ y.long = false := by
  simp only [pairOk, Bool.and_eq_true, Bool.not_eq_true'] at ok
  obtain ⟨⟨⟨⟨⟨hx, hy⟩, sx⟩, sy⟩, -⟩, -⟩ := ok
  exact ⟨hx, hy, sx, sy⟩

/-- R49: a pair is accepted when its marks stand and both halves pass; a scalar half from 0x90 up would stop. -/
theorem decodePair_of_halves {e : Engines} {w : Nat} {x y : Instr} (marks : w / 4 % 2 = 0 ∧ w / 2 ^ 64 % 4 = 0 ∧ w / 2 ^ 66 % 2 = 1)
    (hx : decodeOp e (unpack (w % 2 ^ 64)) = .instr x) (hy : decodeOp e (unpack (w / 2 ^ 64)) = .instr y)
    (low : (unpack (w % 2 ^ 64)).op < 0x90) (ok : pairOk x y = true) : decodePair e w = .instr (.pair x y) 16 := by
  obtain ⟨unit, code, vector⟩ := marks
  have scalar : ¬ 0x90 ≤ (unpack (w % 2 ^ 64)).op := Nat.not_le.2 low
  simp only [decodePair, unit, code, vector, hx, hy, ok, OpRes.stepNo, decide_eq_false scalar, Bool.and_false, Bool.and_true,
    Bool.false_eq_true, if_false, BEq.rfl, Bool.not_true, Nat.min_self, Nat.lt_irrefl, if_true]

theorem decodePair_eq_instr {e : Engines} {w bytes : Nat} {i : Instr} (h : decodePair e w = .instr i bytes) :
    (w / 4 % 2 = 0 ∧ w / 2 ^ 64 % 4 = 0 ∧ w / 2 ^ 66 % 2 = 1) ∧ bytes = 16 ∧ ∃ x y, i = .pair x y ∧ pairOk x y = true ∧
      decodeOp e (unpack (w % 2 ^ 64)) = .instr x ∧ decodeOp e (unpack (w / 2 ^ 64)) = .instr y := by
  by_cases marks : w / 4 % 2 = 0 ∧ w / 2 ^ 64 % 4 = 0 ∧ w / 2 ^ 66 % 2 = 1
  · refine ⟨marks, ?_⟩
    cases hx : decodeOp e (unpack (w % 2 ^ 64)) <;> cases hy : decodeOp e (unpack (w / 2 ^ 64)) <;>
      simp only [decodePair, hx, hy] at h <;> split_ifs at h
    all_goals
      cases h
      exact ⟨rfl, _, _, rfl, ‹_›, rfl, rfl⟩
  · have stops : (!(w / 4 % 2 == 0 && w / 2 ^ 64 % 4 == 0 && w / 2 ^ 66 % 2 == 1)) = true := by
      simpa only [Bool.not_eq_true', ← Bool.not_eq_true, Bool.and_eq_true, beq_iff_eq, and_assoc] using marks
    rw [decodePair, if_pos stops] at h
    cases h

/-- R28: the word of one operation, and what follows it, is that operation. -/
theorem decodeWord_pack_short {i : Instr} {f : Fields} (h : i.fields = some f) (codes : i.codesOk = true) (skip : i.skipOk = true)
    (short : f.l96 = false) {avail : Nat} (room : 8 ≤ avail) (rest : Nat) :
    decodeWord allEngines avail (pack 0 f + 2 ^ 64 * rest) = .instr i 8 := by
  have fits := Instr.fields_fits h
  have code := (pack_mod fits (len := 0) (by decide)).1
  have below := (pack_lt fits (len := 0) (by decide)).2 short
  have nonzero := pack_ne_zero (Instr.fields_assigned h) 0
  rw [decodeWord_short _ _ (by omega), if_neg (Nat.not_lt.2 room), if_neg (by omega), unpack_pack fits short (by decide),
    decodeOp_fields h codes skip, OpRes.decoded]

theorem decodeWord_pack_long {i : Instr} {f : Fields} (h : i.fields = some f) (codes : i.codesOk = true) (skip : i.skipOk = true)
    (long : f.l96 = true) {avail : Nat} (room : 12 ≤ avail) (rest : Nat) :
    decodeWord allEngines avail (pack 1 f + 2 ^ 96 * rest) = .instr i 12 := by
  have fits := Instr.fields_fits h
  have code := (pack_mod fits (len := 1) (by decide)).1
  rw [decodeWord_long _ _ (by omega), if_neg (Nat.not_lt.2 room), unpackLong_pack fits long (by decide), decodeOp_fields h codes skip,
    OpRes.decoded]

/-- R40, R42: the halves of a well-formed pair are well-formed operations of 64 bits. -/
theorem Instr.wf_pair {x y : Instr} {fx fy : Fields} (wf : (Instr.pair x y).wf = true) (hx : x.fields = some fx) (hy : y.fields = some fy) :
    pairOk x y = true ∧ (x.codesOk = true ∧ x.skipOk = true ∧ fx.l96 = false) ∧ y.codesOk = true ∧ y.skipOk = true ∧ fy.l96 = false := by
  simp only [Instr.wf, Bool.and_eq_true] at wf
  obtain ⟨⟨⟨⟨ok, cx⟩, cy⟩, sx⟩, sy⟩ := wf
  obtain ⟨-, -, lx, ly⟩ := pairOk_halves ok
  exact ⟨ok, ⟨cx, sx, (Instr.fields_l96 hx cx).trans lx⟩, cy, sy, (Instr.fields_l96 hy cy).trans ly⟩

section
variable {x y : Instr} {fx fy : Fields} (wf : (Instr.pair x y).wf = true) (hx : x.fields = some fx) (hy : y.fields = some fy)
include wf hx hy

theorem pack_pair_lt : pack 2 fx + 2 ^ 64 * pack 0 fy < 2 ^ 128 := by
  obtain ⟨-, ⟨-, -, shortx⟩, -, -, shorty⟩ := Instr.wf_pair wf hx hy
  have belowx := (pack_lt (Instr.fields_fits hx) (len := 2) (by decide)).2 shortx
  have belowy := (pack_lt (Instr.fields_fits hy) (len := 0) (by decide)).2 shorty
  omega

/-- R40: the word of a pair, and what follows it, is that pair. -/
theorem decodeWord_pack_pair {avail : Nat} (room : 16 ≤ avail) (rest : Nat) :
    decodeWord allEngines avail (pack 2 fx + 2 ^ 64 * pack 0 fy + 2 ^ 128 * rest) = .instr (.pair x y) 16 := by
  obtain ⟨ok, ⟨cx, sx, shortx⟩, cy, sy, shorty⟩ := Instr.wf_pair wf hx hy
  obtain ⟨scalar, vector, -, -⟩ := pairOk_halves ok
  have fitsx := Instr.fields_fits hx
  have fitsy := Instr.fields_fits hy
  obtain ⟨unitx, low⟩ := Instr.fields_scalarHalf hx scalar
  have unity := Instr.fields_vectorSide hy vector
  have belowx := (pack_lt fitsx (len := 2) (by decide)).2 shortx
  obtain ⟨codex, placex⟩ := pack_mod fitsx (len := 2) (by decide)
  obtain ⟨codey, placey⟩ := pack_mod fitsy (len := 0) (by decide)
  have first : (pack 2 fx + 2 ^ 64 * pack 0 fy + 2 ^ 128 * rest) % 2 ^ 64 = pack 2 fx + 2 ^ 64 * 0 := by omega
  have second : (pack 2 fx + 2 ^ 64 * pack 0 fy + 2 ^ 128 * rest) / 2 ^ 64 = pack 0 fy + 2 ^ 64 * rest := by omega
  have readx : unpack (pack 2 fx + 2 ^ 64 * 0) = fx := unpack_pack fitsx shortx (by decide) 0
  rw [decodeWord_pair _ _ (by omega), if_neg (Nat.not_lt.2 room)]
  refine decodePair_of_halves ⟨by omega, by omega, by omega⟩ ?_ ?_ ?_ ok
  · rw [first, readx, decodeOp_fields hx cx sx]
  · rw [second, unpack_pack fitsy shorty (by decide), decodeOp_fields hy cy sy]
  · rw [first, readx]
    exact low

end

/-- Settles O56: the word is that of one operation (`decodeWord_pack_short`, `decodeWord_pack_long`) or of a pair (`decodeWord_pack_pair`). -/
theorem encodingRoundTrip : Obligations.EncodingRoundTrip := by
  intro i bits bytes avail rest wf enc room
  rcases encode_isSome (Option.isSome_of_eq_some enc) with ⟨f, h⟩ | ⟨x, y, fx, fy, rfl, hx, hy⟩
  · have fits := Instr.fields_fits h
    rw [Instr.wf_of_fields h, Bool.and_eq_true] at wf
    obtain ⟨codes, skip⟩ := wf
    rw [encode_of_fields h] at enc
    cases hl : f.l96 <;> rw [hl] at enc <;> cases enc
    · exact ⟨.inl rfl, (pack_lt fits (by decide)).2 hl, decodeWord_pack_short h codes skip hl room rest⟩
    · exact ⟨.inr (.inl rfl), (pack_lt fits (by decide)).1, decodeWord_pack_long h codes skip hl room rest⟩
  · rw [encode_pair hx hy] at enc
    cases enc
    exact ⟨.inr (.inr rfl), pack_pair_lt wf hx hy, decodeWord_pack_pair wf hx hy room rest⟩

/-! ### What the decoder accepts (R34) -/

section
variable {e : Engines} {avail w bytes : Nat} {i : Instr}

theorem decodeWord_short_exact (code : w % 4 = 0) (h : decodeWord e avail w = .instr i bytes) :
    i.wf = true ∧ bytes ≤ avail ∧ encode i = some (w % 2 ^ (8 * bytes), bytes) := by
  rw [decodeWord_short e avail code] at h
  split_ifs at h with room zero
  obtain ⟨op, rfl⟩ := OpRes.decoded_eq_instr.1 h
  obtain ⟨-, -, codes, skip, fields⟩ := (decodeOp_eq_instr _ _ _).1 op
  have word := pack_unpack w
  rw [code] at word
  exact ⟨by rw [Instr.wf_of_fields fields, codes, skip]; rfl, Nat.not_lt.1 room, by rw [encode_of_fields fields, word]; rfl⟩

theorem decodeWord_long_exact (code : w % 4 = 1) (h : decodeWord e avail w = .instr i bytes) :
    i.wf = true ∧ bytes ≤ avail ∧ encode i = some (w % 2 ^ (8 * bytes), bytes) := by
  rw [decodeWord_long e avail code] at h
  split_ifs at h with room
  obtain ⟨op, rfl⟩ := OpRes.decoded_eq_instr.1 h
  obtain ⟨-, -, codes, skip, fields⟩ := (decodeOp_eq_instr _ _ _).1 op
  have word := pack_unpackLong w
  rw [code] at word
  exact ⟨by rw [Instr.wf_of_fields fields, codes, skip]; rfl, Nat.not_lt.1 room, by rw [encode_of_fields fields, word]; rfl⟩

theorem decodeWord_pair_exact (code : w % 4 = 2) (h : decodeWord e avail w = .instr i bytes) :
    i.wf = true ∧ bytes ≤ avail ∧ encode i = some (w % 2 ^ (8 * bytes), bytes) := by
  rw [decodeWord_pair e avail code] at h
  split_ifs at h with room
  obtain ⟨⟨-, second, -⟩, rfl, x, y, rfl, ok, hx, hy⟩ := decodePair_eq_instr h
  obtain ⟨-, -, cx, sx, fx⟩ := (decodeOp_eq_instr _ _ _).1 hx
  obtain ⟨-, -, cy, sy, fy⟩ := (decodeOp_eq_instr _ _ _).1 hy
  have wordx := pack_unpack (w % 2 ^ 64)
  have wordy := pack_unpack (w / 2 ^ 64)
  rw [show w % 2 ^ 64 % 4 = 2 by omega, Nat.mod_mod] at wordx
  rw [second] at wordy
  have whole : w % 2 ^ 64 + 2 ^ 64 * (w / 2 ^ 64 % 2 ^ 64) = w % 2 ^ (8 * 16) := by omega
  exact ⟨by simp only [Instr.wf, ok, cx, cy, sx, sy, Bool.and_true], Nat.not_lt.1 room, by rw [encode_pair fx fy, wordx, wordy, whole]⟩

end

/-- Settles O57: what is accepted writes its own bits back, for each length code; no instruction has length code 0b11. -/
theorem decodingIsExact : Obligations.DecodingIsExact := by
  intro e avail w
  refine ⟨fun i bytes h => ?_, fun code room => ?_, fun code room => ?_, fun code room => ?_, fun code => decodeWord_other e avail code⟩
  · have codes : w % 4 = 0 ∨ w % 4 = 1 ∨ w % 4 = 2 ∨ w % 4 = 3 := by omega
    rcases codes with code | code | code | code
    · exact decodeWord_short_exact code h
    · exact decodeWord_long_exact code h
    · exact decodeWord_pair_exact code h
    · rw [decodeWord_other e avail code] at h
      split_ifs at h
  · rw [decodeWord_short e avail code, if_pos room]
  · rw [decodeWord_long e avail code, if_pos room]
  · rw [decodeWord_pair e avail code, if_pos room]

/-- Settles O58: the decoder reads each of the words as the instruction that the spec says it is. -/
theorem exampleWords : Obligations.ExampleWords :=
  ⟨rfl, rfl, rfl, rfl, rfl, rfl, rfl, rfl, rfl, rfl, rfl, rfl, rfl, rfl⟩

end Sys2Proof

/-!
## Issue positions (R49, R121 to R126)

SUPPORT and the statement O55. What a position comes to for a thread that may issue.
-/

namespace Sys2Proof.Machine

theorem Slot.wakeDue_none {t : Slot} (h : t.wakeStatus = none) : t.wakeDue = none := by
  unfold Slot.wakeDue
  split
  · exact h
  · rfl

theorem skipPend_eq_zero {f : Word} : skipPend f = 0 ↔ f.extractLsb' 16 2 = 0 := by
  rw [skipPend, ← BitVec.toNat_inj]
  rfl

/-- R142: no report is taken before the word. -/
abbrev Slot.quiet (t : Slot) : Prop := t.reports = [] ∨ t.flags.getLsbD 19 = true

section
variable {s : State} {c k avail w : Nat} {home : Bool} {again : Turn} (quiet : (s.slot c k).quiet) (wake : (s.slot c k).wakeStatus = none)
  (fetched : (s.slot c k).fetched = .word avail w)
include quiet wake fetched

/-- A thread with no report to take and its word in the buffer issues what the decoder answers. -/
theorem State.serve_word :
    (∀ i n, decodeWord (enginesOf c) avail w = .instr i n → s.serve c k home again = .run i (s.issue c k n i home)) ∧
    (decodeWord (enginesOf c) avail w = .boundary →
      s.serve c k home again = .run .illegalEncoding { s.issue c k 4 .illegalEncoding home with ev := { flag := true } }) ∧
    ∀ d, decodeWord (enginesOf c) avail w = .illegal d →
      s.serve c k home again = .run .illegalEncoding { s.issue c k 4 .illegalEncoding home with ev := { value := BitVec.ofNat 64 d } } := by
  have noReport : ¬ (!(s.slot c k).reports.isEmpty && !hmode (s.slot c k).flags) = true := by
    rcases quiet with none | handler
    · simp [none]
    · simp [hmode, handler]
  refine ⟨fun i n word => ?_, fun word => ?_, fun d word => ?_⟩ <;>
    simp only [State.serve, if_neg noReport, Slot.wakeDue_none wake, fetched, word]

end

/-- What the issue of a word of n bytes does to its slot (R123, R136). -/
def Slot.issues (t : Slot) (clk cid n : Nat) (i : Instr) (home : Bool) : Slot :=
  { t.ahead with
    npc := t.pc + BitVec.ofNat 64 n, last := clk, dist := distanceOf cid i, issueCount := t.issueCount + 1, retry := false
    wakeStatus := if hmode t.flags == t.wakeMode then none else t.wakeStatus
    stash := [], homeHold := if home then false else t.homeHold }

theorem State.issue_eq_modSlot (s : State) (c k n : Nat) (i : Instr) (home : Bool) :
    s.issue c k n i home = { s with cur := ⟨c, k⟩ }.modSlot c k (·.issues s.clk c n i home) := rfl

theorem Slot.issues_eq {t : Slot} (wake : t.wakeStatus = none) (clk cid n : Nat) (i : Instr) (home : Bool) :
    t.issues clk cid n i home = { t with
      npc := t.pc + BitVec.ofNat 64 n, last := clk, dist := distanceOf cid i, issueCount := t.issueCount + 1, retry := false, stash := []
      homeHold := if home then false else t.homeHold
      buf := (t.issues clk cid n i home).buf, pre := (t.issues clk cid n i home).pre } := by
  simp only [Slot.issues, Slot.ahead, wake, ite_self]

/-- A word has been issued: the running thread is this one, and its slot alone has changed. -/
structure Issued (s u : State) (c k n : Nat) (home : Bool) (i : Instr) (ev : EvArg) : Prop extends CoresBut s u c k where
  rest : u = { s with cur := ⟨c, k⟩, cores := u.cores, ev }
  slot : u.slot c k = (s.slot c k).issues s.clk c n i home

theorem State.issue_issued (s : State) {c k : Nat} (hk : k < 16) (n : Nat) (i : Instr) (home : Bool) (ev : EvArg) :
    Issued s { s.issue c k n i home with ev } c k n home i ev := by
  have only : OnlySlot { s with cur := ⟨c, k⟩ } (s.issue c k n i home) c k := by
    rw [State.issue_eq_modSlot]
    exact OnlySlot.modSlot _ c k _ hk
  have slot : (s.issue c k n i home).slot c k = (s.slot c k).issues s.clk c n i home := by
    rw [State.issue_eq_modSlot, State.slot_modSlot_same _ _ _ _ hk]
    rfl
  exact ⟨⟨only.cores, only.core, only.slots⟩, by rw [only.rest], slot⟩

/-! ### The two kinds of position -/

/-- R124: the home position of a thread that may issue. -/
theorem State.position_serve {s : State} {c k : Nat} (at_ : s.homeSlot c = k) (ready : (s.slot c k).st = .ready)
    (stop : (s.slot c k).stopReq = none) (want : (s.slot c k).want = none) (retry : (s.slot c k).retry = false)
    (cont : (s.slot c k).banks.cont = []) (skip : (s.slot c k).flags.extractLsb' 16 2 = 0)
    (distance : ((s.slot c k).dist : Int) ≤ s.clk - (s.slot c k).last) : s.position c = s.serve c k true (.position c) := by
  have none : skipPend (s.slot c k).flags = 0 := skipPend_eq_zero.2 skip
  simp [State.position, at_, Slot.canIssue, ready, stop, want, retry, cont, none, distance]

/-- R125: a spare position goes to the thread that the core picks. -/
theorem State.spare_serve {s : State} {c k : Nat} (pick : (s.core c).pickSpare s.clk (s.homeSlot c) = some k) :
    s.spare c = s.serve c k (k == s.homeSlot c) (.spare c) := by
  simp only [State.spare, pick]

/-- Settles O55: the position is served (`State.position_serve`, `State.spare_serve`), what is served is the decoded word
(`State.serve_word`), and its issue changes what it should (`State.issue_issued`); an event is carried out by `step` itself. -/
theorem stepRunsDecoded : Obligations.StepRunsDecoded := by
  intro s c k avail w rest hk x issued home runs
  -- a position that is served runs the decoded word
  have served (home : Bool) (again : Turn) (steps : step s = (State.serve { s with agenda := rest } c k home again).outcome) : runs home := by
    intro fetched wake quiet
    obtain ⟨instr, boundary, illegal⟩ := State.serve_word (s := { s with agenda := rest }) (home := home) (again := again) quiet wake fetched
    have issue (n : Nat) (i : Instr) (ev : EvArg) : issued home i n ev { ({ s with agenda := rest } : State).issue c k n i home with ev } :=
      have g := State.issue_issued { s with agenda := rest } hk n i home ev
      ⟨g.rest, ⟨g.cores, g.core, g.slots⟩, by rw [g.slot]; exact Slot.issues_eq wake _ _ _ _ _⟩
    refine ⟨fun i n word => ⟨_, ?_, issue n i s.ev⟩, fun word => ⟨_, ?_, issue _ _ _⟩, fun d word => ⟨_, ?_, issue _ _ _⟩⟩
    · rw [steps, instr i n word]
      rfl
    · rw [steps, boundary word]
      rfl
    · rw [steps, illegal d word]
      rfl
  refine ⟨fun turn at_ ready stop want retry cont skip distance => ?_, fun turn pick => ?_, fun i a turn => ?_, fun i turn => ?_⟩
  · refine served true (.position c) ?_
    rw [← State.position_serve (s := { s with agenda := rest }) at_ ready stop want retry cont skip distance]
    simp only [step, turn]
  · refine served (k == home) (.spare c) ?_
    rw [show home = State.homeSlot { s with agenda := rest } c from rfl, ← State.spare_serve (s := { s with agenda := rest }) pick]
    simp only [step, turn]
  · simp only [step, turn]
  · simp only [step, turn]

end Sys2Proof.Machine

/-!
## The thread engine (R44, R45, R97, R126, R128, R150 to R152)

SUPPORT and the statement O26. Annulment and the checker here; the service of the banks follows.
-/

namespace Sys2Proof.Machine

/-! ### Annulment (R44, R45, R126) -/

/-- What the annulment of one word does to its slot: n words are left to annul. -/
def Slot.passes (t : Slot) (w n : Nat) : Slot :=
  { t with pc := t.pc + BitVec.ofNat 64 (wordLength w), flags := withSkip t.flags n, homeHold := t.homeHold || n == 0 }

section
variable {s : State} {c k avail w : Nat} (ready : (s.slot c k).st = .ready) (skip : skipPend (s.slot c k).flags ≠ 0)
  (wake : (s.slot c k).wakeStatus = none) (fetched : (s.slot c k).fetched = .word avail w)
include ready skip wake fetched

/-- One word is annulled. -/
theorem State.annul_word (word : w % 4 ≠ 3) (room : wordLength w ≤ avail) : s.annul c k =
    if skipPend (s.slot c k).flags - 1 = 0 then s.modSlot c k (·.passes w (skipPend (s.slot c k).flags - 1))
    else (s.modSlot c k (·.passes w (skipPend (s.slot c k).flags - 1))).push (.event .skipAnnul { core := c, slot := k }) := by
  simp only [State.annul, ready, skip, Slot.wakeDue_none wake, fetched, word, Nat.not_lt.2 room, if_false, bne_self_eq_false, decide_false,
    Bool.or_self, Bool.false_eq_true]
  rfl

/-- A filler is passed without counting. -/
theorem State.annul_filler (filler : w % 4 = 3) : s.annul c k =
    (s.modSlot c k fun t => { t with pc := blockOf t.pc + 32 }).push (.event .skipAnnul { core := c, slot := k }) := by
  simp only [State.annul, ready, skip, Slot.wakeDue_none wake, fetched, filler, if_true, if_false, bne_self_eq_false, decide_false,
    Bool.or_self, Bool.false_eq_true]

end

theorem Slot.passes_eq (t : Slot) (w : Nat) {n : Nat} (some : 1 ≤ n) (bound : n < 4) : t.passes w (n - 1) = { t with
    pc := t.pc + BitVec.ofNat 64 (wordLength w), homeHold := t.homeHold || n == 1
    flags := t.flags &&& ~~~(0x30000 : Word) ||| BitVec.ofNat 64 (n - 1) <<< 16 } := by
  have last : (n - 1 == 0) = (n == 1) := by grind
  rw [Slot.passes, withSkip, Nat.mod_eq_of_lt (by omega), last]

theorem OnlySlot.coresBut {s t : State} {c k : Nat} (h : OnlySlot s t c k) : CoresBut s t c k := ⟨h.cores, h.core, h.slots⟩

/-! ### The checker and the known-answer tester (R128, R150 to R152, R403) -/

theorem bumpChk_eq (x : Word) : bumpChk x = if x = BitVec.allOnes 64 then x else x + 1 := by
  have : x.toNat = 2 ^ 64 - 1 ↔ x = BitVec.allOnes 64 := by
    rw [← BitVec.toNat_inj, BitVec.toNat_allOnes]
  simp only [bumpChk, this]

section
variable {s : State} {c k avail w n : Nat} {i : Instr}

/-- The first mismatch counts and marks the word for its reissue. -/
theorem State.checkerRetry_first (hc : s.ev.core = c) (hs : s.ev.slot = k) (ready : (s.slot c k).st = .ready)
    (first : (s.slot c k).retry = false) (fetched : (s.slot c k).fetched = .word avail w)
    (word : decodeWord (enginesOf c) avail w = .instr i n) : exec .checkerRetry s = .next
      ((s.modCore c fun x => { x with chkCount := bumpChk x.chkCount }).modSlot c k
        fun t => { t with retry := true, last := s.clk, dist := distanceOf c i }) := by
  change execCheckerRetry s = _
  subst hc hs
  simp only [execCheckerRetry, ready, first, fetched, word, bne_self_eq_false, Bool.false_eq_true, if_false]
  rfl

/-- The second mismatch is a core error (R403). -/
theorem State.checkerRetry_second (hc : s.ev.core = c) (hs : s.ev.slot = k) (ready : (s.slot c k).st = .ready)
    (second : (s.slot c k).retry = true) : exec .checkerRetry s = .next (s.push (.contain c 0x02)) := by
  change execCheckerRetry s = _
  subst hc hs
  simp only [execCheckerRetry, ready, second, bne_self_eq_false, Bool.false_eq_true, if_false, if_true]

end

end Sys2Proof.Machine

/-!
## T-cont service of the banks (R96, R97)

SUPPORT and the statement O26. Which thread a bank serves; what the service of the banks 0 to b leaves, for any operation of which the
performance of some units is known (`Performs`); then loads and stores.
-/

namespace Sys2Proof.Machine

/-! ### The thread that a bank serves -/

/-- A fold that keeps the member of the least key, of equal keys the first. -/
theorem foldl_least {wants : Nat → Prop} {key : Nat → Nat} {pick : Option Nat → Nat → Option Nat}
    (skips : ∀ best k, ¬ wants k → pick best k = best) (first : ∀ k, wants k → pick none k = some k)
    (better : ∀ b k, wants k → pick (some b) k = if key k < key b then some k else some b) (n : Nat) :
    ((List.range n).foldl pick none = none → ∀ j < n, ¬ wants j) ∧
    ∀ k, (List.range n).foldl pick none = some k →
      k < n ∧ wants k ∧ ∀ j < n, j ≠ k → wants j → key k < key j ∨ key k = key j ∧ k < j := by
  induction n with
  | zero => simp
  | succ n ih =>
    rw [List.range_succ, List.foldl_append, List.foldl_cons, List.foldl_nil]
    generalize (List.range n).foldl pick none = best at ih ⊢
    by_cases want : wants n
    · cases best with
      | none =>
        have nobody := ih.1 rfl
        rw [first n want]
        grind
      | some b =>
        have least := ih.2 b rfl
        rw [better b n want]
        grind
    · rw [skips _ _ want]
      grind

/-- R96, R97: slot k waits for bank b. -/
abbrev Core.wantsBank (c : Core) (clk b k : Nat) : Prop := (c.slot k).banks.clk < clk ∧ b ∈ (c.slot k).banks.cont

/-- R96, Table 6: bank b serves slot k in a clk. -/
abbrev Core.serves (c : Core) (clk b k : Nat) : Prop :=
  k < 16 ∧ c.wantsBank clk b k ∧ (∀ j < 16, (c.slot j).banks.clk = clk → b ∉ (c.slot j).banks.issue) ∧
    ∀ j < 16, j ≠ k → c.wantsBank clk b j →
      (c.slot k).banks.clk < (c.slot j).banks.clk ∨ (c.slot k).banks.clk = (c.slot j).banks.clk ∧ k < j

theorem Core.any_slots (c : Core) (p : Slot → Bool) : c.slots.toList.any p = true ↔ ∃ j < 16, p (c.slot j) = true := by
  rw [List.any_eq_true]
  constructor
  · rintro ⟨t, mem, holds⟩
    obtain ⟨j, lt, rfl⟩ := List.getElem_of_mem mem
    have lt : j < 16 := by simpa using lt
    exact ⟨j, lt, by simpa [Core.slot, lt] using holds⟩
  · rintro ⟨j, lt, holds⟩
    refine ⟨c.slot j, ?_, holds⟩
    simp [Core.slot, lt]

theorem Core.tcontOf_eq_some (c : Core) (clk b k : Nat) : c.tcontOf clk b = some k ↔ c.serves clk b k := by
  have least := foldl_least (wants := c.wantsBank clk b) (key := fun k => (c.slot k).banks.clk) (n := 16)
    (pick := fun best k => if (c.slot k).banks.clk < clk && (c.slot k).banks.cont.contains b then
      match best with
      | some b => if (c.slot k).banks.clk < (c.slot b).banks.clk then some k else best
      | none => some k
      else best)
    (fun best k no => if_neg (by simpa [Core.wantsBank] using no)) (fun k want => if_pos (by simpa [Core.wantsBank] using want))
    (fun b k want => if_pos (by simpa [Core.wantsBank] using want))
  have issues := c.any_slots fun t => t.banks.clk == clk && t.banks.issue.contains b
  unfold Core.tcontOf
  split
  next busy =>
    obtain ⟨j, lt, same⟩ := issues.1 busy
    simp only [Bool.and_eq_true, beq_iff_eq, List.contains_iff_mem] at same
    exact ⟨nofun, fun serves => absurd same.2 (serves.2.2.1 j lt same.1)⟩
  next free =>
    have noIssue : ∀ j < 16, (c.slot j).banks.clk = clk → b ∉ (c.slot j).banks.issue := fun j lt same has =>
      free (issues.2 ⟨j, lt, by simp [same, has]⟩)
    constructor
    · intro picked
      obtain ⟨lt, want, older⟩ := least.2 k picked
      exact ⟨lt, want, noIssue, older⟩
    · rintro ⟨lt, want, -, older⟩
      cases picked : (List.range 16).foldl _ none with
      | none => exact absurd want (least.1 picked k lt)
      | some m =>
        obtain ⟨ltm, wantm, olderm⟩ := least.2 m picked
        by_contra ne
        have ne : m ≠ k := by grind
        have one := older m ltm ne wantm
        have other := olderm k lt ne.symm want
        omega

/-! ### What is left when some banks have served -/

theorem AUnit.bank_eq (u : AUnit) : u.bank = bankAt u.cell := by
  have low : u.cell % 2 ^ 18 / 16 % 16 = u.cell / 16 % 16 := by omega
  have high : u.cell % 2 ^ 18 / 256 % 16 = u.cell / 256 % 16 := by omega
  rw [AUnit.bank, bankOf, bankAt, low, high]

theorem AUnit.bank_lt (u : AUnit) : u.bank < 16 :=
  Nat.xor_lt_two_pow (n := 4) (Nat.mod_lt _ (by decide)) (Nat.mod_lt _ (by decide))

theorem AUnit.bank_of_sameRow {u v : AUnit} (h : u.sameRow v = true) : u.bank = v.bank := by
  have row : u.cell / 16 = v.cell / 16 := by simpa [AUnit.sameRow] using h
  have high : u.cell / 256 = v.cell / 256 := by omega
  rw [AUnit.bank_eq, AUnit.bank_eq, bankAt, bankAt, row, high]

section
variable (s : State) (c k : Nat)

/-- The units that slot k's instruction has left. -/
abbrev State.leftOf : List AUnit := (s.slot c k).banks.left

/-- Bank b serves slot k in this clk. -/
abbrev State.served (b : Nat) : Bool := (s.core c).tcontOf s.clk b == some k

/-- This clk serves the unit: its bank serves the slot, and it lies in the first row that is left there. -/
def State.due (u : AUnit) : Bool :=
  s.served c k u.bank && ((s.leftOf c k).find? fun v => v.bank == u.bank).any fun v => v.sameRow u

/-- The units that the banks `bs` serve, bank by bank. -/
def State.dueAt (bs : List Nat) : List AUnit := bs.flatMap fun b => (s.leftOf c k).filter fun u => s.due c k u && u.bank == b

/-- The units that are left when the banks `bs` have served. -/
def State.leftAfter (bs : List Nat) : List AUnit := (s.leftOf c k).filter fun u => !(s.due c k u && bs.contains u.bank)

/-- The accesses that wait when the banks `bs` have served. -/
def State.contAfter (bs : List Nat) : List Nat := (s.slot c k).banks.cont.diff (bs.filter (s.served c k))

end

section
variable {s : State} {c k b : Nat} {bs : List Nat}

theorem State.contAfter_append_served (h : s.served c k b = true) :
    s.contAfter c k (bs ++ [b]) = (s.contAfter c k bs).erase b := by
  simp [State.contAfter, List.diff_append, List.diff_cons, h]

theorem State.contAfter_append_other (h : s.served c k b = false) : s.contAfter c k (bs ++ [b]) = s.contAfter c k bs := by
  simp [State.contAfter, h]

theorem State.dueAt_append : s.dueAt c k (bs ++ [b]) = s.dueAt c k bs ++ s.dueAt c k [b] := by
  simp [State.dueAt]

/-- A bank that serves no unit of the slot leaves what was left. -/
theorem State.leftAfter_append_none (h : ∀ u ∈ s.leftOf c k, u.bank = b → s.due c k u = false) :
    s.leftAfter c k (bs ++ [b]) = s.leftAfter c k bs ∧ s.dueAt c k [b] = [] := by
  constructor
  · refine List.filter_congr fun u mem => ?_
    have := h u mem
    grind
  · simp only [State.dueAt, List.flatMap_cons, List.flatMap_nil, List.append_nil, List.filter_eq_nil_iff]
    intro u mem
    have := h u mem
    grind

/-- Of a bank that has not served, the first unit that is left is the first of all. -/
theorem State.find_leftAfter (new : b ∉ bs) :
    ((s.leftAfter c k bs).find? fun u => u.bank == b) = (s.leftOf c k).find? fun u => u.bank == b := by
  rw [State.leftAfter, List.find?_filter]
  congr 1
  funext u
  grind

section
variable (serves : s.served c k b = true) {u : AUnit} (first : ((s.leftOf c k).find? fun v => v.bank == b) = some u)
include serves first

/-- A unit is served by bank b where it lies in the row of the first one. -/
theorem State.due_bank_iff (v : AUnit) : (s.due c k v && v.bank == b) = u.sameRow v := by
  have bank : u.bank = b := by simpa using List.find?_some first
  rw [Bool.eq_iff_iff]
  simp only [Bool.and_eq_true, beq_iff_eq]
  constructor
  · rintro ⟨due, rfl⟩
    simpa [State.due, serves, first] using due
  · intro row
    have same : v.bank = b := by rw [← AUnit.bank_of_sameRow row, bank]
    exact ⟨by simp [State.due, same, serves, first, row], same⟩

/-- The units that bank b serves, of those that are left then. -/
theorem State.filter_leftAfter (new : b ∉ bs) : (s.leftAfter c k bs).filter u.sameRow = s.dueAt c k [b] := by
  simp only [State.leftAfter, List.filter_filter, State.dueAt, List.flatMap_cons, List.flatMap_nil, List.append_nil]
  refine List.filter_congr fun v _ => ?_
  have row := State.due_bank_iff serves first v
  grind

theorem State.leftAfter_append_row (new : b ∉ bs) : s.leftAfter c k (bs ++ [b]) = (s.leftAfter c k bs).filter fun v => !u.sameRow v := by
  simp only [State.leftAfter, List.filter_filter]
  refine List.filter_congr fun v _ => ?_
  have row := State.due_bank_iff serves first v
  grind

end

end

/-! ### The banks one after the other -/

/-- What the performance of units does, for a slot whose instruction has left them: `Good done x v` says of memory and of the vector registers
that they are as the units `done` leave them. -/
structure Performs (w : Nat) (b : BankUse) (Good : List AUnit → State → Vector (BitVec 2048) 16 → Prop) : Prop where
  congr : ∀ {done x y v}, y.mem = x.mem → y.lines = x.lines → Good done x v → Good done y v
  perform : ∀ {done x v us}, us ≠ [] → us.Sublist b.left → done ⊆ b.left → done.Disjoint us → Good done x v → ∃ y rs v',
    x.performAll b.op us = (y, rs) ∧ y = { x with mem := y.mem, lines := y.lines } ∧
    (∀ t : Slot, t.v = v → ∃ ws, b.done.writes t w rs 0 = .ok ws ∧ t.applyAll ws = { t with v := v' }) ∧ Good (done ++ us) y v'

/-- The banks `bs` of core c have served: slot k alone had units left, and its vector registers are `v`. -/
structure Serving (s x : State) (c k : Nat) (bs : List Nat) (v : Vector (BitVec 2048) 16) : Prop where
  rest : x = { s with cores := x.cores, mem := x.mem, lines := x.lines }
  others : OthersSame s x c
  core : x.core c = { s.core c with slots := (x.core c).slots }
  other : ∀ j < 16, j ≠ k → x.slot c j = { s.slot c j with banks := { (s.slot c j).banks with cont := s.contAfter c j bs } }
  slot : x.slot c k = { s.slot c k with
    v, banks := { (s.slot c k).banks with cont := s.contAfter c k bs, left := s.leftAfter c k bs } }

theorem OnlySlot.memory {s t : State} {c k : Nat} (h : OnlySlot s t c k) : t.mem = s.mem ∧ t.lines = s.lines := by
  rw [h.rest]
  exact ⟨rfl, rfl⟩

/-- Accesses to memory change no slot. -/
theorem State.slot_of_memory {x y : State} (h : y = { x with mem := y.mem, lines := y.lines }) (c k : Nat) : y.slot c k = x.slot c k := by
  rw [h]
  rfl

/-- The slot whose instruction no longer has the units p left. -/
def Slot.without (t : Slot) (p : AUnit → Bool) : Slot := { t with banks := { t.banks with left := t.banks.left.filter fun u => !p u } }

section
variable {x : State} {c k b : Nat} (hk : k < 16)
include hk

/-- A bank serves a slot that has no unit left there. -/
theorem State.serveBank_none (none : ((x.slot c k).banks.left.find? fun u => u.bank == b) = none) :
    OnlySlot x (x.serveBank c b k) c k ∧
    (x.serveBank c b k).slot c k = { x.slot c k with banks := { (x.slot c k).banks with cont := (x.slot c k).banks.cont.erase b } } := by
  have serve : x.serveBank c b k =
      x.modSlot c k fun t => { t with banks := { t.banks with cont := t.banks.cont.erase b } } := by
    simp only [State.serveBank, none]
  rw [serve]
  exact ⟨OnlySlot.modSlot _ _ _ _ hk, State.slot_modSlot_same _ _ _ _ hk⟩

/-- A bank serves the row of a slot's unit u. -/
theorem State.serveBank_row {u : AUnit} {y : State} {rs : List (Nat × Nat)} {v' : Vector (BitVec 2048) 16}
    (first : ((x.slot c k).banks.left.find? fun u => u.bank == b) = some u)
    (performs : x.performAll (x.slot c k).banks.op ((x.slot c k).banks.left.filter u.sameRow) = (y, rs))
    (memory : y = { x with mem := y.mem, lines := y.lines })
    (writes : ∀ t : Slot, t.v = (x.slot c k).v →
      ∃ ws, (x.slot c k).banks.done.writes t (Config.vecBits c) rs 0 = .ok ws ∧ t.applyAll ws = { t with v := v' }) :
    OnlySlot y (x.serveBank c b k) c k ∧
    (x.serveBank c b k).slot c k = { x.slot c k with v := v', banks := { (x.slot c k).banks with
      cont := (x.slot c k).banks.cont.erase b, left := (x.slot c k).banks.left.filter fun v => !u.sameRow v } } := by
  have row : (x.slot c k).banks.left.any u.sameRow = true :=
    List.any_eq_true.2 ⟨u, List.mem_of_find?_eq_some first, by simp [AUnit.sameRow]⟩
  have same : y.slot c k = x.slot c k := State.slot_of_memory memory c k
  have left : (y.modSlot c k (·.without u.sameRow)).slot c k = (x.slot c k).without u.sameRow := by
    rw [State.slot_modSlot_same _ _ _ _ hk, same]
  obtain ⟨ws, written, applied⟩ := writes ((x.slot c k).without u.sameRow) rfl
  have performed : x.performLeft c k u.sameRow = (y.modSlot c k (·.without u.sameRow)).modSlot c k (·.applyAll ws) := by
    rw [← left] at written
    simp only [Slot.without] at written
    simp only [State.performLeft, row, performs, written, Bool.not_true, Bool.false_eq_true, if_false, Slot.without]
  have serve : x.serveBank c b k = (x.performLeft c k u.sameRow).modSlot c k
      fun t => { t with banks := { t.banks with cont := t.banks.cont.erase b } } := by
    simp only [State.serveBank, first]
  rw [serve, performed]
  refine ⟨((OnlySlot.modSlot _ _ _ _ hk).trans (OnlySlot.modSlot _ _ _ _ hk)).trans (OnlySlot.modSlot _ _ _ _ hk), ?_⟩
  rw [State.slot_modSlot_same _ _ _ _ hk, State.slot_modSlot_same _ _ _ _ hk, left, applied, Slot.without]

end

/-- One change of a slot more. -/
theorem Serving.step {s x y z : State} {c k j b : Nat} {bs : List Nat} {v v' : Vector (BitVec 2048) 16} (h : Serving s x c k bs v)
    (memory : y = { x with mem := y.mem, lines := y.lines }) (only : OnlySlot y z c j)
    (other : ∀ i < 16, i ≠ k → z.slot c i = { s.slot c i with banks := { (s.slot c i).banks with cont := s.contAfter c i (bs ++ [b]) } })
    (slot : z.slot c k = { s.slot c k with
      v := v', banks := { (s.slot c k).banks with cont := s.contAfter c k (bs ++ [b]), left := s.leftAfter c k (bs ++ [b]) } }) :
    Serving s z c k (bs ++ [b]) v' where
  rest := by rw [only.rest, memory, h.rest]
  others d hd := by
    rw [only.cores d hd, memory]
    exact h.others d hd
  core := by
    have same : y.core c = x.core c := by
      rw [memory]
      rfl
    rw [only.core, same, h.core]
  other := other
  slot := slot

section
variable {s x : State} {c k j b : Nat} {bs : List Nat} {v : Vector (BitVec 2048) 16}

theorem State.served_other {i : Nat} (h : s.served c j b = true) (ne : i ≠ j) : s.served c i b = false := by
  have pick : (s.core c).tcontOf s.clk b = some j := by simpa using h
  simp [State.served, pick, ne.symm]

/-- Nothing of slot k is due where its bank does not serve it. -/
theorem State.not_due (h : s.served c k b = false) : ∀ u ∈ s.leftOf c k, u.bank = b → s.due c k u = false := by
  intro u _ bank
  simp [State.due, bank, h]

/-- A slot that the next bank does not serve keeps what it has. -/
theorem Serving.keeps (h : Serving s x c k bs v) {z : State} {i : Nat} (unserved : s.served c i b = false) (same : z.slot c i = x.slot c i)
    (hi : i < 16) (ne : i ≠ k) :
    z.slot c i = { s.slot c i with banks := { (s.slot c i).banks with cont := s.contAfter c i (bs ++ [b]) } } := by
  rw [same, h.other i hi ne, State.contAfter_append_other unserved]

/-- The next bank serves no slot. -/
theorem Serving.idle (h : Serving s x c k bs v) (unserved : ∀ i, s.served c i b = false) : Serving s x c k (bs ++ [b]) v := by
  refine h.step rfl (OnlySlot.refl x c k) (fun i hi ne => h.keeps (unserved i) rfl hi ne) ?_
  rw [h.slot, State.contAfter_append_other (unserved k), (State.leftAfter_append_none (State.not_due (unserved k))).1]

/-- The next bank serves slot j, which has no unit left there. -/
theorem Serving.serve_none (h : Serving s x c k bs v) (hj : j < 16) (served : s.served c j b = true)
    (none : ((x.slot c j).banks.left.find? fun u => u.bank == b) = none)
    (idle : ∀ u ∈ s.leftOf c k, u.bank = b → s.due c k u = false) : Serving s (x.serveBank c b j) c k (bs ++ [b]) v := by
  obtain ⟨only, slot⟩ := State.serveBank_none hj none
  refine h.step rfl only (fun i hi ne => ?_) ?_
  · by_cases same : i = j
    · subst same
      rw [slot, h.other i hi ne, State.contAfter_append_served served]
    · exact h.keeps (State.served_other served same) (only.slots i same) hi ne
  · have left := (State.leftAfter_append_none (bs := bs) idle).1
    by_cases same : k = j
    · subst same
      rw [slot, h.slot, State.contAfter_append_served served, left]
    · rw [only.slots k same, h.slot, State.contAfter_append_other (State.served_other served same), left]

variable {Good : List AUnit → State → Vector (BitVec 2048) 16 → Prop} (hk : k < 16)
  (performs : Performs (Config.vecBits c) (s.slot c k).banks Good)
include hk performs

/-- The next bank serves slot k, whose first unit there is u. -/
theorem Serving.serve_row (h : Serving s x c k bs v) (new : b ∉ bs) (served : s.served c k b = true) {u : AUnit}
    (first : ((s.leftOf c k).find? fun v => v.bank == b) = some u) (good : Good (s.dueAt c k bs) x v) :
    ∃ v', Serving s (x.serveBank c b k) c k (bs ++ [b]) v' ∧ Good (s.dueAt c k (bs ++ [b])) (x.serveBank c b k) v' := by
  have slot := h.slot
  have left : (x.slot c k).banks.left = s.leftAfter c k bs := by rw [slot]
  have op : (x.slot c k).banks.op = (s.slot c k).banks.op := by rw [slot]
  have done : (x.slot c k).banks.done = (s.slot c k).banks.done := by rw [slot]
  have here : ((x.slot c k).banks.left.find? fun v => v.bank == b) = some u := by rw [left, State.find_leftAfter new, first]
  have units : (x.slot c k).banks.left.filter u.sameRow = s.dueAt c k [b] := by rw [left, State.filter_leftAfter served first new]
  have some : s.dueAt c k [b] ≠ [] := List.ne_nil_of_mem (units ▸ List.mem_filter.2 ⟨List.mem_of_find?_eq_some here, by simp [AUnit.sameRow]⟩)
  have within : (s.dueAt c k [b]).Sublist (s.slot c k).banks.left := by simp [State.dueAt]
  have before : s.dueAt c k bs ⊆ (s.slot c k).banks.left := by
    intro v mem
    simp only [State.dueAt, List.mem_flatMap, List.mem_filter] at mem
    grind
  have apart : (s.dueAt c k bs).Disjoint (s.dueAt c k [b]) := by
    intro v mem mem'
    simp only [State.dueAt, List.mem_flatMap, List.mem_filter] at mem mem'
    grind
  obtain ⟨y, rs, v', run, memory, writes, good'⟩ := performs.perform some within before apart good
  obtain ⟨only, slot'⟩ := State.serveBank_row (x := x) hk here (by rw [units, op, run]) memory (by rw [done, slot]; exact writes)
  obtain ⟨mem, lines⟩ := only.memory
  rw [State.dueAt_append]
  refine ⟨v', h.step memory only (fun i hi ne => h.keeps (State.served_other served ne) ?_ hi ne) ?_, performs.congr mem lines good'⟩
  · rw [only.slots i ne, State.slot_of_memory memory]
  · rw [slot', slot, State.contAfter_append_served served, State.leftAfter_append_row served first new]

variable (alone : ∀ j < 16, j ≠ k → s.leftOf c j = [])
include alone

/-- What one bank does in a clk of T-cont service. -/
def State.tcontBank (s x : State) (c b : Nat) : State :=
  match (s.core c).tcontOf s.clk b with
  | some k => x.serveBank c b k
  | none => x

/-- The next bank serves. -/
theorem Serving.next (h : Serving s x c k bs v) (new : b ∉ bs) (good : Good (s.dueAt c k bs) x v) :
    ∃ v', Serving s (s.tcontBank x c b) c k (bs ++ [b]) v' ∧ Good (s.dueAt c k (bs ++ [b])) (s.tcontBank x c b) v' := by
  cases pick : (s.core c).tcontOf s.clk b with
  | none =>
    have unserved (i : Nat) : s.served c i b = false := by simp [State.served, pick]
    have bank : s.tcontBank x c b = x := by simp only [State.tcontBank, pick]
    rw [bank, State.dueAt_append, (State.leftAfter_append_none (bs := bs) (State.not_due (unserved k))).2, List.append_nil]
    exact ⟨v, h.idle unserved, good⟩
  | some j =>
    have served : s.served c j b = true := by simp [State.served, pick]
    have hj : j < 16 := ((Core.tcontOf_eq_some _ _ _ _).1 pick).1
    have bank : s.tcontBank x c b = x.serveBank c b j := by simp only [State.tcontBank, pick]
    rw [bank]
    -- nothing of slot k is performed where the bank finds no unit
    have empty (none : ((x.slot c j).banks.left.find? fun u => u.bank == b) = none)
        (idle : ∀ u ∈ s.leftOf c k, u.bank = b → s.due c k u = false) :
        ∃ v', Serving s (x.serveBank c b j) c k (bs ++ [b]) v' ∧ Good (s.dueAt c k (bs ++ [b])) (x.serveBank c b j) v' := by
      obtain ⟨mem, lines⟩ := (State.serveBank_none hj none).1.memory
      rw [State.dueAt_append, (State.leftAfter_append_none (bs := bs) idle).2, List.append_nil]
      exact ⟨v, h.serve_none hj served none idle, performs.congr mem lines good⟩
    by_cases me : j = k
    · subst me
      cases first : (s.leftOf c j).find? fun u => u.bank == b with
      | none =>
        refine empty (by rw [h.slot, State.find_leftAfter new, first]) fun u mem hb => ?_
        exact absurd (List.find?_eq_none.1 first u mem) (by simp [hb])
      | some u => exact h.serve_row hk performs new served first good
    · have left : (x.slot c j).banks.left = [] := by
        rw [h.other j hj me]
        exact alone j hj me
      exact empty (by rw [left]; rfl) (State.not_due (State.served_other served (Ne.symm me)))

/-- The banks 0 to n - 1 serve. -/
theorem State.serving_range (good : Good [] s (s.slot c k).v) (n : Nat) :
    ∃ v, Serving s ((List.range n).foldl (fun x b => s.tcontBank x c b) s) c k (List.range n) v ∧
      Good (s.dueAt c k (List.range n)) ((List.range n).foldl (fun x b => s.tcontBank x c b) s) v := by
  induction n with
  | zero =>
    refine ⟨_, ⟨rfl, fun _ _ => rfl, rfl, fun j _ _ => ?_, ?_⟩, good⟩
    · simp [State.contAfter]
    · simp [State.contAfter, State.leftAfter]
  | succ n ih =>
    obtain ⟨v, serving, good⟩ := ih
    rw [List.range_succ, List.foldl_append, List.foldl_cons, List.foldl_nil]
    exact serving.next hk performs alone (by simp) good

end

end Sys2Proof.Machine

/-!
## Lanes (R181)

SUPPORT. The elements of a register that is put together from its elements.
-/

namespace Sys2Proof.Machine

theorem packLanes_cons (e x : Nat) (xs : List Nat) : packLanes e (x :: xs) = packLanes e xs * 2 ^ e + x % 2 ^ e := rfl

theorem packLanes_lt (e : Nat) (xs : List Nat) : packLanes e xs < 2 ^ (e * xs.length) := by
  induction xs with
  | nil => simp [packLanes]
  | cons x xs ih =>
    have low : x % 2 ^ e < 2 ^ e := Nat.mod_lt _ (by positivity)
    rw [packLanes_cons, List.length_cons, Nat.mul_succ, Nat.pow_add]
    calc packLanes e xs * 2 ^ e + x % 2 ^ e
        < packLanes e xs * 2 ^ e + 2 ^ e := by omega
      _ = (packLanes e xs + 1) * 2 ^ e := by ring
      _ ≤ 2 ^ (e * xs.length) * 2 ^ e := Nat.mul_le_mul_right _ ih

theorem packLanes_lane (e : Nat) (xs : List Nat) (j : Nat) : packLanes e xs / 2 ^ (e * j) % 2 ^ e = xs.getD j 0 % 2 ^ e := by
  induction xs generalizing j with
  | nil => simp [packLanes]
  | cons x xs ih =>
    have low : x % 2 ^ e < 2 ^ e := Nat.mod_lt _ (by positivity)
    cases j with
    | zero => simp [packLanes_cons]
    | succ j =>
      have shift : packLanes e (x :: xs) / 2 ^ e = packLanes e xs := by
        rw [packLanes_cons, Nat.add_comm, Nat.add_mul_div_right _ _ (by positivity), Nat.div_eq_of_lt low, Nat.zero_add]
      rw [Nat.mul_succ, Nat.add_comm, Nat.pow_add, ← Nat.div_div_eq_div_mul, shift, ih j, List.getD_cons_succ]

/-- A register of n elements of width e. -/
theorem toNat_packLanes {e : Nat} {xs : List Nat} (fits : e * xs.length ≤ 2048) :
    (BitVec.ofNat 2048 (packLanes e xs)).toNat = packLanes e xs := by
  rw [BitVec.toNat_ofNat, Nat.mod_eq_of_lt]
  exact lt_of_lt_of_le (packLanes_lt e xs) (Nat.pow_le_pow_right (n := 2) (j := 2048) Nat.two_pos fits)

theorem lane_packLanes {e : Nat} {xs : List Nat} (fits : e * xs.length ≤ 2048) (j : Nat) :
    lane (BitVec.ofNat 2048 (packLanes e xs)) e j = xs.getD j 0 % 2 ^ e := by
  rw [lane, toNat_packLanes fits, packLanes_lane]

theorem mkLanes_eq (e n : Nat) (f : Nat → Nat) : mkLanes e n f = BitVec.ofNat 2048 (packLanes e ((List.range n).map f)) := by
  rw [mkLanes, packLanes, List.foldr_map]

theorem lane_mkLanes {e n j : Nat} (f : Nat → Nat) (fits : e * n ≤ 2048) (h : j < n) : lane (mkLanes e n f) e j = f j % 2 ^ e := by
  rw [mkLanes_eq, lane_packLanes (by simpa using fits)]
  simp [h]

theorem lane_lt (x : BitVec 2048) (e j : Nat) : lane x e j < 2 ^ e := Nat.mod_lt _ (by positivity)

/-- Results put into lanes: the first one of a lane's index counts. -/
theorem lane_putLanes {e j : Nat} (old : BitVec 2048) (rs : List (Nat × Nat)) (h : j < 2048 / e) :
    lane (putLanes old e rs) e j = ((rs.find? fun r => r.1 == j).map (·.2)).getD (lane old e j) % 2 ^ e :=
  lane_mkLanes _ (Nat.mul_div_le _ _) h

/-- A lane without a result stays. -/
theorem lane_putLanes_none {e j : Nat} (old : BitVec 2048) {rs : List (Nat × Nat)} (h : j < 2048 / e) (none : ∀ r ∈ rs, r.1 ≠ j) :
    lane (putLanes old e rs) e j = lane old e j := by
  have nothing : (rs.find? fun r => r.1 == j) = Option.none := List.find?_eq_none.2 (by simpa using none)
  rw [lane_putLanes old rs h, nothing]
  exact Nat.mod_eq_of_lt (lane_lt _ _ _)

/-- A lane with one result takes it. -/
theorem lane_putLanes_some {e : Nat} (old : BitVec 2048) {rs : List (Nat × Nat)} {r : Nat × Nat} (mem : r ∈ rs) (h : r.1 < 2048 / e)
    (nodup : (rs.map (·.1)).Nodup) : lane (putLanes old e rs) e r.1 = r.2 % 2 ^ e := by
  have found : (rs.find? fun q => q.1 == r.1) = some r := by
    induction rs with
    | nil => simp at mem
    | cons q rs ih =>
      rw [List.map_cons, List.nodup_cons] at nodup
      rcases List.mem_cons.1 mem with rfl | mem
      · simp
      · have ne : q.1 ≠ r.1 := fun same => nodup.1 (same ▸ List.mem_map_of_mem mem)
        rw [List.find?_cons_of_neg (by simpa using ne), ih mem nodup.2]
  rw [lane_putLanes old rs h, found]
  rfl

/-! ### Loads -/

theorem State.readN_of_mem {x s : State} (mem : x.mem = s.mem) (a n : Nat) : x.readN a n = s.readN a n :=
  State.readN_congr _ _ _ _ fun b _ _ => by rw [State.byte, State.byte, mem]

theorem State.line_of_lines {x s : State} (lines : x.lines = s.lines) (a : Nat) : x.line a = s.line a := by
  rw [State.line, State.line, lines]

/-- Loads of units in sound lines read them and change nothing. -/
theorem State.performAll_load (x : State) (us : List AUnit) (sound : ∀ u ∈ us, (x.line u.cell).sound = true) :
    x.performAll .load us = (x, us.map fun u => (u.idx, x.readN u.cell u.n)) := by
  induction us with
  | nil => rfl
  | cons u us ih =>
    rw [State.performAll, State.performPlain, State.correctBytes_sound _ _ _ (sound u (by simp)), ih fun v mem => sound v (by simp [mem])]
    rfl

/-- The units `done` are loaded into the lanes of width e of v[d]. -/
def Loaded (s : State) (v0 : Vector (BitVec 2048) 16) (d : V) (e : Nat) (done : List AUnit) (x : State) (v : Vector (BitVec 2048) 16) : Prop :=
  x.mem = s.mem ∧ x.lines = s.lines ∧ ∃ z, v = v0.set d z ∧ (∀ u ∈ done, lane z e u.idx = s.readN u.cell u.n) ∧
    ∀ j < 2048 / e, (∀ u ∈ done, u.idx ≠ j) → lane z e j = lane v0[d] e j

theorem performs_load {s : State} {w : Nat} {b : BankUse} {d : V} {e : Nat} (op : b.op = .load) (to_ : b.done = .lanes d e)
    (v0 : Vector (BitVec 2048) 16) (sound : ∀ u ∈ b.left, (s.line u.cell).sound = true)
    (fits : ∀ u ∈ b.left, 8 * u.n = e ∧ u.idx < 2048 / e) (once : (b.left.map (·.idx)).Nodup) :
    Performs w b (Loaded s v0 d e) where
  congr := by
    rintro done x y v mem lines ⟨mem', lines', z⟩
    exact ⟨mem.trans mem', lines.trans lines', z⟩
  perform := by
    rintro done x v us - sub before apart ⟨mem, lines, z, rfl, loaded, kept⟩
    have within : us ⊆ b.left := sub.subset
    let rs := us.map fun u => (u.idx, s.readN u.cell u.n)
    have run : x.performAll b.op us = (x, rs) := by
      rw [op, State.performAll_load x us fun u mem => by rw [State.line_of_lines lines]; exact sound u (within mem)]
      simp only [State.readN_of_mem mem, rs]
    have indices : rs.map (·.1) = us.map (·.idx) := by simp [rs]
    have distinct : (rs.map (·.1)).Nodup := indices ▸ (sub.map _).nodup once
    refine ⟨x, rs, v0.set d (putLanes z e rs), run, rfl, fun t at_ => ⟨_, by rw [to_]; rfl, ?_⟩, mem, lines, _, rfl, fun u mem => ?_,
      fun j lt none => ?_⟩
    · simp [Slot.applyAll, RegWrite.apply, Slot.wv, Slot.rv, at_]
    · obtain ⟨bits, lt⟩ := fits u ((List.append_subset.2 ⟨before, within⟩) mem)
      rcases List.mem_append.1 mem with mem | mem
      · rw [lane_putLanes_none z lt, loaded u mem]
        intro r has same
        obtain ⟨u', mem', rfl⟩ := List.mem_map.1 has
        have equal := List.inj_on_of_nodup_map once (within mem') (before mem) same
        exact apart mem (equal ▸ mem')
      · rw [lane_putLanes_some z (List.mem_map_of_mem mem) lt distinct]
        refine Nat.mod_eq_of_lt ?_
        have bound := s.readN_lt u.cell u.n
        rwa [show 256 = 2 ^ 8 from rfl, ← Nat.pow_mul, bits] at bound
    · rw [lane_putLanes_none z lt, kept j lt fun u mem => none u (List.mem_append_left _ mem)]
      intro r has
      obtain ⟨u, mem, rfl⟩ := List.mem_map.1 has
      exact none u (List.mem_append_right _ mem)

/-! ### Stores -/

/-- A byte after the store of a unit. -/
def storeByte (value : AUnit → Nat) (a : Nat) (b : BitVec 8) (u : AUnit) : BitVec 8 :=
  if u.cell ≤ a ∧ a < u.cell + u.n then BitVec.ofNat 8 (value u / 256 ^ (a - u.cell)) else b

/-- The metadata of a line after the store of a unit. -/
def storeLine (a : Nat) (m : LineMeta) (u : AUnit) : LineMeta := if a / 64 = u.cell / 64 then { m with typed := false } else m

theorem foldl_storeLine (a : Nat) (m : LineMeta) (us : List AUnit) :
    us.foldl (storeLine a) m = if us.any (fun u => a / 64 == u.cell / 64) then { m with typed := false } else m := by
  induction us generalizing m with
  | nil => rfl
  | cons u us ih =>
    rw [List.foldl_cons, ih, storeLine]
    grind

/-- Stores of units. -/
def State.writes (value : AUnit → Nat) (s : State) (us : List AUnit) : State := us.foldl (fun m u => m.writePlain u.cell u.n (value u)) s

/-- The line of the unit holds no error. -/
abbrev State.cleanAt (s : State) (u : AUnit) : Prop := (s.line u.cell).sound = true ∧ (s.line u.cell).wiped = none

theorem storeLine_clean {a : Nat} {m : LineMeta} {us : List AUnit} (h : m.sound = true ∧ m.wiped = none) :
    (us.foldl (storeLine a) m).sound = true ∧ (us.foldl (storeLine a) m).wiped = none := by
  rw [foldl_storeLine]
  split
  · exact h
  · exact h

section
variable (value : AUnit → Nat) (s : State) (us : List AUnit) (clean : ∀ u ∈ us, s.cleanAt u)
include clean

/-- What stores of units in clean lines leave, byte by byte and line by line. -/
theorem State.writes_spec : (∀ a, (s.writes value us).byte a = us.foldl (storeByte value a) (s.byte a)) ∧
    ∀ a, (s.writes value us).line a = us.foldl (storeLine a) (s.line a) := by
  induction us generalizing s with
  | nil => exact ⟨fun _ => rfl, fun _ => rfl⟩
  | cons u us ih =>
    have here := clean u (by simp)
    have stored := State.writePlain_stored s u.cell u.n (value u) here.1 here.2
    have line (a : Nat) : (s.writePlain u.cell u.n (value u)).line a = storeLine a (s.line a) u := stored.line a
    have rest := ih (s.writePlain u.cell u.n (value u)) fun v mem => by
      rw [State.cleanAt, line]
      exact storeLine_clean (us := [u]) (clean v (by simp [mem]))
    refine ⟨fun a => ?_, fun a => ?_⟩
    · rw [State.writes, List.foldl_cons, List.foldl_cons, ← State.writes, rest.1, stored.byte]
      rfl
    · rw [State.writes, List.foldl_cons, List.foldl_cons, ← State.writes, rest.2, line]

theorem State.performAll_store (data : List (Nat × Nat)) (plain : ∀ u ∈ us, u.cell / 2 ^ 60 ≠ 3)
    (values : ∀ u, value u = ((data.find? fun x => x.1 == u.idx).map (·.2)).getD 0) :
    s.performAll (.store data) us = (s.writes value us, []) := by
  induction us generalizing s with
  | nil => rfl
  | cons u us ih =>
    have here := clean u (by simp)
    have stored := State.writePlain_stored s u.cell u.n (value u) here.1 here.2
    have accept : s.accept u.cell u.n = s := if_pos (by simpa using plain u (by simp))
    have one : s.performPlain (.store data) u = (s.writePlain u.cell u.n (value u), []) := by
      rw [State.performPlain, State.correctBytes_sound _ _ _ here.1, values]
      simp only [accept]
    rw [State.performAll, one, ih (s.writePlain u.cell u.n (value u)) (fun v mem => by
      rw [State.cleanAt, stored.line]
      exact storeLine_clean (us := [u]) (clean v (by simp [mem]))) fun v mem => plain v (by simp [mem])]
    rfl

end

theorem State.writes_frame (value : AUnit → Nat) (s : State) (us : List AUnit) :
    s.writes value us = { s with mem := (s.writes value us).mem, lines := (s.writes value us).lines } := by
  induction us generalizing s with
  | nil => rfl
  | cons u us ih =>
    rw [State.writes, List.foldl_cons, ← State.writes, ih, State.writePlain_frame]

/-- Memory is as the stores of the units `done` leave it. -/
def StoredAll (value : AUnit → Nat) (s : State) (v0 : Vector (BitVec 2048) 16) (done : List AUnit) (x : State)
    (v : Vector (BitVec 2048) 16) : Prop :=
  (∀ a, x.byte a = done.foldl (storeByte value a) (s.byte a)) ∧ (∀ a, x.line a = done.foldl (storeLine a) (s.line a)) ∧ v = v0

theorem performs_store {s : State} {w : Nat} {b : BankUse} {data : List (Nat × Nat)} {value : AUnit → Nat} (op : b.op = .store data)
    (to_ : b.done = .none) (v0 : Vector (BitVec 2048) 16) (clean : ∀ u ∈ b.left, s.cleanAt u)
    (plain : ∀ u ∈ b.left, u.cell / 2 ^ 60 ≠ 3)
    (values : ∀ u, value u = ((data.find? fun x => x.1 == u.idx).map (·.2)).getD 0) :
    Performs w b (StoredAll value s v0) where
  congr := by
    rintro done x y v mem lines ⟨bytes, metas, same⟩
    refine ⟨fun a => ?_, fun a => ?_, same⟩
    · rw [State.byte, mem, ← bytes, State.byte]
    · rw [State.line_of_lines lines, metas]
  perform := by
    rintro done x v us - sub before apart ⟨bytes, metas, rfl⟩
    have still : ∀ u ∈ us, x.cleanAt u := fun u mem => by
      rw [State.cleanAt, metas]
      exact storeLine_clean (clean u (sub.subset mem))
    obtain ⟨bytes', metas'⟩ := State.writes_spec value x us still
    refine ⟨x.writes value us, [], v, ?_, State.writes_frame _ _ _, fun t at_ => ⟨[], by rw [to_]; rfl, ?_⟩, fun a => ?_, fun a => ?_, rfl⟩
    · rw [op, State.performAll_store value x us still data (fun u mem => plain u (sub.subset mem)) values]
    · rw [← at_]
      rfl
    · rw [bytes', bytes, List.foldl_append]
    · rw [metas', metas, List.foldl_append]

/-! ### The order of the banks -/

theorem flatMap_single {α β : Type} {f : α → List β} {x : α} {xs : List α} (nodup : xs.Nodup) (mem : x ∈ xs)
    (others : ∀ y ∈ xs, y ≠ x → f y = []) : xs.flatMap f = f x := by
  induction xs with
  | nil => simp at mem
  | cons y xs ih =>
    rw [List.nodup_cons] at nodup
    rw [List.flatMap_cons]
    rcases List.mem_cons.1 mem with rfl | mem
    · have none : xs.flatMap f = [] := List.flatMap_eq_nil_iff.2 fun z has => others z (by simp [has]) (by grind)
      rw [none, List.append_nil]
    · rw [others y (by simp) (by grind), List.nil_append]
      exact ih nodup.2 mem fun z has => others z (by simp [has])

/-- The units that a clk serves. -/
abbrev State.dueNow (s : State) (c k : Nat) : List AUnit := (s.leftOf c k).filter (s.due c k)

theorem State.mem_dueAt_all {s : State} {c k : Nat} (u : AUnit) : u ∈ s.dueAt c k (List.range 16) ↔ u ∈ s.dueNow c k := by
  simp only [State.dueAt, List.mem_flatMap, List.mem_filter, List.mem_range, Bool.and_eq_true, beq_iff_eq]
  constructor
  · rintro ⟨b, -, mem, due, -⟩
    exact ⟨mem, due⟩
  · rintro ⟨mem, due⟩
    exact ⟨u.bank, u.bank_lt, mem, due, rfl⟩

/-- Of one row, the banks serve the units in their order. -/
theorem State.filter_dueAt_all {s : State} {c k r : Nat} :
    (s.dueAt c k (List.range 16)).filter (fun u => u.cell / 16 == r) = (s.dueNow c k).filter fun u => u.cell / 16 == r := by
  let b : Nat := AUnit.bank ⟨0, 0, 16 * r, 0⟩
  have bank {u : AUnit} (row : u.cell / 16 = r) : u.bank = b := AUnit.bank_of_sameRow (by simp [AUnit.sameRow, row])
  rw [State.dueAt, List.filter_flatMap, flatMap_single (x := b) List.nodup_range (List.mem_range.2 (AUnit.bank_lt _))]
  · rw [List.filter_filter, List.filter_filter]
    refine List.filter_congr fun u _ => ?_
    have := @bank u
    grind
  · intro b' _ ne
    rw [List.filter_filter, List.filter_eq_nil_iff]
    intro u _
    have := @bank u
    grind

/-- A unit within its row: it is aligned and has at most 16 bytes. -/
abbrev AUnit.inRow (u : AUnit) : Prop := u.n ∈ [1, 2, 4, 8] ∧ u.cell % u.n = 0

/-- A byte depends on the units of its row alone. -/
theorem foldl_storeByte_row {value : AUnit → Nat} {us : List AUnit} (rows : ∀ u ∈ us, u.inRow) (a : Nat) (b : BitVec 8) :
    us.foldl (storeByte value a) b = (us.filter fun u => u.cell / 16 == a / 16).foldl (storeByte value a) b := by
  induction us generalizing b with
  | nil => rfl
  | cons u us ih =>
    have rest := fun b => ih (fun v mem => rows v (by simp [mem])) b
    by_cases row : u.cell / 16 = a / 16
    · rw [List.filter_cons_of_pos (by simpa using row), List.foldl_cons, List.foldl_cons, rest]
    · have outside : ¬ (u.cell ≤ a ∧ a < u.cell + u.n) := by
        obtain ⟨size, aligned⟩ := rows u (by simp)
        simp only [List.mem_cons, List.not_mem_nil, or_false] at size
        rcases size with h | h | h | h <;> rw [h] at aligned ⊢ <;> omega
      rw [List.filter_cons_of_neg (by simpa using row), List.foldl_cons, storeByte, if_neg outside, rest]

/-- The stores of a clk leave the same memory in the banks' order and in the instruction's. -/
theorem StoredAll.sameMemory {value : AUnit → Nat} {s t : State} {c k : Nat} {v0 v : Vector (BitVec 2048) 16}
    (h : StoredAll value s v0 (s.dueAt c k (List.range 16)) t v) (clean : ∀ u ∈ s.leftOf c k, s.cleanAt u)
    (rows : ∀ u ∈ s.leftOf c k, u.inRow) : SameMemory (s.writes value (s.dueNow c k)) t := by
  obtain ⟨bytes, metas, -⟩ := h
  have within {u : AUnit} (mem : u ∈ s.dueNow c k) : u ∈ s.leftOf c k := List.mem_of_mem_filter mem
  obtain ⟨bytes', metas'⟩ := State.writes_spec value s (s.dueNow c k) fun u mem => clean u (within mem)
  refine ⟨fun a => ?_, fun a => ?_⟩
  · rw [bytes, bytes', foldl_storeByte_row (fun u mem => rows u (within (State.mem_dueAt_all u |>.1 mem))), State.filter_dueAt_all,
      ← foldl_storeByte_row fun u mem => rows u (within mem)]
  · rw [metas, metas', foldl_storeLine, foldl_storeLine]
    have any : (s.dueAt c k (List.range 16)).any (fun u => a / 64 == u.cell / 64) = (s.dueNow c k).any fun u => a / 64 == u.cell / 64 := by
      rw [Bool.eq_iff_iff, List.any_eq_true, List.any_eq_true]
      simp only [State.mem_dueAt_all]
    rw [any]

/-! ### The clk as a whole -/

theorem Core.slot_mapSlots (c : Core) {f : Slot → Slot} {j : Nat} (h : j < 16) :
    ({ c with slots := c.slots.map f } : Core).slot j = f (c.slot j) := by
  simp [Core.slot, h]

theorem Slot.endTcont_eq (t : Slot) (v : Vector (BitVec 2048) 16) (cont : List Nat) (left : List AUnit) :
    ({ t with v, banks := { t.banks with cont, left } } : Slot).endTcont =
    { t with v, banks := { t.banks with cont, left }, st := if t.st = .parked .tcont ∧ cont = [] then .ready else t.st } := by
  rw [Slot.endTcont]
  by_cases ends : t.st = .parked .tcont ∧ cont = []
  · rw [if_pos ends, if_pos (by simp [ends.1, ends.2])]
  · rw [if_neg ends, if_neg (by simpa using ends)]

theorem State.leftAfter_all (s : State) (c k : Nat) :
    s.leftAfter c k (List.range 16) = (s.leftOf c k).filter fun u => !(s.dueNow c k).contains u := by
  refine List.filter_congr fun u mem => ?_
  have bank := u.bank_lt
  simp [mem, bank]

/-- The count of a bank's accesses that wait after the clk. -/
theorem State.count_contAfter {s : State} {c k : Nat} (b : Nat) :
    (b < 16 ∧ (s.core c).serves s.clk b k →
      (s.contAfter c k (List.range 16)).count b + 1 = (s.slot c k).banks.cont.count b) ∧
    (¬ (b < 16 ∧ (s.core c).serves s.clk b k) → (s.contAfter c k (List.range 16)).count b = (s.slot c k).banks.cont.count b) := by
  have mem : b ∈ (List.range 16).filter (s.served c k) ↔ b < 16 ∧ (s.core c).serves s.clk b k := by
    rw [List.mem_filter, List.mem_range, beq_iff_eq, Core.tcontOf_eq_some]
  rw [State.contAfter, List.count_diff]
  constructor
  · intro serves
    have one := List.count_eq_one_of_mem (List.nodup_range.filter _) (mem.2 serves)
    have waits : 0 < (s.slot c k).banks.cont.count b := List.count_pos_iff.2 serves.2.2.1.2
    omega
  · intro not
    rw [List.count_eq_zero_of_not_mem (mt mem.1 not), Nat.sub_zero]

/-- A unit is served in this clk. -/
theorem State.mem_dueNow {s : State} {c k : Nat} (u : AUnit) : u ∈ s.dueNow c k ↔
    u ∈ (s.slot c k).banks.left ∧ (bankAt u.cell < 16 ∧ (s.core c).serves s.clk (bankAt u.cell) k) ∧
      ((s.slot c k).banks.left.find? fun v => bankAt v.cell == bankAt u.cell).any (fun v => v.cell / 16 == u.cell / 16) = true := by
  have bank := u.bank_lt
  simp only [State.dueNow, State.due, List.mem_filter, Bool.and_eq_true, beq_iff_eq, AUnit.bank_eq, AUnit.sameRow,
    Core.tcontOf_eq_some] at bank ⊢
  simp only [bank, true_and]

/-- What a clk of T-cont service does to a slot: its registers, its waiting accesses and its units are new. -/
def Slot.served (t : Slot) (v : Vector (BitVec 2048) 16) (cont : List Nat) (left : List AUnit) : Slot :=
  { t with v, banks := { t.banks with cont, left }, st := if t.st = .parked .tcont ∧ cont = [] then .ready else t.st }

/-- TCONT_ACCESS, where slot k alone has units left, whose performance is known. -/
theorem State.tcontAccess {s : State} {c k : Nat} {Good : List AUnit → State → Vector (BitVec 2048) 16 → Prop} (hc : s.ev.core = c)
    (hk : k < 16) (alone : ∀ j < 16, j ≠ k → s.leftOf c j = []) (performs : Performs (Config.vecBits c) (s.slot c k).banks Good)
    (good : Good [] s (s.slot c k).v) : ∃ t v, exec .tcontAccess s = .next t ∧ t = { s with cores := t.cores, mem := t.mem, lines := t.lines } ∧
      OthersSame s t c ∧ t.core c = { s.core c with slots := (t.core c).slots } ∧ Good (s.dueAt c k (List.range 16)) t v ∧
      t.slot c k = (s.slot c k).served v (s.contAfter c k (List.range 16)) ((s.leftOf c k).filter fun u => !(s.dueNow c k).contains u) ∧
      ∀ j < 16, j ≠ k → t.slot c j = (s.slot c j).served (s.slot c j).v (s.contAfter c j (List.range 16)) [] := by
  obtain ⟨v, serving, good⟩ := State.serving_range hk performs alone good 16
  generalize run : (List.range 16).foldl (fun x b => s.tcontBank x c b) s = x at serving good
  have step : exec .tcontAccess s = .next (x.modCore c fun y => { y with slots := y.slots.map Slot.endTcont }) := by
    rw [← run, ← hc]
    rfl
  have slot {j : Nat} (hj : j < 16) : (x.modCore c fun y => { y with slots := y.slots.map Slot.endTcont }).slot c j = (x.slot c j).endTcont := by
    rw [State.slot, State.core_modCore_same, Core.slot_mapSlots _ hj]
    rfl
  refine ⟨_, v, step, ?_, fun d hd => ?_, ?_, performs.congr (x := x) rfl rfl good, ?_, fun j hj ne => ?_⟩
  · conv_lhs => rw [serving.rest]
    rfl
  · rw [State.core_modCore_other _ hd, serving.others d hd]
  · rw [State.core_modCore_same, serving.core]
  · rw [slot hk, serving.slot, Slot.endTcont_eq, State.leftAfter_all]
    rfl
  · rw [slot hj, serving.other j hj ne]
    have left : (s.slot c j).banks.left = [] := alone j hj ne
    have same := Slot.endTcont_eq (s.slot c j) (s.slot c j).v (s.contAfter c j (List.range 16)) []
    rw [Slot.served, ← same, ← left]

/-- No unit is left: nothing is performed. -/
theorem performs_nothing {s : State} {w : Nat} {b : BankUse} (v0 : Vector (BitVec 2048) 16) (none : b.left = []) :
    Performs w b fun _ x v => x.mem = s.mem ∧ x.lines = s.lines ∧ v = v0 where
  congr := by
    rintro done x y v mem lines ⟨mem', lines', same⟩
    exact ⟨mem.trans mem', lines.trans lines', same⟩
  perform := by
    intro done x v us some sub
    exact absurd (List.sublist_nil.1 (none ▸ sub)) some

/-- Settles O26: SKIP_ANNUL by the two cases of its word; the checker and the tester by their definitions; T-cont by what one bank after the other
leaves (`State.tcontAccess`), for units that are loaded (`performs_load`) or stored (`performs_store`). -/
theorem annulmentAndChecker : Obligations.AnnulmentAndChecker := by
  refine ⟨?_, ?_, ?_⟩
  · rintro c k avail w s hk rfl rfl ready wake fetched x n again
    have bound : n < 4 := (x.flags.extractLsb' 16 2).isLt
    have count : skipPend x.flags = n := rfl
    have skip (some : 1 ≤ n) : skipPend x.flags ≠ 0 := by omega
    have run : exec .skipAnnul s = .next (s.annul s.ev.core s.ev.slot) := rfl
    refine ⟨fun some word room => ?_, fun some filler => ?_⟩
    · have only := OnlySlot.modSlot s s.ev.core s.ev.slot (·.passes w (n - 1)) hk
      have slot := (State.slot_modSlot_same s s.ev.core s.ev.slot (·.passes w (n - 1)) hk).trans (x.passes_eq w some bound)
      rw [run, State.annul_word ready (skip some) wake fetched word room, count]
      by_cases last : n = 1
      · rw [if_pos (by omega), if_pos last]
        exact ⟨_, rfl, ⟨only.cores, only.core, only.slots⟩, only.rest, slot⟩
      · rw [if_neg (by omega), if_neg last]
        exact ⟨_, rfl, ⟨only.cores, only.core, only.slots⟩, rfl, slot⟩
    · have only := OnlySlot.modSlot s s.ev.core s.ev.slot (fun t => { t with pc := blockOf t.pc + 32 }) hk
      have slot := State.slot_modSlot_same s s.ev.core s.ev.slot (fun t => { t with pc := blockOf t.pc + 32 }) hk
      rw [run, State.annul_filler ready (skip some) wake fetched filler]
      exact ⟨_, rfl, ⟨only.cores, only.core, only.slots⟩, rfl, slot⟩
  · rintro c k s hk rfl rfl x contains
    refine ⟨fun avail w i n ready first fetched word => ?_, fun ready second => ?_, fun wrong => ?_, fun right => ?_⟩
    · have only := OnlySlot.modSlot (s.modCore s.ev.core fun y => { y with chkCount := bumpChk y.chkCount }) s.ev.core s.ev.slot
        (fun t => { t with retry := true, last := s.clk, dist := distanceOf s.ev.core i }) hk
      have same (j : Nat) : (s.modCore s.ev.core fun y => { y with chkCount := bumpChk y.chkCount }).slot s.ev.core j = s.slot s.ev.core j := by
        rw [State.slot, State.core_modCore_same]
        rfl
      refine ⟨_, State.checkerRetry_first rfl rfl ready first fetched word, only.rest, fun d hd => ?_, ?_, ?_, fun j ne => ?_⟩
      · rw [only.cores d hd, State.core_modCore_other _ hd]
      · rw [State.slot_modSlot_same _ _ _ _ hk, same]
      · rw [only.core, State.core_modCore_same, bumpChk_eq]
      · rw [only.slots j ne, same]
    · exact State.checkerRetry_second rfl rfl ready second
    · change execKnownAnswerTest s = _
      rw [execKnownAnswerTest, if_pos wrong]
      rfl
    · change execKnownAnswerTest s = _
      rw [execKnownAnswerTest, if_neg (by simp [right])]
  · intro c s hc at_ wants served clean Ends becomes frame
    -- what a slot becomes
    have serves {j : Nat} (hj : j < 16) (b : Nat) : served j b ↔ b < 16 ∧ (s.core c).serves s.clk b j := by
      simp only [Core.serves, eq_true hj, true_and]
      rfl
    have became {t : State} {j : Nat} {v : Vector (BitVec 2048) 16} {left : List AUnit} (hj : j < 16)
        (slot : t.slot c j = (s.slot c j).served v (s.contAfter c j (List.range 16)) left) : becomes t j v left := by
      refine ⟨s.contAfter c j (List.range 16), fun b => ?_, slot⟩
      rw [serves hj]
      exact State.count_contAfter b
    refine ⟨fun none => ?_, fun k hk alone cleans nodup => ?_⟩
    · obtain ⟨t, v, run, rest, others, core, ⟨mem, lines, same⟩, slot, slots⟩ := State.tcontAccess hc (k := 0) (by decide)
        (fun j hj _ => none j hj) (performs_nothing (s := s) (s.slot c 0).v (none 0 (by decide))) ⟨rfl, rfl, rfl⟩
      refine ⟨t, run, ?_, ⟨others, core⟩, fun j hj => became hj ?_⟩
      · rw [rest, mem, lines]
      · by_cases zero : j = 0
        · subst zero
          rw [slot, same, show s.leftOf c 0 = [] from none 0 hj]
          rfl
        · exact slots j hj zero
    · refine ⟨s.dueNow c k, _, ⟨fun u => ?_, List.filter_sublist, rfl⟩, fun d e op to_ _ fits once => ?_, fun data op to_ plain => ?_⟩
      · have serves : served k (bankAt u.cell) ↔ bankAt u.cell < 16 ∧ (s.core c).serves s.clk (bankAt u.cell) k := serves hk _
        rw [serves]
        exact State.mem_dueNow u
      · obtain ⟨t, v, run, rest, others, core, ⟨mem, lines, x, same, loaded, kept⟩, slot, slots⟩ := State.tcontAccess hc hk alone
          (performs_load op to_ (s.slot c k).v (fun u mem => (cleans u mem).2.2.1) fits once)
          ⟨rfl, rfl, (s.slot c k).v[d], by simp, by simp, fun _ _ _ => rfl⟩
        refine ⟨t, x, run, ?_, ⟨others, core⟩, became hk (same ▸ slot), fun u now_ => loaded u (State.mem_dueAt_all u |>.2 now_),
          fun j lt none => kept j lt fun u now_ => none u (State.mem_dueAt_all u |>.1 now_), fun j hj ne => became hj (slots j hj ne)⟩
        rw [rest, mem, lines]
      · have clean : ∀ u ∈ s.leftOf c k, s.cleanAt u := fun u mem => (cleans u mem).2.2
        obtain ⟨t, v, run, rest, others, core, stored, slot, slots⟩ := State.tcontAccess hc hk alone
          (performs_store (value := fun u => ((data.find? fun x => x.1 == u.idx).map (·.2)).getD 0) op to_ (s.slot c k).v clean plain fun _ => rfl)
          ⟨fun _ => rfl, fun _ => rfl, rfl⟩
        have same := stored.2.2
        exact ⟨t, run, rest, ⟨others, core⟩, stored.sameMemory clean fun u mem => ⟨(cleans u mem).1, (cleans u mem).2.1⟩,
          became hk (same ▸ slot), fun j hj ne => became hj (slots j hj ne)⟩

end Sys2Proof.Machine

/-!
## Results of the integer rows (R7, R153 to R155, R192)

SUPPORT. The model computes on numbers, the statements on bit vectors: the n bits of each row's result, for every n.
-/

namespace Sys2Proof.Machine

section
variable {n : Nat}

theorem sextN_toNat (pos : 0 < n) (x : BitVec n) : sextN n x.toNat = x.toInt := by
  have half : 2 ^ n = 2 * 2 ^ (n - 1) := by
    rw [← Nat.pow_succ', Nat.succ_eq_add_one, Nat.sub_add_cancel pos]
  have low : x.toNat % 2 ^ n = x.toNat := Nat.mod_eq_of_lt x.isLt
  rw [sextN, BitVec.toInt_eq_toNat_cond, low]
  grind

theorem patN_eq (v : Int) : patN n v = (BitVec.ofInt n v).toNat := rfl

theorem narrow_eq (pos : 0 < n) (v : Int) : narrow n v = (BitVec.ofInt n v).signExtend 64 := by
  have value : (v % (2 ^ n : Nat)).toNat = (BitVec.ofInt n v).toNat := rfl
  rw [narrow, value, sextN_toNat pos]
  rfl

theorem ofInt_eq_of_toNat {k : Nat} {z : BitVec n} (h : k % 2 ^ n = z.toNat) : BitVec.ofInt n (k : Int) = z := by
  rw [BitVec.ofInt_natCast, ← BitVec.toNat_inj, BitVec.toNat_ofNat, h]

variable (x y : BitVec n)

theorem toNat_eq_zero_iff : y.toNat = 0 ↔ y = 0 := by
  rw [← BitVec.toNat_inj]
  simp

theorem ofInt_opAdd : BitVec.ofInt n (opAdd n x.toNat y.toNat) = x + y := ofInt_eq_of_toNat (BitVec.toNat_add x y).symm

theorem ofInt_opSub : BitVec.ofInt n (opSub n x.toNat y.toNat) = x - y := by
  rw [opSub, ← BitVec.toInt_inj, BitVec.toInt_ofInt, BitVec.toInt_sub, BitVec.toInt_eq_toNat_bmod, BitVec.toInt_eq_toNat_bmod,
    Int.bmod_sub_bmod, Int.sub_bmod_bmod]

theorem ofInt_opMul : BitVec.ofInt n (opMul n x.toNat y.toNat) = x * y := ofInt_eq_of_toNat (BitVec.toNat_mul x y).symm

theorem ofInt_opMulh (pos : 0 < n) : BitVec.ofInt n (opMulh n x.toNat y.toNat) = BitVec.ofInt n (x.toInt * y.toInt / 2 ^ n) := by
  rw [opMulh, sextN_toNat pos, sextN_toNat pos]
  norm_cast

theorem ofInt_opMulhu : BitVec.ofInt n (opMulhu n x.toNat y.toNat) = BitVec.ofNat n (x.toNat * y.toNat / 2 ^ n) :=
  BitVec.ofInt_natCast _ _

theorem ofInt_opDiv (pos : 0 < n) : BitVec.ofInt n (opDiv n x.toNat y.toNat) = if y = 0 then BitVec.allOnes n else x.sdiv y := by
  simp only [opDiv, toNat_eq_zero_iff, sextN_toNat pos]
  split
  · rw [← BitVec.neg_one_eq_allOnes, BitVec.ofInt_neg]
    rfl
  · rw [← BitVec.toInt_inj, BitVec.toInt_sdiv, BitVec.toInt_ofInt]

theorem ofInt_opDivu : BitVec.ofInt n (opDivu n x.toNat y.toNat) = if y = 0 then BitVec.allOnes n else x.udiv y := by
  simp only [opDivu, toNat_eq_zero_iff]
  split
  · have one : 1 ≤ 2 ^ n := Nat.one_le_two_pow
    have value : ((2 ^ n : Nat) : Int) - 1 = ((2 ^ n - 1 : Nat) : Int) := by omega
    rw [value]
    exact ofInt_eq_of_toNat (by rw [BitVec.toNat_allOnes, Nat.mod_eq_of_lt (by omega)])
  · exact ofInt_eq_of_toNat (k := x.toNat / y.toNat) (by
      rw [BitVec.udiv_eq, BitVec.toNat_udiv, Nat.mod_eq_of_lt ((Nat.div_le_self _ _).trans_lt x.isLt)])

theorem ofInt_opRem (pos : 0 < n) : BitVec.ofInt n (opRem n x.toNat y.toNat) = if y = 0 then x else x.srem y := by
  simp only [opRem, toNat_eq_zero_iff, sextN_toNat pos]
  split
  · exact BitVec.ofInt_toInt
  · rw [← Int.tmod_def, ← BitVec.toInt_srem, BitVec.ofInt_toInt]

theorem ofInt_opRemu : BitVec.ofInt n (opRemu n x.toNat y.toNat) = if y = 0 then x else x.umod y := by
  simp only [opRemu, toNat_eq_zero_iff]
  split
  · exact ofInt_eq_of_toNat (Nat.mod_eq_of_lt x.isLt)
  · exact ofInt_eq_of_toNat (k := x.toNat % y.toNat) (by
      rw [BitVec.umod_eq, BitVec.toNat_umod, Nat.mod_eq_of_lt ((Nat.mod_le _ _).trans_lt x.isLt)])

theorem ofInt_opAnd : BitVec.ofInt n (opAnd n x.toNat y.toNat) = x &&& y :=
  ofInt_eq_of_toNat (Nat.mod_eq_of_lt (x &&& y).isLt)

theorem ofInt_opOr : BitVec.ofInt n (opOr n x.toNat y.toNat) = x ||| y :=
  ofInt_eq_of_toNat (Nat.mod_eq_of_lt (x ||| y).isLt)

theorem ofInt_opXor : BitVec.ofInt n (opXor n x.toNat y.toNat) = x ^^^ y :=
  ofInt_eq_of_toNat (Nat.mod_eq_of_lt (x ^^^ y).isLt)

theorem ofInt_opAndn : BitVec.ofInt n (opAndn n x.toNat y.toNat) = x &&& ~~~y := by
  rw [opAndn, ← BitVec.toNat_not]
  exact ofInt_opAnd x (~~~y)

theorem ofInt_opOrn : BitVec.ofInt n (opOrn n x.toNat y.toNat) = x ||| ~~~y := by
  rw [opOrn, ← BitVec.toNat_not]
  exact ofInt_opOr x (~~~y)

theorem ofInt_opShl : BitVec.ofInt n (opShl n x.toNat y.toNat) = x <<< (y.toNat % n) :=
  ofInt_eq_of_toNat (by rw [BitVec.toNat_shiftLeft, Nat.shiftLeft_eq])

theorem ofInt_opShr : BitVec.ofInt n (opShr n x.toNat y.toNat) = x >>> (y.toNat % n) :=
  ofInt_eq_of_toNat (by rw [BitVec.toNat_ushiftRight, Nat.shiftRight_eq_div_pow, Nat.mod_eq_of_lt ((Nat.div_le_self _ _).trans_lt x.isLt)])

theorem ofInt_opSar (pos : 0 < n) : BitVec.ofInt n (opSar n x.toNat y.toNat) = x.sshiftRight (y.toNat % n) := by
  rw [← BitVec.ofInt_toInt (x := x.sshiftRight _), BitVec.toInt_sshiftRight, Int.shiftRight_eq_div_pow, opSar, sextN_toNat pos]

/-- A number whose r low bits are 0, and r bits more. -/
theorem add_mod_eq_or (k : Nat) {r low : Nat} (le : r ≤ n) (lt : low < 2 ^ r) : (k * 2 ^ r + low) % 2 ^ n = k * 2 ^ r % 2 ^ n ||| low := by
  have split : 2 ^ n = 2 ^ (n - r) * 2 ^ r := by rw [← Nat.pow_add, Nat.sub_add_cancel le]
  have high : k % 2 ^ (n - r) * 2 ^ r + low < 2 ^ n := by
    have room : k % 2 ^ (n - r) < 2 ^ (n - r) := Nat.mod_lt _ (by positivity)
    calc k % 2 ^ (n - r) * 2 ^ r + low
        < (k % 2 ^ (n - r) + 1) * 2 ^ r := by rw [Nat.add_mul, Nat.one_mul]; omega
      _ ≤ 2 ^ n := by rw [split]; exact Nat.mul_le_mul_right _ room
  have top : k * 2 ^ r % 2 ^ n = k % 2 ^ (n - r) * 2 ^ r := by rw [split, Nat.mul_mod_mul_right]
  rw [← Nat.mod_add_mod, top, Nat.mod_eq_of_lt high, ← Nat.shiftLeft_eq, Nat.shiftLeft_add_eq_or_of_lt lt]

theorem div_pow_sub_lt {r : Nat} (le : r ≤ n) : x.toNat / 2 ^ (n - r) < 2 ^ r :=
  Nat.div_lt_of_lt_mul (by rw [← Nat.pow_add, Nat.sub_add_cancel le]; exact x.isLt)

theorem ofInt_opRol (pos : 0 < n) : BitVec.ofInt n (opRol n x.toNat y.toNat) = x.rotateLeft (y.toNat % n) := by
  have le := (Nat.mod_lt y.toNat pos).le
  refine ofInt_eq_of_toNat ?_
  rw [BitVec.toNat_rotateLeft, Nat.mod_mod, Nat.shiftLeft_eq, Nat.shiftRight_eq_div_pow, add_mod_eq_or _ le (div_pow_sub_lt x le)]

theorem ofInt_opRor (pos : 0 < n) : BitVec.ofInt n (opRor n x.toNat y.toNat) = x.rotateRight (y.toNat % n) := by
  have le := (Nat.mod_lt y.toNat pos).le
  have low : x.toNat / 2 ^ (y.toNat % n) < 2 ^ (n - y.toNat % n) := by
    have shifted := div_pow_sub_lt x (Nat.sub_le n (y.toNat % n))
    rwa [Nat.sub_sub_self le] at shifted
  refine ofInt_eq_of_toNat ?_
  rw [BitVec.toNat_rotateRight, Nat.mod_mod, Nat.shiftLeft_eq, Nat.shiftRight_eq_div_pow, Nat.add_comm, Nat.lor_comm,
    add_mod_eq_or _ (Nat.sub_le n _) low]

theorem ofInt_opMin (pos : 0 < n) : BitVec.ofInt n (opMin n x.toNat y.toNat) = if x.slt y then x else y := by
  rw [opMin, sextN_toNat pos, sextN_toNat pos]
  by_cases less : x.toInt < y.toInt
  · rw [if_pos (by simpa [BitVec.slt] using less), min_eq_left less.le, BitVec.ofInt_toInt]
  · rw [if_neg (by simpa [BitVec.slt] using less), min_eq_right (not_lt.1 less), BitVec.ofInt_toInt]

theorem ofInt_opMax (pos : 0 < n) : BitVec.ofInt n (opMax n x.toNat y.toNat) = if x.slt y then y else x := by
  rw [opMax, sextN_toNat pos, sextN_toNat pos]
  by_cases less : x.toInt < y.toInt
  · rw [if_pos (by simpa [BitVec.slt] using less), max_eq_right less.le, BitVec.ofInt_toInt]
  · rw [if_neg (by simpa [BitVec.slt] using less), max_eq_left (not_lt.1 less), BitVec.ofInt_toInt]

theorem ofInt_opMinu : BitVec.ofInt n (opMinu n x.toNat y.toNat) = if x.ult y then x else y := by
  refine ofInt_eq_of_toNat ((Nat.mod_eq_of_lt ((Nat.min_le_left _ _).trans_lt x.isLt)).trans ?_)
  simp only [BitVec.ult, decide_eq_true_eq, apply_ite BitVec.toNat]
  exact min_def_lt _ _

theorem ofInt_opMaxu : BitVec.ofInt n (opMaxu n x.toNat y.toNat) = if x.ult y then y else x := by
  refine ofInt_eq_of_toNat ((Nat.mod_eq_of_lt (Nat.max_lt.2 ⟨x.isLt, y.isLt⟩)).trans ?_)
  simp only [BitVec.ult, decide_eq_true_eq, apply_ite BitVec.toNat]
  exact max_def_lt _ _

/-- The lesser of two numbers, whichever is asked first. -/
theorem slt_min_comm : (if x.slt y then x else y) = if y.slt x then y else x := by
  rw [← BitVec.toInt_inj]
  simp only [BitVec.slt, decide_eq_true_eq, apply_ite BitVec.toInt, ← min_def_lt]
  exact min_comm _ _

theorem ult_min_comm : (if x.ult y then x else y) = if y.ult x then y else x := by
  rw [← BitVec.toNat_inj]
  simp only [BitVec.ult, decide_eq_true_eq, apply_ite BitVec.toNat, ← min_def_lt]
  exact min_comm _ _

end

/-! ## The rows' plans -/

section
variable {w : Width} {d a b : G} {t : Slot} {op : Nat → Nat → Nat → Int} {bv : (n : Nat) → BitVec n → BitVec n → BitVec n}

theorem width_bits_pos (w : Width) : 0 < w.bits := by cases w <;> decide

/-- The plan of a row of Table 9: its n bits are sign-extended, and a divisor of 0 may set dz. -/
abbrev intRowPlan (bv : (n : Nat) → BitVec n → BitVec n → BitVec n) (divides : Bool) (w : Width) (d a b : G) (t : Slot) : Plan :=
  { writes := [.g d ((bv w.bits ((t.rg a).setWidth w.bits) ((t.rg b).setWidth w.bits)).signExtend 64)]
    fl := Fl.when (divides && (t.rg b).setWidth w.bits == 0) Fl.dz }

theorem srcBits_eq (w : Width) (t : Slot) (a : G) : srcBits w t a = ((t.rg a).setWidth w.bits).toNat := (BitVec.toNat_setWidth ..).symm

theorem intPlan_eq (bits : ∀ x y : BitVec w.bits, BitVec.ofInt w.bits (op w.bits x.toNat y.toNat) = bv w.bits x y) :
    intPlan op w d (srcBits w t a) (srcBits w t b) = .ok (intRowPlan bv false w d a b t) := by
  rw [intPlan, srcBits_eq, srcBits_eq, narrow_eq (width_bits_pos w), bits]
  rfl

theorem divPlan_eq (bits : ∀ x y : BitVec w.bits, BitVec.ofInt w.bits (op w.bits x.toNat y.toNat) = bv w.bits x y) :
    divPlan op w d (srcBits w t a) (srcBits w t b) = .ok (intRowPlan bv true w d a b t) := by
  have zero : (((t.rg b).setWidth w.bits).toNat == 0) = ((t.rg b).setWidth w.bits == 0) := by
    rw [Bool.eq_iff_iff, beq_iff_eq, beq_iff_eq, toNat_eq_zero_iff]
  rw [divPlan, srcBits_eq, srcBits_eq, narrow_eq (width_bits_pos w), bits, zero]
  rfl

end

/-- R153 to R155: what a row of Table 9 with two source registers plans. -/
theorem planOf_intRow {r : IntRow} (row : r ∈ intRows) (w : Width) (d a b : G) (vw : Nat) (t : Slot) :
    planOf (r.reg w d a b) vw t = some (.ok (intRowPlan r.op r.divides w d a b t)) := by
  have pos := width_bits_pos w
  revert r
  simp only [intRows, List.forall_mem_cons, List.not_mem_nil, false_imp_iff, implies_true, and_true]
  exact ⟨congrArg some (intPlan_eq ofInt_opAdd), congrArg some (intPlan_eq ofInt_opSub), congrArg some (intPlan_eq ofInt_opMul),
    congrArg some (intPlan_eq fun x y => ofInt_opMulh x y pos), congrArg some (intPlan_eq ofInt_opMulhu),
    congrArg some (divPlan_eq fun x y => ofInt_opDiv x y pos), congrArg some (divPlan_eq ofInt_opDivu),
    congrArg some (divPlan_eq fun x y => ofInt_opRem x y pos), congrArg some (divPlan_eq ofInt_opRemu),
    congrArg some (intPlan_eq ofInt_opAnd), congrArg some (intPlan_eq ofInt_opOr), congrArg some (intPlan_eq ofInt_opXor),
    congrArg some (intPlan_eq ofInt_opAndn), congrArg some (intPlan_eq ofInt_opOrn), congrArg some (intPlan_eq ofInt_opShl),
    congrArg some (intPlan_eq ofInt_opShr), congrArg some (intPlan_eq fun x y => ofInt_opSar x y pos),
    congrArg some (intPlan_eq fun x y => ofInt_opRol x y pos), congrArg some (intPlan_eq fun x y => ofInt_opRor x y pos),
    congrArg some (intPlan_eq fun x y => ofInt_opMin x y pos), congrArg some (intPlan_eq ofInt_opMinu),
    congrArg some (intPlan_eq fun x y => ofInt_opMax x y pos), congrArg some (intPlan_eq ofInt_opMaxu)⟩

end Sys2Proof.Machine

/-!
## Lane-wise plans (R181 to R183, R187, R192, R201)

SUPPORT. What `lanePlan` writes and raises, and the plans of the rows in the statements' terms.
-/

namespace Sys2Proof.Machine

theorem VType.bits_pos (ty : VType) : 0 < ty.bits := by cases ty <;> decide

theorem elem_toNat (t : Slot) (a : V) (e j : Nat) : (elem t a e j).toNat = lane (t.rv a) e j := by
  rw [elem, BitVec.toNat_ofNat, Nat.mod_eq_of_lt (lane_lt _ _ _)]

theorem vecBits_le (c : Nat) : Config.vecBits c ≤ 2048 := by
  unfold Config.vecBits
  split <;> decide

/-- What a lane-wise plan writes. -/
def laneResult (w e : Nat) (t : Slot) (p : P) (d : V) (f : Nat → Nat × Fl) : BitVec 2048 :=
  BitVec.ofNat 2048 (packLanes e ((List.range (w / e)).map fun j => if active (t.rp w p) e j then (f j).1 else lane (t.rv d) e j))

/-- What a lane-wise plan raises. -/
def laneFlags (w e : Nat) (t : Slot) (p : P) (f : Nat → Nat × Fl) : Fl :=
  ((List.range (w / e)).filter fun j => active (t.rp w p) e j).foldl (fun acc j => acc ||| (f j).2) 0

theorem lanePlan_eq (w e : Nat) (t : Slot) (p : P) (d : V) (f : Nat → Nat × Fl) :
    lanePlan w e t p d f = .ok { writes := [.v d (laneResult w e t p d f)], fl := laneFlags w e t p f } := by
  have values (j : Nat) : (if active (t.rp w p) e j then f j else (lane (t.rv d) e j, 0)).1 =
      if active (t.rp w p) e j then (f j).1 else lane (t.rv d) e j := apply_ite Prod.fst _ _ _
  have flags (acc : Fl) (j : Nat) : acc ||| (if active (t.rp w p) e j then f j else (lane (t.rv d) e j, 0)).2 =
      if active (t.rp w p) e j then acc ||| (f j).2 else acc := by
    split
    · rfl
    · exact BitVec.or_zero
  simp only [lanePlan, laneResult, laneFlags, List.map_map, Function.comp_def, List.foldl_map, List.foldl_filter, values, flags]

section
variable {w e : Nat} (t : Slot) (p : P) (d : V) (f : Nat → Nat × Fl)

theorem laneResult_lt (le : w ≤ 2048) : (laneResult w e t p d f).toNat < 2 ^ w := by
  have fits : e * (w / e) ≤ w := Nat.mul_div_le w e
  rw [laneResult, toNat_packLanes (by simpa using fits.trans le)]
  have lt := packLanes_lt e ((List.range (w / e)).map fun j => if active (t.rp w p) e j then (f j).1 else lane (t.rv d) e j)
  rw [List.length_map, List.length_range] at lt
  exact lt.trans_le (pow_le_pow_right₀ one_le_two fits)

theorem lane_laneResult (le : w ≤ 2048) {j : Nat} (lt : j < w / e) :
    lane (laneResult w e t p d f) e j = if active (t.rp w p) e j then (f j).1 % 2 ^ e else lane (t.rv d) e j := by
  have fits : e * (w / e) ≤ w := Nat.mul_div_le w e
  rw [laneResult, lane_packLanes (by simpa using fits.trans le)]
  simp only [List.getD_eq_getElem?_getD, List.getElem?_map, List.getElem?_range lt, Option.map_some, Option.getD_some]
  split
  · rfl
  · exact Nat.mod_eq_of_lt (lane_lt _ _ _)

end

/-- A plan that raises nothing. -/
theorem laneFlags_zero (w e : Nat) (t : Slot) (p : P) (f : Nat → Nat × Fl) (none : ∀ j, (f j).2 = 0) : laneFlags w e t p f = 0 := by
  rw [laneFlags]
  generalize (List.range (w / e)).filter _ = js
  induction js with
  | nil => rfl
  | cons j js ih => rwa [List.foldl_cons, none, show (0 : Fl) ||| 0 = 0 from rfl]

/-! ## The rows -/

section
variable {e : Nat} (t : Slot) (a b : V)

/-- The values of a row of integer arithmetic, element by element. -/
def intLanes (bv : (n : Nat) → BitVec n → BitVec n → BitVec n) (e : Nat) (t : Slot) (a b : V) (j : Nat) : Nat × Fl :=
  ((bv e (elem t a e j) (elem t b e j)).toNat, 0)

theorem patN_lanes (op : Nat → Nat → Nat → Int) {bv : (n : Nat) → BitVec n → BitVec n → BitVec n}
    (bits : ∀ x y : BitVec e, BitVec.ofInt e (op e x.toNat y.toNat) = bv e x y) :
    (fun j => (patN e (op e (lane (t.rv a) e j) (lane (t.rv b) e j)), (0 : Fl))) = intLanes bv e t a b := by
  funext j
  rw [intLanes, ← elem_toNat, ← elem_toNat, patN_eq, bits]

/-- The values of a saturating row, element by element. -/
def satLanes (uns : Bool) (exact_ : (n : Nat) → BitVec n → BitVec n → Int) (e : Nat) (t : Slot) (a b : V) (j : Nat) : Nat × Fl :=
  let v := exact_ e (elem t a e j) (elem t b e j)
  ((BitVec.ofInt e (max (rangeOf uns e).1 (min (rangeOf uns e).2 v))).toNat,
    if (rangeOf uns e).1 ≤ v ∧ v ≤ (rangeOf uns e).2 then 0 else Fl.sat)

theorem rangeOf_le (e : Nat) (uns : Bool) : (rangeOf uns e).1 ≤ (rangeOf uns e).2 := by
  have one : ∀ k : Nat, (1 : Int) ≤ 2 ^ k := fun k => one_le_pow₀ (by decide)
  unfold rangeOf
  have := one e
  have := one (e - 1)
  split <;> dsimp only <;> omega

theorem clampN_eq (e : Nat) (uns : Bool) (v : Int) : clampN e uns v =
    ((BitVec.ofInt e (max (rangeOf uns e).1 (min (rangeOf uns e).2 v))).toNat,
      if (rangeOf uns e).1 ≤ v ∧ v ≤ (rangeOf uns e).2 then 0 else Fl.sat) := by
  have le := rangeOf_le e uns
  have bounds : clampN e uns v = if v < (rangeOf uns e).1 then (patN e (rangeOf uns e).1, Fl.sat) else
      if v > (rangeOf uns e).2 then (patN e (rangeOf uns e).2, Fl.sat) else (patN e v, 0) := by
    unfold clampN rangeOf
    cases uns <;> simp
  generalize (rangeOf uns e).1 = lo at le bounds ⊢
  generalize (rangeOf uns e).2 = hi at le bounds ⊢
  rw [bounds]
  by_cases below : v < lo
  · rw [if_pos below, if_neg (by omega), max_eq_left (by omega), patN_eq]
  · rw [if_neg below]
    by_cases above : v > hi
    · rw [if_pos above, if_neg (by omega), min_eq_left (by omega), max_eq_right le, patN_eq]
    · rw [if_neg above, if_pos (by omega), min_eq_right (by omega), max_eq_right (by omega), patN_eq]

theorem clampN_lanes (uns : Bool) (op : Nat → Nat → Int) {exact_ : (n : Nat) → BitVec n → BitVec n → Int}
    (value : ∀ x y : BitVec e, op x.toNat y.toNat = exact_ e x y) :
    (fun j => clampN e uns (op (lane (t.rv a) e j) (lane (t.rv b) e j))) = satLanes uns exact_ e t a b := by
  funext j
  rw [satLanes, clampN_eq, ← elem_toNat, ← elem_toNat, value]

end

section
variable (ty : VType) (p : P) (d a b : V) (w : Nat) (t : Slot)

/-- R192: what a row of integer arithmetic plans. -/
theorem planOf_vecIntRow {r : (VType → P → V → V → V → Instr) × ((n : Nat) → BitVec n → BitVec n → BitVec n)} (row : r ∈ vecIntRows) :
    planOf (r.1 ty p d a b) w t = some (lanePlan w ty.bits t p d (intLanes r.2 ty.bits t a b)) := by
  have pos := VType.bits_pos ty
  have plan {f g : Nat → Nat × Fl} (same : f = g) : some (lanePlan w ty.bits t p d f) = some (lanePlan w ty.bits t p d g) := same ▸ rfl
  revert r
  simp only [vecIntRows, List.forall_mem_cons, List.not_mem_nil, false_imp_iff, implies_true, and_true]
  exact ⟨plan (patN_lanes t a b laneVadd ofInt_opAdd), plan (patN_lanes t a b laneVsub ofInt_opSub),
    plan (patN_lanes t a b laneVmul ofInt_opMul), plan (patN_lanes t a b laneVmulh fun x y => ofInt_opMulh x y pos),
    plan (patN_lanes t a b laneVmulhu ofInt_opMulhu), plan (patN_lanes t a b laneVand ofInt_opAnd),
    plan (patN_lanes t a b laneVor ofInt_opOr), plan (patN_lanes t a b laneVxor ofInt_opXor),
    plan (patN_lanes t a b laneVshl ofInt_opShl), plan (patN_lanes t a b laneVshr ofInt_opShr),
    plan (patN_lanes t a b laneVsar fun x y => ofInt_opSar x y pos),
    plan (patN_lanes t a b laneVmin fun x y => (ofInt_opMin x y pos).trans (slt_min_comm x y)),
    plan (patN_lanes t a b laneVminu fun x y => (ofInt_opMinu x y).trans (ult_min_comm x y)),
    plan (patN_lanes t a b laneVmax fun x y => ofInt_opMax x y pos), plan (patN_lanes t a b laneVmaxu ofInt_opMaxu)⟩

/-- R192, R55: what a saturating row plans. -/
theorem planOf_vecSatRow {r : (VType → P → V → V → V → Instr) × Bool × ((n : Nat) → BitVec n → BitVec n → Int)} (row : r ∈ vecSatRows) :
    planOf (r.1 ty p d a b) w t = some (lanePlan w ty.bits t p d (satLanes r.2.1 r.2.2 ty.bits t a b)) := by
  have pos := VType.bits_pos ty
  have plan {f g : Nat → Nat × Fl} (same : f = g) : some (lanePlan w ty.bits t p d f) = some (lanePlan w ty.bits t p d g) := same ▸ rfl
  revert r
  simp only [vecSatRows, List.forall_mem_cons, List.not_mem_nil, false_imp_iff, implies_true, and_true]
  exact ⟨plan (clampN_lanes t a b false (fun x y => sextN ty.bits x + sextN ty.bits y) fun x y => by rw [sextN_toNat pos, sextN_toNat pos]),
    plan (clampN_lanes t a b true (fun x y => (x : Int) + y) fun _ _ => rfl),
    plan (clampN_lanes t a b false (fun x y => sextN ty.bits x - sextN ty.bits y) fun x y => by rw [sextN_toNat pos, sextN_toNat pos]),
    plan (clampN_lanes t a b true (fun x y => (x : Int) - y) fun _ _ => rfl)⟩

end

/-- The direction of a rounding field (R39, R61). -/
theorem rmFor_eq (s : State) (rm : Fin 8) : rmFor s.me rm = roundingOf s rm := by
  have lt := (s.me.flags.extractLsb' 8 2).isLt
  unfold rmFor RMode.ofField roundingOf rndMode
  generalize (s.me.flags.extractLsb' 8 2).toNat = n at lt ⊢
  interval_cases n <;> rfl

/-- R187: what a floating-point row with two sources plans. -/
theorem planOf_vecFp2Row {r : (VType → Fin 8 → P → V → V → V → Instr) × (Fmt → RMode → Nat → Nat → Nat × Fl)} (row : r ∈ vecFp2Rows)
    (ty : VType) (rm : Fin 8) (p : P) (d a b : V) (w : Nat) (s : State) : planOf (r.1 ty rm p d a b) w s.me = some
    (lanePlan w ty.bits s.me p d fun j =>
      r.2 (fmtOf ty) (roundingOf s rm) (elem s.me a ty.bits j).toNat (elem s.me b ty.bits j).toNat) := by
  simp only [elem_toNat, ← rmFor_eq]
  revert r
  simp only [vecFp2Rows, List.forall_mem_cons, List.not_mem_nil, false_imp_iff, implies_true, and_true]
  exact ⟨rfl, rfl, rfl, rfl⟩

end Sys2Proof.Machine

/-!
## Pairs (R40 to R43)

SUPPORT and the statement O23. Two plans from one register state; then the vector load as the second half.
-/

namespace Sys2Proof.Machine

theorem exec_pair {x y : Instr} {s : State} {a b : PlanRes} (hx : planOf x (Config.vecBits s.cur.core) s.me = some a)
    (hy : planOf y (Config.vecBits s.cur.core) s.me = some b) : exec (.pair x y) s = .next (s.runBoth (.pair x y) a b) := by
  change execPair x y s = _
  simp only [execPair, hx, hy]

/-- R41: of two halves without memory, fence, branch or late trap both write; nothing else changes. -/
theorem State.runBoth_regs (s : State) (i : Instr) (a b : Plan) (hk : Runs s) (mema : a.mem = none) (memb : b.mem = none)
    (latea : a.late = none) (lateb : b.late = none) (fence : a.fence = none) (next : a.next = .seq) :
    OnlyMe s (s.runBoth i (.ok a) (.ok b)) ∧
    (s.runBoth i (.ok a) (.ok b)).me = { (a.join b).commit s.me with pc := s.me.npc, st := .ready } := by
  have run : s.runBoth i (.ok a) (.ok b) = (s.modSlot s.cur.core s.cur.slot (a.join b).commit).modSlot s.cur.core s.cur.slot
      fun t => { t with pc := s.me.npc, st := .ready } := by
    simp only [State.runBoth, State.runPlan, Plan.join, mema, memb, latea, lateb, fence, next, firstTrap, Plan.ctl, State.goOn, Option.orElse]
  rw [run]
  exact ⟨OnlyMe.modMe_modMe s _ _ hk, State.me_modMe_modMe s _ _ hk⟩

/-- R43: a data fault of the vector half stops a scalar half without memory. -/
theorem State.runBoth_fault (s : State) (i : Instr) (a : Plan) (x : Trap) (mem : a.mem = none) (late : a.late = none)
    (fault : x.early = false) : s.runBoth i (.ok a) (.error x) = s.trapMe x := by
  simp only [State.runBoth, PlanRes.trap?, firstTrap, fault, Bool.false_eq_true, if_false, State.runPlan, mem, late]

/-- The flags of a pair: those of both halves join the sticky ones (R58). -/
theorem orArith_pair (f : Word) (dz : Bool) (fl : Fl) : orArith f (Fl.when dz Fl.dz ||| fl) = dzWhen dz f ||| fl.setWidth 64 := by
  have both : orArith f (Fl.when dz Fl.dz ||| fl) = f ||| (Fl.when dz Fl.dz).setWidth 64 ||| fl.setWidth 64 := by
    rw [orArith, show ∀ x : Fl, x.zeroExtend 64 = x.setWidth 64 from fun _ => rfl, BitVec.setWidth_or, BitVec.or_assoc]
  rw [both]
  cases dz
  · exact congrArg (· ||| _) BitVec.or_zero
  · rfl

/-- What a pair of a row of Table 9 and a lane-wise plan leaves. -/
theorem pair_lanes {r : IntRow} (row : r ∈ intRows) (w : Width) (d a b : G) {y : Instr} {e : Nat} {p : P} {vd : V} {f : Nat → Nat × Fl}
    {s : State} (hk : Runs s) (hy : planOf y (Config.vecBits s.cur.core) s.me = some (lanePlan (Config.vecBits s.cur.core) e s.me p vd f)) :
    ∃ t z, exec (.pair (r.reg w d a b) y) s = .next t ∧ OnlyMe s t ∧ z.toNat < 2 ^ Config.vecBits s.cur.core ∧
      t.me = { (s.me.wg d ((r.op w.bits ((s.me.rg a).setWidth w.bits) ((s.me.rg b).setWidth w.bits)).signExtend 64)).wv vd z with
        flags := dzWhen (r.divides && (s.me.rg b).setWidth w.bits == 0) s.me.flags |||
          (raised s e p fun j => (f j).2).setWidth 64
        pc := s.me.npc, st := .ready } ∧
      ∀ j < Config.vecBits s.cur.core / e,
        lane z e j = if active (s.me.rp (Config.vecBits s.cur.core) p) e j then (f j).1 % 2 ^ e else lane (s.me.rv vd) e j := by
  have le := vecBits_le s.cur.core
  rw [lanePlan_eq] at hy
  obtain ⟨only, me⟩ := State.runBoth_regs s (.pair (r.reg w d a b) y) (intRowPlan r.op r.divides w d a b s.me)
    { writes := [.v vd (laneResult (Config.vecBits s.cur.core) e s.me p vd f)], fl := laneFlags (Config.vecBits s.cur.core) e s.me p f }
    hk rfl rfl rfl rfl rfl rfl
  refine ⟨_, laneResult (Config.vecBits s.cur.core) e s.me p vd f, exec_pair (planOf_intRow row w d a b _ _) hy, only,
    laneResult_lt _ _ _ _ le, me.trans ?_, fun j lt => lane_laneResult _ _ _ _ le lt⟩
  rw [raised, ← laneFlags, ← orArith_pair]
  rfl

/-! ### Vector accesses to the own slice (R90, R94, R97, R205, R207) -/

theorem segAddr_ok {sg : BitVec 128} {off : Int} {n al : Nat} {need : Nat → Nat} {reg : Bool} {a : Word}
    (h : segAddr sg off n al need reg = .ok a) : a = ofInt (segBase sg + off) := by
  unfold segAddr at h
  dsimp only at h
  split_ifs at h
  exact (Except.ok.inj h).symm

/-- Element j's unit: its place is cell c j, at offset `off j` of the segment. -/
def unitAt (sg : BitVec 128) (off : Nat → Int) (c : Nat → Nat) (n j : Nat) : AUnit := ⟨j, ofInt (segBase sg + off j), c j, n⟩

/-- THE CHECKS of an access of elements in the own slice: they pass, and change nothing. -/
theorem State.checkAsk_elems (s : State) (ask : MemAsk) {js : List Nat} {off : Nat → Int} {c : Nat → Nat}
    (elems : ask.elems = js.map fun j => (j, off j)) (al : ask.al = ask.n) (posted : ask.posted = false)
    (reach : ∀ j ∈ js, Reaches s ask.sg (off j) ask.n ask.op ask.reg (c j) ∧ InOwnSlice s ask.op.kind (c j)) :
    s.checkAsk s.cur.core s.cur.slot ask = (s, .ok
      { op := ask.op, done := ask.done, units := js.map (unitAt ask.sg off c ask.n), ord := ask.ord, posted := false }) := by
  have one {j : Nat} (mem : j ∈ js) : s.askUnit (s.agent s.cur.core s.cur.slot) ask (j, off j) =
      (s, .ok (unitAt ask.sg off c ask.n j)) := by
    obtain ⟨⟨a, addr, space⟩, own⟩ := reach j mem
    have target : s.targetCheck s.cur.core (s.slot s.cur.core s.cur.slot).tag ask.op.kind (c j) ask.n = none := own.target _
    have place := State.askPlace_cell s _ ask (off j) a _ (by rw [al]; exact addr) space
    simp [State.askUnit, place, State.placeCell, State.ownCheck, isLocal, own.own, target, unitAt, ← segAddr_ok addr]
  have all : s.askUnits (s.agent s.cur.core s.cur.slot) ask (js.map fun j => (j, off j)) =
      (s, .ok (js.map (unitAt ask.sg off c ask.n))) := by
    clear elems reach
    induction js with
    | nil => rfl
    | cons j js ih =>
      rw [List.map_cons, State.askUnits, one (by simp)]
      simp only [ih fun mem => one (List.mem_cons_of_mem _ mem), Except.map, List.map_cons]
  simp only [State.checkAsk, elems, all, posted, Bool.false_and]

/-- The slot with the bank accesses of a new instruction. -/
def Slot.uses (t : Slot) (b : BankUse) : Slot := { t with banks := b }

/-- The slot of a thread that goes on. -/
def Slot.resumes (t : Slot) (pc : Word) : Slot := { t with pc := pc, st := .ready }

/-- The units that an instruction performs at its issue: those that need no bank again. -/
def atOnce (clk : Nat) (r : MemReq) : List AUnit := r.units.filter fun u => !(bankUse clk r r.units true).left.contains u

/-- THE ACCESS ITSELF, for a vector load of units in the own tile: those that need no bank again are loaded at once, the others are left. -/
theorem State.startAccess_load (s : State) {k : Nat} (r : MemReq) (undo : List RegWrite) (pc : Word) {d : V} {e : Nat}
    (op : r.op = .load) (done : r.done = .lanes d e) (posted : r.posted = false) (own : ∀ u ∈ r.units, s.homeOf u.cell = s.cur.core)
    (sound : ∀ u ∈ r.units, (s.line u.cell).sound = true) (hk : k < 16) :
    OnlySlot s (s.startAccess s.cur.core k r undo (.go pc) []) s.cur.core k ∧
    (s.startAccess s.cur.core k r undo (.go pc) []).slot s.cur.core k =
      ((((s.slot s.cur.core k).uses (bankUse s.clk r r.units true)).wv d (putLanes ((s.slot s.cur.core k).rv d) e
        ((atOnce s.clk r).map fun u => (u.idx, s.readN u.cell u.n)))).resumes pc) := by
  have here : (r.units.filter fun u => isLocal s.cur.core (s.homeOf u.cell)) = r.units :=
    List.filter_eq_self.2 fun u mem => by simp [isLocal, own u mem]
  have away : (r.units.filter fun u => !isLocal s.cur.core (s.homeOf u.cell)) = [] :=
    List.filter_eq_nil_iff.2 fun u mem => by simp [isLocal, own u mem]
  have load : s.performAll r.op (r.units.filter fun u => !(bankUse s.clk r r.units true).left.contains u) = _ :=
    op ▸ State.performAll_load s (atOnce s.clk r) fun u mem => sound u (List.mem_of_mem_filter mem)
  have home : r.op.atHome = false := by rw [op]; rfl
  have run : s.startAccess s.cur.core k r undo (.go pc) [] = ((s.modSlot s.cur.core k (·.uses (bankUse s.clk r r.units true))).modSlot
      s.cur.core k (·.applyAll [.v d (putLanes ((s.slot s.cur.core k).rv d) e ((atOnce s.clk r).map fun u => (u.idx, s.readN u.cell u.n)))])).modSlot
      s.cur.core k (·.resumes pc) := by
    simp only [State.startAccess, here, away, posted, home, load, done, Done.writes, firstRefusal, List.foldl_nil, List.isEmpty_nil,
      Bool.not_true, Bool.false_and, Bool.and_false, Bool.true_or, Bool.false_eq_true, if_false, if_true, State.goOn,
      State.slot_modSlot_same _ _ _ _ hk, Slot.rv, Slot.uses, Slot.resumes]
  rw [run]
  refine ⟨((OnlySlot.modSlot _ _ _ _ hk).trans (OnlySlot.modSlot _ _ _ _ hk)).trans (OnlySlot.modSlot _ _ _ _ hk), ?_⟩
  rw [State.slot_modSlot_same _ _ _ _ hk, State.slot_modSlot_same _ _ _ _ hk, State.slot_modSlot_same _ _ _ _ hk]
  rfl

/-- R97: the units that need their bank again, by the statements' `again`. -/
theorem laterUnits_map (sg : BitVec 128) (off : Nat → Int) (c : Nat → Nat) (n : Nat) (js : List Nat) :
    laterUnits (js.map (unitAt sg off c n)) = (js.filter (again js c)).map (unitAt sg off c n) := by
  rw [laterUnits, List.filter_map]
  congr 1
  refine List.filter_congr fun j _ => ?_
  simp only [Function.comp_apply, List.find?_map, Option.any_map, AUnit.bank_eq, AUnit.sameRow, again]
  rfl

theorem bankUse_left (clk : Nat) (r : MemReq) (us : List AUnit) (op : r.op = .load) :
    (bankUse clk r us true).left = laterUnits us ∧
    ((bankUse clk r us true).left ≠ [] → (bankUse clk r us true).op = .load ∧ (bankUse clk r us true).done = r.done) := by
  have splits : r.op.splits = true := by rw [op]; rfl
  unfold bankUse
  simp only [splits, Bool.and_self, if_true]
  cases left : laterUnits us with
  | nil => simp
  | cons u us => simp [op]

/-- R41, R118: a pair whose second half alone accesses memory, its checks having passed: both halves commit and the access starts. A release is
at once a fence where the touched mask is zero. -/
theorem State.runBoth_access (s : State) (i : Instr) (a : Plan) (ask : MemAsk) (release : Option Scope) (r : MemReq) (mem : a.mem = none)
    (late : a.late = none) (first : a.release = none) (next : a.next = .seq)
    (checks : s.checkAsk s.cur.core s.cur.slot ask = (s, .ok r)) (plain : ∀ u ∈ r.units, u.cell / 2 ^ 60 ≠ 7)
    (fenced : release = none ∨ s.me.touched = 0) : ∃ undo,
    s.runBoth i (.ok a) (.ok { mem := some ask, release }) =
      (s.modSlot s.cur.core s.cur.slot (a.join { mem := some ask, release }).commit).startAccess s.cur.core s.cur.slot r undo (.go s.me.npc) [] := by
  have noReg : (r.units.any fun u => u.cell / 2 ^ 60 == 7) = false := by
    rw [List.any_eq_false]
    intro u has
    simpa using plain u has
  have npc : (s.slot s.cur.core s.cur.slot).npc = s.me.npc := rfl
  refine ⟨(a.join { mem := some ask, release }).undo (s.slot s.cur.core s.cur.slot), ?_⟩
  cases release with
  | none =>
    simp only [State.runBoth, State.runPlan, Plan.join, mem, late, first, next, firstTrap, checks, noReg, Option.orElse, Plan.ctl, npc,
      Bool.false_eq_true, if_false]
  | some sc =>
    have zero : (s.me.touched == 0) = true := by simpa using fenced
    simp only [State.runBoth, State.runPlan, Plan.join, mem, late, first, next, firstTrap, checks, Option.orElse, Plan.ctl, npc,
      State.fenceThen, zero, if_true]

section
variable {s : State} {ty : VType} {p : P} {sg : S} {vd : V} {ga : G} {m : Mem} {c : Nat → Nat}

/-- Offset of element j of a VLD (R205). -/
def vldOffset (s : State) (ty : VType) (ga : G) (m : Mem) (j : Nat) : Int :=
  (s.me.rg ga + BitVec.ofInt 64 m.disp.val + BitVec.ofNat 64 (j * (ty.bits / 8))).toInt

theorem laneOffset_eq (s : State) (ty : VType) (ga : G) (m : Mem) (j : Nat) : laneOffset s.me ga m ty.bits j = vldOffset s ty ga m j := by
  rw [laneOffset, memOffset, vldOffset, ofInt, BitVec.ofInt_natCast, BitVec.add_assoc, BitVec.add_comm (BitVec.ofNat _ _), ← BitVec.add_assoc]
  rfl

/-- What VLD asks of memory. -/
def vldAsk (s : State) (ty : VType) (p : P) (sg : S) (vd : V) (ga : G) (m : Mem) : MemAsk :=
  { op := .load, done := .lanes vd ty.bits, sg := s.me.s[sg], elems := (activeOf s ty.bits p).map fun j => (j, vldOffset s ty ga m j)
    n := ty.bits / 8, al := ty.bits / 8, reg := false, posted := false, ord := m.ord != .plain }

theorem planOf_vld : planOf (.vld ty p sg vd ga m) (Config.vecBits s.cur.core) s.me =
    some (.ok { mem := some (vldAsk s ty p sg vd ga m), release := memRelease m }) := by
  change some (planVld ty p sg vd ga m _ _) = _
  simp only [planVld, vecAccess, vldAsk, laneOffset_eq]
  rfl

/-- The lanes that a VLD in the own slice loads at its issue. -/
def vldResult (s : State) (ty : VType) (p : P) (vd : V) (c : Nat → Nat) : BitVec 2048 :=
  putLanes (s.me.rv vd) ty.bits
    (((activeOf s ty.bits p).filter fun j => !again (activeOf s ty.bits p) c j).map fun j => (j, s.readN (c j) (ty.bits / 8)))

theorem lane_vldResult {j : Nat} (lt : j < 2048 / ty.bits) : lane (vldResult s ty p vd c) ty.bits j =
    if j ∈ activeOf s ty.bits p ∧ again (activeOf s ty.bits p) c j = false then s.readN (c j) (ty.bits / 8)
    else lane (s.me.rv vd) ty.bits j := by
  have bytes : 8 * (ty.bits / 8) = ty.bits := by cases ty <;> rfl
  split
  next loaded =>
    have bound := s.readN_lt (c j) (ty.bits / 8)
    rw [show 256 = 2 ^ 8 from rfl, ← Nat.pow_mul, bytes] at bound
    have nodup : (activeOf s ty.bits p).Nodup := List.nodup_range.filter _
    have mem : (j, s.readN (c j) (ty.bits / 8)) ∈ ((activeOf s ty.bits p).filter fun j => !again (activeOf s ty.bits p) c j).map
        fun j => (j, s.readN (c j) (ty.bits / 8)) :=
      List.mem_map_of_mem (f := fun j => (j, s.readN (c j) (ty.bits / 8))) (List.mem_filter.2 ⟨loaded.1, by simp [loaded.2]⟩)
    rw [vldResult, lane_putLanes_some (r := (j, s.readN (c j) (ty.bits / 8))) _ mem lt, Nat.mod_eq_of_lt bound]
    simpa [Function.comp_def] using nodup.filter _
  next kept =>
    refine lane_putLanes_none _ lt fun r mem same => kept ?_
    obtain ⟨i, has, rfl⟩ := List.mem_map.1 mem
    obtain ⟨active, first⟩ := List.mem_filter.1 has
    exact same ▸ ⟨active, by simpa using first⟩

theorem filter_not_contains_map {α β : Type} [BEq β] [LawfulBEq β] {f : α → β} (inj : Function.Injective f) (q : α → Bool) (xs : List α) :
    ((xs.map f).filter fun y => !((xs.filter q).map f).contains y) = (xs.filter fun x => !q x).map f := by
  rw [List.filter_map]
  congr 1
  refine List.filter_congr fun x mem => ?_
  have has : ((xs.filter q).map f).contains (f x) = q x := by
    rw [Bool.eq_iff_iff, List.contains_iff_mem, List.mem_map_of_injective inj, List.mem_filter]
    exact and_iff_right mem
  exact congrArg not has

theorem unitAt_injective (sg : BitVec 128) (off : Nat → Int) (c : Nat → Nat) (n : Nat) : Function.Injective (unitAt sg off c n) :=
  fun _ _ same => congrArg AUnit.idx same

/-- R97: what a load leaves of its elements, and what it performs at once. -/
theorem load_units (clk : Nat) {r : MemReq} {off : Nat → Int} {seg : BitVec 128} {n : Nat} {js : List Nat} (op : r.op = .load)
    (units : r.units = js.map (unitAt seg off c n)) :
    (bankUse clk r r.units true).left = (js.filter (again js c)).map (unitAt seg off c n) ∧
    atOnce clk r = (js.filter fun j => !again js c j).map (unitAt seg off c n) := by
  have left : (bankUse clk r r.units true).left = (js.filter (again js c)).map (unitAt seg off c n) := by
    rw [(bankUse_left clk r r.units op).1, units, laterUnits_map]
  refine ⟨left, ?_⟩
  rw [atOnce, left, units, filter_not_contains_map (unitAt_injective _ _ _ _)]

/-- What a row of Table 9 commits beside an access. -/
theorem intRowPlan_commit (bv : (n : Nat) → BitVec n → BitVec n → BitVec n) (divides : Bool) (w : Width) (d a b : G) (t : Slot) (y : Plan)
    (writes : y.writes = []) (flags : y.fl = 0) : ((intRowPlan bv divides w d a b t).join y).commit t =
    { t.wg d ((bv w.bits ((t.rg a).setWidth w.bits) ((t.rg b).setWidth w.bits)).signExtend 64) with
      flags := dzWhen (divides && (t.rg b).setWidth w.bits == 0) t.flags ||| (0 : Fl).setWidth 64 } := by
  rw [← orArith_pair]
  simp only [Plan.commit, Plan.join, writes, flags, Plan.flagsAfter]
  rfl

theorem rv_wg (t : Slot) (d : G) (x f : Word) (v : V) : ({ t.wg d x with flags := f } : Slot).rv v = t.rv v := by
  rw [Slot.rv, Slot.rv, Slot.wg]
  split <;> rfl

/-- The pair of a row of Table 9 and a VLD whose active elements lie in the own slice (R41, R97). -/
theorem pair_vld {r : IntRow} (row : r ∈ intRows) (w : Width) (d a b : G) (hk : Runs s) (fenced : memRelease m = none ∨ s.me.touched = 0)
    (reach : ∀ j ∈ activeOf s ty.bits p,
      Reaches s s.me.s[sg] (vldOffset s ty ga m j) (ty.bits / 8) .load false (c j) ∧ InOwnSlice s .read (c j)) :
    ∃ t, exec (.pair (r.reg w d a b) (.vld ty p sg vd ga m)) s = .next t ∧ OnlyMe s t ∧
      t.me = { (s.me.wg d ((r.op w.bits ((s.me.rg a).setWidth w.bits) ((s.me.rg b).setWidth w.bits)).signExtend 64)).wv vd
          (vldResult s ty p vd c) with
        flags := dzWhen (r.divides && (s.me.rg b).setWidth w.bits == 0) s.me.flags ||| (0 : Fl).setWidth 64
        pc := s.me.npc, st := .ready, banks := t.me.banks } ∧
      Leaves t.me.banks (activeOf s ty.bits p) c (ty.bits / 8) .load (.lanes vd ty.bits) := by
  let us := (activeOf s ty.bits p).map (unitAt s.me.s[sg] (vldOffset s ty ga m) c (ty.bits / 8))
  let req : MemReq := { op := .load, done := .lanes vd ty.bits, units := us, ord := m.ord != .plain, posted := false }
  have checks : s.checkAsk s.cur.core s.cur.slot (vldAsk s ty p sg vd ga m) = (s, .ok req) :=
    State.checkAsk_elems s (vldAsk s ty p sg vd ga m) rfl rfl rfl reach
  have own {u : AUnit} (mem : u ∈ us) : InOwnSlice s .read u.cell := by
    obtain ⟨j, active, rfl⟩ := List.mem_map.1 mem
    exact (reach j active).2
  obtain ⟨undo, run⟩ := State.runBoth_access s (.pair (r.reg w d a b) (.vld ty p sg vd ga m)) (intRowPlan r.op r.divides w d a b s.me)
    (vldAsk s ty p sg vd ga m) (memRelease m) req rfl rfl rfl rfl checks
    (fun u mem => State.own_not_reg (own mem).own (lt_trans (own mem).core (by decide))) fenced
  obtain ⟨left, once⟩ := load_units (c := c) s.clk (r := req) rfl rfl
  -- the access starts where the integer result and the flags stand
  have committed := intRowPlan_commit r.op r.divides w d a b s.me { mem := some (vldAsk s ty p sg vd ga m), release := memRelease m } rfl rfl
  generalize (Plan.commit _ : Slot → Slot) = f at run committed
  have me : (s.modSlot s.cur.core s.cur.slot f).slot s.cur.core s.cur.slot = f s.me := State.slot_modSlot_same _ _ _ _ hk
  have results : ((atOnce s.clk req).map fun u => (u.idx, (s.modSlot s.cur.core s.cur.slot f).readN u.cell u.n)) =
      ((activeOf s ty.bits p).filter fun j => !again (activeOf s ty.bits p) c j).map fun j => (j, s.readN (c j) (ty.bits / 8)) := by
    rw [once, List.map_map]
    exact List.map_congr_left fun j _ =>
      congrArg (Prod.mk j) (State.readN_of_mem (x := s.modSlot s.cur.core s.cur.slot f) (s := s) rfl _ _)
  obtain ⟨only, slot⟩ := State.startAccess_load (s.modSlot s.cur.core s.cur.slot f) (k := s.cur.slot) req undo s.me.npc rfl rfl rfl
    (fun u mem => (own mem).own) (fun u mem => (own mem).clean) hk
  change OnlySlot _ ((s.modSlot s.cur.core s.cur.slot f).startAccess s.cur.core s.cur.slot req undo (.go s.me.npc) []) s.cur.core s.cur.slot at only
  change ((s.modSlot s.cur.core s.cur.slot f).startAccess s.cur.core s.cur.slot req undo (.go s.me.npc) []).slot s.cur.core s.cur.slot =
    ((((s.modSlot s.cur.core s.cur.slot f).slot s.cur.core s.cur.slot).uses (bankUse s.clk req us true)).wv vd (putLanes
      (((s.modSlot s.cur.core s.cur.slot f).slot s.cur.core s.cur.slot).rv vd) ty.bits ((atOnce s.clk req).map
        fun u => (u.idx, (s.modSlot s.cur.core s.cur.slot f).readN u.cell u.n)))).resumes s.me.npc at slot
  rw [results, me, committed, rv_wg, ← vldResult] at slot
  generalize (s.modSlot s.cur.core s.cur.slot f).startAccess s.cur.core s.cur.slot req undo (.go s.me.npc) [] = t at run only slot
  have here : t.me = t.slot s.cur.core s.cur.slot := by rw [State.me, only.cur]; rfl
  refine ⟨t, (exec_pair (planOf_intRow row w d a b _ _) planOf_vld).trans (congrArg _ run), (OnlySlot.modSlot _ _ _ _ hk).trans only, ?_, ?_⟩
  · rw [here, slot]
    rfl
  · have banks : t.me.banks = bankUse s.clk req us true := by rw [here, slot]; rfl
    rw [banks]
    refine ⟨?_, (bankUse_left s.clk req us rfl).2⟩
    rw [left, List.map_map]
    rfl

end

/-- R43: a block scale outside −127 to 127 traps at the pair, and neither half writes. -/
theorem pair_vqlns_fault {r : IntRow} (row : r ∈ intRows) (w : Width) (d a b : G) (part : Fin 8) (p : P) (vd va : V) {s : State} (hk : Runs s)
    (scale : ¬ (-127 ≤ (s.me.rg a).toInt ∧ (s.me.rg a).toInt ≤ 127)) (takes : s.me.takesTraps) :
    ∃ t, exec (.pair (r.reg w d a b) (.vqlns part p vd va a)) s = .next t ∧ OnlyMe s t ∧ t.me = s.me.trapped 0x0A 0x03 0 s.me.pc false := by
  have operand : scaleOperand (s.me.rg a) = .error ⟨6, cData, 0x03, 0⟩ := if_pos (by
    simp only [Bool.or_eq_true, decide_eq_true_eq]
    omega)
  have plan : planOf (.vqlns part p vd va a) (Config.vecBits s.cur.core) s.me = some (.error ⟨6, cData, 0x03, 0⟩) := by
    change some (planVqlns part p vd va a _ _) = _
    simp only [planVqlns, operand]
  have trap : s.trapMe ⟨6, cData, 0x03, 0⟩ = s.modSlot s.cur.core s.cur.slot fun t => t.trapped 0x0A 0x03 0 s.me.pc false :=
    State.trapEnter_takes s 0 s.me.pc false takes (by decide) (by decide)
  refine ⟨_, exec_pair (planOf_intRow row w d a b _ _) plan, ?_⟩
  rw [State.runBoth_fault _ _ _ _ rfl rfl rfl, trap]
  exact ⟨OnlyMe.modMe s _ hk, State.me_modMe s _ hk⟩

/-- Settles O23: every second half without memory is a lane-wise plan (`pair_lanes`); the VLD of the own slice performs or leaves its elements
(`pair_vld`); the VQLNS that faults stops both halves (`pair_vqlns_fault`). -/
theorem pairs : Obligations.Pairs := by
  intro r row w _ ty p d a b ga part rm vd va vb sg m c s hk x y vw e f vx vy after both
  -- a lane-wise half with these elements and flags
  have lanes {i : Instr} {g : Nat → Nat × Fl} {res : Nat → Nat} {fl : Fl} (plan : planOf i vw s.me = some (lanePlan vw e s.me p vd g))
      (values : ∀ j, (g j).1 % 2 ^ e = res j % 2 ^ e) (flags : raised s e p (fun j => (g j).2) = fl) : both i res fl := by
    obtain ⟨t, z, run, only, lt, me, elems⟩ := pair_lanes row w d a b hk plan
    rw [flags] at me
    exact ⟨t, z, run, only, lt, me, fun j hj => by rw [elems j hj, values]⟩
  have nothing {g : Nat → Nat × Fl} (none : ∀ j, (g j).2 = 0) : raised s e p (fun j => (g j).2) = 0 := laneFlags_zero vw e s.me p g none
  refine ⟨fun _ => ⟨fun q mem => ?_, fun q mem => ?_⟩, fun _ _ q mem => ?_, fun _ => ⟨?_, ?_, fun fenced reach => ?_⟩, fun scale takes => ?_⟩
  · exact lanes (planOf_vecIntRow ty p vd va vb vw s.me mem) (fun _ => rfl) (nothing fun _ => rfl)
  · exact lanes (planOf_vecSatRow ty p vd va vb vw s.me mem) (fun _ => rfl) rfl
  · exact lanes (planOf_vecFp2Row mem ty rm p vd va vb vw s) (fun _ => rfl) rfl
  · exact lanes (g := fun _ => ((s.me.rg ga).toNat % 2 ^ e, 0)) rfl (fun _ => Nat.mod_mod _ _) (nothing fun _ => rfl)
  · refine lanes (g := fun j => (if 0 ≤ (s.me.rg ga).toInt + j && (s.me.rg ga).toInt + j < (vw / e : Nat)
      then lane (s.me.rv va) e ((s.me.rg ga).toInt + j).toNat else 0, 0)) rfl (fun j => ?_) (nothing fun _ => rfl)
    simp only [Bool.and_eq_true, decide_eq_true_eq]
  · obtain ⟨t, run, only, me, leaves⟩ := pair_vld row w d a b hk fenced reach
    exact ⟨t, vldResult s ty p vd c, run, only, me, fun j lt => lane_vldResult lt, leaves⟩
  · exact pair_vqlns_fault row w d a b part p vd va hk scale takes

end Sys2Proof.Machine

/-!
THE ONE ROUNDING OF A FLOATING-POINT RESULT (R57). The model rounds a magnitude m × 2^e, with the news whether more lies below it. What it
gives is shown here to be the rounding of a real number: of m × 2^e itself, or of every number between m and m + 1 units (`roundPack_eq_rounded`). A
pattern without its sign stands for the value `Fmt.mag` of it, increasing from pattern to pattern.
-/
namespace Sys2Proof.Machine

/-! ## The values of a format's magnitudes -/

section
variable (f : Fmt)

/-- The exponent of the last place of the subnormal values. -/
def Fmt.low : Int := 1 - (f.bias : Int) - f.fbits

/-- The value of the pattern p without its sign, as if the format had an exponent field of any size: the values of two neighbours are one
place apart, and the pattern of ∞ stands for the value one place beyond the greatest finite one. -/
noncomputable def Fmt.mag (p : Nat) : ℝ :=
  if p < 2 ^ f.fbits then p * (2 : ℝ) ^ f.low else ((2 ^ f.fbits + p % 2 ^ f.fbits : Nat) : ℝ) * (2 : ℝ) ^ (f.low + (p / 2 ^ f.fbits : Nat) - 1)

/-- Exponent and significand of a pattern: a significand below the normal ones comes with the lowest exponent alone. -/
theorem Fmt.exists_places (p : Nat) : ∃ k sig, p = k * 2 ^ f.fbits + sig ∧ sig < 2 ^ (f.fbits + 1) ∧ (k = 0 ∨ 2 ^ f.fbits ≤ sig) := by
  by_cases h : p < 2 ^ f.fbits
  · exact ⟨0, p, by simp, by rw [pow_succ]; omega, .inl rfl⟩
  · have pos : 0 < 2 ^ f.fbits := Nat.two_pow_pos _
    have whole := Nat.div_add_mod p (2 ^ f.fbits)
    have once : 1 ≤ p / 2 ^ f.fbits := (Nat.one_le_div_iff pos).2 (not_lt.1 h)
    have rem := Nat.mod_lt p pos
    refine ⟨p / 2 ^ f.fbits - 1, 2 ^ f.fbits + p % 2 ^ f.fbits, ?_, by rw [pow_succ]; omega, .inr (Nat.le_add_right _ _)⟩
    obtain ⟨j, hj⟩ := Nat.exists_eq_add_of_le once
    rw [hj] at whole ⊢
    rw [Nat.add_sub_cancel_left]
    linarith [Nat.mul_add (2 ^ f.fbits) 1 j, Nat.mul_comm j (2 ^ f.fbits)]

/-- The value of a pattern by its exponent and significand; the significand may be that of the next exponent's least value. -/
theorem Fmt.mag_places {k sig : Nat} (top : sig ≤ 2 ^ (f.fbits + 1)) (low : k = 0 ∨ 2 ^ f.fbits ≤ sig) :
    f.mag (k * 2 ^ f.fbits + sig) = sig * (2 : ℝ) ^ (f.low + k) := by
  have pos : 0 < 2 ^ f.fbits := Nat.two_pow_pos _
  have two : (2 : ℝ) ≠ 0 := two_ne_zero
  unfold Fmt.mag
  by_cases h : sig < 2 ^ f.fbits
  · obtain rfl : k = 0 := low.resolve_right (not_le.2 h)
    simp [h]
  · obtain ⟨r, rfl⟩ := Nat.exists_eq_add_of_le (not_lt.1 h)
    rw [if_neg (by nlinarith [Nat.zero_le (k * 2 ^ f.fbits)])]
    have shape : k * 2 ^ f.fbits + (2 ^ f.fbits + r) = r + 2 ^ f.fbits * (k + 1) := by ring
    rw [shape, Nat.add_mul_mod_self_left, Nat.add_mul_div_left _ _ pos]
    by_cases last : r = 2 ^ f.fbits
    · subst last
      rw [Nat.mod_self, Nat.div_self pos]
      push_cast
      rw [show f.low + (1 + ((k : Int) + 1)) - 1 = f.low + k + 1 by ring, zpow_add_one₀ two]
      ring
    · have small : r < 2 ^ f.fbits := by rw [pow_succ] at top; omega
      rw [Nat.mod_eq_of_lt small, Nat.div_eq_of_lt small]
      push_cast
      rw [show f.low + (0 + ((k : Int) + 1)) - 1 = f.low + k by ring]

theorem Fmt.mag_strictMono : StrictMono f.mag := by
  refine strictMono_nat_of_lt_succ fun p => ?_
  obtain ⟨k, sig, rfl, top, low⟩ := f.exists_places p
  rw [f.mag_places top.le low, Nat.add_assoc, f.mag_places top (low.imp_right (Nat.le_succ_of_le ·))]
  push_cast
  have : (0 : ℝ) < 2 ^ (f.low + k) := by positivity
  nlinarith

@[simp] theorem Fmt.mag_zero : f.mag 0 = 0 := by simp [Fmt.mag]

theorem Fmt.mag_nonneg (p : Nat) : 0 ≤ f.mag p := by
  simpa using f.mag_strictMono.monotone (Nat.zero_le p)

end

/-! ## Rounding of real numbers -/

/-- A nonnegative number rounded to an integer in a direction (R57, R61). -/
noncomputable def roundReal (d : RMode) (y : ℝ) : Nat :=
  match d with
  | .rtz | .rdn => ⌊y⌋₊
  | .rup => ⌈y⌉₊
  | .rne => if 2 * y < 2 * ⌊y⌋₊ + 1 then ⌊y⌋₊ else if 2 * ⌊y⌋₊ + 1 < 2 * y then ⌊y⌋₊ + 1 else if ⌊y⌋₊ % 2 = 0 then ⌊y⌋₊ else ⌊y⌋₊ + 1

/-- The direction in which the magnitude of a number of the given sign is rounded. -/
def RMode.ofMag (d : RMode) (neg : Bool) : RMode :=
  match d, neg with
  | .rup, true => .rdn
  | .rdn, true => .rup
  | d, _ => d

@[simp] theorem roundReal_natCast (d : RMode) (n : Nat) : roundReal d n = n := by
  cases d <;> simp [roundReal]

/-- A direction raises the integer `sig` where the rest ρ, 0 ≤ ρ < 1, lies above it. -/
def Raises (d : RMode) (sig : Nat) (ρ : ℝ) : Prop :=
  match d with
  | .rtz | .rdn => False
  | .rup => 0 < ρ
  | .rne => 1 < 2 * ρ ∨ 2 * ρ = 1 ∧ sig % 2 = 1

theorem floor_add_rest {sig : Nat} {ρ : ℝ} (nonneg : 0 ≤ ρ) (lt : ρ < 1) : ⌊(sig : ℝ) + ρ⌋₊ = sig := by
  rw [Nat.floor_eq_iff (by positivity)]
  constructor <;> linarith

theorem roundReal_raised {d : RMode} {sig : Nat} {ρ : ℝ} (nonneg : 0 ≤ ρ) (lt : ρ < 1) (h : Raises d sig ρ) :
    roundReal d (sig + ρ) = sig + 1 := by
  have floor := floor_add_rest (sig := sig) nonneg lt
  cases d with
  | rtz | rdn => exact h.elim
  | rup =>
    have pos : 0 < ρ := h
    simp only [roundReal]
    rw [Nat.ceil_eq_iff (Nat.succ_ne_zero _)]
    push_cast
    constructor <;> linarith
  | rne =>
    simp only [roundReal, floor]
    rcases (h : 1 < 2 * ρ ∨ 2 * ρ = 1 ∧ sig % 2 = 1) with h | ⟨h, odd⟩
    · rw [if_neg (by linarith), if_pos (by linarith)]
    · rw [if_neg (by linarith), if_neg (by linarith), if_neg (by omega)]

theorem roundReal_kept {d : RMode} {sig : Nat} {ρ : ℝ} (nonneg : 0 ≤ ρ) (lt : ρ < 1) (h : ¬Raises d sig ρ) : roundReal d (sig + ρ) = sig := by
  have floor := floor_add_rest (sig := sig) nonneg lt
  cases d with
  | rtz | rdn => exact floor
  | rup =>
    have zero : ρ = 0 := le_antisymm (not_lt.1 h) nonneg
    simp [roundReal, zero]
  | rne =>
    obtain ⟨notAbove, notTie⟩ := not_or.1 (h : ¬(1 < 2 * ρ ∨ 2 * ρ = 1 ∧ sig % 2 = 1))
    simp only [roundReal, floor]
    rcases (not_lt.1 notAbove).lt_or_eq with h | h
    · rw [if_pos (by linarith)]
    · rw [if_neg (by linarith), if_neg (by linarith), if_pos (by have := not_and.1 notTie h; omega)]

theorem roundUp_ofMag (d : RMode) (neg odd : Bool) (rem sh : Nat) (sticky : Bool) :
    roundUp d neg odd rem sh sticky = roundUp (d.ofMag neg) false odd rem sh sticky := by
  cases d <;> cases neg <;> simp [roundUp, RMode.ofMag]

theorem roundTo_ofMag (d : RMode) (neg : Bool) (m : Nat) (e : Int) (sticky : Bool) (q : Int) :
    roundTo d neg m e sticky q = roundTo (d.ofMag neg) false m e sticky q := by
  simp only [roundTo, roundUp_ofMag d neg]

/-- A magnitude that is truncated by sh bits has a rest above 0 where bits are lost or more lies below them. -/
theorem rest_pos_iff {rem sh : Nat} {sticky : Bool} {δ : ℝ} (above : 0 ≤ δ) (news : sticky = true ↔ δ ≠ 0) :
    ((rem != 0 || sticky) = true) ↔ 0 < (rem + δ) / ((2 ^ sh : Nat) : ℝ) := by
  have posR : (0 : ℝ) < ((2 ^ sh : Nat) : ℝ) := by exact_mod_cast Nat.two_pow_pos sh
  rw [lt_div_iff₀ posR, zero_mul, Bool.or_eq_true, bne_iff_ne, news]
  constructor
  · rintro (h | h)
    · have : (0 : ℝ) < rem := by exact_mod_cast Nat.pos_of_ne_zero h
      linarith
    · have : 0 < δ := lt_of_le_of_ne above (Ne.symm h)
      positivity
  · intro pos
    by_contra none
    obtain ⟨rfl, rfl⟩ : rem = 0 ∧ δ = 0 := by simpa [not_or] using none
    simp at pos

/-- R57: the model raises a truncated magnitude exactly where the direction raises the real number. -/
theorem roundUp_iff (d : RMode) {odd : Bool} {sig rem sh : Nat} {sticky : Bool} {δ : ℝ} (parity : odd = (sig % 2 == 1)) (shpos : 0 < sh) (above : 0 ≤ δ) (below : δ < 1)
    (news : sticky = true ↔ δ ≠ 0) : roundUp d false odd rem sh sticky = true ↔ Raises d sig ((rem + δ) / ((2 ^ sh : Nat) : ℝ)) := by
  cases d with
  | rtz | rdn => simp [roundUp, Raises]
  | rup => simp only [roundUp, Raises, Bool.not_false, Bool.and_true, rest_pos_iff above news (sh := sh)]
  | rne =>
    have half : ((2 ^ sh : Nat) : ℝ) = 2 * ((2 ^ (sh - 1) : Nat) : ℝ) := by
      exact_mod_cast (Nat.pow_pred_mul shpos).symm.trans (Nat.mul_comm _ _)
    have halfPos : (0 : ℝ) < ((2 ^ (sh - 1) : Nat) : ℝ) := by exact_mod_cast Nat.two_pow_pos _
    have ratio : 2 * ((rem + δ) / ((2 ^ sh : Nat) : ℝ)) = (rem + δ) / ((2 ^ (sh - 1) : Nat) : ℝ) := by
      rw [half]
      field_simp
    simp only [roundUp, Raises, if_neg shpos.ne', ratio, one_lt_div halfPos, div_eq_one_iff_eq halfPos.ne', parity, Bool.or_eq_true,
      Bool.and_eq_true, decide_eq_true_eq, beq_iff_eq, news]
    rcases lt_trichotomy rem (2 ^ (sh - 1)) with h | h | h
    · have : (rem : ℝ) + 1 ≤ ((2 ^ (sh - 1) : Nat) : ℝ) := by exact_mod_cast h
      constructor
      · rintro (g | ⟨g, -⟩) <;> omega
      · rintro (g | ⟨g, -⟩) <;> linarith
    · rw [h]
      rcases above.eq_or_lt with rfl | pos
      · simp
      · simp [pos, pos.ne']
    · have : ((2 ^ (sh - 1) : Nat) : ℝ) + 1 ≤ rem := by exact_mod_cast h
      exact ⟨fun _ => .inl (by linarith), fun _ => .inl h⟩

/-- `sticky` tells of a magnitude between m and m + 1 units: `Stands m sticky μ`, and that μ is m itself where it does not. -/
def Stands (m : Nat) (sticky : Bool) (μ : ℝ) : Prop := if sticky then (m : ℝ) < μ ∧ μ < m + 1 else μ = m

/-- R57: the model's rounding to a multiple of 2^q is that of the real number for which the magnitude stands. -/
theorem roundTo_eq (d : RMode) {m : Nat} {e q : Int} {sticky : Bool} {μ : ℝ} (stands : Stands m sticky μ) (room : sticky = true → e < q) :
    (roundTo d false m e sticky q).1 = roundReal d (μ * 2 ^ (e - q)) ∧
      ((roundTo d false m e sticky q).2 = true ↔ (⌊μ * (2 : ℝ) ^ (e - q)⌋₊ : ℝ) ≠ μ * 2 ^ (e - q)) := by
  unfold roundTo
  by_cases le : q ≤ e
  · obtain rfl : sticky = false := by
      cases sticky with
      | false => rfl
      | true => exact absurd (room rfl) (not_lt.2 le)
    obtain rfl : μ = m := stands
    have whole : (m : ℝ) * 2 ^ (e - q) = ((m * 2 ^ (e - q).toNat : Nat) : ℝ) := by
      push_cast
      rw [← zpow_natCast, Int.toNat_of_nonneg (by omega)]
    rw [if_pos le, whole]
    exact ⟨(roundReal_natCast _ _).symm, by simp only [Nat.floor_natCast, ne_eq, not_true_eq_false, Bool.false_eq_true]⟩
  · rw [if_neg le]
    set sh := (q - e).toNat with hsh
    have place : (2 : ℝ) ^ (e - q) = ((2 ^ sh : Nat) : ℝ)⁻¹ := by
      push_cast
      rw [← zpow_natCast, ← zpow_neg, hsh, Int.toNat_of_nonneg (by omega), neg_sub]
    have shpos : 0 < sh := by omega
    have pos : 0 < 2 ^ sh := Nat.two_pow_pos _
    have posR : (0 : ℝ) < ((2 ^ sh : Nat) : ℝ) := by exact_mod_cast pos
    have rem := Nat.mod_lt m pos
    have whole : (m : ℝ) = (2 ^ sh : Nat) * (m / 2 ^ sh : Nat) + (m % 2 ^ sh : Nat) := by exact_mod_cast (Nat.div_add_mod m (2 ^ sh)).symm
    obtain ⟨δ, hδ, above, below, news⟩ : ∃ δ : ℝ, μ = m + δ ∧ 0 ≤ δ ∧ δ < 1 ∧ (sticky = true ↔ δ ≠ 0) := by
      refine ⟨μ - m, by ring, ?_⟩
      cases sticky with
      | false => simp [show μ = m from stands]
      | true =>
        obtain ⟨lo, hi⟩ : (m : ℝ) < μ ∧ μ < m + 1 := stands
        exact ⟨by linarith, by linarith, by simp only [true_iff]; linarith⟩
    set ρ : ℝ := ((m % 2 ^ sh : Nat) + δ) / (2 ^ sh : Nat) with hρ
    have split : μ * 2 ^ (e - q) = (m / 2 ^ sh : Nat) + ρ := by
      rw [place, hδ, hρ, whole]
      field_simp
      ring
    have nonneg : 0 ≤ ρ := by positivity
    have lt : ρ < 1 := by
      rw [hρ, div_lt_one posR]
      have : ((m % 2 ^ sh : Nat) : ℝ) + 1 ≤ (2 ^ sh : Nat) := by exact_mod_cast rem
      linarith
    have raises : roundUp d false (m / 2 ^ sh % 2 == 1) (m % 2 ^ sh) sh sticky = true ↔ Raises d (m / 2 ^ sh) ρ :=
      roundUp_iff d rfl shpos above below news
    rw [split, floor_add_rest nonneg lt]
    constructor
    · by_cases up : Raises d (m / 2 ^ sh) ρ
      · rw [roundReal_raised nonneg lt up]
        exact if_pos (raises.2 up)
      · rw [roundReal_kept nonneg lt up]
        exact if_neg (mt raises.1 up)
    · rw [rest_pos_iff above news (sh := sh)]
      constructor <;> intro h
      · linarith
      · exact lt_of_le_of_ne nonneg fun zero : 0 = ρ => h (by linarith)

theorem Stands.pos {m : Nat} {sticky : Bool} {μ : ℝ} (stands : Stands m sticky μ) : (m : ℝ) ≤ μ ∧ μ < m + 1 := by
  cases sticky with
  | false => rw [show μ = m from stands]; constructor <;> linarith
  | true => exact ⟨stands.1.le, stands.2⟩

/-- The exponent of a number that ±m × 2^e stands for. -/
theorem Stands.log {m : Nat} {sticky : Bool} {μ : ℝ} (stands : Stands m sticky μ) (nonzero : m ≠ 0) (e : Int) :
    Int.log 2 (μ * (2 : ℝ) ^ e) = e + Nat.log2 m := by
  obtain ⟨lo, hi⟩ := stands.pos
  have two : (1 : ℝ) < (2 : Nat) := by norm_num
  have below : ((2 ^ Nat.log2 m : Nat) : ℝ) ≤ m := by exact_mod_cast Nat.log2_self_le nonzero
  have above : (m : ℝ) + 1 ≤ ((2 ^ (Nat.log2 m + 1) : Nat) : ℝ) := by exact_mod_cast Nat.lt_log2_self
  have mpos : (1 : ℝ) ≤ m := by exact_mod_cast Nat.one_le_iff_ne_zero.2 nonzero
  have epos : (0 : ℝ) < 2 ^ e := by positivity
  have pos : 0 < μ * (2 : ℝ) ^ e := mul_pos (by linarith) epos
  push_cast at below above
  apply le_antisymm
  · rw [← Int.lt_add_one_iff, Int.lt_zpow_iff_log_lt (by norm_num) pos |>.symm]
    push_cast
    rw [show e + (Nat.log2 m : Int) + 1 = ((Nat.log2 m + 1 : Nat) : Int) + e by push_cast; ring, zpow_add₀ two_ne_zero, zpow_natCast]
    nlinarith
  · rw [Int.zpow_le_iff_le_log (by norm_num) pos |>.symm]
    push_cast
    rw [add_comm, zpow_add₀ two_ne_zero, zpow_natCast]
    nlinarith

theorem bitLen_eq {m : Nat} (nonzero : m ≠ 0) : bitLen m = Nat.log2 m + 1 := if_neg nonzero

/-! ## The one rounding (R57) -/

section
variable (f : Fmt)

/-- The exponent of the last place of a number in a format. -/
noncomputable def Fmt.lastPlace (x : ℝ) : Int := max (Int.log 2 x - f.fbits) f.low

/-- The pattern that a positive number rounds to in a direction, as if the format had an exponent field of any size. -/
noncomputable def Fmt.pat (d : RMode) (x : ℝ) : Nat :=
  (f.lastPlace x - f.low).toNat * 2 ^ f.fbits + roundReal d (x * 2 ^ (-f.lastPlace x))

/-- A number that is a value of a format whose exponent field has any size. -/
def Fmt.Exact (x : ℝ) : Prop := f.mag (f.pat .rdn x) = x

/-- The number, rounded with an exponent of any size, lies below the least normal value (R57, R58). -/
def Fmt.Tiny (d : RMode) (x : ℝ) : Prop :=
  Int.log 2 x < 1 - f.bias ∧ ¬(Int.log 2 x = -f.bias ∧ roundReal d (x * 2 ^ (f.fbits - Int.log 2 x)) = 2 ^ (f.fbits + 1))

open Classical in
/-- A positive number rounded in a direction, with the flags (R57, R58). -/
noncomputable def Fmt.rounded (d : RMode) (x : ℝ) : Nat × Fl :=
  if f.posInf ≤ f.pat d x then (overflowBits f d false, Fl.of ||| Fl.nx)
  else (f.pat d x, if f.Exact x then 0 else if f.Tiny d x then Fl.nx ||| Fl.uf else Fl.nx)

/-- What the last place of a positive number leaves of it: a significand of no more bits than the format holds, and none fewer but at the lowest
exponent. -/
theorem Fmt.places_of_pos {x : ℝ} (pos : 0 < x) : ∃ k : Nat, ∃ sig : Nat, f.lastPlace x = f.low + k ∧ ⌊x * 2 ^ (-f.lastPlace x)⌋₊ = sig ∧
    sig < 2 ^ (f.fbits + 1) ∧ (k = 0 ∨ 2 ^ f.fbits ≤ sig) := by
  have base : f.low ≤ f.lastPlace x := le_max_right _ _
  have y : 0 < x * (2 : ℝ) ^ (-f.lastPlace x) := by positivity
  have high : x < 2 ^ (Int.log 2 x + 1) := Int.lt_zpow_succ_log_self (b := 2) (by norm_num) x
  refine ⟨(f.lastPlace x - f.low).toNat, _, by omega, rfl, ?_, ?_⟩
  · rw [Nat.floor_lt y.le, zpow_neg, mul_inv_lt_iff₀ (by positivity)]
    push_cast
    rw [← zpow_natCast, ← zpow_add₀ two_ne_zero]
    refine high.trans_le (zpow_le_zpow_right₀ one_le_two ?_)
    have := le_max_left (Int.log 2 x - f.fbits) f.low
    unfold Fmt.lastPlace
    push_cast
    omega
  · rcases le_total (Int.log 2 x - f.fbits) f.low with h | h
    · exact .inl (by unfold Fmt.lastPlace; omega)
    · refine .inr (Nat.le_floor ?_)
      have place : f.lastPlace x = Int.log 2 x - f.fbits := max_eq_left h
      rw [zpow_neg, le_mul_inv_iff₀ (by positivity), place]
      push_cast
      rw [← zpow_natCast, ← zpow_add₀ two_ne_zero, add_sub_cancel]
      exact Int.zpow_log_le_self (b := 2) (by norm_num) pos

/-- The pattern below a positive number: what remains of the number is a rest of the last place, and a direction that raises takes the next pattern. -/
theorem Fmt.pat_split {x : ℝ} (pos : 0 < x) : ∃ (k sig : Nat) (ρ : ℝ), 0 ≤ ρ ∧ ρ < 1 ∧ f.lastPlace x = f.low + k ∧ x * 2 ^ (-f.lastPlace x) = sig + ρ ∧
    sig < 2 ^ (f.fbits + 1) ∧ (k = 0 ∨ 2 ^ f.fbits ≤ sig) ∧ f.pat .rdn x = k * 2 ^ f.fbits + sig ∧ x = (sig + ρ) * 2 ^ (f.low + k) ∧
    f.mag (f.pat .rdn x) = sig * 2 ^ (f.low + k) ∧ f.mag (f.pat .rdn x + 1) = (sig + 1) * 2 ^ (f.low + k) ∧
    ∀ d, (Raises d sig ρ → f.pat d x = f.pat .rdn x + 1) ∧ (¬Raises d sig ρ → f.pat d x = f.pat .rdn x) := by
  obtain ⟨k, sig, place, floor, top, low⟩ := f.places_of_pos pos
  have ypos : (0 : ℝ) ≤ x * 2 ^ (-f.lastPlace x) := by positivity
  obtain ⟨ρ, split⟩ : ∃ ρ, x * 2 ^ (-f.lastPlace x) = sig + ρ := ⟨x * 2 ^ (-f.lastPlace x) - sig, by ring⟩
  have ρpos : 0 ≤ ρ := by
    have := Nat.floor_le ypos
    rw [floor] at this
    linarith
  have ρlt : ρ < 1 := by
    have := Nat.lt_floor_add_one (x * (2 : ℝ) ^ (-f.lastPlace x))
    rw [floor] at this
    linarith
  have pat (d : RMode) : f.pat d x = k * 2 ^ f.fbits + roundReal d (sig + ρ) := by
    rw [← split, Fmt.pat, place, add_sub_cancel_left, Int.toNat_natCast]
  have down : f.pat .rdn x = k * 2 ^ f.fbits + sig := (pat .rdn).trans (congrArg _ (floor_add_rest ρpos ρlt))
  refine ⟨k, sig, ρ, ρpos, ρlt, place, split, top, low, down, ?_, ?_, ?_, fun d => ⟨fun h => ?_, fun h => ?_⟩⟩
  · rw [← split, place, mul_assoc, ← zpow_add₀ two_ne_zero, neg_add_cancel, zpow_zero, mul_one]
  · rw [down, f.mag_places top.le low]
  · rw [down, Nat.add_assoc, f.mag_places top (low.imp_right (Nat.le_succ_of_le ·))]
    push_cast
    rfl
  · rw [pat, down, roundReal_raised ρpos ρlt h, Nat.add_assoc]
  · rw [pat, down, roundReal_kept ρpos ρlt h]

section
variable {x : ℝ} (pos : 0 < x)
include pos

theorem Fmt.mag_pat_rdn_le : f.mag (f.pat .rdn x) ≤ x := by
  obtain ⟨k, sig, ρ, ρpos, -, -, -, -, -, -, whole, down, -⟩ := f.pat_split pos
  have : (0 : ℝ) < 2 ^ (f.low + k) := by positivity
  rw [down]
  nlinarith

theorem Fmt.lt_mag_pat_rdn_succ : x < f.mag (f.pat .rdn x + 1) := by
  obtain ⟨k, sig, ρ, -, ρlt, -, -, -, -, -, whole, -, up, -⟩ := f.pat_split pos
  have : (0 : ℝ) < 2 ^ (f.low + k) := by positivity
  rw [up]
  nlinarith

theorem Fmt.pat_rup_of_exact (exact_ : f.Exact x) : f.pat .rup x = f.pat .rdn x := by
  obtain ⟨k, sig, ρ, ρpos, -, -, -, -, -, -, whole, down, -, pat⟩ := f.pat_split pos
  have unit : (0 : ℝ) < 2 ^ (f.low + k) := by positivity
  refine (pat .rup).2 fun raised : 0 < ρ => ?_
  rw [Fmt.Exact, down] at exact_
  nlinarith

theorem Fmt.pat_rup_of_not_exact (inexact : ¬f.Exact x) : f.pat .rup x = f.pat .rdn x + 1 := by
  obtain ⟨k, sig, ρ, ρpos, -, -, -, -, -, -, whole, down, -, pat⟩ := f.pat_split pos
  refine (pat .rup).1 (lt_of_le_of_ne ρpos fun zero => inexact ?_)
  rw [Fmt.Exact, down, whole, ← zero, add_zero]

/-- To nearest: the pattern on the nearer side of the midpoint, the even one on it. -/
theorem Fmt.pat_rne (frac : 1 ≤ f.fbits) : f.pat .rne x =
    if f.mag (f.pat .rdn x) + f.mag (f.pat .rdn x + 1) < 2 * x then f.pat .rdn x + 1
    else if 2 * x < f.mag (f.pat .rdn x) + f.mag (f.pat .rdn x + 1) then f.pat .rdn x
    else if f.pat .rdn x % 2 = 0 then f.pat .rdn x else f.pat .rdn x + 1 := by
  obtain ⟨k, sig, ρ, ρpos, ρlt, -, -, -, -, shape, whole, down, up, pat⟩ := f.pat_split pos
  have unit : (0 : ℝ) < 2 ^ (f.low + k) := by positivity
  have parity : f.pat .rdn x % 2 = sig % 2 := by
    obtain ⟨j, hj⟩ := Nat.exists_eq_add_of_le' frac
    rw [shape, hj, pow_succ, ← mul_assoc, Nat.mul_add_mod_self_right]
  have middle : 2 * x - (f.mag (f.pat .rdn x) + f.mag (f.pat .rdn x + 1)) = (2 * ρ - 1) * 2 ^ (f.low + k) := by
    rw [down, up, whole]
    ring
  rcases lt_trichotomy (2 * ρ) 1 with h | h | h
  · rw [if_neg (by nlinarith), if_pos (by nlinarith)]
    exact (pat .rne).2 fun raised => by rcases raised with g | ⟨g, -⟩ <;> linarith
  · rw [if_neg (by nlinarith), if_neg (by nlinarith), parity]
    by_cases even : sig % 2 = 0
    · rw [if_pos even]
      exact (pat .rne).2 fun raised => by
        rcases raised with g | ⟨-, g⟩
        · linarith
        · omega
    · rw [if_neg even]
      exact (pat .rne).1 (.inr ⟨h, by omega⟩)
  · rw [if_pos (by nlinarith)]
    exact (pat .rne).1 (.inl h)

end

section
variable (wide : 1 ≤ f.ebits) (d : RMode) {m : Nat} (e : Int) {sticky : Bool} {μ : ℝ} (nonzero : m ≠ 0)
  (stands : Stands m sticky μ) (room : sticky = true → 2 ^ (f.fbits + 1) ≤ m)

include wide in
theorem Fmt.two_bias_add_two : 2 * f.bias + 2 = 2 ^ f.ebits := by
  have : 2 ^ f.ebits = 2 * 2 ^ (f.ebits - 1) := by rw [← pow_succ', Nat.sub_add_cancel wide]
  have : 0 < 2 ^ (f.ebits - 1) := Nat.two_pow_pos _
  unfold Fmt.bias
  omega

include nonzero room in
/-- A sticky magnitude has its last place below that of the result. -/
theorem sticky_room (h : sticky = true) : e < e + Nat.log2 m - f.fbits := by
  have : f.fbits + 1 ≤ Nat.log2 m := (Nat.le_log2 nonzero).2 (room h)
  omega

include nonzero stands room in
theorem roundTo_lastPlace : ∃ k : Nat, f.lastPlace (μ * 2 ^ e) = f.low + k ∧
    let r := roundTo d false m e sticky (f.lastPlace (μ * 2 ^ e))
    r.1 ≤ 2 ^ (f.fbits + 1) ∧ (k = 0 ∨ 2 ^ f.fbits ≤ r.1) ∧ f.pat d (μ * 2 ^ e) = k * 2 ^ f.fbits + r.1 ∧ (r.2 = true ↔ ¬f.Exact (μ * 2 ^ e)) := by
  have mpos : (0 : ℝ) < m := by exact_mod_cast Nat.pos_of_ne_zero nonzero
  have pos : 0 < μ * (2 : ℝ) ^ e := mul_pos (mpos.trans_le stands.pos.1) (by positivity)
  obtain ⟨k, sig, ρ, ρpos, ρlt, place, rest, top, low, down, whole, mag, -, pat⟩ := f.pat_split pos
  have below : sticky = true → e < f.lastPlace (μ * 2 ^ e) := fun h =>
    (sticky_room f e nonzero room h).trans_le (by rw [← stands.log nonzero]; exact le_max_left _ _)
  obtain ⟨value, news⟩ := roundTo_eq d stands below
  have shift : μ * (2 : ℝ) ^ (e - f.lastPlace (μ * 2 ^ e)) = sig + ρ := by
    rw [← rest, mul_assoc, ← zpow_add₀ two_ne_zero, sub_eq_add_neg]
  rw [shift] at value news
  rw [floor_add_rest ρpos ρlt] at news
  refine ⟨k, place, ?_⟩
  have exact_ : f.Exact (μ * 2 ^ e) ↔ (sig : ℝ) = sig + ρ := by
    have unit : (2 : ℝ) ^ (f.low + k) ≠ 0 := by positivity
    rw [Fmt.Exact, mag]
    conv_lhs => rw [whole]
    exact mul_left_inj' unit
  dsimp only
  rw [value, news, exact_]
  by_cases up : Raises d sig ρ
  · rw [roundReal_raised ρpos ρlt up, (pat d).1 up, down]
    exact ⟨top, low.imp_right (Nat.le_succ_of_le ·), rfl, Iff.rfl⟩
  · rw [roundReal_kept ρpos ρlt up, (pat d).2 up, down]
    exact ⟨top.le, low, rfl, Iff.rfl⟩

include nonzero stands room in
theorem roundTo_free : (roundTo d false m e sticky (e + Nat.log2 m - f.fbits)).1 = roundReal d (μ * 2 ^ e * 2 ^ (f.fbits - Int.log 2 (μ * 2 ^ e))) := by
  rw [(roundTo_eq d stands (sticky_room f e nonzero room)).1, stands.log nonzero, mul_assoc, ← zpow_add₀ two_ne_zero]
  congr 2
  ring_nf

/-- A significand that rounds up to the next exponent's least one is taken as that. -/
theorem carried {f : Fmt} {sig k P : Nat} (top : sig ≤ 2 ^ (f.fbits + 1)) (low : k = 0 ∨ 2 ^ f.fbits ≤ sig) (pat : P = k * 2 ^ f.fbits + sig) :
    ∃ k' : Nat, let c := if sig = 2 ^ (f.fbits + 1) then (2 ^ f.fbits, f.low + k + 1) else (sig, f.low + k)
      c.1 < 2 ^ (f.fbits + 1) ∧ (k' = 0 ∨ 2 ^ f.fbits ≤ c.1) ∧ c.2 = f.low + k' ∧ P = k' * 2 ^ f.fbits + c.1 := by
  by_cases last : sig = 2 ^ (f.fbits + 1)
  · refine ⟨k + 1, ?_⟩
    simp only [if_pos last]
    exact ⟨Nat.pow_lt_pow_right (by norm_num) (Nat.lt_succ_self _), .inr le_rfl, by push_cast; ring, by rw [pat, last, pow_succ]; ring⟩
  · refine ⟨k, ?_⟩
    simp only [if_neg last]
    exact ⟨lt_of_le_of_ne top last, low, trivial, pat⟩

open Classical in
theorem flags_eq {exact_ tiny : Prop} {x t : Bool} (news : x = true ↔ ¬exact_) (small : t = true ↔ tiny) :
    (Fl.when x Fl.nx ||| Fl.when (x && t) Fl.uf) = if exact_ then 0 else if tiny then Fl.nx ||| Fl.uf else Fl.nx := by
  by_cases h : exact_
  · obtain rfl : x = false := Bool.eq_false_iff.2 fun g => news.1 g h
    rw [if_pos h]
    cases t <;> rfl
  · obtain rfl := news.2 h
    rw [if_neg h]
    by_cases g : tiny
    · obtain rfl := small.2 g
      rw [if_pos g]
      rfl
    · obtain rfl : t = false := Bool.eq_false_iff.2 fun h => g (small.1 h)
      rw [if_neg g]
      rfl

include wide nonzero stands room

open Classical in
/-- R57: the model's rounding of a magnitude is that of the number for which it stands; a sticky one has at least two bits more than the format
holds. -/
theorem roundPack_eq_rounded : roundPack f d false m e sticky = f.rounded d (μ * 2 ^ e) := by
  obtain ⟨k, place, top, low, pat, news⟩ := roundTo_lastPlace f d e nonzero stands room
  have log := stands.log nonzero e
  have bias := f.two_bias_add_two wide
  have bits : e + (bitLen m : Int) - 1 = e + Nat.log2 m := by rw [bitLen_eq nonzero]; push_cast; ring
  have last : max (e + (Nat.log2 m : Int) - (f.fbits + 1 - 1)) (1 - (f.bias : Int) - (f.fbits + 1 - 1)) = f.lastPlace (μ * 2 ^ e) := by
    rw [Fmt.lastPlace, log, add_sub_cancel_right]
    rfl
  have free := roundTo_free f d e nonzero stands room
  have tiny : (decide (e + (Nat.log2 m : Int) < 1 - f.bias) && !(decide (e + (Nat.log2 m : Int) = 1 - f.bias - 1) &&
      (roundTo d false m e sticky (e + Nat.log2 m - f.fbits)).1 == 2 ^ (f.fbits + 1))) = true ↔ f.Tiny d (μ * 2 ^ e) := by
    rw [free, Fmt.Tiny, log]
    simp only [show (1 : Int) - f.bias - 1 = -f.bias by ring, Bool.and_eq_true, decide_eq_true_eq, Bool.not_eq_true', Bool.and_eq_false_iff,
      decide_eq_false_iff_not, beq_eq_false_iff_ne, not_and_or]
  unfold roundPack
  dsimp only
  rw [bits, last, add_sub_cancel_right]
  generalize (decide (e + (Nat.log2 m : Int) < 1 - f.bias) && _) = tinyBit at tiny ⊢
  generalize roundTo d false m e sticky (f.lastPlace (μ * 2 ^ e)) = r at top low pat news ⊢
  rw [place]
  obtain ⟨k', small, low', place', pat'⟩ : ∃ k' : Nat,
      let c := if r.1 = 2 ^ (f.fbits + 1) then (2 ^ f.fbits, f.low + ↑k + 1) else (r.1, f.low + ↑k)
      c.1 < 2 ^ (f.fbits + 1) ∧ (k' = 0 ∨ 2 ^ f.fbits ≤ c.1) ∧ c.2 = f.low + k' ∧ f.pat d (μ * 2 ^ e) = k' * 2 ^ f.fbits + c.1 :=
    carried top low pat
  generalize (if r.1 = 2 ^ (f.fbits + 1) then (2 ^ f.fbits, f.low + (k : Int) + 1) else (r.1, f.low + (k : Int))) = c at small low' place' pat' ⊢
  have flags : (Fl.when r.2 Fl.nx ||| Fl.when (r.2 && tinyBit) Fl.uf) =
      if f.Exact (μ * 2 ^ e) then 0 else if f.Tiny d (μ * 2 ^ e) then Fl.nx ||| Fl.uf else Fl.nx :=
    flags_eq news tiny
  have whole : f.posInf = (2 * f.bias + 1) * 2 ^ f.fbits := by rw [Fmt.posInf, ← bias]; rfl
  unfold Fmt.rounded
  rw [flags, place', pat', whole]
  simp only [Bool.false_eq_true, if_false, Nat.zero_add]
  by_cases sub : c.1 < 2 ^ f.fbits
  · obtain rfl : k' = 0 := low'.resolve_right (not_le.2 sub)
    have within : ¬(2 * f.bias + 1) * 2 ^ f.fbits ≤ 0 * 2 ^ f.fbits + c.1 := by
      rw [Nat.zero_mul, Nat.zero_add, not_le]
      exact sub.trans_le (Nat.le_mul_of_pos_left _ (Nat.succ_pos _))
    rw [if_pos sub, if_neg within, Nat.zero_mul, Nat.zero_add]
  · obtain ⟨r', hr⟩ := Nat.exists_eq_add_of_le (not_lt.1 sub)
    have field : k' * 2 ^ f.fbits + c.1 = (k' + 1) * 2 ^ f.fbits + r' := by rw [hr]; ring
    have high : (2 * f.bias + 1) * 2 ^ f.fbits ≤ k' * 2 ^ f.fbits + c.1 ↔ 2 * f.bias ≤ k' := by
      rw [field, ← Nat.le_div_iff_mul_le (Nat.two_pow_pos _), Nat.add_comm _ r', Nat.add_mul_div_right _ _ (Nat.two_pow_pos _),
        Nat.div_eq_of_lt (by rw [pow_succ] at small; omega)]
      omega
    have low : f.low + (k' : Int) + f.fbits > f.bias ↔ 2 * f.bias ≤ k' := by
      unfold Fmt.low
      omega
    simp only [if_neg sub, high, low]
    congr 2
    have exponent : (f.low + (k' : Int) + f.fbits + f.bias).toNat = k' + 1 := by
      unfold Fmt.low
      omega
    rw [exponent, field, hr, Nat.add_sub_cancel_left]

end

end

end Sys2Proof.Machine

/-! VALUES AND PATTERNS: what a pattern holds, by its sign and its magnitude (R56), and the order of values (R191). -/
namespace Sys2Proof.Machine

/-! ## Values and patterns -/

/-- The value of a finite operand as a real number. -/
noncomputable def FVal.real : FVal → ℝ
  | .fin neg m e => (if neg then -1 else 1) * (m : ℝ) * (2 : ℝ) ^ e
  | _ => 0

@[simp] theorem FVal.real_fin_false (m : Nat) (e : Int) : (FVal.fin false m e).real = m * 2 ^ e := by simp [FVal.real]

@[simp] theorem FVal.real_fin_true (m : Nat) (e : Int) : (FVal.fin true m e).real = -(m * 2 ^ e) := by simp [FVal.real]

theorem alignTo_real (neg : Bool) (m : Nat) {e q : Int} (le : q ≤ e) : (alignTo neg m e q : ℝ) * 2 ^ q = (FVal.fin neg m e).real := by
  have shift : (2 : ℝ) ^ (e - q).toNat * 2 ^ q = 2 ^ e := by
    rw [← zpow_natCast, ← zpow_add₀ two_ne_zero, Int.toNat_of_nonneg (by omega), sub_add_cancel]
  unfold alignTo
  cases neg <;> simp [FVal.real, mul_assoc, shift]

/-- valLt is the order of the values (R191). -/
theorem valLt_fin (a b : Bool) (m n : Nat) (e g : Int) :
    valLt (.fin a m e) (.fin b n g) = true ↔ (FVal.fin a m e).real < (FVal.fin b n g).real := by
  have unit : (0 : ℝ) < 2 ^ min e g := by positivity
  rw [← alignTo_real a m (min_le_left e g), ← alignTo_real b n (min_le_right e g), mul_lt_mul_iff_left₀ unit, Int.cast_lt]
  exact decide_eq_true_iff

theorem valLt_fin_false (a b : Bool) (m n : Nat) (e g : Int) :
    valLt (.fin a m e) (.fin b n g) = false ↔ (FVal.fin b n g).real ≤ (FVal.fin a m e).real := by
  rw [← not_lt, ← valLt_fin, Bool.not_eq_true]

theorem valEq_fin (a b : Bool) (m n : Nat) (e g : Int) :
    valEq (.fin a m e) (.fin b n g) = true ↔ (FVal.fin a m e).real = (FVal.fin b n g).real := by
  simp only [valEq, FVal.isNaN, Bool.not_false, Bool.true_and, Bool.and_eq_true, Bool.not_eq_true', valLt_fin_false]
  exact ⟨fun ⟨h, g⟩ => le_antisymm g h, fun h => ⟨h.ge, h.le⟩⟩

section
variable (f : Fmt)

/-- The pattern of a magnitude under a sign. -/
def Fmt.withSign (neg : Bool) (p : Nat) : Nat := (if neg then f.signBit else 0) + p

theorem roundPack_withSign (d : RMode) (neg : Bool) (m : Nat) (e : Int) (sticky : Bool) :
    roundPack f d neg m e sticky =
      (f.withSign neg (roundPack f (d.ofMag neg) false m e sticky).1, (roundPack f (d.ofMag neg) false m e sticky).2) := by
  have beyond : overflowBits f d neg = f.withSign neg (overflowBits f (d.ofMag neg) false) := by
    cases d <;> cases neg <;> simp [overflowBits, RMode.ofMag, Fmt.withSign]
  unfold roundPack
  dsimp only
  rw [beyond]
  simp only [roundTo_ofMag d neg]
  generalize (if (roundTo (d.ofMag neg) false m e sticky _).1 = 2 ^ (f.fbits + 1) then ((2 ^ f.fbits, _) : Nat × Int) else _) = c
  by_cases sub : c.1 < 2 ^ f.fbits
  · simp only [if_pos sub, Fmt.withSign, Bool.false_eq_true, if_false, Nat.zero_add]
  · by_cases beyond : c.2 + (f.fbits + 1 - 1 : Int) > f.bias
    · simp only [if_neg sub, if_pos beyond]
    · simp only [if_neg sub, if_neg beyond, Fmt.withSign, Bool.false_eq_true, if_false, Nat.zero_add, Nat.add_assoc]

variable {f}

theorem Fmt.dec_withSign (neg : Bool) {p : Nat} (lt : p < f.signBit) : f.dec (f.withSign neg p) =
    if p / 2 ^ f.fbits = 2 ^ f.ebits - 1 then if p % 2 ^ f.fbits = 0 then .inf neg else .nan (p % 2 ^ f.fbits < 2 ^ (f.fbits - 1))
    else if p / 2 ^ f.fbits = 0 then .fin neg (p % 2 ^ f.fbits) f.low
    else .fin neg (2 ^ f.fbits + p % 2 ^ f.fbits) ((p / 2 ^ f.fbits : Nat) - f.bias - f.fbits) := by
  have pos : 0 < 2 ^ f.fbits := Nat.two_pow_pos _
  have shape : f.signBit = 2 ^ f.ebits * 2 ^ f.fbits := pow_add _ _ _
  have small : p / 2 ^ f.fbits < 2 ^ f.ebits := by rwa [Nat.div_lt_iff_lt_mul pos, ← shape]
  have sign : (f.withSign neg p / f.signBit % 2 == 1) = neg := by
    cases neg
    · simp [Fmt.withSign, Nat.div_eq_of_lt lt]
    · have whole : (f.signBit + p) / f.signBit = 1 := by
        rw [Nat.add_div_left p (show 0 < f.signBit from Nat.two_pow_pos _), Nat.div_eq_of_lt lt]
      simp [Fmt.withSign, whole]
  have frac : f.withSign neg p % 2 ^ f.fbits = p % 2 ^ f.fbits := by
    cases neg
    · simp [Fmt.withSign]
    · simp [Fmt.withSign, shape]
  have field : f.withSign neg p / 2 ^ f.fbits % 2 ^ f.ebits = p / 2 ^ f.fbits := by
    cases neg
    · simp [Fmt.withSign, Nat.mod_eq_of_lt small]
    · simp only [Fmt.withSign, if_true, shape]
      rw [Nat.add_comm, Nat.add_mul_div_right _ _ pos, Nat.add_mod_right, Nat.mod_eq_of_lt small]
  unfold Fmt.dec
  rw [sign, frac, field]
  rfl

theorem Fmt.posInf_lt : f.posInf < f.signBit := by
  rw [Fmt.posInf, Fmt.signBit, pow_add]
  exact Nat.mul_lt_mul_of_pos_right (Nat.sub_lt (Nat.two_pow_pos _) one_pos) (Nat.two_pow_pos _)

theorem Fmt.dec_withSign_posInf (neg : Bool) : f.dec (f.withSign neg f.posInf) = .inf neg := by
  rw [f.dec_withSign neg f.posInf_lt]
  simp [Fmt.posInf]

/-- A pattern below that of ∞ holds a finite number of the value of its magnitude. -/
theorem Fmt.dec_withSign_fin (neg : Bool) {p : Nat} (lt : p < f.posInf) : ∃ m e, f.dec (f.withSign neg p) = .fin neg m e ∧ (m : ℝ) * 2 ^ e = f.mag p := by
  have pos : 0 < 2 ^ f.fbits := Nat.two_pow_pos _
  have field : p / 2 ^ f.fbits < 2 ^ f.ebits - 1 := (Nat.div_lt_iff_lt_mul pos).2 lt
  rw [f.dec_withSign neg (lt.trans f.posInf_lt), if_neg field.ne, Fmt.mag]
  by_cases sub : p < 2 ^ f.fbits
  · rw [if_pos (Nat.div_eq_of_lt sub), if_pos sub, Nat.mod_eq_of_lt sub]
    exact ⟨_, _, rfl, rfl⟩
  · have normal : p / 2 ^ f.fbits ≠ 0 := (Nat.div_pos (not_lt.1 sub) pos).ne'
    rw [if_neg normal, if_neg sub]
    refine ⟨_, _, rfl, ?_⟩
    congr 2
    unfold Fmt.low
    ring

theorem Fmt.eq_withSign {y : Nat} (lt : y < 2 ^ f.width) (num : (f.dec y).isNaN = false) : ∃ neg p, p ≤ f.posInf ∧ y = f.withSign neg p := by
  have pos : 0 < f.signBit := Nat.two_pow_pos _
  have two : y < 2 * f.signBit := by rwa [Fmt.width, pow_succ'] at lt
  obtain ⟨neg, p, hp, rfl⟩ : ∃ neg p, p < f.signBit ∧ y = f.withSign neg p := by
    by_cases h : y < f.signBit
    · exact ⟨false, y, h, by simp [Fmt.withSign]⟩
    · exact ⟨true, y - f.signBit, by omega, by simp only [Fmt.withSign, if_true]; omega⟩
  refine ⟨neg, p, ?_, rfl⟩
  by_contra above
  have posF : 0 < 2 ^ f.fbits := Nat.two_pow_pos _
  have field : p / 2 ^ f.fbits = 2 ^ f.ebits - 1 := by
    apply le_antisymm
    · exact Nat.le_sub_one_of_lt ((Nat.div_lt_iff_lt_mul posF).2 (by rwa [← pow_add]))
    · exact (Nat.le_div_iff_mul_le posF).2 (not_le.1 above).le
  have frac : p % 2 ^ f.fbits ≠ 0 := fun zero => above (by
    rw [← Nat.div_add_mod p (2 ^ f.fbits), field, zero, Nat.mul_comm]
    rfl)
  rw [f.dec_withSign neg hp, if_pos field, if_neg frac] at num
  exact Bool.noConfusion num

end

end Sys2Proof.Machine

/-! DIRECTED ROUNDING: the greatest value that is not above a number, and the least that is not below it (R57). -/
namespace Sys2Proof.Machine

/-! ## The two neighbours of a number -/

section
variable {f : Fmt} {x : ℝ} (pos : 0 < x)
include pos

theorem Fmt.le_pat_rdn_iff {p : Nat} : p ≤ f.pat .rdn x ↔ f.mag p ≤ x := by
  constructor
  · exact fun le => (f.mag_strictMono.monotone le).trans (f.mag_pat_rdn_le pos)
  · intro le
    exact Nat.lt_succ_iff.1 (f.mag_strictMono.lt_iff_lt.1 (le.trans_lt (f.lt_mag_pat_rdn_succ pos)))

theorem Fmt.pat_rup_le_iff {p : Nat} : f.pat .rup x ≤ p ↔ x ≤ f.mag p := by
  by_cases h : f.Exact x
  · rw [f.pat_rup_of_exact pos h, ← f.mag_strictMono.le_iff_le, h]
  · have lt : f.mag (f.pat .rdn x) < x := lt_of_le_of_ne (f.mag_pat_rdn_le pos) h
    rw [f.pat_rup_of_not_exact pos h]
    constructor
    · exact fun le => (f.lt_mag_pat_rdn_succ pos).le.trans (f.mag_strictMono.monotone le)
    · exact fun le => f.mag_strictMono.lt_iff_lt.1 (lt.trans_le le)

/-- A number that is a value of the format rounds to it in every direction. -/
theorem Fmt.pat_of_exact (frac : 1 ≤ f.fbits) (exact_ : f.Exact x) (d : RMode) : f.pat d x = f.pat .rdn x := by
  cases d with
  | rdn => rfl
  | rtz => rfl
  | rup => exact f.pat_rup_of_exact pos exact_
  | rne =>
    have next : f.mag (f.pat .rdn x) < f.mag (f.pat .rdn x + 1) := f.mag_strictMono (Nat.lt_succ_self _)
    have here : f.mag (f.pat .rdn x) = x := exact_
    rw [f.pat_rne pos frac, if_neg (by linarith), if_pos (by linarith)]

/-- A direction takes one of the two neighbours. -/
theorem Fmt.pat_eq_or (frac : 1 ≤ f.fbits) (d : RMode) : f.pat d x = f.pat .rdn x ∨ ¬f.Exact x ∧ f.pat d x = f.pat .rdn x + 1 := by
  by_cases h : f.Exact x
  · exact .inl (f.pat_of_exact pos frac h d)
  · obtain ⟨k, sig, ρ, -, -, -, -, -, -, -, -, -, -, pat⟩ := f.pat_split pos
    by_cases up : Raises d sig ρ
    · exact .inr ⟨h, (pat d).1 up⟩
    · exact .inl ((pat d).2 up)

theorem Fmt.mag_pat_eq_iff (frac : 1 ≤ f.fbits) (d : RMode) : f.mag (f.pat d x) = x ↔ f.Exact x := by
  rcases f.pat_eq_or pos frac d with h | ⟨inexact, h⟩
  · rw [h]
    rfl
  · rw [h]
    exact ⟨fun g => absurd g (f.lt_mag_pat_rdn_succ pos).ne', fun g => absurd g inexact⟩

end

/-! ## The order of patterns -/

section
variable {f : Fmt}

/-- The value of a finite pattern. -/
theorem Fmt.real_dec {a : Bool} {p : Nat} (lt : p < f.posInf) : (f.dec (f.withSign a p)).real = (if a then -1 else 1) * f.mag p := by
  obtain ⟨n, g, dec, value⟩ := f.dec_withSign_fin a lt
  rw [dec, ← value]
  cases a <;> simp

/-- Positive values are in the order of their patterns. -/
theorem Fmt.valLt_dec {p q : Nat} (hp : p ≤ f.posInf) (hq : q ≤ f.posInf) :
    valLt (f.dec (f.withSign false p)) (f.dec (f.withSign false q)) = true ↔ p < q := by
  rcases hq.eq_or_lt with rfl | ltq
  · rw [f.dec_withSign_posInf]
    rcases hp.eq_or_lt with rfl | ltp
    · simp [f.dec_withSign_posInf, valLt]
    · obtain ⟨n, g, dec, -⟩ := f.dec_withSign_fin false ltp
      simp [dec, valLt, ltp]
  · obtain ⟨n, g, dec, value⟩ := f.dec_withSign_fin false ltq
    rcases hp.eq_or_lt with rfl | ltp
    · simp [f.dec_withSign_posInf, dec, valLt, ltq.le]
    · obtain ⟨n', g', dec', value'⟩ := f.dec_withSign_fin false ltp
      rw [dec, dec', valLt_fin, FVal.real_fin_false, FVal.real_fin_false, value, value', f.mag_strictMono.lt_iff_lt]

theorem Fmt.valLt_dec_neg {p q : Nat} (hp : p ≤ f.posInf) (hq : q ≤ f.posInf) :
    valLt (f.dec (f.withSign false p)) (f.dec (f.withSign true q)) = false := by
  rcases hq.eq_or_lt with rfl | ltq
  · rw [f.dec_withSign_posInf]
    rcases hp.eq_or_lt with rfl | ltp
    · rw [f.dec_withSign_posInf]
      rfl
    · obtain ⟨n, g, dec, -⟩ := f.dec_withSign_fin false ltp
      rw [dec]
      rfl
  · obtain ⟨n, g, dec, value⟩ := f.dec_withSign_fin true ltq
    rcases hp.eq_or_lt with rfl | ltp
    · rw [f.dec_withSign_posInf, dec]
      rfl
    · obtain ⟨n', g', dec', value'⟩ := f.dec_withSign_fin false ltp
      rw [dec, dec', valLt_fin_false, FVal.real_fin_false, FVal.real_fin_true, value, value']
      linarith [f.mag_nonneg p, f.mag_nonneg q]

variable {m : Nat} {e : Int} (pos : (0 : ℝ) < m * 2 ^ e)
include pos

theorem Fmt.valLt_dec_right {b : Bool} {q : Nat} (hq : q ≤ f.posInf) :
    valLt (.fin false m e) (f.dec (f.withSign b q)) = true ↔ b = false ∧ (q = f.posInf ∨ m * 2 ^ e < f.mag q) := by
  rcases hq.eq_or_lt with rfl | lt
  · rw [f.dec_withSign_posInf]
    cases b <;> simp [valLt]
  · obtain ⟨n, g, dec, value⟩ := f.dec_withSign_fin b lt
    have := f.mag_nonneg q
    rw [dec, valLt_fin]
    cases b
    · simp [lt.ne, value]
    · simp only [FVal.real_fin_false, FVal.real_fin_true, value, Bool.true_eq_false, false_and, iff_false]
      linarith

theorem Fmt.valLt_dec_left {b : Bool} {q : Nat} (hq : q ≤ f.posInf) :
    valLt (f.dec (f.withSign b q)) (.fin false m e) = true ↔ b = true ∨ (q < f.posInf ∧ f.mag q < m * 2 ^ e) := by
  rcases hq.eq_or_lt with rfl | lt
  · rw [f.dec_withSign_posInf]
    cases b <;> simp [valLt]
  · obtain ⟨n, g, dec, value⟩ := f.dec_withSign_fin b lt
    have := f.mag_nonneg q
    rw [dec, valLt_fin]
    cases b
    · simp [lt, value]
    · simp only [FVal.real_fin_false, FVal.real_fin_true, value, true_or, iff_true]
      linarith

end

/-! ## The greatest value below and the least value above (R57) -/

section
variable {f : Fmt}

/-- What directed rounding gives of a value: the greatest value of the format that is not above it. -/
def IsFloor (f : Fmt) (v : FVal) (r : Nat) : Prop :=
  valLt v (f.dec r) = false ∧ ∀ y < 2 ^ f.width, (f.dec y).isNaN = false → valLt v (f.dec y) = false → valLt (f.dec r) (f.dec y) = false

/-- The least value of the format that is not below a value. -/
def IsCeil (f : Fmt) (v : FVal) (r : Nat) : Prop :=
  valLt (f.dec r) v = false ∧ ∀ y < 2 ^ f.width, (f.dec y).isNaN = false → valLt (f.dec y) v = false → valLt (f.dec y) (f.dec r) = false

theorem Fmt.posInf_pos (wide : 1 ≤ f.ebits) : 0 < f.posInf :=
  Nat.mul_pos (Nat.sub_pos_of_lt (Nat.one_lt_two_pow (by omega))) (Nat.two_pow_pos _)

theorem rounded_rdn (wide : 1 ≤ f.ebits) (x : ℝ) : (f.rounded .rdn x).1 = min (f.pat .rdn x) (f.posInf - 1) := by
  have := Fmt.posInf_pos wide
  unfold Fmt.rounded
  split
  case isTrue h =>
    rw [min_eq_right (by omega)]
    simp [overflowBits, Fmt.maxFin]
  case isFalse h => exact (min_eq_left (by omega)).symm

theorem rounded_up {d : RMode} (up : d = .rup ∨ d = .rne) (x : ℝ) : (f.rounded d x).1 = min (f.pat d x) f.posInf := by
  unfold Fmt.rounded
  split
  case isTrue h =>
    rw [min_eq_right h]
    rcases up with rfl | rfl <;> simp [overflowBits]
  case isFalse h => exact (min_eq_left (by omega)).symm

variable (wide : 1 ≤ f.ebits) {m : Nat} {e : Int} (pos : (0 : ℝ) < m * 2 ^ e)
include pos

include wide in
theorem isFloor_pos : IsFloor f (.fin false m e) (f.withSign false (f.rounded .rdn (m * 2 ^ e)).1) := by
  rw [rounded_rdn wide]
  have inf := Fmt.posInf_pos wide
  have within : min (f.pat .rdn (m * 2 ^ e)) (f.posInf - 1) ≤ f.posInf := by omega
  refine ⟨Bool.eq_false_iff.2 fun h => ?_, fun y lt num below => ?_⟩
  · obtain ⟨-, h | h⟩ := (f.valLt_dec_right pos within).1 h
    · omega
    · exact absurd ((f.le_pat_rdn_iff pos).1 (min_le_left _ _)) (not_le.2 h)
  · obtain ⟨b, q, hq, rfl⟩ := f.eq_withSign lt num
    cases b with
    | true => exact f.valLt_dec_neg within hq
    | false =>
      obtain ⟨notInf, le⟩ : q ≠ f.posInf ∧ f.mag q ≤ m * 2 ^ e := by
        simpa using mt (f.valLt_dec_right pos hq).2 (Bool.eq_false_iff.1 below)
      have := (f.le_pat_rdn_iff pos).2 le
      exact Bool.eq_false_iff.2 fun h => by have := (f.valLt_dec within hq).1 h; omega

theorem isCeil_pos : IsCeil f (.fin false m e) (f.withSign false (f.rounded .rup (m * 2 ^ e)).1) := by
  rw [rounded_up (.inl rfl)]
  have within : min (f.pat .rup (m * 2 ^ e)) f.posInf ≤ f.posInf := min_le_right _ _
  refine ⟨Bool.eq_false_iff.2 fun h => ?_, fun y lt num above => ?_⟩
  · obtain h | ⟨lt, h⟩ := (f.valLt_dec_left pos within).1 h
    · exact Bool.noConfusion h
    · exact absurd ((f.pat_rup_le_iff pos).1 (by omega)) (not_le.2 h)
  · obtain ⟨b, q, hq, rfl⟩ := f.eq_withSign lt num
    have none := mt (f.valLt_dec_left pos hq).2 (Bool.eq_false_iff.1 above)
    cases b with
    | true => exact absurd (.inl rfl) none
    | false =>
      refine Bool.eq_false_iff.2 fun h => ?_
      have lt := (f.valLt_dec hq within).1 h
      have low : f.mag q < m * 2 ^ e := not_le.1 fun le => by
        have := (f.pat_rup_le_iff pos).2 le
        omega
      exact none (.inr ⟨by omega, low⟩)

end

/-! ## Negation -/

section
variable {f : Fmt}

theorem valLt_negate {x y : FVal} (hx : x.isNaN = false) (hy : y.isNaN = false) : valLt x.negate y.negate = valLt y x := by
  cases x with
  | nan => exact Bool.noConfusion hx
  | inf a => cases y with
    | nan => exact Bool.noConfusion hy
    | inf b => cases a <;> cases b <;> rfl
    | fin b n g => cases a <;> rfl
  | fin a m e => cases y with
    | nan => exact Bool.noConfusion hy
    | inf b => cases b <;> rfl
    | fin b n g =>
      rw [Bool.eq_iff_iff, FVal.negate, FVal.negate, valLt_fin, valLt_fin]
      cases a <;> cases b <;> simp [neg_lt, lt_neg]

theorem Fmt.dec_withSign_not (neg : Bool) {p : Nat} (le : p ≤ f.posInf) : f.dec (f.withSign (!neg) p) = (f.dec (f.withSign neg p)).negate := by
  have lt := le.trans_lt f.posInf_lt
  rw [f.dec_withSign _ lt, f.dec_withSign _ lt]
  split_ifs <;> rfl

theorem Fmt.isNaN_withSign (neg : Bool) {p : Nat} (le : p ≤ f.posInf) : (f.dec (f.withSign neg p)).isNaN = false := by
  rcases le.eq_or_lt with rfl | lt
  · rw [f.dec_withSign_posInf]
    rfl
  · obtain ⟨n, g, dec, -⟩ := f.dec_withSign_fin neg lt
    rw [dec]
    rfl

theorem Fmt.withSign_lt (neg : Bool) {p : Nat} (le : p ≤ f.posInf) : f.withSign neg p < 2 ^ f.width := by
  have lt := f.posInf_lt
  have two : 2 ^ f.width = 2 * f.signBit := pow_succ' _ _
  unfold Fmt.withSign
  split <;> omega

/-- A magnitude that bounds a value from below bounds, negated, the negated value from above. -/
theorem IsFloor.ceil_of_neg {m : Nat} {e : Int} {p : Nat} (le : p ≤ f.posInf) (h : IsFloor f (.fin false m e) (f.withSign false p)) :
    IsCeil f (.fin true m e) (f.withSign true p) := by
  obtain ⟨bound, best⟩ := h
  have flip := Fmt.dec_withSign_not false le
  have num := f.isNaN_withSign false le
  refine ⟨?_, fun y lt ny above => ?_⟩
  · exact (congrArg (valLt · _) flip).trans ((valLt_negate (y := .fin false m e) num rfl).trans bound)
  · obtain ⟨b, q, hq, rfl⟩ := f.eq_withSign lt ny
    have flipQ : f.dec (f.withSign b q) = (f.dec (f.withSign (!b) q)).negate := by rw [← Fmt.dec_withSign_not _ hq, Bool.not_not]
    have numQ := f.isNaN_withSign (!b) hq
    rw [flipQ] at above ⊢
    exact (congrArg (valLt _ ·) flip).trans ((valLt_negate numQ num).trans (best _ (f.withSign_lt _ hq) numQ ((valLt_negate numQ rfl).symm.trans above)))

theorem IsCeil.floor_of_neg {m : Nat} {e : Int} {p : Nat} (le : p ≤ f.posInf) (h : IsCeil f (.fin false m e) (f.withSign false p)) :
    IsFloor f (.fin true m e) (f.withSign true p) := by
  obtain ⟨bound, best⟩ := h
  have flip := Fmt.dec_withSign_not false le
  have num := f.isNaN_withSign false le
  refine ⟨?_, fun y lt ny below => ?_⟩
  · exact (congrArg (valLt _ ·) flip).trans ((valLt_negate (x := .fin false m e) rfl num).trans bound)
  · obtain ⟨b, q, hq, rfl⟩ := f.eq_withSign lt ny
    have flipQ : f.dec (f.withSign b q) = (f.dec (f.withSign (!b) q)).negate := by rw [← Fmt.dec_withSign_not _ hq, Bool.not_not]
    have numQ := f.isNaN_withSign (!b) hq
    rw [flipQ] at below ⊢
    exact (congrArg (valLt · _) flip).trans ((valLt_negate num numQ).trans (best _ (f.withSign_lt _ hq) numQ ((valLt_negate rfl numQ).symm.trans below)))

end

end Sys2Proof.Machine

/-! ROUNDING TO NEAREST: the midpoint of two neighbours, and the rounding to an integer (R57, R62). -/
namespace Sys2Proof.Machine

/-! ## To nearest (R57) -/

section
variable {f : Fmt}

/-- The value that a midpoint takes for an operand: ∞ stands for the value one place beyond the greatest finite one. -/
noncomputable def Fmt.extended (f : Fmt) : FVal → ℝ
  | .inf a => (if a then -1 else 1) * (2 : ℝ) ^ ((f.bias : Int) + 1)
  | v => v.real

theorem Fmt.mag_posInf (wide : 1 ≤ f.ebits) : f.mag f.posInf = (2 : ℝ) ^ ((f.bias : Int) + 1) := by
  have places : f.posInf = 2 * f.bias * 2 ^ f.fbits + 2 ^ f.fbits := by
    have := f.two_bias_add_two wide
    rw [Fmt.posInf, ← this, show 2 * f.bias + 2 - 1 = 2 * f.bias + 1 by omega]
    ring
  rw [places, f.mag_places (Nat.pow_le_pow_right two_pos (Nat.le_succ _)) (.inr le_rfl)]
  push_cast
  rw [← zpow_natCast, ← zpow_add₀ two_ne_zero]
  congr 1
  unfold Fmt.low
  ring

theorem Fmt.extended_withSign (wide : 1 ≤ f.ebits) (neg : Bool) {p : Nat} (le : p ≤ f.posInf) :
    f.extended (f.dec (f.withSign neg p)) = (if neg then -1 else 1) * f.mag p := by
  rcases le.eq_or_lt with rfl | lt
  · rw [f.dec_withSign_posInf, f.mag_posInf wide]
    rfl
  · obtain ⟨m, e, dec, -⟩ := f.dec_withSign_fin neg lt
    rw [← f.real_dec lt, dec]
    rfl

/-- The sign of twice a number less the sum of two is that of the aligned integers. -/
theorem aligned_sign (a b c : Bool) (m n k : Nat) (e g h : Int) :
    let q := min e (min g h)
    let v := 2 * alignTo a m e q - (alignTo b n g q + alignTo c k h q)
    let r := 2 * (FVal.fin a m e).real - ((FVal.fin b n g).real + (FVal.fin c k h).real)
    (0 < v ↔ 0 < r) ∧ (v < 0 ↔ r < 0) := by
  intro q v r
  have unit : (0 : ℝ) < 2 ^ q := by positivity
  have value : (v : ℝ) * 2 ^ q = r := by
    have hm := alignTo_real a m (show q ≤ e from min_le_left _ _)
    have hn := alignTo_real b n (show q ≤ g from (min_le_right _ _).trans (min_le_left _ _))
    have hk := alignTo_real c k (show q ≤ h from (min_le_right _ _).trans (min_le_right _ _))
    simp only [v, r, ← hm, ← hn, ← hk]
    push_cast
    ring
  rw [← value]
  exact ⟨by rw [mul_pos_iff_of_pos_right unit, Int.cast_pos], by
    rw [← Int.cast_lt_zero (R := ℝ)]
    exact ⟨fun h => mul_neg_of_neg_of_pos h unit, fun h => neg_of_mul_neg_left h unit.le⟩⟩

/-- The midpoint that the statement computes has the sign of the exact difference. -/
theorem midpoint_sign (neg : Bool) (m : Nat) (e : Int) {X Y : FVal} (hx : X.isNaN = false) (hy : Y.isNaN = false) :
    let r := 2 * (FVal.fin neg m e).real - (f.extended X + f.extended Y)
    (0 < midpoint f (.fin neg m e) X Y ↔ 0 < r) ∧ (midpoint f (.fin neg m e) X Y < 0 ↔ r < 0) := by
  have infinite (a : Bool) : f.extended (.inf a) = (FVal.fin a 1 ((f.bias : Int) + 1)).real := by simp [Fmt.extended, FVal.real]
  cases X with
  | nan => exact Bool.noConfusion hx
  | inf b => cases Y with
    | nan => exact Bool.noConfusion hy
    | inf c =>
      rw [infinite, infinite]
      exact aligned_sign ..
    | fin c k h =>
      rw [infinite]
      exact aligned_sign ..
  | fin b n g => cases Y with
    | nan => exact Bool.noConfusion hy
    | inf c =>
      rw [infinite]
      exact aligned_sign ..
    | fin c k h => exact aligned_sign ..

variable (wide : 1 ≤ f.ebits) (frac : 1 ≤ f.fbits) {x : ℝ} (pos : 0 < x)
include wide frac pos

/-- The two neighbours of a number among the values of the format, ∞ being one, and which of them is the nearer. -/
theorem rounded_rne : let lo := (f.rounded .rdn x).1
    let hi := (f.rounded .rup x).1
    (hi = lo ∨ hi = lo + 1) ∧ hi ≤ f.posInf ∧ (f.rounded .rne x).1 = if f.mag lo + f.mag hi < 2 * x then hi else if 2 * x < f.mag lo + f.mag hi then lo
      else if lo % 2 = 0 then lo else hi := by
  have inf := Fmt.posInf_pos wide
  intro lo hi
  have hlo : lo = min (f.pat .rdn x) (f.posInf - 1) := rounded_rdn wide x
  have hhi : hi = min (f.pat .rup x) f.posInf := rounded_up (.inl rfl) x
  rw [rounded_up (.inr rfl)]
  by_cases beyond : f.posInf ≤ f.pat .rdn x
  · -- beyond the greatest finite value: ∞ is the nearer
    have up : f.posInf ≤ f.pat .rup x := by
      rcases f.pat_eq_or pos frac .rup with h | ⟨-, h⟩ <;> omega
    have near : f.posInf ≤ f.pat .rne x := by
      rcases f.pat_eq_or pos frac .rne with h | ⟨-, h⟩ <;> omega
    have loEq : lo = f.posInf - 1 := by omega
    have hiEq : hi = f.posInf := by omega
    have below : f.mag lo < f.mag hi := f.mag_strictMono (by omega)
    have above : f.mag hi ≤ x := (f.le_pat_rdn_iff pos).1 (by omega)
    exact ⟨by omega, by omega, by rw [if_pos (by linarith)]; omega⟩
  · have loEq : lo = f.pat .rdn x := by omega
    by_cases exact_ : f.Exact x
    · have hiEq : hi = lo := by rw [hhi, f.pat_rup_of_exact pos exact_]; omega
      rw [f.pat_of_exact pos frac exact_, hiEq]
      exact ⟨.inl rfl, by omega, by split_ifs <;> omega⟩
    · have hiEq : hi = lo + 1 := by rw [hhi, f.pat_rup_of_not_exact pos exact_]; omega
      rw [f.pat_rne pos frac, hiEq, loEq]
      refine ⟨.inr rfl, by omega, ?_⟩
      split_ifs <;> omega

end

/-! ## The integer nearest to a magnitude (R61, R62) -/

/-- The quotient and the remainder of a number's negation. -/
theorem neg_ediv_emod {s r u : Nat} (lt : r < u) :
    (r = 0 → -(u * s + r : Int) / u = -s ∧ -(u * s + r : Int) % u = 0) ∧ (r ≠ 0 → -(u * s + r : Int) / u = -(s + 1) ∧ -(u * s + r : Int) % u = u - r) := by
  have pos : (0 : Int) < u := by omega
  constructor
  · rintro rfl
    exact (Int.ediv_emod_unique pos).2 ⟨by push_cast; ring, le_rfl, pos⟩
  · intro some
    exact (Int.ediv_emod_unique pos).2 ⟨by ring, by omega, by omega⟩

theorem raises_div {d : RMode} {s r u : Nat} (pos : 0 < u) : Raises d s ((r : ℝ) / u) ↔ match d with
    | .rtz | .rdn => False
    | .rup => 0 < r
    | .rne => u < 2 * r ∨ 2 * r = u ∧ s % 2 = 1 := by
  have posR : (0 : ℝ) < u := by exact_mod_cast pos
  cases d with
  | rtz | rdn => exact Iff.rfl
  | rup => simp only [Raises, div_pos_iff_of_pos_right posR, Nat.cast_pos]
  | rne =>
    have twice : 2 * ((r : ℝ) / u) = ((2 * r : Nat) : ℝ) / u := by push_cast; ring
    simp only [Raises, twice, one_lt_div posR, div_eq_one_iff_eq posR.ne', Nat.cast_lt, Nat.cast_inj]

/-- The rounded integer of R62 is the rounded magnitude under its sign. -/
theorem roundedInt_eq (d : RMode) (neg : Bool) (m : Nat) (e : Int) :
    roundedInt d neg m e = signed neg (roundReal (d.ofMag neg) (m * 2 ^ e)) := by
  obtain ⟨M, hM⟩ : ∃ M, m * 2 ^ e.toNat = M := ⟨_, rfl⟩
  obtain ⟨u, hu⟩ : ∃ u, 2 ^ (-e).toNat = u := ⟨_, rfl⟩
  have posU : 0 < u := hu ▸ Nat.two_pow_pos _
  have posR : (0 : ℝ) < u := by exact_mod_cast posU
  have value : (m : ℝ) * 2 ^ e = M / u := by
    rw [eq_div_iff posR.ne', ← hM, ← hu]
    push_cast
    rw [← zpow_natCast, ← zpow_natCast, mul_assoc, ← zpow_add₀ two_ne_zero]
    congr 2
    omega
  obtain ⟨s, r, lt, rfl⟩ : ∃ s r, r < u ∧ M = u * s + r := ⟨M / u, M % u, Nat.mod_lt _ posU, (Nat.div_add_mod _ _).symm⟩
  have split : ((u * s + r : Nat) : ℝ) / u = s + (r : ℝ) / u := by
    push_cast
    field_simp
  have nonneg : 0 ≤ (r : ℝ) / u := by positivity
  have below : (r : ℝ) / u < 1 := by
    rw [div_lt_one posR]
    exact_mod_cast lt
  have rounds : (roundReal (d.ofMag neg) (m * 2 ^ e) = s + 1 ∧ Raises (d.ofMag neg) s ((r : ℝ) / u)) ∨
      (roundReal (d.ofMag neg) (m * 2 ^ e) = s ∧ ¬Raises (d.ofMag neg) s ((r : ℝ) / u)) := by
    rw [value, split]
    by_cases up : Raises (d.ofMag neg) s ((r : ℝ) / u)
    · exact .inl ⟨roundReal_raised nonneg below up, up⟩
    · exact .inr ⟨roundReal_kept nonneg below up, up⟩
  have magnitude : ((m : Int) * 2 ^ e.toNat) = u * s + r := by exact_mod_cast hM
  have unit : (2 : Int) ^ (-e).toNat = u := by exact_mod_cast hu
  have quotient : ((u : Int) * s + r) / u = s ∧ ((u : Int) * s + r) % u = r := (Int.ediv_emod_unique (by omega)).2 ⟨by ring, by omega, by omega⟩
  obtain ⟨down, rest, negated, whole⟩ : ∃ down rest : Int, (-((u : Int) * s + r) / u = down ∧ -((u : Int) * s + r) % u = rest) ∧
      (r = 0 ∧ down = -s ∧ rest = 0 ∨ 0 < r ∧ down = -(s + 1) ∧ rest = u - r) := by
    obtain ⟨zero, some⟩ := neg_ediv_emod (s := s) lt
    refine ⟨_, _, ⟨rfl, rfl⟩, ?_⟩
    rcases Nat.eq_zero_or_pos r with h | h
    · exact .inl ⟨h, zero h⟩
    · exact .inr ⟨h, some h.ne'⟩
  rw [raises_div posU] at rounds
  generalize roundReal (d.ofMag neg) (m * 2 ^ e) = R at rounds ⊢
  unfold roundedInt
  cases neg with
  | false =>
    simp only [Bool.false_eq_true, if_false, magnitude, unit, quotient.1, quotient.2, negated.1, signed]
    cases d <;> simp only [RMode.ofMag, and_false, false_or, not_false_eq_true, and_true] at rounds ⊢ <;> omega
  | true =>
    simp only [if_true, neg_mul, magnitude, unit, negated.1, negated.2, quotient.1, neg_neg, signed]
    cases d <;> simp only [RMode.ofMag, and_false, false_or, not_false_eq_true, and_true] at rounds ⊢ <;> omega

end Sys2Proof.Machine

/-! THE ROUNDING OF ±m × 2^e in each direction, with its flags (R57, R58). -/
namespace Sys2Proof.Machine

/-! ## The flags of a rounding (R57, R58) -/

/-- What the rules of rounding ask of a format. -/
structure Fmt.Ok (f : Fmt) : Prop where
  wide : 2 ≤ f.ebits
  frac : 2 ≤ f.fbits
  room : f.fbits ≤ f.bias
  whole : f.bias + f.fbits < 2 ^ (f.fbits + 1)

theorem Fmt.ok_of_mem {f : Fmt} (h : f ∈ formats) : f.Ok := by
  simp only [formats, List.mem_cons, List.not_mem_nil, or_false] at h
  rcases h with rfl | rfl | rfl <;> exact ⟨by decide, by decide, by decide, by decide⟩

section
variable {f : Fmt} (ok : f.Ok)

include ok in
theorem Fmt.Ok.bias_pos : 0 < f.bias := by have := ok.frac; have := ok.room; omega

include ok in
theorem Fmt.Ok.wide' : 1 ≤ f.ebits := ok.wide.trans' one_le_two

include ok in
theorem Fmt.Ok.frac' : 1 ≤ f.fbits := ok.frac.trans' one_le_two

variable (d : RMode) {x : ℝ} (pos : 0 < x)

include pos in
/-- The value of a pattern is exact and has no other pattern. -/
theorem Fmt.exact_mag {p : Nat} (value : f.mag p = x) : f.pat .rdn x = p ∧ f.Exact x := by
  have same : f.pat .rdn x = p := by
    apply le_antisymm
    · rw [← f.mag_strictMono.le_iff_le, value]
      exact f.mag_pat_rdn_le pos
    · exact (f.le_pat_rdn_iff pos).2 value.le
  exact ⟨same, by rw [Fmt.Exact, same, value]⟩

/-- What rounding can give: a value beyond the greatest finite one; an exact value; an inexact one, tiny or not. -/
theorem rounded_cases : f.posInf ≤ f.pat d x ∧ f.rounded d x = (overflowBits f d false, Fl.of ||| Fl.nx) ∨
    f.pat d x < f.posInf ∧ f.Exact x ∧ f.rounded d x = (f.pat d x, 0) ∨
    f.pat d x < f.posInf ∧ ¬f.Exact x ∧ f.Tiny d x ∧ f.rounded d x = (f.pat d x, Fl.nx ||| Fl.uf) ∨
    f.pat d x < f.posInf ∧ ¬f.Exact x ∧ ¬f.Tiny d x ∧ f.rounded d x = (f.pat d x, Fl.nx) := by
  unfold Fmt.rounded
  split_ifs with beyond exact_ tiny
  · exact .inl ⟨beyond, rfl⟩
  · exact .inr (.inl ⟨not_le.1 beyond, exact_, rfl⟩)
  · exact .inr (.inr (.inl ⟨not_le.1 beyond, exact_, tiny, rfl⟩))
  · exact .inr (.inr (.inr ⟨not_le.1 beyond, exact_, tiny, rfl⟩))

theorem rounded_le_posInf : (f.rounded d x).1 ≤ f.posInf := by
  rcases rounded_cases (f := f) d (x := x) with ⟨-, h⟩ | ⟨lt, -, h⟩ | ⟨lt, -, -, h⟩ | ⟨lt, -, -, h⟩ <;> rw [h]
  · cases d <;> simp [overflowBits, Fmt.maxFin]
  all_goals exact lt.le

include ok pos in
/-- A number beyond the greatest finite value, once it is rounded with an exponent of any size. -/
theorem posInf_le_pat_iff : f.posInf ≤ f.pat d x ↔
    (f.bias : Int) < Int.log 2 x ∨ Int.log 2 x = f.bias ∧ roundReal d (x * 2 ^ (f.fbits - Int.log 2 x)) = 2 ^ (f.fbits + 1) := by
  have bias := ok.bias_pos
  have unit : 0 < 2 ^ f.fbits := Nat.two_pow_pos _
  have inf : f.posInf = (2 * f.bias + 1) * 2 ^ f.fbits := by
    rw [Fmt.posInf, ← f.two_bias_add_two ok.wide']
    rfl
  obtain ⟨k, sig, ρ, ρpos, ρlt, place, rest, top, low, -⟩ := f.pat_split pos
  obtain ⟨S, hS⟩ : ∃ S, roundReal d (x * 2 ^ (-f.lastPlace x)) = S := ⟨_, rfl⟩
  have between : sig ≤ S ∧ S ≤ sig + 1 := by
    rw [← hS, rest]
    by_cases up : Raises d sig ρ
    · rw [roundReal_raised ρpos ρlt up]; omega
    · rw [roundReal_kept ρpos ρlt up]; omega
  have pat : f.pat d x = k * 2 ^ f.fbits + S := by
    rw [Fmt.pat, hS, place, add_sub_cancel_left, Int.toNat_natCast]
  rw [pow_succ] at top ⊢
  rw [pat, inf]
  rcases Nat.eq_zero_or_pos k with rfl | kpos
  · have small : Int.log 2 x ≤ 1 - f.bias := by
      have := le_max_left (Int.log 2 x - f.fbits) f.low
      rw [← Fmt.lastPlace, place] at this
      unfold Fmt.low at this
      omega
    constructor
    · intro le
      have : 3 * 2 ^ f.fbits ≤ (2 * f.bias + 1) * 2 ^ f.fbits := Nat.mul_le_mul_right _ (by omega)
      omega
    · rintro (h | ⟨h, -⟩) <;> omega
  · have normal : f.lastPlace x = Int.log 2 x - f.fbits := by
      rcases max_choice (Int.log 2 x - f.fbits) f.low with h | h
      · exact h
      · rw [← Fmt.lastPlace] at h
        omega
    have log : Int.log 2 x = k + 1 - f.bias := by
      rw [normal] at place
      unfold Fmt.low at place
      omega
    rw [normal, neg_sub] at hS
    rw [hS]
    have least := low.resolve_left kpos.ne'
    rcases lt_trichotomy (k + 1) (2 * f.bias) with h | h | h
    · have : (k + 2) * 2 ^ f.fbits ≤ (2 * f.bias) * 2 ^ f.fbits := Nat.mul_le_mul_right _ (by omega)
      rw [Nat.add_mul] at this ⊢
      exact ⟨fun _ => by omega, by rintro (g | ⟨g, -⟩) <;> omega⟩
    · rw [← h, Nat.add_mul, Nat.add_mul]
      exact ⟨fun _ => .inr ⟨by omega, by omega⟩, by rintro (g | ⟨-, g⟩) <;> omega⟩
    · have : (2 * f.bias) * 2 ^ f.fbits ≤ k * 2 ^ f.fbits := Nat.mul_le_mul_right _ (by omega)
      rw [Nat.add_mul]
      exact ⟨fun _ => .inl (by omega), fun _ => by omega⟩

/-- A pattern's value is the number itself exactly where it is a value of the format in range. -/
theorem valEq_dec (m : Nat) (e : Int) (neg : Bool) {p : Nat} (le : p ≤ f.posInf) :
    valEq (.fin neg m e) (f.dec (f.withSign neg p)) = true ↔ p < f.posInf ∧ f.mag p = m * 2 ^ e := by
  rcases le.eq_or_lt with rfl | lt
  · rw [f.dec_withSign_posInf]
    cases neg <;> simp [valEq, valLt, FVal.isNaN]
  · obtain ⟨n, g, dec, value⟩ := f.dec_withSign_fin neg lt
    rw [dec, valEq_fin, ← value]
    cases neg <;> simp [lt, eq_comm]

include ok in
/-- R57, R58: the news, the overflow and the underflow of a rounding. -/
theorem rounded_flags {m : Nat} {e : Int} (pos : (0 : ℝ) < m * 2 ^ e) (neg : Bool) :
    let x : ℝ := m * 2 ^ e
    let r := f.rounded d x
    let exact_ := valEq (.fin neg m e) (f.dec (f.withSign neg r.1))
    (r.2 &&& Fl.nx != 0) = !exact_ ∧ r.2 &&& ~~~(Fl.of ||| Fl.uf ||| Fl.nx) = 0 ∧ (r.2 &&& Fl.of ≠ 0 ↔ f.posInf ≤ f.pat d x) ∧
      (r.2 &&& Fl.uf ≠ 0 ↔ (r.2 &&& Fl.nx != 0) = true ∧ f.Tiny d x) := by
  intro x r exact_
  have exactIff : exact_ = true ↔ f.pat d x < f.posInf ∧ f.Exact x := by
    rw [valEq_dec m e neg (rounded_le_posInf d)]
    by_cases within : f.pat d x < f.posInf
    · have same : (f.rounded d (m * 2 ^ e)).1 = f.pat d x := by rw [Fmt.rounded, if_neg (not_le.2 within)]
      rw [same, f.mag_pat_eq_iff pos ok.frac' d]
    · refine iff_of_false (fun ⟨lt, value⟩ => within ?_) fun h => within h.1
      have exact' := f.exact_mag pos value
      rw [f.pat_of_exact pos ok.frac' exact'.2 d, exact'.1]
      exact lt
  have bias := ok.bias_pos
  have notTinyOf : f.posInf ≤ f.pat d x → ¬f.Tiny d x := fun le tiny => by
    have low : Int.log 2 ((m : ℝ) * 2 ^ e) < 1 - f.bias := tiny.1
    rcases (posInf_le_pat_iff ok d pos).1 le with h | ⟨h, -⟩ <;> omega
  have inexactOf (h : ¬(f.pat d x < f.posInf ∧ f.Exact x)) : exact_ = false := Bool.eq_false_iff.2 (mt exactIff.1 h)
  rcases rounded_cases (f := f) d (x := x) with ⟨le, h⟩ | ⟨lt, exact', h⟩ | ⟨lt, inexact, tiny, h⟩ | ⟨lt, inexact, notTiny, h⟩
  · have := notTinyOf le
    rw [inexactOf fun g => absurd g.1 (not_lt.2 le), show r = _ from h]
    simp only [le, this, and_false, iff_true, iff_false, not_not]
    decide
  · rw [exactIff.2 ⟨lt, exact'⟩, show r = _ from h]
    simp only [not_le.2 lt, iff_false, not_not]
    exact ⟨by decide, by decide, by decide, iff_of_false (by decide) fun g => absurd g.1 (by decide)⟩
  · rw [inexactOf fun g => inexact g.2, show r = _ from h]
    simp only [not_le.2 lt, tiny, and_true, iff_false, not_not]
    decide
  · rw [inexactOf fun g => inexact g.2, show r = _ from h]
    simp only [not_le.2 lt, notTiny, and_false, iff_false, not_not]
    decide

/-! ## Every value, in every direction -/

/-- The rounding of ±m × 2^e is that of its magnitude, under its sign. -/
theorem roundPack_exact (wide : 1 ≤ f.ebits) (neg : Bool) {m : Nat} (e : Int) (nonzero : m ≠ 0) : roundPack f d neg m e false =
    (f.withSign neg (f.rounded (d.ofMag neg) (m * 2 ^ e)).1, (f.rounded (d.ofMag neg) (m * 2 ^ e)).2) := by
  rw [roundPack_withSign, roundPack_eq_rounded f wide (d.ofMag neg) e nonzero (sticky := false) (μ := m) rfl (by simp)]

/-- The rounding of ±(m + more) × 2^e, where more stands for what lies below the magnitude. -/
theorem roundPack_sticky (wide : 1 ≤ f.ebits) (neg : Bool) {m : Nat} (e : Int) (room : 2 ^ (f.fbits + 1) ≤ m) {μ : ℝ} (above : m < μ) (below : μ < m + 1) :
    roundPack f d neg m e true = (f.withSign neg (f.rounded (d.ofMag neg) (μ * 2 ^ e)).1, (f.rounded (d.ofMag neg) (μ * 2 ^ e)).2) := by
  have nonzero : m ≠ 0 := (Nat.lt_of_lt_of_le (Nat.two_pow_pos _) room).ne'
  rw [roundPack_withSign, roundPack_eq_rounded f wide (d.ofMag neg) e nonzero (sticky := true) (μ := μ) ⟨above, below⟩ fun _ => room]

/-- A sticky magnitude rounds as every magnitude between it and the next one. -/
theorem roundPack_between (wide : 1 ≤ f.ebits) (neg : Bool) {m : Nat} (e : Int) (room : 2 ^ (f.fbits + 1) ≤ m) {k n : Nat} (above : m * 2 ^ k < n)
    (below : n < (m + 1) * 2 ^ k) : roundPack f d neg m e true = roundPack f d neg n (e - k) false := by
  have unit : (0 : ℝ) < 2 ^ k := by positivity
  have aboveR : (m : ℝ) * 2 ^ k < n := by exact_mod_cast above
  have belowR : (n : ℝ) < (m + 1) * 2 ^ k := by exact_mod_cast below
  rw [roundPack_sticky d wide neg e room (μ := n / 2 ^ k) ((lt_div_iff₀ unit).2 aboveR) ((div_lt_iff₀ unit).2 belowR),
    roundPack_exact d wide neg (e - k) (by omega)]
  have same : (n : ℝ) / 2 ^ k * 2 ^ e = n * 2 ^ (e - k) := by
    rw [zpow_sub₀ two_ne_zero, zpow_natCast]
    ring
  rw [same]

/-- A magnitude rounds alike at every exponent at which it is written. -/
theorem roundPack_shift (wide : 1 ≤ f.ebits) (neg : Bool) {m : Nat} (e : Int) (nonzero : m ≠ 0) (k : Nat) :
    roundPack f d neg (m * 2 ^ k) (e - k) false = roundPack f d neg m e false := by
  have same : ((m * 2 ^ k : Nat) : ℝ) * 2 ^ (e - k) = m * 2 ^ e := by
    push_cast
    rw [zpow_sub₀ two_ne_zero, zpow_natCast]
    field_simp
  rw [roundPack_exact d wide neg (e - k) (Nat.mul_ne_zero nonzero (Nat.two_pow_pos k).ne'), roundPack_exact d wide neg e nonzero, same]

end

section
variable {f : Fmt} (ok : f.Ok) (neg : Bool) {m : Nat} (e : Int) (nonzero : m ≠ 0)
include ok nonzero

/-- R57: toward −∞, the greatest value of the format that is not above. -/
theorem roundPack_rdn : IsFloor f (.fin neg m e) (roundPack f .rdn neg m e false).1 := by
  have mpos : (0 : ℝ) < m := by exact_mod_cast Nat.pos_of_ne_zero nonzero
  have pos : (0 : ℝ) < m * 2 ^ e := by positivity
  rw [roundPack_exact _ ok.wide' neg e nonzero]
  cases neg with
  | false => exact isFloor_pos ok.wide' pos
  | true => exact (isCeil_pos pos).floor_of_neg (rounded_le_posInf _)

/-- R57: toward +∞, the least value of the format that is not below. -/
theorem roundPack_rup : IsCeil f (.fin neg m e) (roundPack f .rup neg m e false).1 := by
  have mpos : (0 : ℝ) < m := by exact_mod_cast Nat.pos_of_ne_zero nonzero
  have pos : (0 : ℝ) < m * 2 ^ e := by positivity
  rw [roundPack_exact _ ok.wide' neg e nonzero]
  cases neg with
  | false => exact isCeil_pos pos
  | true => exact (isFloor_pos ok.wide' pos).ceil_of_neg (rounded_le_posInf _)

/-- R57: toward zero, the one of the two that is nearer zero. -/
theorem roundPack_rtz : (roundPack f .rtz neg m e false).1 =
    if neg then (roundPack f .rup neg m e false).1 else (roundPack f .rdn neg m e false).1 := by
  have down : f.rounded .rtz (m * 2 ^ e) = f.rounded .rdn (m * 2 ^ e) := rfl
  rw [roundPack_exact _ ok.wide' neg e nonzero, roundPack_exact _ ok.wide' neg e nonzero, roundPack_exact _ ok.wide' neg e nonzero]
  cases neg with
  | false => exact congrArg (fun r : Nat × Fl => f.withSign false r.1) down
  | true => exact congrArg (fun r : Nat × Fl => f.withSign true r.1) down

/-- R57: to nearest, the nearer of the two, the even pattern on a tie. -/
theorem roundPack_rne : let v := FVal.fin neg m e
    let r (d : RMode) : Nat := (roundPack f d neg m e false).1
    r .rne = if 0 < midpoint f v (f.dec (r .rdn)) (f.dec (r .rup)) then r .rup
      else if midpoint f v (f.dec (r .rdn)) (f.dec (r .rup)) < 0 then r .rdn
      else if r .rdn % 2 = 0 then r .rdn else r .rup := by
  have mpos : (0 : ℝ) < m := by exact_mod_cast Nat.pos_of_ne_zero nonzero
  have pos : (0 : ℝ) < m * 2 ^ e := by positivity
  obtain ⟨next, bound, near⟩ := rounded_rne ok.wide' ok.frac' pos
  intro v r
  have value (d : RMode) : r d = f.withSign neg (f.rounded (d.ofMag neg) (m * 2 ^ e)).1 := by
    simp only [r, roundPack_exact d ok.wide' neg e nonzero]
  have bounded (d : RMode) := rounded_le_posInf (f := f) d (x := m * 2 ^ e)
  obtain ⟨above, below⟩ := midpoint_sign (f := f) neg m e (f.isNaN_withSign neg (bounded (RMode.rdn.ofMag neg)))
    (f.isNaN_withSign neg (bounded (RMode.rup.ofMag neg)))
  rw [f.extended_withSign ok.wide' neg (bounded _), f.extended_withSign ok.wide' neg (bounded _)] at above below
  have even : f.signBit % 2 = 0 := by
    obtain ⟨j, hj⟩ := Nat.exists_eq_add_of_le' ok.frac'
    rw [Fmt.signBit, hj, ← Nat.add_assoc, pow_succ]
    exact Nat.mul_mod_left _ _
  rw [value, value, value]
  generalize midpoint f _ _ _ = mid at above below ⊢
  cases neg with
  | false =>
    simp only [RMode.ofMag, FVal.real_fin_false, Bool.false_eq_true, if_false, one_mul, Fmt.withSign, Nat.zero_add, sub_pos, sub_neg] at above below ⊢
    simp only [above, below]
    exact near
  | true =>
    simp only [RMode.ofMag, FVal.real_fin_true, if_true, neg_one_mul, Fmt.withSign] at above below ⊢
    -- the smaller magnitude is the greater value; of two neighbours one is even
    rcases lt_trichotomy (f.mag (f.rounded .rdn (m * 2 ^ e)).1 + f.mag (f.rounded .rup (m * 2 ^ e)).1) (2 * (m * 2 ^ e)) with h | h | h
    · rw [if_neg (mt above.1 (by linarith)), if_pos (below.2 (by linarith)), near, if_pos h]
    · rw [if_neg (mt above.1 (by linarith)), if_neg (mt below.1 (by linarith))]
      rw [if_neg (by linarith), if_neg (by linarith)] at near
      rw [near]
      split_ifs <;> omega
    · rw [if_pos (above.2 (by linarith)), near, if_neg (by linarith), if_pos h]

end

/-- What O21 says of the one rounding of ±m × 2^e: range, news and flags in each direction; the directed ones and the nearest one. -/
theorem roundPack_rounds {f : Fmt} (ok : f.Ok) (neg : Bool) (m : Nat) (e : Int) (nonzero : m ≠ 0) :
    let v := FVal.fin neg m e
    let r (d : RMode) : Nat := (roundPack f d neg m e false).1
    let inexact (d : RMode) : Bool := (roundPack f d neg m e false).2 &&& Fl.nx != 0
    let flags (d : RMode) : Fl := (roundPack f d neg m e false).2
    let top : Int := e + Nat.log2 m
    let raised (d : RMode) : Bool := (roundedInt d neg m (f.fbits - Nat.log2 m)).natAbs == 2 ^ (f.fbits + 1)
    ∀ d, r d < 2 ^ f.width ∧ (f.dec (r d)).isNaN = false ∧ inexact d = !valEq v (f.dec (r d)) ∧ flags d &&& ~~~(Fl.of ||| Fl.uf ||| Fl.nx) = 0 ∧
      (flags d &&& Fl.of ≠ 0 ↔ f.bias < top ∨ top = f.bias ∧ raised d = true) ∧
      (flags d &&& Fl.uf ≠ 0 ↔ inexact d = true ∧ top < 1 - f.bias ∧ ¬(top = -f.bias ∧ raised d = true)) := by
  have mpos : (0 : ℝ) < m := by exact_mod_cast Nat.pos_of_ne_zero nonzero
  have pos : (0 : ℝ) < m * 2 ^ e := by positivity
  have log : Int.log 2 ((m : ℝ) * 2 ^ e) = e + Nat.log2 m := Stands.log (sticky := false) rfl nonzero e
  intro v r inexact flags top raised d
  have raisedIff : raised d = true ↔ roundReal (d.ofMag neg) (m * 2 ^ e * 2 ^ (f.fbits - Int.log 2 ((m : ℝ) * 2 ^ e))) = 2 ^ (f.fbits + 1) := by
    have place : (m : ℝ) * 2 ^ e * 2 ^ (f.fbits - Int.log 2 ((m : ℝ) * 2 ^ e)) = m * 2 ^ ((f.fbits : Int) - Nat.log2 m) := by
      rw [log, mul_assoc, ← zpow_add₀ two_ne_zero]
      congr 2
      ring
    simp only [raised, roundedInt_eq, place, beq_iff_eq]
    cases neg <;> simp [signed]
  have value := roundPack_exact d ok.wide' neg e nonzero
  obtain ⟨news, mask, over_, under⟩ := rounded_flags ok (d.ofMag neg) pos neg
  have bounded := rounded_le_posInf (f := f) (d.ofMag neg) (x := m * 2 ^ e)
  simp only [r, flags, inexact, value]
  refine ⟨f.withSign_lt neg bounded, f.isNaN_withSign neg bounded, news, mask, ?_, ?_⟩
  · rw [over_, posInf_le_pat_iff ok _ pos, log, raisedIff, log]
  · rw [under, Fmt.Tiny, log, raisedIff, log]

end Sys2Proof.Machine

/-! THE ARITHMETIC ON FINITE OPERANDS gives its exact result, rounded once (R187, R188). -/
namespace Sys2Proof.Machine

/-! ## Arithmetic on finite operands (R187, R188) -/

section
variable {f : Fmt} (ok : f.Ok) (d : RMode)

include ok in
/-- An exact sum rounds alike in every unit in which it is written. -/
theorem exactSum_shift (x y : Bool) (v : Int) {q q' : Int} (le : q ≤ q') :
    exactSum f d x y (v * 2 ^ (q' - q).toNat) q = exactSum f d x y v q' := by
  have unit : (0 : Int) < 2 ^ (q' - q).toNat := by positivity
  unfold exactSum
  by_cases zero : v = 0
  · rw [zero, zero_mul, if_pos rfl, if_pos rfl]
  · have sign : decide (v * 2 ^ (q' - q).toNat < 0) = decide (v < 0) :=
      decide_eq_decide.2 ⟨fun h => neg_of_mul_neg_left h unit.le, fun h => mul_neg_of_neg_of_pos h unit⟩
    have place : q = q' - ((q' - q).toNat : Int) := by omega
    rw [if_neg zero, if_neg (mul_ne_zero zero unit.ne'), sign, Int.natAbs_mul, Int.natAbs_pow,
      ← roundPack_shift d ok.wide' _ q' (Int.natAbs_ne_zero.2 zero) (q' - q).toNat, ← place]
    rfl

theorem alignTo_eq (a : Bool) (m : Nat) (e q : Int) : alignTo a m e q = signed a (m * 2 ^ (e - q).toNat) := by
  cases a <;> simp [alignTo, signed]

theorem signed_shift (a : Bool) (m : Nat) {e q q' : Int} (le : q ≤ q') (le' : q' ≤ e) :
    signed a (m * 2 ^ (e - q).toNat) = signed a (m * 2 ^ (e - q').toNat) * 2 ^ (q' - q).toNat := by
  have parts : (e - q).toNat = (e - q').toNat + (q' - q).toNat := by omega
  rw [parts, pow_add, ← mul_assoc]
  cases a <;> simp [signed]

include ok in
/-- The sum of two finite operands, in any unit that holds both. -/
theorem addVal_fin (a b : Bool) (m n : Nat) {e g q : Int} (he : q ≤ e) (hg : q ≤ g) :
    addVal f d (.fin a m e) (.fin b n g) = exactSum f d a b (signed a (m * 2 ^ (e - q).toNat) + signed b (n * 2 ^ (g - q).toNat)) q := by
  have le : q ≤ min e g := le_min he hg
  rw [signed_shift a m le (min_le_left _ _), signed_shift b n le (min_le_right _ _), ← add_mul, exactSum_shift ok d a b _ le]
  simp only [addVal, roundInt, exactSum, alignTo_eq, zeroSumSign, beq_iff_eq]

theorem negate_fin (c a : Bool) (m : Nat) (e : Int) : (if c then (FVal.fin a m e).negate else .fin a m e) = .fin (a != c) m e := by
  cases c <;> cases a <;> rfl

theorem signed_not (a : Bool) (m : Nat) : signed (!a) m = -signed a m := by cases a <;> simp [signed]

include ok in
theorem fpAdd_fin {a b : Nat} {sa sb : Bool} {ma mb : Nat} {ea eb q : Int} (ha : f.dec a = .fin sa ma ea) (hb : f.dec b = .fin sb mb eb)
    (he : q ≤ ea) (hg : q ≤ eb) :
    fpAdd f d a b = exactSum f d sa sb (signed sa (ma * 2 ^ (ea - q).toNat) + signed sb (mb * 2 ^ (eb - q).toNat)) q := by
  rw [fpAdd, ha, hb, addVal_fin ok d sa sb ma mb he hg]

include ok in
theorem fpSub_fin {a b : Nat} {sa sb : Bool} {ma mb : Nat} {ea eb q : Int} (ha : f.dec a = .fin sa ma ea) (hb : f.dec b = .fin sb mb eb)
    (he : q ≤ ea) (hg : q ≤ eb) :
    fpSub f d a b = exactSum f d sa (!sb) (signed sa (ma * 2 ^ (ea - q).toNat) - signed sb (mb * 2 ^ (eb - q).toNat)) q := by
  rw [fpSub, ha, hb, FVal.negate, addVal_fin ok d sa (!sb) ma mb he hg, signed_not, ← sub_eq_add_neg]

theorem fpMul_fin {a b : Nat} {sa sb : Bool} {ma mb : Nat} {ea eb : Int} (ha : f.dec a = .fin sa ma ea) (hb : f.dec b = .fin sb mb eb) :
    fpMul f d a b = if ma * mb = 0 then (f.zero (sa != sb), 0) else roundPack f d (sa != sb) (ma * mb) (ea + eb) false := by
  have whole : alignTo (sa != sb) (ma * mb) (ea + eb) (ea + eb) = signed (sa != sb) (ma * mb) := by simp [alignTo_eq]
  simp only [fpMul, ha, hb, mulVal, FVal.isNaN, Bool.or_self, Bool.false_eq_true, if_false, whole, roundInt]
  rcases Nat.eq_zero_or_pos (ma * mb) with zero | pos
  · rw [zero]
    cases (sa != sb) <;> rfl
  · have posInt : (0 : Int) < (ma * mb : Nat) := by exact_mod_cast pos
    generalize (sa != sb) = s
    cases s
    · rw [signed, if_neg Bool.false_ne_true, if_neg posInt.ne', if_neg pos.ne', decide_eq_false (not_lt.2 posInt.le), Int.natAbs_natCast]
    · rw [signed, if_pos rfl, if_neg (by omega), if_neg pos.ne', decide_eq_true (by omega), Int.natAbs_neg, Int.natAbs_natCast]

include ok in
theorem fpFma_fin {a b c : Nat} {sa sb sc : Bool} {ma mb mc : Nat} {ea eb ec q : Int} (ha : f.dec a = .fin sa ma ea) (hb : f.dec b = .fin sb mb eb)
    (hc : f.dec c = .fin sc mc ec) (he : q ≤ ea + eb) (hg : q ≤ ec) (np nc : Bool) :
    fpFma f d np nc a b c = exactSum f d ((sa != sb) != np) (sc != nc)
      (signed ((sa != sb) != np) (ma * mb * 2 ^ (ea + eb - q).toNat) + signed (sc != nc) (mc * 2 ^ (ec - q).toNat)) q := by
  have sign : ((sa != np) != sb) = ((sa != sb) != np) := by cases sa <;> cases sb <;> cases np <;> rfl
  simp only [fpFma, ha, hb, hc, negate_fin, mulVal, FVal.isNaN, Bool.or_self, Bool.false_eq_true, if_false, sign]
  exact addVal_fin ok d _ _ _ _ he hg

theorem le_two_pow_bitLen (n : Nat) : n ≤ 2 ^ bitLen n := by
  rcases Nat.eq_zero_or_pos n with rfl | pos
  · exact Nat.zero_le _
  · rw [bitLen_eq pos.ne']
    exact Nat.lt_log2_self.le

/-- The bits of a quotient: at least two more than the format holds. -/
theorem divBits_room (m : Nat) {n : Nat} (mpos : m ≠ 0) : 2 ^ (f.fbits + 1) * n ≤ m * 2 ^ (bitLen n + 2 * f.fbits + 8) := by
  have parts : 2 ^ (bitLen n + 2 * f.fbits + 8) = 2 ^ (f.fbits + 1) * 2 ^ (f.fbits + 7) * 2 ^ bitLen n := by
    rw [← pow_add, ← pow_add]
    congr 1
    omega
  rw [parts]
  calc 2 ^ (f.fbits + 1) * n ≤ 2 ^ (f.fbits + 1) * 2 ^ (f.fbits + 7) * 2 ^ bitLen n :=
        Nat.mul_le_mul (Nat.le_mul_of_pos_right _ (Nat.two_pow_pos _)) (le_two_pow_bitLen n)
    _ ≤ _ := Nat.le_mul_of_pos_left _ (Nat.pos_of_ne_zero mpos)

theorem fpDiv_fin {a b : Nat} {sa sb : Bool} {ma mb : Nat} {ea eb : Int} (ha : f.dec a = .fin sa ma ea) (hb : f.dec b = .fin sb mb eb)
    (hm : ma ≠ 0) (hn : mb ≠ 0) : ∃ k : Nat, 2 ^ (f.fbits + 1) * mb ≤ ma * 2 ^ k ∧
      fpDiv f d a b = roundPack f d (sa != sb) (ma * 2 ^ k / mb) (ea - eb - k) (ma * 2 ^ k % mb != 0) := by
  refine ⟨_, divBits_room ma hm, ?_⟩
  simp only [fpDiv, ha, hb, if_neg hm, if_neg hn, divBits]

theorem fpRcp_fin {a : Nat} {sa : Bool} {ma : Nat} {ea : Int} (ha : f.dec a = .fin sa ma ea) (hm : ma ≠ 0) :
    ∃ k : Nat, 2 ^ (f.fbits + 1) * ma ≤ 2 ^ k ∧ fpRcp f d a = roundPack f d sa (2 ^ k / ma) (-ea - k) (2 ^ k % ma != 0) := by
  refine ⟨_, (divBits_room 1 one_ne_zero).trans_eq (one_mul _), ?_⟩
  simp only [fpRcp, ha, if_neg hm, divBits, one_mul]

theorem fpSqrt_fin {a : Nat} {ma : Nat} {ea : Int} (ha : f.dec a = .fin false ma ea) (hm : ma ≠ 0) :
    ∃ k r : Nat, (ea - k) % 2 = 0 ∧ r * r ≤ ma * 2 ^ k ∧ ma * 2 ^ k < (r + 1) * (r + 1) ∧ 2 ^ (f.fbits + 1) ≤ r ∧
      fpSqrt f d a = roundPack f d false r ((ea - k) / 2) (r * r != ma * 2 ^ k) := by
  obtain ⟨odd, hodd, parity⟩ : ∃ odd : Nat, odd = (if ea % 2 = 0 then 0 else 1) ∧ (ea - odd) % 2 = 0 := by
    refine ⟨_, rfl, ?_⟩
    split <;> push_cast <;> omega
  refine ⟨2 * (2 * f.fbits + 8) + odd, Nat.sqrt (ma * 2 ^ (2 * (2 * f.fbits + 8) + odd)), by push_cast; omega, Nat.sqrt_le _, Nat.lt_succ_sqrt _, ?_, ?_⟩
  · rw [Nat.le_sqrt, ← pow_add]
    exact (Nat.pow_le_pow_right two_pos (by omega)).trans (Nat.le_mul_of_pos_left _ (Nat.pos_of_ne_zero hm))
  · simp only [fpSqrt, ha, if_neg hm, Bool.false_eq_true, if_false, ← hodd]
    congr 1
    push_cast
    omega

theorem fpRsq_fin {a : Nat} {ma : Nat} {ea : Int} (ha : f.dec a = .fin false ma ea) (hm : ma ≠ 0) :
    ∃ k r : Nat, (ea + k) % 2 = 0 ∧ r * r * ma ≤ 2 ^ k ∧ 2 ^ k < (r + 1) * (r + 1) * ma ∧ 2 ^ (f.fbits + 1) ≤ r ∧
      fpRsq f d a = roundPack f d false r (-((ea + k) / 2)) (r * r * ma != 2 ^ k) := by
  obtain ⟨odd, hodd, parity⟩ : ∃ odd : Nat, odd = (if ea % 2 = 0 then 0 else 1) ∧ (ea - odd) % 2 = 0 := by
    refine ⟨_, rfl, ?_⟩
    split <;> push_cast <;> omega
  have small : odd ≤ 1 := by rw [hodd]; split <;> omega
  obtain ⟨n, hn⟩ : ∃ n, ma * 2 ^ odd = n := ⟨_, rfl⟩
  obtain ⟨k, hk⟩ : ∃ k, bitLen n + 2 * f.fbits + 8 = k := ⟨_, rfl⟩
  obtain ⟨r, hr⟩ : ∃ r, Nat.sqrt (2 ^ (2 * k) / n) = r := ⟨_, rfl⟩
  have npos : 0 < n := hn ▸ Nat.mul_pos (Nat.pos_of_ne_zero hm) (Nat.two_pow_pos _)
  have unit : 0 < 2 ^ odd := Nat.two_pow_pos _
  have whole : 2 ^ (2 * k - odd) * 2 ^ odd = 2 ^ (2 * k) := by
    rw [← pow_add]
    congr 1
    omega
  have below : r * r * n ≤ 2 ^ (2 * k) := (Nat.le_div_iff_mul_le npos).1 (hr ▸ Nat.sqrt_le _)
  have above : 2 ^ (2 * k) < (r + 1) * (r + 1) * n := (Nat.div_lt_iff_lt_mul npos).1 (hr ▸ Nat.lt_succ_sqrt _)
  have room : 2 ^ (f.fbits + 1) ≤ r := by
    rw [← hr, Nat.le_sqrt, Nat.le_div_iff_mul_le npos, ← pow_add]
    calc 2 ^ (f.fbits + 1 + (f.fbits + 1)) * n ≤ 2 ^ (f.fbits + 1 + (f.fbits + 1)) * 2 ^ bitLen n := Nat.mul_le_mul_left _ (le_two_pow_bitLen n)
      _ = 2 ^ (f.fbits + 1 + (f.fbits + 1) + bitLen n) := (pow_add ..).symm
      _ ≤ 2 ^ (2 * k) := Nat.pow_le_pow_right two_pos (by omega)
  rw [← hn, ← mul_assoc, ← whole] at below above
  refine ⟨2 * k - odd, r, by omega, Nat.le_of_mul_le_mul_right below unit, Nat.lt_of_mul_lt_mul_right above, room, ?_⟩
  have exact_ : (r * r * n != 2 ^ (2 * k)) = (r * r * ma != 2 ^ (2 * k - odd)) := by
    rw [← hn, ← mul_assoc, ← whole, Bool.eq_iff_iff, bne_iff_ne, bne_iff_ne, ne_eq, ne_eq, Nat.mul_left_inj unit.ne']
  simp only [fpRsq, ha, if_neg hm, Bool.false_eq_true, if_false, ← hodd, hn, hk, hr, exact_]
  congr 1
  omega

include ok in
/-- R187, R188: the arithmetic on finite operands, one instruction after the other. -/
theorem finiteArithmetic : FiniteArithmetic f d := by
  intro a b c sa sb sc ma mb mc ea eb ec ha hb hc
  refine ⟨fun q he hg => ⟨fpAdd_fin ok d ha hb he hg, fpSub_fin ok d ha hb he hg⟩, fpMul_fin d ha hb, fun q he hg np nc => fpFma_fin ok d ha hb hc he hg np nc,
    fpDiv_fin d ha hb, fun hm pos => ?_, fpRcp_fin d ha, fun hm pos => ?_⟩
  · subst pos
    exact fpSqrt_fin d ha hm
  · subst pos
    exact fpRsq_fin d ha hm

end

end Sys2Proof.Machine

/-! WHAT THE ROUNDING OF AN ENCLOSURE TELLS of the number that it holds (R189). -/
namespace Sys2Proof.Machine

/-! ## The value nearest to a real number (R189) -/

section
variable {f : Fmt}

/-- The real numbers, doubled, to which no pattern is nearer than p: those between the midpoints to its two neighbours. The pattern of ∞ has them
all above it. -/
def Fmt.Cell (f : Fmt) (p : Nat) (x : ℝ) : Prop :=
  (p = 0 ∨ f.mag (p - 1) + f.mag p ≤ 2 * x) ∧ (p < f.posInf → 2 * x ≤ f.mag p + f.mag (p + 1))

/-- A number has in its cell what it rounds to, to nearest. -/
theorem Fmt.cell_rounded (ok : f.Ok) {x : ℝ} (pos : 0 < x) : f.Cell (f.rounded .rne x).1 x := by
  have inf := Fmt.posInf_pos ok.wide'
  have low := f.mag_pat_rdn_le pos
  have high := f.lt_mag_pat_rdn_succ pos
  have least : f.pat .rne x = 0 ∨ f.mag (f.pat .rne x - 1) + f.mag (f.pat .rne x) ≤ 2 * x := by
    rcases f.pat_eq_or pos ok.frac' .rne with h | ⟨-, h⟩
    · rw [h]
      rcases Nat.eq_zero_or_pos (f.pat .rdn x) with zero | some
      · exact .inl zero
      · have := f.mag_strictMono (Nat.sub_lt some one_pos)
        exact .inr (by linarith)
    · rw [h]
      have near := f.pat_rne pos ok.frac'
      refine .inr ?_
      rw [Nat.add_sub_cancel]
      by_contra below
      rw [if_neg (by linarith), if_pos (by linarith)] at near
      omega
  have greatest : 2 * x ≤ f.mag (f.pat .rne x) + f.mag (f.pat .rne x + 1) := by
    rcases f.pat_eq_or pos ok.frac' .rne with h | ⟨-, h⟩
    · rw [h]
      by_contra above
      have near := f.pat_rne pos ok.frac'
      rw [if_pos (by linarith)] at near
      omega
    · rw [h]
      have := f.mag_strictMono (Nat.lt_succ_self (f.pat .rdn x + 1))
      linarith
  rw [rounded_up (.inr rfl)]
  rcases le_total f.posInf (f.pat .rne x) with le | le
  · rw [min_eq_right le]
    refine ⟨.inr ?_, fun h => absurd h (lt_irrefl _)⟩
    have := f.mag_strictMono.monotone le
    have := f.mag_strictMono.monotone (Nat.sub_le_sub_right le 1)
    rcases least with zero | some
    · omega
    · linarith
  · rw [min_eq_left le]
    exact ⟨least, fun _ => greatest⟩

/-- Between two numbers that round to one pattern, in its cell, and at their limits, every number is in the cell. -/
theorem Fmt.Cell.between {p : Nat} {a b x u : ℝ} (unit : 0 < u) (below : ∀ y, a < y → y < a + 1 → f.Cell p (y * u))
    (above : ∀ y, b < y → y < b + 1 → f.Cell p (y * u)) (low : a ≤ x) (high : x ≤ b + 1) : f.Cell p (x * u) := by
  constructor
  · by_contra! none
    obtain ⟨pos, lt⟩ := none
    set mid := (f.mag (p - 1) + f.mag p) / 2 / u with hmid
    have middle : f.mag (p - 1) + f.mag p = 2 * (mid * u) := by
      rw [hmid]
      field_simp
    rw [middle] at lt
    have lt' : x < mid := by nlinarith
    obtain ⟨y, ay, yb⟩ := exists_between (lt_min (low.trans_lt lt') (lt_add_one a))
    obtain ⟨ym, ya⟩ := lt_min_iff.1 yb
    have := (below y ay ya).1.resolve_left pos
    rw [middle] at this
    nlinarith
  · intro lt
    by_contra! beyond
    set mid := (f.mag p + f.mag (p + 1)) / 2 / u with hmid
    have middle : f.mag p + f.mag (p + 1) = 2 * (mid * u) := by
      rw [hmid]
      field_simp
    rw [middle] at beyond
    have beyond' : mid < x := by nlinarith
    obtain ⟨y, my, yb⟩ := exists_between (max_lt (beyond'.trans_le high) (lt_add_one b))
    obtain ⟨my', by'⟩ := max_lt_iff.1 my
    have := (above y by' yb).2 lt
    rw [middle] at this
    nlinarith

/-- What "rounds to nearest" asks of a result: the pattern has the number in its cell and its sign, and the flags say that it is inexact, and of
where it is an infinity. -/
def RoundsTo (f : Fmt) (v : ℝ) (r : Nat × Fl) : Prop :=
  ∃ neg p, p ≤ f.posInf ∧ r.1 = f.withSign neg p ∧ 0 ≤ (if neg then -v else v) ∧ f.Cell p (if neg then -v else v) ∧
    r.2 &&& ~~~Fl.uf = if p = f.posInf then Fl.of ||| Fl.nx else Fl.nx

theorem Fmt.Cell.dist_le {p : Nat} {x : ℝ} (cell : f.Cell p x) (lt : p < f.posInf) (q : Nat) : |f.mag p - x| ≤ |f.mag q - x| := by
  obtain ⟨low, high⟩ := cell
  have high := high lt
  have next := f.mag_strictMono (Nat.lt_succ_self p)
  rcases lt_trichotomy q p with h | rfl | h
  · have := f.mag_strictMono.monotone (Nat.le_sub_one_of_lt h)
    have prev := f.mag_strictMono (Nat.sub_lt (by omega : 0 < p) one_pos)
    have low := low.resolve_left (by omega)
    rw [abs_sub_comm (f.mag q), abs_le, abs_of_nonneg (by linarith)]
    constructor <;> linarith
  · exact le_rfl
  · have := f.mag_strictMono.monotone (Nat.succ_le_of_lt h)
    rw [abs_le, abs_of_nonneg (by linarith)]
    constructor <;> linarith

theorem Fmt.edge (ok : f.Ok) : f.mag (f.posInf - 1) + f.mag f.posInf = 2 * ((2 : ℝ) ^ (f.bias + 1 : Int) - (2 : ℝ) ^ ((f.bias : Int) - f.fbits - 1)) := by
  have bias := ok.bias_pos
  have unit : 2 ^ (f.fbits + 1) = 2 * 2 ^ f.fbits := pow_succ' _ _
  have pos : 0 < 2 ^ f.fbits := Nat.two_pow_pos _
  have places : f.posInf - 1 = (2 * f.bias - 1) * 2 ^ f.fbits + (2 ^ (f.fbits + 1) - 1) := by
    have inf : f.posInf = (2 * f.bias + 1) * 2 ^ f.fbits := by rw [Fmt.posInf, ← f.two_bias_add_two ok.wide']; rfl
    obtain ⟨b, hb⟩ := Nat.exists_eq_add_of_lt bias
    rw [inf, unit, hb, show 2 * (0 + b + 1) - 1 = 2 * b + 1 by omega, show 2 * (0 + b + 1) + 1 = 2 * b + 3 by omega, Nat.add_mul, Nat.add_mul]
    omega
  have exponent : f.low + ((2 * f.bias - 1 : Nat) : Int) = (f.bias : Int) - f.fbits := by
    unfold Fmt.low
    omega
  rw [f.mag_posInf ok.wide', places, f.mag_places (by omega) (.inr (by omega)), exponent, Nat.cast_sub (by omega)]
  have one : (2 : ℝ) ^ ((f.bias : Int) - f.fbits) = 2 * 2 ^ ((f.bias : Int) - f.fbits - 1) := by rw [← zpow_one_add₀ two_ne_zero]; congr 1; ring
  have whole : (2 : ℝ) ^ ((f.bias : Int) + 1) = 2 ^ (f.fbits + 1) * 2 ^ ((f.bias : Int) - f.fbits) := by
    rw [← zpow_natCast, ← zpow_add₀ two_ne_zero]
    congr 1
    push_cast
    ring
  push_cast
  rw [sub_mul, ← whole, one_mul, one]
  ring

/-- What rounds to nearest is the nearest value of the format. -/
theorem RoundsTo.nearest (ok : f.Ok) {v : ℝ} {r : Nat × Fl} (h : RoundsTo f v r) :
    Nearest f v r.1 ∧ r.2 &&& ~~~Fl.uf = if f.dec r.1 = .inf false ∨ f.dec r.1 = .inf true then Fl.of ||| Fl.nx else Fl.nx := by
  obtain ⟨neg, p, le, hr, sign, cell, flags⟩ := h
  have edge := f.edge ok
  have inf := f.mag_strictMono.monotone (Nat.sub_le f.posInf 1)
  have infinite (b : Bool) : f.dec r.1 = .inf b → p = f.posInf ∧ b = neg := by
    rw [hr]
    rcases le.eq_or_lt with rfl | lt
    · rw [f.dec_withSign_posInf]
      exact fun h => ⟨rfl, (FVal.inf.inj h).symm⟩
    · obtain ⟨m, e, dec, -⟩ := f.dec_withSign_fin neg lt
      rw [dec]
      exact fun h => FVal.noConfusion h
  have beyond (h : p = f.posInf) : (2 : ℝ) ^ (f.bias + 1 : Int) - (2 : ℝ) ^ ((f.bias : Int) - f.fbits - 1) ≤ if neg then -v else v := by
    subst h
    have := cell.1.resolve_left (Fmt.posInf_pos ok.wide').ne'
    linarith
  refine ⟨⟨hr ▸ f.withSign_lt neg le, hr ▸ f.isNaN_withSign neg le, fun h => ?_, fun h => ?_, fun ⟨_, notPos, notNeg⟩ => ?_⟩, ?_⟩
  · obtain ⟨top, rfl⟩ := infinite _ h
    exact beyond top
  · obtain ⟨top, rfl⟩ := infinite _ h
    have := beyond top
    simp only [if_true] at this
    linarith
  · have lt : p < f.posInf := lt_of_le_of_ne le fun h => by
      rw [hr, h, f.dec_withSign_posInf] at notPos notNeg
      cases neg <;> simp at notPos notNeg
    constructor
    · have high := cell.2 lt
      have := f.mag_strictMono.monotone (show p ≤ f.posInf - 1 by omega)
      have := f.mag_strictMono.monotone (show p + 1 ≤ f.posInf by omega)
      have bound : |v| = if neg then -v else v := by
        cases neg
        · exact abs_of_nonneg sign
        · exact abs_of_nonpos (by simpa using sign)
      rw [bound]
      linarith
    · intro y hy ⟨num, notPos', notNeg'⟩
      obtain ⟨b, q, hq, rfl⟩ := f.eq_withSign hy num
      have ltq : q < f.posInf := lt_of_le_of_ne hq fun h => by
        rw [h, f.dec_withSign_posInf] at notPos' notNeg'
        cases b <;> simp at notPos' notNeg'
      change |(f.dec r.1).real - v| ≤ |(f.dec (f.withSign b q)).real - v|
      rw [hr, f.real_dec lt, f.real_dec ltq]
      -- a value of the other sign is farther than zero
      have zero := cell.dist_le lt 0
      have same := cell.dist_le lt q
      have nonneg := f.mag_nonneg q
      rw [f.mag_zero, zero_sub, abs_neg, abs_of_nonneg sign] at zero
      cases neg <;> cases b <;> simp only [Bool.false_eq_true, if_false, if_true, one_mul, neg_one_mul] at same zero sign ⊢
      · exact same
      · rw [abs_of_nonpos (a := -f.mag q - v) (by linarith)]
        linarith
      · rw [abs_of_nonneg (a := f.mag q - v) (by linarith), abs_sub_comm, sub_neg_eq_add, add_comm]
        rw [sub_neg_eq_add] at zero
        linarith
      · rw [abs_sub_comm, sub_neg_eq_add, add_comm, abs_sub_comm (-f.mag q), sub_neg_eq_add, add_comm v, ← sub_neg_eq_add, ← sub_neg_eq_add (f.mag q)]
        exact same
  · rw [flags]
    by_cases top : p = f.posInf
    · have dec := f.dec_withSign_posInf neg
      rw [hr, top, dec]
      cases neg <;> simp
    · rw [if_neg top, if_neg fun h => top (h.elim (fun g => (infinite _ g).1) fun g => (infinite _ g).1)]

/-! ## Enclosures -/

/-- An enclosure, at a precision, of a real number, where what lies beyond its ends by less than a unit rounds as the ends do. -/
def Ivl.Around (prec : Nat) (x : Ivl) (v : ℝ) : Prop :=
  (0 < x.lo → (x.lo : ℝ) ≤ v * 2 ^ prec ∧ v * 2 ^ prec ≤ x.hi + 1) ∧ (x.hi < 0 → (x.lo : ℝ) - 1 ≤ v * 2 ^ prec ∧ v * 2 ^ prec ≤ x.hi)

/-- The magnitude between two sticky ones that round alike. -/
theorem roundsTo_of_sticky (ok : f.Ok) (neg : Bool) {a b : Nat} {e : Int} {μ v : ℝ} (roomA : 2 ^ (f.fbits + 1) ≤ a) (roomB : 2 ^ (f.fbits + 1) ≤ b)
    (same : roundPack f .rne neg a e true = roundPack f .rne neg b e true) (low : a ≤ μ) (high : μ ≤ b + 1)
    (value : (if neg then -v else v) = μ * 2 ^ e) :
    RoundsTo f v ((roundPack f .rne neg a e true).1, (roundPack f .rne neg a e true).2 ||| Fl.nx) := by
  have nearest : RMode.rne.ofMag neg = .rne := by cases neg <;> rfl
  have unit : (0 : ℝ) < 2 ^ e := by positivity
  have sticky (m : Nat) (room : 2 ^ (f.fbits + 1) ≤ m) (y : ℝ) (above : m < y) (below : y < m + 1) :
      roundPack f .rne neg m e true = (f.withSign neg (f.rounded .rne (y * 2 ^ e)).1, (f.rounded .rne (y * 2 ^ e)).2) ∧ 0 < y * 2 ^ e := by
    have := roundPack_sticky .rne ok.wide' neg e room above below
    rw [nearest] at this
    have : (0 : ℝ) ≤ m := Nat.cast_nonneg m
    exact ⟨by assumption, by have : 0 < y := by linarith
                             positivity⟩
  obtain ⟨form, pos⟩ := sticky a roomA (a + 1 / 2) (by linarith) (by linarith)
  obtain ⟨p, hp⟩ : ∃ p, (f.rounded .rne ((a + 1 / 2) * 2 ^ e)).1 = p := ⟨_, rfl⟩
  have first : (roundPack f .rne neg a e true).1 = f.withSign neg p := by rw [form, hp]
  have cells (m : Nat) (room : 2 ^ (f.fbits + 1) ≤ m) (eq : (roundPack f .rne neg m e true).1 = f.withSign neg p) (y : ℝ) (above : m < y)
      (below : y < m + 1) : f.Cell p (y * 2 ^ e) := by
    obtain ⟨form, pos⟩ := sticky m room y above below
    rw [form] at eq
    have : (f.rounded .rne (y * 2 ^ e)).1 = p := Nat.add_left_cancel eq
    exact this ▸ f.cell_rounded ok pos
  refine ⟨neg, p, hp ▸ rounded_le_posInf _, first, ?_, ?_, ?_⟩
  · rw [value]
    have : (0 : ℝ) ≤ a := Nat.cast_nonneg a
    exact mul_nonneg (by linarith) unit.le
  · rw [value]
    exact Fmt.Cell.between unit (cells a roomA first) (cells b roomB (same ▸ first)) low high
  · rw [form]
    rcases rounded_cases (f := f) .rne (x := (a + 1 / 2) * 2 ^ e) with ⟨le, h⟩ | ⟨lt, exact', h⟩ | ⟨lt, inexact, tiny, h⟩ | ⟨lt, inexact, notTiny, h⟩ <;>
      rw [h] at hp ⊢
    · rw [if_pos (by simpa [overflowBits] using hp.symm)]
      dsimp only
      decide
    all_goals
      rw [if_neg (by rw [← hp]; exact lt.ne)]
      dsimp only
      decide

/-- A magnitude of four bits more than the fraction: also the one below it has two more than the format holds. -/
theorem room_of_bitLen {m : Nat} (bits : f.fbits + 4 ≤ bitLen m) : 2 ^ (f.fbits + 1) + 1 ≤ m := by
  have nonzero : m ≠ 0 := by
    rintro rfl
    exact absurd bits (by simp [bitLen])
  rw [bitLen_eq nonzero] at bits
  have : 2 ^ (f.fbits + 1) < 2 ^ (f.fbits + 2) := Nat.pow_lt_pow_right (by norm_num) (by omega)
  exact this.trans_le ((Nat.pow_le_pow_right two_pos (by omega)).trans (Nat.log2_self_le nonzero))

/-- A number that an enclosure holds, times 2^n, rounds to what the enclosure decides. -/
theorem Ivl.round?_roundsTo (ok : f.Ok) {prec : Nat} {x : Ivl} {n : Int} {v : ℝ} {r : Nat × Fl} (around : x.Around prec v)
    (decided : x.round? f prec n = some r) : RoundsTo f (v * 2 ^ n) r := by
  obtain ⟨positive, negative⟩ := around
  have scale : v * 2 ^ n = v * 2 ^ prec * 2 ^ (n - prec) := by
    rw [zpow_sub₀ two_ne_zero, zpow_natCast]
    field_simp
  unfold Ivl.round? at decided
  dsimp only at decided
  split at decided
  case isTrue pos =>
    obtain ⟨low, high⟩ := positive pos
    split at decided
    case isFalse => exact absurd decided (by simp)
    case isTrue h =>
      obtain ⟨same, bits⟩ : roundPack f .rne false x.lo.toNat (n - prec) true = roundPack f .rne false x.hi.toNat (n - prec) true ∧
        f.fbits + 4 ≤ bitLen x.lo.toNat := by simpa using h
      obtain rfl := Option.some.inj decided
      have room := room_of_bitLen bits
      have order : x.lo ≤ x.hi + 1 := by exact_mod_cast low.trans high
      have lo : ((x.lo.toNat : Nat) : ℝ) = x.lo := by exact_mod_cast Int.toNat_of_nonneg pos.le
      have hi : ((x.hi.toNat : Nat) : ℝ) = x.hi := by exact_mod_cast Int.toNat_of_nonneg (by omega)
      exact roundsTo_of_sticky ok false (by omega) (by omega) same (lo ▸ low) (hi ▸ high) scale
  case isFalse notPos =>
    split at decided
    case isTrue neg =>
      obtain ⟨low, high⟩ := negative neg
      split at decided
      case isFalse => exact absurd decided (by simp)
      case isTrue h =>
        obtain ⟨same, bits⟩ : roundPack f .rne true x.hi.natAbs (n - prec) true = roundPack f .rne true x.lo.natAbs (n - prec) true ∧
          f.fbits + 4 ≤ bitLen x.hi.natAbs := by simpa using h
        obtain rfl := Option.some.inj decided
        have room := room_of_bitLen bits
        have order : x.lo ≤ x.hi + 1 := by exact_mod_cast (by linarith : (x.lo : ℝ) ≤ x.hi + 1)
        have lo : ((x.lo.natAbs : Nat) : ℝ) = -x.lo := by rw [Nat.cast_natAbs, abs_of_nonpos (by omega), Int.cast_neg]
        have hi : ((x.hi.natAbs : Nat) : ℝ) = -x.hi := by rw [Nat.cast_natAbs, abs_of_neg neg, Int.cast_neg]
        exact roundsTo_of_sticky ok true (by omega) (by omega) same (μ := -(v * 2 ^ prec)) (by linarith) (by linarith) (by rw [if_pos rfl, scale]; ring)
    case isFalse => exact absurd decided (by simp)

/-- R189: what the doubling of the precision decides is the number rounded to nearest. -/
theorem decideRound_roundsTo (ok : f.Ok) {g : Nat → Ivl} {n : Int} {v : ℝ} (around : ∀ prec, 96 ≤ prec → (g prec).Around prec v) :
    ∀ fuel prec, 96 ≤ prec → (decideRound f g n fuel prec).1 = f.defNaN ∨ RoundsTo f (v * 2 ^ n) (decideRound f g n fuel prec)
  | 0, _, _ => .inl rfl
  | fuel + 1, prec, enough => by
    unfold decideRound
    split
    case h_1 r decided => exact .inr (Ivl.round?_roundsTo ok (around prec enough) decided)
    case h_2 => exact decideRound_roundsTo ok around fuel (2 * prec) (by omega)

end

end Sys2Proof.Machine

/-! INTERVALS AND SERIES, for the special functions (R189). -/
namespace Sys2Proof.Machine

/-! ## Interval arithmetic (R189) -/

/-- An enclosure, at a precision, holds a real number. -/
def Ivl.Has (prec : Nat) (x : Ivl) (v : ℝ) : Prop := (x.lo : ℝ) ≤ v * 2 ^ prec ∧ v * 2 ^ prec ≤ x.hi

/-- An enclosure of a nonnegative number, itself with no negative end. -/
def Ivl.HasPos (prec : Nat) (x : Ivl) (v : ℝ) : Prop := 0 ≤ x.lo ∧ x.Has prec v

theorem Ivl.Has.around {prec : Nat} {x : Ivl} {v : ℝ} (h : x.Has prec v) : x.Around prec v := by
  obtain ⟨low, high⟩ := h
  exact ⟨fun _ => ⟨low, by linarith⟩, fun _ => ⟨by linarith, high⟩⟩

theorem ediv_le_real (a : Int) {n : Int} (pos : 0 < n) : ((a / n : Int) : ℝ) ≤ a / n := by
  rw [le_div_iff₀ (by exact_mod_cast pos)]
  exact_mod_cast Int.ediv_mul_le a pos.ne'

theorem le_neg_ediv_real (a : Int) {n : Int} (pos : 0 < n) : (a : ℝ) / n ≤ ((-(-a / n) : Int) : ℝ) := by
  have := ediv_le_real (-a) pos
  push_cast at this ⊢
  rw [neg_div] at this
  linarith

theorem shrDown_le (x : Int) (n : Nat) : (shrDown x n : ℝ) ≤ x / 2 ^ n := by
  have := ediv_le_real x (n := (2 ^ n : Nat)) (by positivity)
  unfold shrDown
  push_cast at this ⊢
  exact this

theorem le_shrUp (x : Int) (n : Nat) : (x : ℝ) / 2 ^ n ≤ shrUp x n := by
  have := le_neg_ediv_real x (n := (2 ^ n : Nat)) (by positivity)
  unfold shrUp
  push_cast at this ⊢
  exact this

theorem shrDown_nonneg {x : Int} (h : 0 ≤ x) (n : Nat) : 0 ≤ shrDown x n := Int.ediv_nonneg h (by positivity)

section
variable {prec : Nat}

theorem Ivl.has_ofDyadic (v e : Int) : (Ivl.ofDyadic prec v e).Has prec (v * 2 ^ e) := by
  have scale : (v : ℝ) * 2 ^ e * 2 ^ prec = v * 2 ^ (e + prec) := by rw [zpow_add₀ two_ne_zero, zpow_natCast, mul_assoc]
  unfold Ivl.ofDyadic Ivl.Has
  rw [scale]
  dsimp only
  split
  case isTrue h =>
    have : (2 : ℝ) ^ (e + prec) = 2 ^ (e + prec).toNat := by rw [← zpow_natCast, Int.toNat_of_nonneg h]
    rw [this]
    push_cast
    exact ⟨le_rfl, le_rfl⟩
  case isFalse h =>
    have : (v : ℝ) * 2 ^ (e + prec) = v / 2 ^ (-(e + prec)).toNat := by
      rw [div_eq_mul_inv, ← zpow_natCast, Int.toNat_of_nonneg (by omega), ← zpow_neg, neg_neg]
    rw [this]
    exact ⟨shrDown_le _ _, le_shrUp _ _⟩

theorem Ivl.hasPos_ofDyadic {v : Int} (nonneg : 0 ≤ v) (e : Int) : (Ivl.ofDyadic prec v e).HasPos prec (v * 2 ^ e) := by
  refine ⟨?_, Ivl.has_ofDyadic v e⟩
  unfold Ivl.ofDyadic
  dsimp only
  split
  · positivity
  · exact shrDown_nonneg nonneg _

variable {x y : Ivl} {v w : ℝ}

theorem Ivl.Has.add (hx : x.Has prec v) (hy : y.Has prec w) : (x.add y).Has prec (v + w) := by
  obtain ⟨⟨a, b⟩, c, d⟩ := And.intro hx hy
  simp only [Ivl.Has, Ivl.add, add_mul]
  push_cast
  constructor <;> linarith

theorem Ivl.Has.sub (hx : x.Has prec v) (hy : y.Has prec w) : (x.sub y).Has prec (v - w) := by
  obtain ⟨⟨a, b⟩, c, d⟩ := And.intro hx hy
  simp only [Ivl.Has, Ivl.sub, sub_mul]
  push_cast
  constructor <;> linarith

theorem Ivl.Has.neg (hx : x.Has prec v) : x.neg.Has prec (-v) := by
  obtain ⟨a, b⟩ := hx
  simp only [Ivl.Has, Ivl.neg, neg_mul]
  push_cast
  constructor <;> linarith

theorem Ivl.HasPos.add (hx : x.HasPos prec v) (hy : y.HasPos prec w) : (x.add y).HasPos prec (v + w) :=
  ⟨add_nonneg hx.1 hy.1, hx.2.add hy.2⟩

/-- An enclosure of a number from below, with no negative end, is one of a nonnegative number. -/
theorem Ivl.HasPos.nonneg (hx : x.HasPos prec v) : 0 ≤ v := by
  obtain ⟨pos, low, -⟩ := hx
  have unit : (0 : ℝ) < 2 ^ prec := by positivity
  have : (0 : ℝ) ≤ x.lo := by exact_mod_cast pos
  exact le_of_mul_le_mul_right (by linarith) unit

theorem Ivl.HasPos.hi_nonneg (hx : x.HasPos prec v) : (0 : ℝ) ≤ x.hi := by
  have := hx.nonneg
  exact (by positivity : 0 ≤ v * 2 ^ prec).trans hx.2.2

theorem Ivl.HasPos.mulPos (hx : x.HasPos prec v) (hy : y.HasPos prec w) : (Ivl.mulPos prec x y).HasPos prec (v * w) := by
  have hv := hx.nonneg
  have hw := hy.nonneg
  have hhi := hx.hi_nonneg
  obtain ⟨⟨px, a, b⟩, py, c, d⟩ := And.intro hx hy
  have unit : (0 : ℝ) < 2 ^ prec := by positivity
  have pxR : (0 : ℝ) ≤ x.lo := by exact_mod_cast px
  have pyR : (0 : ℝ) ≤ y.lo := by exact_mod_cast py
  have scale : v * w * 2 ^ prec = v * 2 ^ prec * (w * 2 ^ prec) / 2 ^ prec := by field_simp
  refine ⟨shrDown_nonneg (mul_nonneg px py) _, ?_, ?_⟩
  · refine (shrDown_le _ _).trans ?_
    rw [scale, Int.cast_mul]
    gcongr
  · refine le_trans ?_ (le_shrUp _ _)
    rw [scale, Int.cast_mul]
    gcongr

theorem Ivl.HasPos.divPos (hx : x.HasPos prec v) (hy : y.HasPos prec w) (below : 0 < y.lo) : (Ivl.divPos prec x y).HasPos prec (v / w) := by
  have hv := hx.nonneg
  have hhi := hx.hi_nonneg
  obtain ⟨⟨px, a, b⟩, py, c, d⟩ := And.intro hx hy
  have unit : (0 : ℝ) < 2 ^ prec := by positivity
  have pxR : (0 : ℝ) ≤ x.lo := by exact_mod_cast px
  have pyR : (0 : ℝ) < y.lo := by exact_mod_cast below
  have hiR : (0 : ℝ) < y.hi := by linarith
  have hi : 0 < y.hi := by exact_mod_cast hiR
  have wpos : 0 < w * 2 ^ prec := by linarith
  have scale : v / w * 2 ^ prec = v * 2 ^ prec * 2 ^ prec / (w * 2 ^ prec) := by
    field_simp
  refine ⟨Int.ediv_nonneg (by positivity) hi.le, ?_, ?_⟩
  · refine (ediv_le_real _ hi).trans ?_
    rw [scale]
    push_cast
    gcongr
  · refine le_trans ?_ (le_neg_ediv_real _ below)
    rw [scale]
    push_cast
    exact div_le_div₀ (by positivity) (by gcongr) pyR c

theorem Ivl.HasPos.divNat (hx : x.HasPos prec v) {n : Nat} (pos : 0 < n) : (x.divNat n).HasPos prec (v / n) := by
  obtain ⟨px, a, b⟩ := hx
  have posI : (0 : Int) < n := by exact_mod_cast pos
  have posR : (0 : ℝ) < n := by exact_mod_cast pos
  have scale : v / n * 2 ^ prec = v * 2 ^ prec / n := by ring
  refine ⟨Int.ediv_nonneg px posI.le, ?_, ?_⟩
  · refine (ediv_le_real _ posI).trans ?_
    rw [scale, Int.cast_natCast]
    gcongr
  · refine le_trans ?_ (le_neg_ediv_real _ posI)
    rw [scale, Int.cast_natCast]
    gcongr

theorem Ivl.hasPos_one : (⟨2 ^ prec, 2 ^ prec⟩ : Ivl).HasPos prec 1 := by
  refine ⟨by positivity, ?_, ?_⟩ <;> simp

/-- An enclosure between zero and one unit above a bound. -/
theorem Ivl.hasPos_rest {n : Int} (nonneg : 0 ≤ v) (le : v * 2 ^ prec ≤ n) : (⟨0, n⟩ : Ivl).HasPos prec v :=
  ⟨le_rfl, by simpa using nonneg, le⟩

end

/-! ## Series -/

/-- What is left of a series from one index on. -/
noncomputable def seriesTail (a : Nat → ℝ) (j : Nat) : ℝ := ∑' i, a (i + j)

section
variable {a : Nat → ℝ}

theorem seriesTail_succ (sum : Summable a) (j : Nat) : seriesTail a j = a j + seriesTail a (j + 1) := by
  have : Summable fun i => a (i + j) := (summable_nat_add_iff j).2 sum
  rw [seriesTail, this.tsum_eq_zero_add, Nat.zero_add]
  congr 2
  funext i
  rw [Nat.add_right_comm, Nat.add_assoc]

theorem seriesTail_nonneg (nonneg : ∀ i, 0 ≤ a i) (j : Nat) : 0 ≤ seriesTail a j := tsum_nonneg fun _ => nonneg _

/-- Where each term is at most half of the one before, the rest is at most twice its first term. -/
theorem seriesTail_le (nonneg : ∀ i, 0 ≤ a i) {j : Nat} (half : ∀ i, j ≤ i → a (i + 1) ≤ a i / 2) : seriesTail a j ≤ 2 * a j := by
  have bound (i : Nat) : a (i + j) ≤ a j * (1 / 2) ^ i := by
    induction i with
    | zero => simp
    | succ i ih =>
      have := half (i + j) (Nat.le_add_left _ _)
      rw [pow_succ, show i + 1 + j = i + j + 1 by omega]
      linarith
  have geometric : Summable fun i : Nat => a j * (1 / 2 : ℝ) ^ i := summable_geometric_two.mul_left _
  calc seriesTail a j ≤ ∑' i : Nat, a j * (1 / 2 : ℝ) ^ i :=
        (Summable.of_nonneg_of_le (fun i => nonneg _) bound geometric).tsum_le_tsum bound geometric
    _ = 2 * a j := by rw [tsum_mul_left, tsum_geometric_two, mul_comm]

end

end Sys2Proof.Machine

/-! THE ENCLOSURES of the exponential, the logarithm, the sine and the cosine (R189): each partial sum with the bound of what is left of its series. -/
namespace Sys2Proof.Machine

open Nat in
/-- The terms of e^z. -/
noncomputable def expTerm (z : ℝ) (i : Nat) : ℝ := z ^ i / i !

section
variable {prec : Nat}

theorem expTerm_succ (z : ℝ) (i : Nat) : expTerm z (i + 1) = expTerm z i * z / (i + 1 : Nat) := by
  have : ((i + 1 : Nat) : ℝ) ≠ 0 := by positivity
  have : (Nat.factorial i : ℝ) ≠ 0 := by positivity
  unfold expTerm
  rw [Nat.factorial_succ, pow_succ]
  push_cast
  field_simp

theorem hasSum_expTerm (z : ℝ) : HasSum (expTerm z) (Real.exp z) := by
  rw [Real.exp_eq_exp_ℝ]
  exact NormedSpace.expSeries_div_hasSum_exp z

/-- The rest of e^z in an enclosure, given that of the term before it. -/
theorem hasPos_expTail {z : ℝ} {x : Ivl} (hx : x.HasPos prec z) : ∀ (fuel k : Nat) (t : Ivl), t.HasPos prec (expTerm z k) → 2 * z ≤ (k + fuel : Nat) →
    (expTail prec x fuel (k + 1) t).HasPos prec (seriesTail (expTerm z) (k + 1))
  | 0, k, t, ht, bound => by
    have nonneg := hx.nonneg
    have terms (i : Nat) : 0 ≤ expTerm z i := by unfold expTerm; positivity
    have half (i : Nat) (le : k ≤ i) : expTerm z (i + 1) ≤ expTerm z i / 2 := by
      have : (k : ℝ) ≤ i := by exact_mod_cast le
      rw [expTerm_succ, div_le_div_iff₀ (by positivity) two_pos]
      push_cast at bound ⊢
      have := terms i
      nlinarith
    refine Ivl.hasPos_rest (seriesTail_nonneg terms _) ?_
    have rest := seriesTail_le terms (j := k + 1) fun i le => half i (by omega)
    have step := half k le_rfl
    have last : seriesTail (expTerm z) (k + 1) * 2 ^ prec ≤ t.hi := by
      refine le_trans ?_ ht.2.2
      gcongr
      linarith
    have := ht.hi_nonneg
    push_cast
    linarith
  | fuel + 1, k, t, ht, bound => by
    have next := (ht.mulPos hx).divNat (Nat.succ_pos k)
    rw [← expTerm_succ] at next
    rw [seriesTail_succ (hasSum_expTerm z).summable]
    exact next.add (hasPos_expTail hx fuel (k + 1) _ next (by push_cast at bound ⊢; linarith))

theorem hasPos_expRest {z : ℝ} {x : Ivl} (hx : x.HasPos prec z) (le : z ≤ 64) :
    (expTail prec x (prec + 300) 1 ⟨2 ^ prec, 2 ^ prec⟩).HasPos prec (seriesTail (expTerm z) 1) := by
  have first : (⟨2 ^ prec, 2 ^ prec⟩ : Ivl).HasPos prec (expTerm z 0) := by simpa [expTerm] using Ivl.hasPos_one
  exact hasPos_expTail hx (prec + 300) 0 _ first (by push_cast; linarith)

theorem two_pow_le_expI {z : ℝ} {x : Ivl} (hx : x.HasPos prec z) (le : z ≤ 64) : 2 ^ prec ≤ (expI prec x).lo :=
  le_add_of_nonneg_right (hasPos_expRest hx le).1

/-- R189: e^z for 0 ≤ z ≤ 64. -/
theorem hasPos_expI {z : ℝ} {x : Ivl} (hx : x.HasPos prec z) (le : z ≤ 64) : (expI prec x).HasPos prec (Real.exp z) := by
  have whole : Real.exp z = 1 + seriesTail (expTerm z) 1 := by
    have := seriesTail_succ (hasSum_expTerm z).summable 0
    rw [← (hasSum_expTerm z).tsum_eq]
    simpa [seriesTail, expTerm] using this
  rw [whole]
  exact Ivl.hasPos_one.add (hasPos_expRest hx le)

/-- The terms of the inverse hyperbolic tangent. -/
noncomputable def atanhTerm (u : ℝ) (i : Nat) : ℝ := u ^ (2 * i + 1) / (2 * i + 1 : Nat)

theorem hasSum_atanhTerm {u : ℝ} (nonneg : 0 ≤ u) (lt : u < 1) : HasSum (atanhTerm u) ((Real.log (1 + u) - Real.log (1 - u)) / 2) := by
  have terms : atanhTerm u = fun k : Nat => 2 * (1 / (2 * (k : ℝ) + 1)) * u ^ (2 * k + 1) / 2 := by
    funext k
    unfold atanhTerm
    push_cast
    ring
  rw [terms]
  exact (Real.hasSum_log_sub_log_of_abs_lt_one (x := u) (by rwa [abs_of_nonneg nonneg])).div_const 2

theorem hasPos_atanhTail {u : ℝ} {x : Ivl} (hx : x.HasPos prec (u * u)) (small : u ≤ 1 / 2) (nonneg : 0 ≤ u) : ∀ (fuel i : Nat) (t : Ivl), t.HasPos prec (u ^ (2 * i + 1)) →
    (atanhTail prec x fuel (2 * i + 1) t).HasPos prec (seriesTail (atanhTerm u) i)
  | 0, i, t, ht => by
    have terms (j : Nat) : 0 ≤ atanhTerm u j := by unfold atanhTerm; positivity
    have half (j : Nat) : atanhTerm u (j + 1) ≤ atanhTerm u j / 2 := by
      have square : u ^ (2 * (j + 1) + 1) = u ^ (2 * j + 1) * (u * u) := by ring
      have quarter : u * u ≤ 1 / 2 := by nlinarith
      unfold atanhTerm
      rw [square, div_div, mul_comm ((2 * j + 1 : Nat) : ℝ) 2, ← div_div]
      calc u ^ (2 * j + 1) * (u * u) / ((2 * (j + 1) + 1 : Nat) : ℝ) ≤ u ^ (2 * j + 1) * (1 / 2) / ((2 * j + 1 : Nat) : ℝ) := by
            gcongr
            omega
        _ = _ := by ring
    refine Ivl.hasPos_rest (seriesTail_nonneg terms _) ?_
    have first : atanhTerm u i ≤ u ^ (2 * i + 1) := div_le_self (by positivity) (by push_cast; linarith [(Nat.cast_nonneg i : (0 : ℝ) ≤ i)])
    have rest : seriesTail (atanhTerm u) i * 2 ^ prec ≤ 2 * u ^ (2 * i + 1) * 2 ^ prec := by
      gcongr
      linarith [seriesTail_le terms (j := i) fun j _ => half j]
    have := ht.2.2
    push_cast
    linarith
  | fuel + 1, i, t, ht => by
    rw [seriesTail_succ (hasSum_atanhTerm nonneg (by linarith)).summable]
    refine (ht.divNat (Nat.succ_pos _)).add (hasPos_atanhTail hx small nonneg fuel (i + 1) _ ?_)
    have : u ^ (2 * (i + 1) + 1) = u ^ (2 * i + 1) * (u * u) := by ring
    rw [this]
    exact ht.mulPos hx

/-- Twice the series, which is the logarithm of (1 + u) / (1 − u). -/
theorem hasPos_log {u : ℝ} {x : Ivl} (hx : x.HasPos prec u) (small : u ≤ 1 / 2) (fuel : Nat) :
    let s := atanhTail prec (Ivl.mulPos prec x x) fuel 1 x
    (⟨2 * s.lo, 2 * s.hi⟩ : Ivl).HasPos prec (Real.log ((1 + u) / (1 - u))) := by
  have nonneg := hx.nonneg
  obtain ⟨pos, low, high⟩ := hasPos_atanhTail (hx.mulPos hx) small nonneg fuel 0 x (by simpa using hx)
  have value : Real.log ((1 + u) / (1 - u)) = 2 * seriesTail (atanhTerm u) 0 := by
    have sum := (hasSum_atanhTerm nonneg (by linarith)).tsum_eq
    have : seriesTail (atanhTerm u) 0 = ∑' i, atanhTerm u i := rfl
    rw [this, sum, Real.log_div (by linarith) (by linarith)]
    ring
  rw [value]
  refine ⟨mul_nonneg zero_le_two pos, ?_, ?_⟩ <;> push_cast <;> linarith

theorem hasPos_third : (⟨2 ^ prec / 3, 2 ^ prec / 3 + 1⟩ : Ivl).HasPos prec (1 / 3) := by
  refine ⟨by positivity, ?_, ?_⟩
  · have := ediv_le_real (2 ^ prec) (n := 3) (by norm_num)
    push_cast at this ⊢
    linarith
  · have : ((2 ^ prec : Int) : ℝ) ≤ 3 * ((2 ^ prec / 3 : Int) : ℝ) + 3 := by exact_mod_cast (by omega : (2 ^ prec : Int) ≤ 3 * (2 ^ prec / 3) + 3)
    push_cast at this ⊢
    linarith

/-- R189: ln 2. -/
theorem hasPos_ln2I : (ln2I prec).HasPos prec (Real.log 2) := by
  have two : (1 + 1 / 3 : ℝ) / (1 - 1 / 3) = 2 := by norm_num
  have := hasPos_log (hasPos_third (prec := prec)) (by norm_num) (prec / 2 + 8)
  rwa [two] at this

/-- The first term of the series of ln 2 alone is above 0. -/
theorem ln2I_lo_pos (enough : 2 ≤ prec) : 0 < (ln2I prec).lo := by
  have square := hasPos_third.mulPos (hasPos_third (prec := prec))
  have next := (hasPos_third (prec := prec)).mulPos square
  have rest := (hasPos_atanhTail square (by norm_num) (by norm_num) (prec / 2 + 7) 1 _ (by convert! next using 1; norm_num)).1
  have first : (1 : Int) ≤ 2 ^ prec / 3 := by
    have : (2 : Int) ^ 2 ≤ 2 ^ prec := pow_le_pow_right₀ (by norm_num) enough
    omega
  change 0 < 2 * ((2 ^ prec / 3) / ((1 : Nat) : Int) + (atanhTail prec _ (prec / 2 + 7) 3 _).lo)
  rw [Nat.cast_one, Int.ediv_one]
  exact mul_pos two_pos (add_pos_of_pos_of_nonneg (by omega) rest)

/-- R189: ln y for 1 ≤ y < 2. -/
theorem hasPos_lnI {y : ℝ} {x : Ivl} (hx : x.HasPos prec y) (low : 1 ≤ y) (high : y < 2) : (lnI prec x).HasPos prec (Real.log y) := by
  have unit : (0 : ℝ) < 2 ^ prec := by positivity
  have above : (⟨max 0 (x.lo - 2 ^ prec), max 0 (x.hi - 2 ^ prec)⟩ : Ivl).HasPos prec (y - 1) := by
    obtain ⟨pos, lo, hi⟩ := hx
    refine ⟨le_max_left _ _, ?_, ?_⟩
    · push_cast
      refine max_le (mul_nonneg (by linarith) unit.le) ?_
      linarith
    · push_cast
      refine le_trans ?_ (le_max_right _ _)
      linarith
  have below : 0 < (x.add ⟨2 ^ prec, 2 ^ prec⟩).lo := add_pos_of_nonneg_of_pos hx.1 (by positivity)
  have ratio := above.divPos (hx.add Ivl.hasPos_one) below
  have value : (1 + (y - 1) / (y + 1)) / (1 - (y - 1) / (y + 1)) = y := by
    have : y + 1 ≠ 0 := by linarith
    field_simp
    ring
  have := hasPos_log ratio (by rw [div_le_iff₀ (by linarith)]; linarith) (prec / 2 + 8)
  rwa [value] at this

/-! ## Sine and cosine -/

/-- The terms of sine (c = 1) and cosine (c = 0), without their signs. -/
noncomputable def trigTerm (c : Nat) (r : ℝ) (i : Nat) : ℝ := expTerm r (2 * i + c)

/-- Every second term from index i on. -/
noncomputable def everySecond (c : Nat) (r : ℝ) (i : Nat) : ℝ := seriesTail (fun j => trigTerm c r (2 * j + i)) 0

section
variable {c : Nat} {r : ℝ} (nonneg : 0 ≤ r) (le : r ≤ 1)
include nonneg

theorem trigTerm_nonneg (i : Nat) : 0 ≤ trigTerm c r i := by
  unfold trigTerm expTerm
  positivity

omit nonneg in
theorem summable_trigTerm (c : Nat) (i : Nat) : Summable fun j => trigTerm c r (2 * j + i) := by
  have injective : Function.Injective fun j : Nat => 2 * (2 * j + i) + c := fun a b h => by simpa using h
  exact (hasSum_expTerm r).summable.comp_injective injective

omit nonneg in
theorem trigTerm_succ (c : Nat) (i : Nat) : trigTerm c r (i + 1) = trigTerm c r i * (r * r) / (2 * i + c + 1 : Nat) / (2 * i + c + 2 : Nat) := by
  unfold trigTerm
  rw [show 2 * (i + 1) + c = 2 * i + c + 1 + 1 by ring, expTerm_succ, expTerm_succ]
  ring

omit nonneg in
theorem everySecond_succ (i : Nat) : everySecond c r i = trigTerm c r i + everySecond c r (i + 2) := by
  unfold everySecond
  rw [seriesTail_succ (summable_trigTerm c i)]
  simp only [seriesTail, Nat.mul_zero, Nat.zero_add, Nat.add_zero]
  congr 2
  funext j
  congr 1
  ring

include le in
theorem trigTerm_half (i : Nat) : trigTerm c r (i + 1) ≤ trigTerm c r i / 2 := by
  have terms := trigTerm_nonneg nonneg (c := c) i
  rw [trigTerm_succ, div_div, div_le_div_iff₀ (by positivity) two_pos]
  have first : (1 : ℝ) ≤ (2 * i + c + 1 : Nat) := by exact_mod_cast Nat.succ_pos _
  have second : (2 : ℝ) ≤ (2 * i + c + 2 : Nat) := by exact_mod_cast Nat.le_add_left _ _
  have square : r * r ≤ 1 := by nlinarith
  have : (2 : ℝ) ≤ (2 * i + c + 1 : Nat) * (2 * i + c + 2 : Nat) := by nlinarith
  nlinarith

include le in
theorem everySecond_le (i : Nat) : 0 ≤ everySecond c r i ∧ everySecond c r i ≤ 2 * trigTerm c r i := by
  have terms := trigTerm_nonneg nonneg (c := c)
  have half := trigTerm_half nonneg le (c := c)
  refine ⟨seriesTail_nonneg (fun _ => terms _) _, ?_⟩
  have := seriesTail_le (a := fun j => trigTerm c r (2 * j + i)) (fun _ => terms _) (j := 0) fun j _ => by
    have := half (2 * j + i)
    have := half (2 * j + i + 1)
    have := terms (2 * j + i)
    rw [show 2 * (j + 1) + i = 2 * j + i + 1 + 1 by ring]
    linarith
  exact this.trans_eq (by rw [Nat.mul_zero, Nat.zero_add])

omit nonneg in
/-- Factorials outgrow the powers of 4. -/
theorem four_pow_le_factorial (n : Nat) : 4 ^ n ≤ 16 * Nat.factorial n := by
  induction n with
  | zero => decide
  | succ n ih =>
    rcases Nat.lt_or_ge n 3 with h | h
    · interval_cases n <;> decide
    · rw [pow_succ, Nat.factorial_succ]
      nlinarith

include le in
/-- The term at which the model ends its sum lies below the last place. -/
theorem trigTerm_small : trigTerm c r (prec / 4 + 16) * 2 ^ prec ≤ 1 := by
  have power : r ^ (2 * (prec / 4 + 16) + c) ≤ 1 := pow_le_one₀ nonneg le
  have enough : 2 ^ prec ≤ Nat.factorial (2 * (prec / 4 + 16) + c) := by
    have := four_pow_le_factorial (2 * (prec / 4 + 16) + c)
    have : 16 * 2 ^ prec ≤ 4 ^ (2 * (prec / 4 + 16) + c) := by
      rw [show (16 : Nat) = 2 ^ 4 by rfl, show (4 : Nat) = 2 ^ 2 by rfl, ← pow_add, ← pow_mul]
      exact Nat.pow_le_pow_right two_pos (by omega)
    omega
  have enoughR : (2 : ℝ) ^ prec ≤ (Nat.factorial (2 * (prec / 4 + 16) + c) : ℝ) := by exact_mod_cast enough
  unfold trigTerm expTerm
  rw [div_mul_eq_mul_div, div_le_one (by positivity)]
  have unit : (0 : ℝ) < 2 ^ prec := by positivity
  nlinarith

variable {x : Ivl} (hx : x.HasPos prec (r * r))
include le hx

/-- The two sums of one parity each, from one index on. -/
theorem hasPos_trigTail : ∀ (fuel i : Nat) (t : Ivl), fuel + i = prec / 4 + 16 → t.HasPos prec (trigTerm c r i) → ∀ minus : Bool,
    let s := trigTail prec x fuel (2 * i + c) t minus
    s.1.HasPos prec (everySecond c r (if minus then i + 1 else i)) ∧ s.2.HasPos prec (everySecond c r (if minus then i else i + 1))
  | 0, i, t, last, ht, minus => by
    have small := trigTerm_small nonneg le (prec := prec) (c := c)
    rw [← last, Nat.zero_add] at small
    have unit : (0 : ℝ) < 2 ^ prec := by positivity
    obtain ⟨pos, here⟩ := everySecond_le nonneg le (c := c) i
    obtain ⟨pos', next⟩ := everySecond_le nonneg le (c := c) (i + 1)
    have half := trigTerm_half nonneg le (c := c) i
    have terms := trigTerm_nonneg nonneg (c := c) i
    have high := ht.2.2
    have bound {v : ℝ} (nonneg : 0 ≤ v) (le : v ≤ 2 * trigTerm c r i) : (⟨0, t.hi + 1⟩ : Ivl).HasPos prec v := by
      refine Ivl.hasPos_rest nonneg ?_
      have : v * 2 ^ prec ≤ 2 * trigTerm c r i * 2 ^ prec := by gcongr
      push_cast
      linarith
    have first := bound pos here
    have second := bound pos' (by linarith)
    cases minus
    · exact ⟨first, second⟩
    · exact ⟨second, first⟩
  | fuel + 1, i, t, last, ht, minus => by
    have next := ((ht.mulPos hx).divNat (Nat.succ_pos (2 * i + c))).divNat (Nat.succ_pos (2 * i + c + 1))
    rw [← trigTerm_succ] at next
    have rest := hasPos_trigTail fuel (i + 1) _ (by omega) next (!minus)
    rw [show 2 * (i + 1) + c = 2 * i + c + 2 by ring] at rest
    obtain ⟨first, second⟩ := rest
    have here := (everySecond_succ (c := c) (r := r) i).trans (add_comm _ _)
    cases minus
    · refine ⟨?_, second⟩
      change Ivl.HasPos _ _ (everySecond c r i)
      rw [here]
      exact first.add ht
    · refine ⟨first, ?_⟩
      change Ivl.HasPos _ _ (everySecond c r i)
      rw [here]
      exact second.add ht

omit nonneg le hx in
theorem alternating_sum {v : ℝ} (sum : HasSum (fun i => (-1 : ℝ) ^ i * trigTerm c r i) v) : v = everySecond c r 0 - everySecond c r 1 := by
  have part (i : Nat) : HasSum (fun j => trigTerm c r (2 * j + i)) (everySecond c r i) := (summable_trigTerm c i).hasSum
  refine sum.unique ?_
  rw [sub_eq_add_neg]
  refine HasSum.even_add_odd ?_ ?_
  · simpa [pow_mul] using part 0
  · simpa [pow_succ, pow_mul] using (part 1).neg

omit hx le nonneg in
theorem sin_eq : Real.sin r = everySecond 1 r 0 - everySecond 1 r 1 := by
  refine alternating_sum ?_
  have := Real.hasSum_sin r
  simpa only [trigTerm, expTerm, mul_div_assoc] using this

omit hx le nonneg in
theorem cos_eq : Real.cos r = everySecond 0 r 0 - everySecond 0 r 1 := by
  refine alternating_sum ?_
  have := Real.hasSum_cos r
  simpa only [trigTerm, expTerm, mul_div_assoc, Nat.add_zero] using this

omit hx in
/-- R189: sin r for 0 ≤ r ≤ 1. -/
theorem has_sinI (hx : x.HasPos prec r) : (sinI prec x).Has prec (Real.sin r) := by
  obtain ⟨first, second⟩ := hasPos_trigTail (c := 1) nonneg le (hx.mulPos hx) (prec / 4 + 16) 0 x rfl (by simpa [trigTerm, expTerm] using hx) false
  rw [sin_eq]
  exact first.2.sub second.2

omit hx in
/-- R189: cos r for 0 ≤ r ≤ 1. -/
theorem has_cosI (hx : x.HasPos prec r) : (cosI prec x).Has prec (Real.cos r) := by
  obtain ⟨first, second⟩ := hasPos_trigTail (c := 0) nonneg le (hx.mulPos hx) (prec / 4 + 16) 0 ⟨2 ^ prec, 2 ^ prec⟩ rfl
    (by simpa [trigTerm, expTerm] using Ivl.hasPos_one) false
  rw [cos_eq]
  exact first.2.sub second.2

end

end

end Sys2Proof.Machine

/-! VFEXP2, VFLOG2 AND VFTANH of a finite operand (R189). -/
namespace Sys2Proof.Machine

/-! ## The special functions of a finite operand (R189, R190) -/

section
variable {f : Fmt} (ok : f.Ok)
include ok

/-- The default NaN, where the precision does not decide, or the value rounded to nearest. -/
def Decides (f : Fmt) (v : ℝ) (r : Nat × Fl) : Prop := r.1 = f.defNaN ∨ RoundsTo f v r

theorem Decides.of_around {g : Nat → Ivl} {v : ℝ} (n : Int) (around : ∀ prec, 96 ≤ prec → (g prec).Around prec v) :
    Decides f (v * 2 ^ n) (decideRound f g n roundFuel 96) :=
  decideRound_roundsTo ok around roundFuel 96 le_rfl

theorem Decides.of_has {g : Nat → Ivl} {v : ℝ} (has : ∀ prec, 96 ≤ prec → (g prec).Has prec v) : Decides f v (decideRound f g 0 roundFuel 96) := by
  have := Decides.of_around ok 0 fun prec enough => (has prec enough).around
  rwa [zpow_zero, mul_one] at this

/-- What lies beyond the greatest finite value rounds to ∞. -/
theorem roundsTo_posInf {v : ℝ} (le : (2 : ℝ) ^ (f.bias + 1 : Int) ≤ v) : RoundsTo f v (f.posInf, Fl.of ||| Fl.nx) := by
  have unit : (0 : ℝ) < 2 ^ ((f.bias : Int) - f.fbits - 1) := by positivity
  have edge := f.edge ok
  have pos : (0 : ℝ) < 2 ^ (f.bias + 1 : Int) := by positivity
  refine ⟨false, f.posInf, le_rfl, by simp [Fmt.withSign], ?_, ⟨.inr ?_, fun h => absurd h (lt_irrefl _)⟩, ?_⟩
  · exact pos.le.trans le
  · simp only [Bool.false_eq_true, if_false]
    linarith
  · rw [if_pos rfl]
    dsimp only
    decide

/-- What lies at most half way to the least value above 0 rounds to 0. -/
theorem roundsTo_zero {v : ℝ} (nonneg : 0 ≤ v) (le : v ≤ (2 : ℝ) ^ (f.low - 1)) : RoundsTo f v (f.zero false, Fl.uf ||| Fl.nx) := by
  have inf := Fmt.posInf_pos ok.wide'
  have one : f.mag 1 = 2 ^ f.low := by
    have : 1 < 2 ^ f.fbits := Nat.one_lt_two_pow (by have := ok.frac; omega)
    simp [Fmt.mag, this]
  refine ⟨false, 0, inf.le, by simp [Fmt.withSign, Fmt.zero], nonneg, ⟨.inl rfl, fun _ => ?_⟩, ?_⟩
  · rw [f.mag_zero, zero_add, one]
    rw [zpow_sub_one₀ two_ne_zero] at le
    simp only [Bool.false_eq_true, if_false]
    linarith
  · rw [if_neg inf.ne]
    dsimp only
    decide

end

/-- Far below the least value a power of 2 rounds to 0. -/
theorem roundPack_tiny {f : Fmt} (h : f ∈ formats) : roundPack f .rne false 1 (-4 * (f.bias : Int)) true = (f.zero false, Fl.uf ||| Fl.nx) := by
  simp only [formats, List.mem_cons, List.not_mem_nil, or_false] at h
  rcases h with rfl | rfl | rfl <;> decide +kernel

section
variable {f : Fmt} (h : f ∈ formats) {a : Nat} {neg : Bool} {m : Nat} {e : Int} (dec : f.dec a = .fin neg m e) (nonzero : m ≠ 0)
include h dec nonzero

/-- R189: VFEXP2 of an operand that is no integer. -/
theorem fpExp2_decides (fraction : ∀ n : Int, (FVal.fin neg m e).real ≠ n) : Decides f ((2 : ℝ) ^ (FVal.fin neg m e).real) (fpExp2 f a) := by
  have ok := Fmt.ok_of_mem h
  obtain ⟨v, hv⟩ : ∃ v : Int, (if neg then -(m : Int) else m) = v := ⟨_, rfl⟩
  have value : (FVal.fin neg m e).real = v * 2 ^ e := by
    rw [← hv]
    cases neg <;> simp
  rw [value] at fraction ⊢
  have low : e < 0 := by
    by_contra high
    refine fraction (v * 2 ^ e.toNat) ?_
    push_cast
    rw [← zpow_natCast, Int.toNat_of_nonneg (not_lt.1 high)]
  obtain ⟨s, hs⟩ : ∃ s : Nat, e = -s := ⟨(-e).toNat, by omega⟩
  subst hs
  obtain ⟨n, hn⟩ : ∃ n, shrDown v s = n := ⟨_, rfl⟩
  obtain ⟨fr, hfr⟩ : ∃ fr : Int, v = n * 2 ^ s + fr := ⟨v - n * 2 ^ s, by ring⟩
  have unit : (0 : ℝ) < 2 ^ s := by positivity
  have bounds : 0 ≤ fr ∧ fr < 2 ^ s := by
    have pos : (0 : Int) < (2 ^ s : Nat) := by positivity
    have low := Int.ediv_mul_le v pos.ne'
    have high := Int.lt_ediv_add_one_mul_self v pos
    unfold shrDown at hn
    rw [hn] at low high
    push_cast at low high
    constructor <;> linarith
  have notWhole : v ≠ n * 2 ^ s := fun whole => fraction n (by
    rw [whole]
    push_cast
    rw [zpow_neg, zpow_natCast]
    field_simp)
  have split : (v : ℝ) * 2 ^ (-s : Int) = fr * 2 ^ (-s : Int) + n := by
    rw [hfr, zpow_neg, zpow_natCast]
    push_cast
    field_simp
    ring
  have z0 : (0 : ℝ) ≤ fr * 2 ^ (-s : Int) := mul_nonneg (by exact_mod_cast bounds.1) (by positivity)
  have z1 : (fr : ℝ) * 2 ^ (-s : Int) < 1 := by
    rw [zpow_neg, zpow_natCast, mul_inv_lt_iff₀ unit, one_mul]
    exact_mod_cast bounds.2
  have negE : (-(-(s : Int))).toNat = s := by omega
  have notInteger : (decide (0 ≤ -(s : Int)) || decide (v = n * 2 ^ s)) = false := by simp [notWhole]; omega
  simp only [fpExp2, dec, if_neg nonzero, hv, if_neg (not_le.2 low), negE, hn, notInteger, Bool.false_eq_true, if_false]
  have power (k : Int) : (2 : ℝ) ^ (k : ℝ) = 2 ^ k := Real.rpow_intCast 2 k
  rw [split]
  split
  case isTrue large =>
    refine .inr (roundsTo_posInf ok ?_)
    rw [← power]
    refine Real.rpow_le_rpow_of_exponent_le one_le_two ?_
    have : ((f.bias + 1 : Int) : ℝ) ≤ n := by exact_mod_cast large
    linarith
  case isFalse =>
    split
    case isTrue small =>
      rw [roundPack_tiny h]
      refine .inr (roundsTo_zero ok (by positivity) ?_)
      rw [← power (f.low - 1)]
      refine Real.rpow_le_rpow_of_exponent_le one_le_two ?_
      have := ok.room
      have : ((n + 1 : Int) : ℝ) ≤ ((f.low - 1 : Int) : ℝ) := by exact_mod_cast (by unfold Fmt.low; omega : n + 1 ≤ f.low - 1)
      push_cast at this ⊢
      linarith
    case isFalse =>
      have exponential : (2 : ℝ) ^ ((fr : ℝ) * 2 ^ (-s : Int) + n) = Real.exp (fr * 2 ^ (-s : Int) * Real.log 2) * 2 ^ n := by
        rw [Real.rpow_add two_pos, power, Real.rpow_def_of_pos two_pos, mul_comm (Real.log 2)]
      have rest : v - n * 2 ^ s = fr := by rw [hfr]; ring
      rw [exponential, rest]
      refine Decides.of_around ok n fun prec _ => Ivl.Has.around ?_
      have ln2 : Real.log 2 ≤ 1 := by
        have := Real.log_two_lt_d9
        linarith
      have ln2pos := Real.log_pos one_lt_two
      have bound : (fr : ℝ) * 2 ^ (-s : Int) * Real.log 2 ≤ 64 := by nlinarith
      have exponent := (Ivl.hasPos_ofDyadic (prec := prec) bounds.1 (-s)).mulPos hasPos_ln2I
      exact (hasPos_expI exponent bound).2

omit nonzero in
/-- R189: VFLOG2 of a positive operand that is no power of 2. -/
theorem fpLog2_decides (nonzero : m ≠ 0) (pos : neg = false) (fraction : ∀ n : Int, (FVal.fin neg m e).real ≠ (2 : ℝ) ^ n) :
    Decides f (Real.logb 2 (FVal.fin neg m e).real) (fpLog2 f a) := by
  have ok := Fmt.ok_of_mem h
  subst pos
  rw [FVal.real_fin_false] at fraction ⊢
  have bits := bitLen_eq nonzero
  obtain ⟨t, ht⟩ : ∃ t, Nat.log2 m = t := ⟨_, rfl⟩
  rw [ht] at bits
  have notPower : m ≠ 2 ^ (bitLen m - 1) := fun same => fraction (t + e) (by
    rw [zpow_add₀ two_ne_zero, zpow_natCast]
    rw [bits, Nat.add_sub_cancel] at same
    rw [same]
    push_cast
    rfl)
  have mpos : (0 : ℝ) < m := by exact_mod_cast Nat.pos_of_ne_zero nonzero
  have low : ((2 ^ t : Nat) : ℝ) ≤ m := by exact_mod_cast ht ▸ Nat.log2_self_le nonzero
  have high : (m : ℝ) < ((2 ^ (t + 1) : Nat) : ℝ) := by exact_mod_cast ht ▸ Nat.lt_log2_self
  push_cast at low high
  have unit : (0 : ℝ) < 2 ^ t := by positivity
  have top : e + (bitLen m : Int) - 1 = e + t := by rw [bits]; push_cast; ring
  have down : (1 : Int) - (bitLen m : Int) = -t := by rw [bits]; push_cast; ring
  obtain ⟨y, hy⟩ : ∃ y : ℝ, (m : ℝ) * 2 ^ (-t : Int) = y := ⟨_, rfl⟩
  have whole : (m : ℝ) = y * 2 ^ t := by
    rw [← hy, zpow_neg, zpow_natCast]
    field_simp
  have y1 : 1 ≤ y := by nlinarith
  have y2 : y < 2 := by rw [pow_succ] at high; nlinarith
  have value : Real.logb 2 ((m : ℝ) * 2 ^ e) = ((e + t : Int) : ℝ) * 2 ^ (0 : Int) + Real.log y / Real.log 2 := by
    have : (m : ℝ) * 2 ^ e = y * 2 ^ (e + t) := by rw [whole, zpow_add₀ two_ne_zero, zpow_natCast]; ring
    rw [this, Real.logb_mul (by linarith) (by positivity), ← Real.rpow_intCast, Real.logb_rpow two_pos (by norm_num), Real.logb]
    push_cast
    ring
  simp only [fpLog2, dec, if_neg nonzero, if_neg notPower, Bool.false_eq_true, if_false, top, down]
  rw [value]
  refine Decides.of_has ok fun prec enough => (Ivl.has_ofDyadic _ _).add ?_
  have hy' : (Ivl.ofDyadic prec m (-t)).HasPos prec y := hy ▸ Ivl.hasPos_ofDyadic (Int.natCast_nonneg m) _
  exact ((hasPos_lnI hy' y1 y2).divPos hasPos_ln2I (ln2I_lo_pos (by omega))).2

omit h dec nonzero in
theorem Decides.withSign {w : ℝ} {r : Nat × Fl} (pos : 0 < w) (decides : Decides f w r) (s : Bool) :
    Decides f (if s then -w else w) (if r.1 = f.defNaN then r else (f.zero s + r.1, r.2)) := by
  by_cases nan : r.1 = f.defNaN
  · rw [if_pos nan]
    exact .inl nan
  · rw [if_neg nan]
    obtain ⟨neg, p, le, form, sign, cell, flags⟩ := decides.resolve_left nan
    obtain rfl : neg = false := by
      cases neg with
      | false => rfl
      | true => exact absurd sign (by simpa using pos)
    have flip : (if s then -(if s then -w else w) else (if s then -w else w)) = w := by cases s <;> simp
    exact .inr ⟨s, p, le, by simp [form, Fmt.withSign, Fmt.zero], by rw [flip]; exact sign, by rw [flip]; exact cell, flags⟩

omit h dec nonzero in
theorem tanh_eq (x : ℝ) : Real.tanh x = (Real.exp (2 * x) - 1) / (Real.exp (2 * x) + 1) := by
  have pos := Real.exp_pos x
  have square : Real.exp (2 * x) = Real.exp x * Real.exp x := by rw [two_mul, Real.exp_add]
  rw [Real.tanh_eq_sinh_div_cosh, Real.sinh_eq, Real.cosh_eq, Real.exp_neg, square]
  field_simp

omit h dec nonzero in
/-- From 32 on the tangent lies within 2^−40 below 1. -/
theorem tanh_large {x : ℝ} {prec : Nat} (ge : 32 ≤ x) (enough : 40 ≤ prec) :
    (⟨2 ^ prec - 2 ^ (prec - 40), 2 ^ prec - 1⟩ : Ivl).Around prec (Real.tanh x) := by
  have unit : (0 : ℝ) < 2 ^ prec := by positivity
  have small : (2 : ℝ) ^ (prec - 40) = 2 ^ prec / 2 ^ 40 := by
    rw [eq_div_iff (by positivity), ← pow_add, Nat.sub_add_cancel enough]
  have huge : (2 : ℝ) ^ 64 ≤ Real.exp (2 * x) := by
    have two : (2 : ℝ) ≤ Real.exp 1 := by linarith [Real.add_one_le_exp 1]
    calc (2 : ℝ) ^ 64 ≤ Real.exp 1 ^ 64 := by gcongr
      _ = Real.exp 64 := by rw [← Real.exp_nat_mul]; norm_num
      _ ≤ Real.exp (2 * x) := Real.exp_le_exp.2 (by linarith)
  have rest : Real.tanh x = 1 - 2 / (Real.exp (2 * x) + 1) := by
    have : Real.exp (2 * x) + 1 ≠ 0 := by positivity
    rw [tanh_eq]
    field_simp
    ring
  have low : 2 / (Real.exp (2 * x) + 1) ≤ 1 / 2 ^ 40 := by
    rw [div_le_div_iff₀ (by positivity) (by positivity)]
    linarith
  have high : 0 ≤ 2 / (Real.exp (2 * x) + 1) := by positivity
  rw [rest]
  refine ⟨fun _ => ⟨?_, ?_⟩, fun neg => absurd neg (not_lt.2 (sub_nonneg.2 (one_le_pow₀ one_le_two)))⟩
  · push_cast
    rw [small]
    have : 2 / (Real.exp (2 * x) + 1) * 2 ^ prec ≤ 1 / 2 ^ 40 * 2 ^ prec := by gcongr
    linarith
  · push_cast
    nlinarith

/-- R189: VFTANH. -/
theorem fpTanh_decides : Decides f (Real.tanh (FVal.fin neg m e).real) (fpTanh f a) := by
  have ok := Fmt.ok_of_mem h
  have mpos : (0 : ℝ) < m := by exact_mod_cast Nat.pos_of_ne_zero nonzero
  obtain ⟨x, hx⟩ : ∃ x : ℝ, (m : ℝ) * 2 ^ e = x := ⟨_, rfl⟩
  have pos : 0 < x := hx ▸ (by positivity)
  have exp1 : 1 < Real.exp (2 * x) := Real.one_lt_exp_iff.2 (by linarith)
  have value : Real.tanh (FVal.fin neg m e).real = if neg then -Real.tanh x else Real.tanh x := by
    cases neg <;> simp [hx, Real.tanh_neg]
  have tanhPos : 0 < Real.tanh x := by
    rw [tanh_eq]
    exact div_pos (by linarith) (by linarith)
  rw [value]
  simp only [fpTanh, dec, if_neg nonzero]
  refine Decides.withSign tanhPos ?_ neg
  have log : Int.log 2 x = e + Nat.log2 m := by rw [← hx]; exact Stands.log (sticky := false) rfl nonzero e
  have top : e + (bitLen m : Int) - 1 = Int.log 2 x := by rw [log, bitLen_eq nonzero]; push_cast; ring
  rw [top]
  split
  case isTrue big =>
    have ge : (32 : ℝ) ≤ x := by
      have := (Int.zpow_le_iff_le_log (b := 2) (by norm_num) pos).2 (of_decide_eq_true big)
      norm_num at this
      exact this
    have := Decides.of_around ok (g := fun p => ⟨2 ^ p - 2 ^ (p - 40), 2 ^ p - 1⟩) (v := Real.tanh x) 0 fun prec enough => tanh_large ge (by omega)
    rwa [zpow_zero, mul_one] at this
  case isFalse small =>
    have lt : x < 32 := by
      have := (Int.lt_zpow_iff_log_lt (b := 2) (by norm_num) pos).2 (not_le.1 fun h => small (decide_eq_true h))
      norm_num at this
      exact this
    refine Decides.of_has ok fun prec _ => ?_
    have twice : (Ivl.ofDyadic prec (2 * m) e).HasPos prec (2 * x) := by
      have := Ivl.hasPos_ofDyadic (prec := prec) (v := 2 * m) (by positivity) e
      rw [← hx, ← mul_assoc]
      push_cast at this
      exact this
    have bound : 2 * x ≤ 64 := by linarith
    obtain ⟨pos, lo, hi⟩ := hasPos_expI twice bound
    have least := two_pow_le_expI twice bound
    have unit : (0 : Int) < 2 ^ prec := by positivity
    have above : (⟨(expI prec (.ofDyadic prec (2 * m) e)).lo - 2 ^ prec, (expI prec (.ofDyadic prec (2 * m) e)).hi - 2 ^ prec⟩ : Ivl).HasPos prec
        (Real.exp (2 * x) - 1) := by
      refine ⟨sub_nonneg.2 least, ?_, ?_⟩ <;> push_cast <;> linarith
    have below : (⟨(expI prec (.ofDyadic prec (2 * m) e)).lo + 2 ^ prec, (expI prec (.ofDyadic prec (2 * m) e)).hi + 2 ^ prec⟩ : Ivl).HasPos prec
        (Real.exp (2 * x) + 1) := by
      refine ⟨add_nonneg pos unit.le, ?_, ?_⟩ <;> push_cast <;> linarith
    rw [tanh_eq]
    exact (above.divPos below (by dsimp only; omega)).2

end

end Sys2Proof.Machine

/-! VFSIN AND VFCOS of a finite operand: the reduction by the constant of R190, and the quadrant's function of the reduced angle. -/
namespace Sys2Proof.Machine

/-! ## The reduction of an angle (R190) -/

/-- Π/2 of R190. -/
noncomputable def halfPi : ℝ := (0xC90FDAA22168C234C4C6628B80DC1CD1 : ℝ) / 2 ^ 127

theorem nearestEven_bounds (v : Int) {d : Int} (pos : 0 < d) : -d ≤ 2 * (v - nearestEven v d * d) ∧ 2 * (v - nearestEven v d * d) ≤ d := by
  have whole := Int.ediv_mul_add_emod v d
  have nonneg := Int.emod_nonneg v pos.ne'
  have lt := Int.emod_lt_of_pos v pos
  have rest : v - v / d * d = v % d := by linarith
  have next : v - (v / d + 1) * d = v % d - d := by rw [add_mul]; linarith
  unfold nearestEven
  dsimp only
  split_ifs <;> simp only [rest, next] <;> omega

theorem roundReal_rne_le {y : ℝ} (nonneg : 0 ≤ y) : (roundReal .rne y : ℝ) ≤ y + 1 / 2 := by
  have floor := Nat.floor_le nonneg
  unfold roundReal
  dsimp only
  split_ifs <;> push_cast <;> linarith

theorem reduceTrig_spec (v e : Int) : ∃ (k n : Int) (s : Nat) (sig ex : Int), reduceTrig v e = (k, sig, ex) ∧
    (v : ℝ) * 2 ^ e - k * halfPi = n / 2 ^ s ∧ |(v : ℝ) * 2 ^ e - k * halfPi| ≤ halfPi / 2 ∧ Rounds64 n s (sig * 2 ^ ex) ∧ |(sig : ℝ) * 2 ^ ex| ≤ 1 := by
  obtain ⟨s, hs⟩ : ∃ s, (max 127 (-e)).toNat = s := ⟨_, rfl⟩
  have high : 127 ≤ s := by omega
  obtain ⟨j, hj⟩ : ∃ j : Nat, e + s = j := ⟨(e + s).toNat, by omega⟩
  have shift : (e + s).toNat = j := by omega
  obtain ⟨h, hh⟩ : ∃ h : Int, (piConst : Int) * 2 ^ (s - 127) = h := ⟨_, rfl⟩
  have hpos : 0 < h := hh ▸ mul_pos (by decide) (by positivity)
  obtain ⟨k, hk⟩ : ∃ k, nearestEven (v * 2 ^ j) h = k := ⟨_, rfl⟩
  obtain ⟨n, hn⟩ : ∃ n, v * 2 ^ j - k * h = n := ⟨_, rfl⟩
  have unit : (0 : ℝ) < 2 ^ s := by positivity
  have half : halfPi = h / 2 ^ s := by
    rw [← hh, halfPi, ← pow_mul_pow_sub (2 : ℝ) high]
    unfold piConst
    push_cast
    field_simp
  have rest : (v : ℝ) * 2 ^ e - k * halfPi = n / 2 ^ s := by
    have scale : (2 : ℝ) ^ e = 2 ^ j / 2 ^ s := by
      rw [eq_div_iff unit.ne', ← zpow_natCast, ← zpow_natCast, ← zpow_add₀ two_ne_zero, hj]
    rw [half, scale, ← hn]
    push_cast
    field_simp
  obtain ⟨low, upp⟩ := nearestEven_bounds (v * 2 ^ j) hpos
  rw [hk, hn] at low upp
  have bound : |(n : ℝ) / 2 ^ s| ≤ halfPi / 2 := by
    have lowR : -(h : ℝ) ≤ 2 * n := by exact_mod_cast low
    have uppR : 2 * (n : ℝ) ≤ h := by exact_mod_cast upp
    rw [half, abs_div, abs_of_pos unit, div_right_comm]
    gcongr
    rw [abs_le]
    constructor <;> linarith
  have small : halfPi / 2 ≤ 4 / 5 := by
    unfold halfPi
    norm_num
  have reduced : reduceTrig v e = if bitLen n.natAbs ≤ 64 then (k, n, -(s : Int)) else
      (k, if n < 0 then -((roundTo .rne false n.natAbs 0 false (bitLen n.natAbs - 64 : Nat)).1 : Int)
        else (roundTo .rne false n.natAbs 0 false (bitLen n.natAbs - 64 : Nat)).1, ((bitLen n.natAbs - 64 : Nat) : Int) - s) := by
    unfold reduceTrig
    simp only [hs, shift, hh, hk, hn]
  rw [reduced]
  split
  case isTrue few =>
    refine ⟨k, n, s, n, -s, rfl, rest, rest ▸ bound, ⟨fun _ => ?_, fun i ipos least => ?_⟩, ?_⟩
    · rw [zpow_neg, zpow_natCast, div_eq_mul_inv]
    · have nonzero : n.natAbs ≠ 0 := ((Nat.two_pow_pos _).trans_le least).ne'
      have := (Nat.le_log2 nonzero).2 least
      rw [bitLen_eq nonzero] at few
      omega
    · rw [zpow_neg, zpow_natCast, ← div_eq_mul_inv]
      linarith
  case isFalse many =>
    obtain ⟨N, hN⟩ : ∃ N, n.natAbs = N := ⟨_, rfl⟩
    rw [hN] at many ⊢
    have nonzero : N ≠ 0 := fun zero => many (by rw [zero]; decide)
    obtain ⟨sh, hsh⟩ : ∃ sh, bitLen N - 64 = sh := ⟨_, rfl⟩
    have log : Nat.log2 N = 63 + sh := by
      rw [bitLen_eq nonzero] at many hsh
      omega
    have positive : 0 < sh := by omega
    obtain ⟨q, hq⟩ : ∃ q, roundReal .rne (N * 2 ^ (-(sh : Int))) = q := ⟨_, rfl⟩
    have rounded : (roundTo .rne false N 0 false sh).1 = q := by
      rw [(roundTo_eq .rne (sticky := false) (μ := N) rfl (by simp)).1, ← hq, zero_sub]
    have value : (if n < 0 then -(q : Int) else q) = roundedInt .rne (n < 0) N (-(sh : Int)) := by
      have nearest (b : Bool) : RMode.rne.ofMag b = .rne := by cases b <;> rfl
      rw [roundedInt_eq, nearest, hq]
      simp [signed]
    rw [hsh, rounded]
    refine ⟨k, n, s, _, _, rfl, rest, rest ▸ bound, ⟨fun few => ?_, fun i ipos least most => ?_⟩, ?_⟩
    · exact absurd ((Nat.log2_lt nonzero).2 (hN ▸ few)) (by omega)
    · rw [hN] at least most ⊢
      have low := (Nat.le_log2 nonzero).2 least
      have upp := (Nat.log2_lt nonzero).2 most
      obtain rfl : i = sh := by omega
      rw [value, zpow_sub₀ two_ne_zero, zpow_natCast, zpow_natCast, mul_div_assoc]
    · have magnitude : |((if n < 0 then -(q : Int) else q : Int) : ℝ)| = q := by
        split <;> simp
      obtain ⟨y, hy⟩ : ∃ y : ℝ, (N : ℝ) * 2 ^ (-(sh : Int)) = y := ⟨_, rfl⟩
      have large : (2 : ℝ) ^ 63 ≤ y := by
        have least : ((2 ^ (63 + sh) : Nat) : ℝ) ≤ N := by exact_mod_cast log ▸ Nat.log2_self_le nonzero
        push_cast at least
        rw [← hy, zpow_neg, zpow_natCast, le_mul_inv_iff₀ (by positivity), ← pow_add]
        exact least
      have close : (q : ℝ) ≤ y + 1 / 2 := by
        rw [← hq, hy]
        exact roundReal_rne_le (by linarith [(by positivity : (0 : ℝ) ≤ 2 ^ 63)])
      have whole : y * 2 ^ ((sh : Int) - s) = |(n : ℝ) / 2 ^ s| := by
        have abs : |(n : ℝ)| = N := by rw [← hN, Nat.cast_natAbs, Int.cast_abs]
        rw [← hy, abs_div, abs_of_pos unit, abs, mul_assoc, ← zpow_add₀ two_ne_zero, div_eq_mul_inv, ← zpow_natCast, ← zpow_neg]
        congr 2
        ring
      have place : (0 : ℝ) < 2 ^ ((sh : Int) - s) := by positivity
      rw [abs_mul, magnitude, abs_of_pos place]
      have : (q : ℝ) ≤ 5 / 4 * y := by
        norm_num at large
        linarith
      calc (q : ℝ) * 2 ^ ((sh : Int) - s) ≤ 5 / 4 * y * 2 ^ ((sh : Int) - s) := by gcongr
        _ = 5 / 4 * |(n : ℝ) / 2 ^ s| := by rw [mul_assoc, whole]
        _ ≤ 1 := by linarith

/-! ## VFSIN and VFCOS -/

/-- The quadrant's function of a reduced angle: the sine or cosine of it, and its sign. -/
noncomputable def quadrant (useCos minus : Bool) (ρ : ℝ) : ℝ :=
  if minus then -(if useCos then Real.cos ρ else Real.sin ρ) else if useCos then Real.cos ρ else Real.sin ρ

/-- The enclosure that VFSIN and VFCOS make of a reduced angle (R189). -/
theorem has_quadrant {prec : Nat} {sig ex : Int} (useCos minus : Bool) (small : |(sig : ℝ) * 2 ^ ex| ≤ 1) :
    let x := Ivl.ofDyadic prec sig.natAbs ex
    let y := if useCos then cosI prec x else sinI prec x
    (if minus != (decide (sig < 0) && !useCos) then y.neg else y).Has prec (quadrant useCos minus (sig * 2 ^ ex)) := by
  intro x y
  obtain ⟨ρ, hρ⟩ : ∃ ρ : ℝ, (sig.natAbs : ℝ) * 2 ^ ex = ρ := ⟨_, rfl⟩
  have magnitude : |(sig : ℝ) * 2 ^ ex| = ρ := by
    rw [← hρ, abs_mul, abs_of_pos (by positivity : (0 : ℝ) < 2 ^ ex), Nat.cast_natAbs, Int.cast_abs]
  have hx : x.HasPos prec ρ := hρ ▸ Ivl.hasPos_ofDyadic (Int.natCast_nonneg _) ex
  have nonneg := hx.nonneg
  rw [magnitude] at small
  have sign : (sig : ℝ) * 2 ^ ex = if sig < 0 then -ρ else ρ := by
    rw [← magnitude]
    split
    case isTrue neg => rw [abs_of_neg (mul_neg_of_neg_of_pos (by exact_mod_cast neg) (by positivity)), neg_neg]
    case isFalse pos => rw [abs_of_nonneg (mul_nonneg (by exact_mod_cast not_lt.1 pos) (by positivity))]
  have hcos := has_cosI nonneg small hx
  have hsin := has_sinI nonneg small hx
  unfold quadrant
  rw [sign]
  by_cases neg : sig < 0 <;> cases useCos <;> cases minus <;> simp [neg, y, hcos, hsin, hcos.neg, hsin.neg]

section
variable {f : Fmt} (h : f ∈ formats) {a : Nat} {neg : Bool} {m : Nat} {e : Int} (dec : f.dec a = .fin neg m e) (nonzero : m ≠ 0)
include h dec nonzero

/-- R189, R190: VFSIN and VFCOS of an operand below 2^30. -/
theorem fpTrig_decides (below : |(FVal.fin neg m e).real| < 2 ^ 30) : ∃ (k n : Int) (s : Nat) (ρ : ℝ),
    (FVal.fin neg m e).real - k * halfPi = n / 2 ^ s ∧ |(FVal.fin neg m e).real - k * halfPi| ≤ halfPi / 2 ∧ Rounds64 n s ρ ∧
    ∀ cos : Bool, Decides f (quadrant ((k % 4 == 1 || k % 4 == 3) != cos) (if cos then k % 4 == 1 || k % 4 == 2 else k % 4 == 2 || k % 4 == 3) ρ)
      (fpTrig f cos a) := by
  have ok := Fmt.ok_of_mem h
  obtain ⟨v, hv⟩ : ∃ v : Int, (if neg then -(m : Int) else m) = v := ⟨_, rfl⟩
  have value : (FVal.fin neg m e).real = v * 2 ^ e := by
    rw [← hv]
    cases neg <;> simp
  have mpos : (0 : ℝ) < m := by exact_mod_cast Nat.pos_of_ne_zero nonzero
  have inRange : ¬(e + (bitLen m : Int) - 1 ≥ 30) := by
    have magnitude : |(FVal.fin neg m e).real| = m * 2 ^ e := by
      have : (0 : ℝ) < m * 2 ^ e := by positivity
      cases neg
      · rw [FVal.real_fin_false, abs_of_pos this]
      · rw [FVal.real_fin_true, abs_neg, abs_of_pos this]
    rw [magnitude] at below
    have := (Int.lt_zpow_iff_log_lt (b := 2) (by norm_num) (by positivity : (0 : ℝ) < m * 2 ^ e) (x := 30)).1 (by exact_mod_cast below)
    rw [Stands.log (sticky := false) rfl nonzero e] at this
    rw [bitLen_eq nonzero]
    push_cast
    omega
  obtain ⟨k, n, s, sig, ex, red, rest, bound, rounds, small⟩ := reduceTrig_spec v e
  rw [value]
  refine ⟨k, n, s, sig * 2 ^ ex, rest, bound, rounds, fun cos => ?_⟩
  simp only [fpTrig, dec, if_neg nonzero, if_neg inRange, hv, red]
  exact Decides.of_has ok fun prec _ => has_quadrant _ _ small

end

end Sys2Proof.Machine

/-! FLOATING-POINT ROUNDING: what the lemmas above say of every format. -/
namespace Sys2Proof.Machine

section
variable {f : Fmt} (h : f ∈ formats)
include h

theorem Decides.rounds {v : ℝ} {r : Nat × Fl} (decides : Decides f v r) : r.1 = f.defNaN ∨
    Nearest f v r.1 ∧ r.2 &&& ~~~Fl.uf = if f.dec r.1 = .inf false ∨ f.dec r.1 = .inf true then Fl.of ||| Fl.nx else Fl.nx :=
  decides.imp_right fun rounds => rounds.nearest (Fmt.ok_of_mem h)

/-- R189, R190: each special function of a finite operand. -/
theorem specialFunctions : SpecialFunctions f := by
  intro a neg m e dec nonzero
  refine ⟨fun fraction => (fpExp2_decides h dec nonzero fraction).rounds h, fun pos fraction => (fpLog2_decides h dec nonzero pos fraction).rounds h,
    (fpTanh_decides h dec nonzero).rounds h, fun below => ?_⟩
  obtain ⟨k, n, s, ρ, rest, bound, rounds, decides⟩ := fpTrig_decides h dec nonzero below
  refine ⟨k, n, s, ρ, rest, bound, rounds, ?_⟩
  have sine := (decides false).rounds h
  have cosine := (decides true).rounds h
  have quarter : k % 4 = 0 ∨ k % 4 = 1 ∨ k % 4 = 2 ∨ k % 4 = 3 := by omega
  rcases quarter with hk | hk | hk | hk <;> simp only [hk, quadrant] at sine cosine ⊢ <;> exact ⟨sine, cosine⟩

end

/-- Settles O21: the one rounding is that of the real number for which a magnitude stands (`roundPack_eq_rounded`), of which the directed results
are the neighbours (`roundPack_rdn`, `roundPack_rup`) and the nearest one follows from their midpoint (`roundPack_rne`); the arithmetic gives its
exact results to it (`finiteArithmetic`), and the special functions an enclosure of theirs (`specialFunctions`). -/
theorem floatRounding : Obligations.FloatRounding := by
  intro f h
  have ok := Fmt.ok_of_mem h
  refine ⟨finiteArithmetic ok, specialFunctions h, fun neg m e nonzero => ?_⟩
  exact ⟨roundPack_rounds ok neg m e nonzero, roundPack_rdn ok neg e nonzero, roundPack_rup ok neg e nonzero, roundPack_rtz ok neg e nonzero,
    roundPack_rne ok neg e nonzero, fun room d k n above below => roundPack_between d ok.wide' neg e room above below⟩

end Sys2Proof.Machine

/-!
NaNs, INVALID OPERATIONS, INFINITIES AND ZEROS (R57, R58, R188, R189): the exact cases of the special functions, the minimum and maximum, and the
operations on the sign bit.
-/
namespace Sys2Proof.Machine

/-! ## Exact values -/

section
variable {f : Fmt} (ok : f.Ok)
include ok

/-- A number of no more bits than the format holds, in its range, is one of its values. -/
theorem Fmt.exists_mag {N : Nat} {q : Int} (nonzero : N ≠ 0) (few : N < 2 ^ (f.fbits + 1)) (low : f.low ≤ q) (high : q + Nat.log2 N ≤ f.bias) :
    ∃ p < f.posInf, f.mag p = N * 2 ^ q := by
  have short : Nat.log2 N < f.fbits + 1 := (Nat.log2_lt nonzero).2 few
  obtain ⟨k, j, hk, hj, places⟩ : ∃ k j : Nat, q = f.low + k + j ∧ Nat.log2 N + j ≤ f.fbits ∧ (k = 0 ∨ Nat.log2 N + j = f.fbits) := by
    rcases le_total (q + Nat.log2 N - f.fbits) f.low with h | h
    · exact ⟨0, (q - f.low).toNat, by omega, by omega, .inl rfl⟩
    · exact ⟨(q + Nat.log2 N - f.fbits - f.low).toNat, f.fbits - Nat.log2 N, by omega, by omega, .inr (by omega)⟩
  have least : 2 ^ (Nat.log2 N + j) ≤ N * 2 ^ j := by
    rw [pow_add]
    exact Nat.mul_le_mul_right _ (Nat.log2_self_le nonzero)
  have most : N * 2 ^ j < 2 ^ (f.fbits + 1) := by
    calc N * 2 ^ j < 2 ^ (Nat.log2 N + 1) * 2 ^ j := Nat.mul_lt_mul_of_pos_right Nat.lt_log2_self (Nat.two_pow_pos _)
      _ = 2 ^ (Nat.log2 N + 1 + j) := (pow_add ..).symm
      _ ≤ _ := Nat.pow_le_pow_right two_pos (by omega)
  have value : f.mag (k * 2 ^ f.fbits + N * 2 ^ j) = N * 2 ^ q := by
    rw [f.mag_places most.le (places.imp_right fun full => by rw [← full]; exact least), hk, zpow_add₀ two_ne_zero _ (j : Int), zpow_natCast]
    push_cast
    ring
  refine ⟨_, ?_, value⟩
  rw [← f.mag_strictMono.lt_iff_lt, value, f.mag_posInf ok.wide']
  have bound : (N : ℝ) < 2 ^ (Nat.log2 N + 1) := by exact_mod_cast Nat.lt_log2_self
  calc (N : ℝ) * 2 ^ q < 2 ^ (Nat.log2 N + 1) * 2 ^ q := by gcongr
    _ = 2 ^ ((Nat.log2 N + 1 : Nat) + q) := by rw [zpow_add₀ two_ne_zero, zpow_natCast]
    _ ≤ _ := zpow_le_zpow_right₀ one_le_two (by push_cast; omega)

/-- A value of the format rounds to itself, with no flag. -/
theorem roundPack_value (d : RMode) (neg : Bool) {m : Nat} {e : Int} (nonzero : m ≠ 0) {p : Nat} (lt : p < f.posInf) (value : f.mag p = m * 2 ^ e) :
    roundPack f d neg m e false = (f.withSign neg p, 0) ∧ valEq (f.dec (f.withSign neg p)) (.fin neg m e) = true := by
  have mpos : (0 : ℝ) < m := by exact_mod_cast Nat.pos_of_ne_zero nonzero
  have pos : (0 : ℝ) < m * 2 ^ e := by positivity
  obtain ⟨here, exact_⟩ := f.exact_mag pos value
  have pat (d : RMode) : f.pat d (m * 2 ^ e) = p := (f.pat_of_exact pos ok.frac' exact_ d).trans here
  obtain ⟨n, g, dec, same⟩ := f.dec_withSign_fin neg lt
  constructor
  · rw [roundPack_exact d ok.wide' neg e nonzero, Fmt.rounded, if_neg (by rw [pat]; exact not_le.2 lt), if_pos exact_, pat]
  · rw [dec, valEq_fin]
    cases neg <;> simp [same, value]

theorem Fmt.mag_one : f.mag 1 = 2 ^ f.low := by
  have : 1 < 2 ^ f.fbits := Nat.one_lt_two_pow (by have := ok.frac; omega)
  simp [Fmt.mag, this]

/-- A power of 2 below the least value above 0 rounds to 0, half of it on the tie. -/
theorem roundPack_below {n : Int} (below : n < f.low) : roundPack f .rne false 1 n false = (f.zero false, Fl.uf ||| Fl.nx) := by
  have pos : (0 : ℝ) < (1 : Nat) * 2 ^ n := by positivity
  have least := f.mag_one ok
  have twice : 2 * ((1 : Nat) * (2 : ℝ) ^ n) ≤ 2 ^ f.low := by
    rw [Nat.cast_one, one_mul, ← zpow_one_add₀ two_ne_zero]
    exact zpow_le_zpow_right₀ one_le_two (by omega)
  have down : f.pat .rdn ((1 : Nat) * (2 : ℝ) ^ n) = 0 := by
    refine Nat.eq_zero_of_not_pos fun some => ?_
    have := (f.le_pat_rdn_iff pos).1 some
    rw [least] at this
    linarith
  have inexact : ¬f.Exact ((1 : Nat) * (2 : ℝ) ^ n) := by
    rw [Fmt.Exact, down, f.mag_zero]
    exact pos.ne
  have near : f.pat .rne ((1 : Nat) * (2 : ℝ) ^ n) = 0 := by
    rw [f.pat_rne pos ok.frac', down, Nat.zero_add, f.mag_zero, least, if_neg (by linarith)]
    simp
  have tiny : f.Tiny .rne ((1 : Nat) * (2 : ℝ) ^ n) := by
    have log : Int.log 2 (((1 : Nat) : ℝ) * (2 : ℝ) ^ n) = n + Nat.log2 1 := Stands.log (sticky := false) rfl one_ne_zero n
    have frac := ok.frac
    rw [Fmt.Tiny, log, show Nat.log2 1 = 0 by decide]
    unfold Fmt.low at below
    constructor <;> push_cast <;> omega
  have within : ¬f.posInf ≤ 0 := not_le.2 (Fmt.posInf_pos ok.wide')
  rw [roundPack_exact .rne ok.wide' false n one_ne_zero, Fmt.rounded]
  simp only [RMode.ofMag, near, within, inexact, tiny, if_true, if_false]
  exact Prod.ext rfl (BitVec.or_comm _ _)

end

/-! ## The exact cases of VFEXP2 and VFLOG2 (R189, Table 5) -/

section
variable {f : Fmt} (h : f ∈ formats) {a : Nat} {neg : Bool} {m : Nat} {e : Int} (dec : f.dec a = .fin neg m e) (nonzero : m ≠ 0)
include h dec nonzero

/-- VFEXP2 of an integer. -/
theorem fpExp2_int {n : Int} (value : (FVal.fin neg m e).real = n) : fpExp2 f a =
    if f.bias < n then (f.posInf, Fl.of ||| Fl.nx) else if n < -2 * (f.bias : Int) - 64 then (f.zero false, Fl.uf ||| Fl.nx)
    else roundPack f .rne false 1 n false := by
  obtain ⟨v, hv⟩ : ∃ v : Int, (if neg then -(m : Int) else m) = v := ⟨_, rfl⟩
  have whole : (v : ℝ) * 2 ^ e = n := by
    rw [← value, ← hv]
    cases neg <;> simp
  simp only [fpExp2, dec, if_neg nonzero, hv, roundPack_tiny h]
  by_cases high : 0 ≤ e
  · have same : v * 2 ^ e.toNat = n := by
      have : (v : ℝ) * 2 ^ e.toNat = n := by rw [← whole, ← zpow_natCast, Int.toNat_of_nonneg high]
      exact_mod_cast this
    simp only [if_pos high, same, decide_eq_true high, Bool.true_or, if_true]
  · have same : v = n * 2 ^ (-e).toNat := by
      have : (v : ℝ) = n * 2 ^ (-e).toNat := by
        rw [← whole, ← zpow_natCast, Int.toNat_of_nonneg (by omega), mul_assoc, ← zpow_add₀ two_ne_zero, add_neg_cancel, zpow_zero, mul_one]
      exact_mod_cast this
    have down : shrDown v (-e).toNat = n := by
      rw [shrDown, same]
      push_cast
      exact Int.mul_ediv_cancel _ (by positivity)
    simp only [if_neg high, down, ← same, decide_true, Bool.or_true, if_true]

omit h in
/-- VFLOG2 of a power of 2. -/
theorem fpLog2_power {n : Int} (value : (FVal.fin neg m e).real = 2 ^ n) : fpLog2 f a = roundInt f .rne n 0 false := by
  have unit : (0 : ℝ) < 2 ^ n := by positivity
  have mpos : (0 : ℝ) < m := by exact_mod_cast Nat.pos_of_ne_zero nonzero
  obtain rfl : neg = false := by
    cases neg with
    | false => rfl
    | true =>
      have : (0 : ℝ) < m * 2 ^ e := by positivity
      rw [FVal.real_fin_true] at value
      linarith
  rw [FVal.real_fin_false] at value
  have top : e + Nat.log2 m = n := by
    rw [← Stands.log (sticky := false) rfl nonzero e, value]
    exact Int.log_zpow (b := 2) (by norm_num) n
  have power : m = 2 ^ (bitLen m - 1) := by
    have : (m : ℝ) = 2 ^ Nat.log2 m := by
      rw [← mul_left_inj' (zpow_ne_zero e two_ne_zero), value, ← zpow_natCast, ← zpow_add₀ two_ne_zero, add_comm, top]
    rw [bitLen_eq nonzero, Nat.add_sub_cancel]
    exact_mod_cast this
  have bits : e + (bitLen m : Int) - 1 = n := by rw [bitLen_eq nonzero, ← top]; push_cast; ring
  simp only [fpLog2, dec, if_neg nonzero, if_pos power, bits, Bool.false_eq_true, if_false]

end

section
variable {f : Fmt}

/-- VFEXP2 of an integer in range is exact. -/
theorem exp2_exact (ok : f.Ok) {n : Int} (low : f.low ≤ n) (high : n ≤ f.bias) :
    (roundPack f .rne false 1 n false).2 = 0 ∧ valEq (f.dec (roundPack f .rne false 1 n false).1) (.fin false 1 n) = true := by
  obtain ⟨p, lt, value⟩ := Fmt.exists_mag ok one_ne_zero (Nat.one_lt_two_pow (Nat.succ_ne_zero _)) low (by rw [show Nat.log2 1 = 0 by decide]; omega)
  obtain ⟨rounds, same⟩ := roundPack_value ok .rne false one_ne_zero lt value
  rw [rounds]
  exact ⟨rfl, same⟩

/-- An integer of no more bits than the format holds is a value of it. -/
theorem roundInt_exact (ok : f.Ok) {n : Int} (few : n.natAbs < 2 ^ (f.fbits + 1)) :
    (roundInt f .rne n 0 false).2 = 0 ∧ valEq (f.dec (roundInt f .rne n 0 false).1) (.fin (n < 0) n.natAbs 0) = true := by
  unfold roundInt
  by_cases zero : n = 0
  · subst zero
    obtain ⟨m, e, dec, value⟩ := f.dec_withSign_fin false (Fmt.posInf_pos ok.wide')
    have : f.zero false = f.withSign false 0 := rfl
    rw [if_pos rfl, this, dec, valEq_fin, FVal.real_fin_false, value]
    exact ⟨rfl, by simp⟩
  · have nonzero : n.natAbs ≠ 0 := Int.natAbs_ne_zero.2 zero
    have room := ok.room
    have short := (Nat.log2_lt nonzero).2 few
    obtain ⟨p, lt, value⟩ := Fmt.exists_mag ok (q := 0) nonzero few (by unfold Fmt.low; have := ok.bias_pos; omega) (by omega)
    obtain ⟨rounds, same⟩ := roundPack_value ok .rne (n < 0) nonzero lt value
    rw [if_neg zero, rounds]
    exact ⟨rfl, same⟩

/-- The ranges of the significand and of the exponent of an operand (R56). -/
theorem Fmt.dec_bounds (ok : f.Ok) {a : Nat} {s : Bool} {m : Nat} {e : Int} (dec : f.dec a = .fin s m e) :
    m < 2 ^ (f.fbits + 1) ∧ f.low ≤ e ∧ e + f.fbits ≤ f.bias := by
  have unit : 0 < 2 ^ f.fbits := Nat.two_pow_pos _
  have frac := Nat.mod_lt a unit
  have field := Nat.mod_lt (a / 2 ^ f.fbits) (Nat.two_pow_pos f.ebits)
  unfold Fmt.dec at dec
  rw [pow_succ]
  unfold Fmt.low
  generalize a / 2 ^ f.fbits % 2 ^ f.ebits = ex at dec field
  generalize a % 2 ^ f.fbits = fr at dec frac
  dsimp only at dec
  have some := ok.bias_pos
  have bias := f.two_bias_add_two ok.wide'
  generalize 2 ^ f.ebits = top at bias dec field
  generalize 2 ^ f.fbits = unit at frac dec ⊢
  split_ifs at dec <;> simp only [FVal.fin.injEq] at dec <;> omega

/-- The exponent of a power of 2 that is a value of the format. -/
theorem exponent_few (ok : f.Ok) {a : Nat} {s : Bool} {m : Nat} {e n : Int} (dec : f.dec a = .fin s m e) (value : (FVal.fin s m e).real = 2 ^ n) :
    n.natAbs < 2 ^ (f.fbits + 1) := by
  obtain ⟨few, low, high⟩ := f.dec_bounds ok dec
  have unit : (0 : ℝ) < 2 ^ n := by positivity
  have nonzero : m ≠ 0 := by
    rintro rfl
    rw [FVal.real] at value
    simp at value
    linarith
  have top : n = e + Nat.log2 m := by
    have mpos : (0 : ℝ) < m := by exact_mod_cast Nat.pos_of_ne_zero nonzero
    have pos : (0 : ℝ) < m * 2 ^ e := by positivity
    have same : (m : ℝ) * 2 ^ e = 2 ^ n := by
      cases s with
      | false => rwa [FVal.real_fin_false] at value
      | true => rw [FVal.real_fin_true] at value; linarith
    rw [← Stands.log (sticky := false) rfl nonzero e, same]
    exact (Int.log_zpow (b := 2) (by norm_num) n).symm
  have short := (Nat.log2_lt nonzero).2 few
  have whole := ok.whole
  unfold Fmt.low at low
  omega

/-! ## Minimum, maximum and the sign bit (R188) -/

section
variable {a b : Nat}

theorem valLt_swap {x y : FVal} (numX : x.isNaN = false) (numY : y.isNaN = false) (lt : valLt x y = true) : valLt y x = false := by
  cases x with
  | nan => exact Bool.noConfusion numX
  | inf c => cases y with
    | nan => exact Bool.noConfusion numY
    | inf d => cases c <;> cases d <;> simp_all [valLt]
    | fin => cases c <;> simp_all [valLt]
  | fin c m e => cases y with
    | nan => exact Bool.noConfusion numY
    | inf d => cases d <;> simp_all [valLt]
    | fin d n g =>
      rw [valLt_fin] at lt
      exact (valLt_fin_false ..).2 lt.le

/-- A minimum or maximum takes the number where one operand is a NaN. -/
theorem fpMinMax_nan (nanA : (f.dec a).isNaN = true) (numB : (f.dec b).isNaN = false) (isMax : Bool) :
    fpMinMax f isMax a b = (b, Fl.when (f.dec a).isSig Fl.nv) ∧ fpMinMax f isMax b a = (b, Fl.when (f.dec a).isSig Fl.nv) := by
  have quiet : (f.dec b).isSig = false := by
    cases h : f.dec b <;> simp_all [FVal.isNaN, FVal.isSig]
  simp [fpMinMax, nanA, numB, quiet]

theorem fpMinMax_nans (nanA : (f.dec a).isNaN = true) (nanB : (f.dec b).isNaN = true) (isMax : Bool) :
    fpMinMax f isMax a b = (f.defNaN, Fl.when ((f.dec a).isSig || (f.dec b).isSig) Fl.nv) ∧
      fpMinMax f isMax b a = (f.defNaN, Fl.when ((f.dec a).isSig || (f.dec b).isSig) Fl.nv) := by
  simp [fpMinMax, nanA, nanB, Bool.or_comm]

theorem isSig_of_num {x : FVal} (num : x.isNaN = false) : x.isSig = false := by
  cases x with
  | nan s => exact Bool.noConfusion num
  | _ => rfl

/-- Of two numbers the less and the greater. -/
theorem fpMinMax_lt (numA : (f.dec a).isNaN = false) (numB : (f.dec b).isNaN = false) (lt : valLt (f.dec a) (f.dec b) = true) :
    (fpMinMax f false a b = (a, 0) ∧ fpMinMax f false b a = (a, 0)) ∧ fpMinMax f true a b = (b, 0) ∧ fpMinMax f true b a = (b, 0) := by
  have swap := valLt_swap numA numB lt
  simp [fpMinMax, numA, numB, isSig_of_num numA, isSig_of_num numB, lt, swap, valEq, Fl.when]

/-- The sign of an operand is its highest bit (R56). -/
theorem Fmt.dec_sign {s : Bool} {m : Nat} {e : Int} (dec : f.dec a = .fin s m e) : (a / f.signBit % 2 == 1) = s := by
  unfold Fmt.dec at dec
  dsimp only at dec
  split_ifs at dec <;> exact (FVal.fin.inj dec).1

/-- −0 is below +0. -/
theorem fpMinMax_zeros {ea eb : Int} (decA : f.dec a = .fin true 0 ea) (decB : f.dec b = .fin false 0 eb) :
    (fpMinMax f false a b = (a, 0) ∧ fpMinMax f false b a = (a, 0)) ∧ fpMinMax f true a b = (b, 0) ∧ fpMinMax f true b a = (b, 0) := by
  have signA := f.dec_sign decA
  have signB := f.dec_sign decB
  have same : valEq (.fin true 0 ea) (.fin false 0 eb) = true := (valEq_fin ..).2 (by simp)
  have same' : valEq (.fin false 0 eb) (.fin true 0 ea) = true := (valEq_fin ..).2 (by simp)
  have lt : valLt (.fin true 0 ea) (.fin false 0 eb) = false := (valLt_fin_false ..).2 (by simp)
  have lt' : valLt (.fin false 0 eb) (.fin true 0 ea) = false := (valLt_fin_false ..).2 (by simp)
  simp only [fpMinMax, decA, decB, signA, signB, same, same', lt, lt', FVal.isNaN, FVal.isSig]
  simp [Fl.when]

/-- VFABS clears the sign bit and leaves the others. -/
theorem fpAbs_testBit (lt : a < 2 ^ f.width) (i : Nat) : (fpAbs f a).1.testBit i = (a.testBit i && i != f.width - 1) := by
  have top : f.width - 1 = f.ebits + f.fbits := rfl
  rw [fpAbs, Fmt.signBit, Nat.testBit_mod_two_pow, top]
  rcases lt_trichotomy i (f.ebits + f.fbits) with h | h | h
  · simp [h, h.ne]
  · simp [h]
  · have beyond : a.testBit i = false := Nat.testBit_lt_two_pow (lt.trans_le (Nat.pow_le_pow_right two_pos h))
    simp [beyond]

/-- VFNEG inverts the sign bit and leaves the others. -/
theorem fpNeg_testBit (lt : a < 2 ^ f.width) (i : Nat) : (fpNeg f a).1.testBit i = (a.testBit i != (i == f.width - 1)) := by
  have top : f.width - 1 = f.ebits + f.fbits := rfl
  have sign : a.testBit (f.ebits + f.fbits) = (a / f.signBit % 2 == 1) := by
    rw [Nat.testBit_eq_decide_div_mod_eq]
    rfl
  have abs := fpAbs_testBit (f := f) lt i
  rw [fpAbs, top] at abs
  have low : a % f.signBit < 2 ^ (f.ebits + f.fbits) := Nat.mod_lt _ (Nat.two_pow_pos _)
  have shape : a % f.signBit + f.signBit = 2 ^ (f.ebits + f.fbits) + a % f.signBit := Nat.add_comm _ _
  rw [fpNeg, top, ← sign, shape]
  rcases lt_trichotomy i (f.ebits + f.fbits) with h | h | h
  · have same : (a % f.signBit).testBit i = a.testBit i := by rw [abs, bne_iff_ne.2 h.ne, Bool.and_true]
    have : (i == f.ebits + f.fbits) = false := by simp [h.ne]
    split <;> simp [Nat.testBit_two_pow_add_gt h, same, this]
  · subst h
    have clear : (a % f.signBit).testBit (f.ebits + f.fbits) = false := Nat.testBit_lt_two_pow low
    cases set : a.testBit (f.ebits + f.fbits) <;> simp [clear, Nat.testBit_two_pow_add_eq]
  · have beyond : a.testBit i = false := Nat.testBit_lt_two_pow (lt.trans_le (Nat.pow_le_pow_right two_pos h))
    have top : 2 ^ (f.ebits + f.fbits) + a % f.signBit < 2 ^ i := by
      have : 2 ^ (f.ebits + f.fbits + 1) ≤ 2 ^ i := Nat.pow_le_pow_right two_pos h
      rw [pow_succ] at this
      omega
    have below : (a % f.signBit).testBit i = false := Nat.testBit_lt_two_pow (by omega)
    split <;> simp [Nat.testBit_lt_two_pow top, below, beyond, h.ne']

end

end

/-! ## NaNs, infinities and zeros (R57, R58, R188, R189) -/

section
variable {f : Fmt} {a b c : Nat} (d : RMode)

theorem isSig_negate (x : FVal) : x.negate.isSig = x.isSig := by cases x <;> rfl

/-- A NaN operand of VFADD, VFSUB, VFMUL or VFDIV. -/
theorem fp2_nan (nan : ((f.dec a).isNaN || (f.dec b).isNaN) = true) :
    ∀ op ∈ [fpAdd, fpSub, fpMul, fpDiv], op f d a b = (f.defNaN, if ((f.dec a).isSig || (f.dec b).isSig) = true then Fl.nv else 0) := by
  have add (y : FVal) (h : ((f.dec a).isNaN || y.isNaN) = true) : addVal f d (f.dec a) y = nanResult f ((f.dec a).isSig || y.isSig) := by
    cases hx : f.dec a <;> cases y <;> simp_all [addVal, FVal.isNaN, FVal.isSig]
  have negNan (y : FVal) : y.negate.isNaN = y.isNaN := by cases y <;> rfl
  simp only [List.forall_mem_cons, List.not_mem_nil, false_implies, implies_true, and_true]
  refine ⟨add _ nan, ?_, if_pos nan, ?_⟩
  · rw [fpSub, add _ (by rwa [negNan]), isSig_negate]
    rfl
  · unfold fpDiv
    cases hx : f.dec a <;> cases hy : f.dec b <;> simp_all [nanResult, FVal.isNaN, FVal.isSig, Fl.when]

theorem exists_nan {x : FVal} (h : x.isNaN = true) : ∃ s, x = .nan s := by
  cases x with
  | nan s => exact ⟨s, rfl⟩
  | _ => exact Bool.noConfusion h

/-- A NaN operand of VFSQRT, VFRCP or VFRSQ. -/
theorem fp1_nan (nan : (f.dec a).isNaN = true) :
    ∀ op ∈ [fpSqrt, fpRcp, fpRsq], op f d a = (f.defNaN, if (f.dec a).isSig = true then Fl.nv else 0) := by
  obtain ⟨s, h⟩ := exists_nan nan
  simp only [List.forall_mem_cons, List.not_mem_nil, false_implies, implies_true, and_true, fpSqrt, fpRcp, fpRsq, h]
  exact ⟨rfl, rfl, rfl⟩

/-- A NaN operand of a special function. -/
theorem special_nan (nan : (f.dec a).isNaN = true) : ∀ op ∈ [fpExp2, fpLog2, fpTanh, fun f a => fpTrig f false a, fun f a => fpTrig f true a],
    op f a = (f.defNaN, if (f.dec a).isSig = true then Fl.nv else 0) := by
  obtain ⟨s, h⟩ := exists_nan nan
  simp only [List.forall_mem_cons, List.not_mem_nil, false_implies, implies_true, and_true, fpExp2, fpLog2, fpTanh, fpTrig, h]
  exact ⟨rfl, rfl, rfl, rfl, rfl⟩

/-- The special functions of ±0 (Table 5). -/
theorem special_zero {s : Bool} {e : Int} (h : f.dec a = .fin s 0 e) : fpExp2 f a = (f.bias * 2 ^ f.fbits, 0) ∧ fpLog2 f a = (f.inf true, Fl.dz) ∧
    fpTrig f false a = (f.zero s, 0) ∧ fpTrig f true a = (f.bias * 2 ^ f.fbits, 0) ∧ fpTanh f a = (f.zero s, 0) := by
  simp [fpExp2, fpLog2, fpTrig, fpTanh, h]

/-- The special functions of ±∞ (Table 5). -/
theorem special_inf {s : Bool} (h : f.dec a = .inf s) : fpExp2 f a = (if s then f.zero false else f.inf false, 0) ∧
    fpLog2 f a = (if s then (f.defNaN, Fl.nv) else (f.inf false, 0)) ∧ fpTrig f false a = (f.defNaN, Fl.nv) ∧ fpTrig f true a = (f.defNaN, Fl.nv) ∧
    fpTanh f a = (if s then 2 ^ (f.width - 1) + f.bias * 2 ^ f.fbits else f.bias * 2 ^ f.fbits, 0) := by
  have top : f.width - 1 = f.ebits + f.fbits := rfl
  cases s <;> simp [fpExp2, fpLog2, fpTrig, fpTanh, h, nanResult, Fl.when, Fmt.inf, Fmt.zero, Fmt.signBit, top]

/-- VFSIN and VFCOS of a magnitude of 2^30 or more (R190). -/
theorem fpTrig_range {s : Bool} {m : Nat} {e : Int} (dec : f.dec a = .fin s m e) (large : valLt (.fin false m e) (.fin false 1 30) = false) (cos : Bool) :
    fpTrig f cos a = (f.defNaN, Fl.range) := by
  rw [valLt_fin_false, FVal.real_fin_false, FVal.real_fin_false, Nat.cast_one, one_mul] at large
  have nonzero : m ≠ 0 := by
    rintro rfl
    norm_num at large
  have mpos : (0 : ℝ) < m := by exact_mod_cast Nat.pos_of_ne_zero nonzero
  have log := (Int.zpow_le_iff_le_log (b := 2) (by norm_num) (by positivity : (0 : ℝ) < m * 2 ^ e) (x := 30)).1 (by exact_mod_cast large)
  rw [Stands.log (sticky := false) rfl nonzero e] at log
  have top : e + (bitLen m : Int) - 1 ≥ 30 := by rw [bitLen_eq nonzero]; push_cast; omega
  simp only [fpTrig, dec, if_neg nonzero, if_pos top]

end

/-! ## The exact cases, as the statement asks for them -/

section
variable {f : Fmt} (h : f ∈ formats) {a : Nat} {n : Int}
include h

/-- 1 and −1 in a format. -/
theorem one_value : valEq (f.dec (f.bias * 2 ^ f.fbits)) (.fin false 1 0) = true ∧
    valEq (f.dec (2 ^ (f.width - 1) + f.bias * 2 ^ f.fbits)) (.fin true 1 0) = true := by
  simp only [formats, List.mem_cons, List.not_mem_nil, or_false] at h
  rcases h with rfl | rfl | rfl <;> decide +kernel

omit h in
theorem exists_fin_of_valEq {x : FVal} {s : Bool} {m : Nat} {e : Int} (value : valEq x (.fin s m e) = true) :
    ∃ t k g, x = .fin t k g ∧ (FVal.fin t k g).real = (FVal.fin s m e).real := by
  cases x with
  | nan => exact Bool.noConfusion value
  | inf t => cases t <;> exact Bool.noConfusion value
  | fin t k g => exact ⟨t, k, g, rfl, (valEq_fin ..).1 value⟩

omit h in
theorem real_int (n : Int) : (FVal.fin (decide (n < 0)) n.natAbs 0).real = n := by
  by_cases neg : n < 0
  · simp [neg, Nat.cast_natAbs, abs_of_neg (Int.cast_lt_zero.2 neg : (n : ℝ) < 0)]
  · simp [neg, Nat.cast_natAbs, abs_of_nonneg (by exact_mod_cast not_lt.1 neg : (0 : ℝ) ≤ n)]

/-- An operand that is an integer: 0, or one with a magnitude. -/
theorem integer_cases (value : valEq (f.dec a) (.fin (n < 0) n.natAbs 0) = true) : n = 0 ∧ fpExp2 f a = (f.bias * 2 ^ f.fbits, 0) ∨
    fpExp2 f a = if f.bias < n then (f.posInf, Fl.of ||| Fl.nx) else if n < -2 * (f.bias : Int) - 64 then (f.zero false, Fl.uf ||| Fl.nx)
      else roundPack f .rne false 1 n false := by
  obtain ⟨s, m, e, dec, real⟩ := exists_fin_of_valEq value
  rw [real_int] at real
  rcases Nat.eq_zero_or_pos m with rfl | pos
  · refine .inl ⟨?_, (special_zero dec).1⟩
    have : (n : ℝ) = 0 := by rw [← real]; simp [FVal.real]
    exact_mod_cast this
  · exact .inr (fpExp2_int h dec pos.ne' real)

theorem fpExp2_integer (low : 1 - (f.bias : Int) - f.fbits ≤ n) (high : n ≤ f.bias) (value : valEq (f.dec a) (.fin (n < 0) n.natAbs 0) = true) :
    (fpExp2 f a).2 = 0 ∧ valEq (f.dec (fpExp2 f a).1) (.fin false 1 n) = true := by
  have ok := Fmt.ok_of_mem h
  obtain ⟨rfl, one⟩ | power := integer_cases h value
  · rw [one]
    exact ⟨rfl, (one_value h).1⟩
  · have := ok.room
    rw [power, if_neg (by omega), if_neg (by omega)]
    exact exp2_exact ok low high

theorem fpExp2_out (value : valEq (f.dec a) (.fin (n < 0) n.natAbs 0) = true) : (f.bias < n → fpExp2 f a = (f.inf false, Fl.of ||| Fl.nx)) ∧
    (n < 1 - (f.bias : Int) - f.fbits → fpExp2 f a = (f.zero false, Fl.uf ||| Fl.nx)) := by
  have ok := Fmt.ok_of_mem h
  have bias := ok.bias_pos
  obtain ⟨rfl, -⟩ | power := integer_cases h value
  · exact ⟨fun out => absurd out (by omega), fun out => absurd out (by omega)⟩
  · rw [power]
    refine ⟨fun out => if_pos out, fun out => ?_⟩
    rw [if_neg (by omega), roundPack_below ok out, ite_self]

theorem fpLog2_exact (value : valEq (f.dec a) (.fin false 1 n) = true) :
    (fpLog2 f a).2 = 0 ∧ valEq (f.dec (fpLog2 f a).1) (.fin (n < 0) n.natAbs 0) = true := by
  have ok := Fmt.ok_of_mem h
  obtain ⟨s, m, e, dec, real⟩ := exists_fin_of_valEq value
  rw [FVal.real_fin_false, Nat.cast_one, one_mul] at real
  have nonzero : m ≠ 0 := by
    rintro rfl
    have unit : (0 : ℝ) < 2 ^ n := by positivity
    rw [← real, FVal.real] at unit
    simp at unit
  rw [fpLog2_power dec nonzero real]
  exact roundInt_exact ok (exponent_few ok dec real)

end

/-- Settles O22: each clause by the decoded operands that it speaks of; the exact cases by the rounding of a value of the format
(`roundPack_value`), the sign operations bit by bit. -/
theorem floatSpecials : Obligations.FloatSpecials := by
  intro f h d a b c x y z nan isInf isZero neg finite minMax
  have ok := Fmt.ok_of_mem h
  have infOf (p : Nat) (hv : isInf (f.dec p) = true) : ∃ s, f.dec p = .inf s := by
    cases v : f.dec p with
    | inf s => exact ⟨s, rfl⟩
    | _ => exact Bool.noConfusion ((congrArg isInf v).symm.trans hv)
  have zeroOf (p : Nat) (hv : isZero (f.dec p) = true) : ∃ s e, f.dec p = .fin s 0 e := by
    cases v : f.dec p with
    | fin s m e =>
      obtain rfl : m = 0 := by simpa [isZero, v] using hv
      exact ⟨s, e, rfl⟩
    | _ => exact Bool.noConfusion ((congrArg isZero v).symm.trans hv)
  have finOf (p : Nat) (hv : finite (f.dec p) = true) : ∃ s m e, f.dec p = .fin s m e := by
    cases v : f.dec p with
    | fin s m e => exact ⟨s, m, e, rfl⟩
    | _ => exact Bool.noConfusion ((congrArg finite v).symm.trans hv)
  have nonzeroOf {m : Nat} (hv : (m == 0) = false) : m ≠ 0 := by simpa using hv
  refine ⟨fp2_nan d, fp1_nan d, special_nan, ⟨?_, ?_, fun hz => ?_, fun hi => ?_, fun hf hz hn => ?_, ?_, ?_, ?_, ?_⟩, fun hx hy hn => ?_, fun hx hy hn => ?_, fun hx hy => ?_, fun hx hy => ?_, fun hx hy => ?_,
    fun hx hy => ?_, fun hx hz hy => ?_, fun hz => ?_, fun hx => ?_, fun hx hz hn => ?_, fun hx hn => ?_, fun hx hy m => ?_, fun hx hy m => ?_, fun hx hy lt => ?_, fun hx hy hs ht => ?_, fun lt => ?_⟩
  · exact (one_value h).1
  · exact (one_value h).2
  · obtain ⟨s, e, hs⟩ := zeroOf a hz
    simp only [x, neg, hs]
    exact special_zero hs
  · obtain ⟨s, hs⟩ := infOf a hi
    simp only [x, neg, hs]
    exact special_inf hs
  · obtain ⟨s, m, e, hs⟩ := finOf a hf
    simp only [x, neg, hs] at hz hn
    have nonzero := nonzeroOf hz
    simp [fpLog2, hs, nonzero, hn, nan, nanResult, Fl.when]
  · intro m e hx large
    obtain hs | hs := hx <;> exact ⟨fpTrig_range hs large false, fpTrig_range hs large true⟩
  · intro n low high value
    exact fpExp2_integer h low high value
  · intro n value
    exact fpExp2_out h value
  · intro n value
    exact fpLog2_exact h value
  · obtain ⟨⟨s, hs⟩, t, ht⟩ := And.intro (infOf a hx) (infOf b hy)
    simp only [x, y, neg, hs, ht] at hn
    simp [fpAdd, addVal, hs, ht, hn, nan, nanResult, Fl.when]
  · obtain ⟨⟨s, hs⟩, t, ht⟩ := And.intro (infOf a hx) (infOf b hy)
    simp only [x, y, neg, hs, ht] at hn
    simp [fpSub, addVal, hs, ht, hn, nan, nanResult, Fl.when, FVal.negate]
  · obtain ⟨⟨s, hs⟩, t, e, ht⟩ := And.intro (infOf a hx) (zeroOf b hy)
    simp [fpMul, fpFma, mulVal, hs, ht, nan, nanResult, Fl.when, FVal.isNaN]
  · obtain ⟨⟨s, hs⟩, t, ht⟩ := And.intro (infOf a hx) (infOf b hy)
    simp [fpDiv, hs, ht, nan, nanResult, Fl.when]
  · obtain ⟨⟨s, e, hs⟩, t, g, ht⟩ := And.intro (zeroOf a hx) (zeroOf b hy)
    simp [fpDiv, hs, ht, nan, nanResult, Fl.when]
  · obtain ⟨⟨s, hs⟩, t, m, e, ht⟩ := And.intro (infOf a hx) (finOf b hy)
    simp only [x, y, neg, hs, ht]
    exact ⟨by simp [fpAdd, addVal, hs, ht], by simp [fpDiv, hs, ht], by cases s <;> cases t <;> simp [fpDiv, hs, ht]⟩
  · obtain ⟨⟨s, m, e, hs⟩, t, g, ht⟩ := And.intro (finOf a hx) (zeroOf b hy)
    simp only [x, y, neg, hs, ht] at hz ⊢
    have nonzero := nonzeroOf hz
    simp [fpDiv, hs, ht, nonzero]
  · obtain ⟨s, e, hs⟩ := zeroOf a hz
    simp only [x, neg, hs]
    simp [fpRcp, fpRsq, fpSqrt, hs]
  · obtain ⟨s, hs⟩ := infOf a hx
    simp only [x, neg, hs]
    simp [fpRcp, hs]
  · cases hs : f.dec a with
    | nan s => exact absurd (by simp only [x, hs]; rfl) hx
    | inf s =>
      simp only [x, neg, hs] at hn
      simp [fpSqrt, fpRsq, hs, hn, nan, nanResult, Fl.when]
    | fin s m e =>
      simp only [x, neg, hs] at hz hn
      have nonzero := nonzeroOf hz
      simp [fpSqrt, fpRsq, hs, hn, nonzero, nan, nanResult, Fl.when]
  · obtain ⟨s, hs⟩ := infOf a hx
    simp only [x, neg, hs] at hn
    simp [fpSqrt, fpRsq, hs, hn, Fmt.zero]
  · exact fpMinMax_nan hx hy m
  · exact fpMinMax_nans hx hy m
  · exact fpMinMax_lt hx hy lt
  · obtain ⟨⟨s, e, es⟩, t, g, et⟩ := And.intro (zeroOf a hx) (zeroOf b hy)
    simp only [x, y, neg, es, et] at hs ht
    exact fpMinMax_zeros (es.trans (by rw [hs])) (et.trans (by rw [ht]))
  · exact ⟨rfl, rfl, fun i => ⟨fpAbs_testBit lt i, fpNeg_testBit lt i⟩⟩

end Sys2Proof.Machine

/-! THE UNITS OF A COPY REQUEST: their addresses, and the pieces that they read (R213, R215 to R221). -/
namespace Sys2Proof.Machine

/-! ## Addresses of a request (R89, R90, R213) -/

theorem segPlus_eq_addrAt (sg : BitVec 128) (o : Int) : segPlus sg o = addrAt sg o := by
  rw [segPlus, segBase_eq_extract]
  rfl

theorem segPlus_add (sg : BitVec 128) (o : Int) (n : Nat) : segPlus sg o + BitVec.ofNat 64 n = addrAt sg (o + n) := by
  simp only [segPlus_eq_addrAt, addrAt, BitVec.ofInt_add, BitVec.ofInt_natCast, BitVec.add_assoc]

theorem segLimit_eq_limitOf (sg : BitVec 128) : segLimit sg = limitOf sg := segLimit_eq_extract sg

theorem pieceAt_eq_wordPiece (a : Word) (n i : Nat) : pieceAt a n i = wordPiece a.toNat n i := by
  simp only [pieceAt, wordPiece]
  split_ifs with lead word
  · rfl
  · rfl
  · rw [show 8 * ((n - min n ((8 - a.toNat % 8) % 8)) / 8) + (i - (n - min n ((8 - a.toNat % 8) % 8)) / 8) =
      i + 7 * ((n - min n ((8 - a.toNat % 8) % 8)) / 8) by omega]

theorem CopyReq.per_eq (r : CopyReq) : r.per = perUnit r := by
  by_cases convert : r.op = 3 <;> simp [CopyReq.per, perUnit, CopyReq.size, CopyReq.es, convert, and_assoc]

theorem CopyReq.total_eq (r : CopyReq) : r.total = totalOf r := by
  simp only [CopyReq.total, totalOf, CopyReq.es]
  split <;> simp_all

/-! ## The units of a request -/

/-- The unit as the model moves it. -/
def CopyUnit.move (u : CopyUnit) (const : Nat) : Move := ⟨u.reads, u.into, u.n, const, u.whole⟩

/-- What a unit of a fill writes; nothing of the other operations is a constant. -/
def CopyReq.pattern (r : CopyReq) : Nat :=
  if r.op = 4 then (List.range r.per).foldl (fun x j => x + r.w1.toNat % 2 ^ (8 * r.es) * 2 ^ (8 * r.es * j)) 0 else 0

theorem addrAt_add (sg : BitVec 128) (o : Int) (n : Nat) : addrAt sg o + BitVec.ofNat 64 n = addrAt sg (o + n) := by
  rw [← segPlus_eq_addrAt, segPlus_add]

theorem bytesFrom_addrAt (sg : BitVec 128) (o : Int) (m n : Nat) :
    bytesFrom (addrAt sg (o + m)) n = (List.range n).map fun j => (some (addrAt sg (o + (m + j : Nat))), 1) :=
  List.map_congr_left fun j _ => by rw [addrAt_add, Int.natCast_add, Int.add_assoc]

theorem CopyReq.copyUnit_eq (r : CopyReq) (k : Nat → Nat) (i : Nat) (op : r.op = 0) : r.copyUnit i = (unitOf r k i).move 0 := by
  have src : r.srcAt = addrAt r.src (r.w1.toInt + (0 : Nat)) := by simp [CopyReq.srcAt, segPlus_eq_addrAt]
  have dst : r.dstAt = addrAt r.dst (r.w2.toInt + (0 : Nat)) := by simp [CopyReq.dstAt, segPlus_eq_addrAt]
  simp only [CopyReq.copyUnit, CopyReq.cut, unitOf, op, ← src, ← dst, Bool.and_eq_true, decide_eq_true_eq, and_assoc]
  split_ifs with lines words fe
  · simp only [CopyUnit.move, CopyReq.srcAt, CopyReq.dstAt, segPlus_add]
  · simp only [CopyUnit.move, CopyReq.srcAt, CopyReq.dstAt, segPlus_add, pieceAt_eq_wordPiece]
  · simp only [CopyUnit.move, CopyReq.srcAt, CopyReq.dstAt, segPlus_add, bytesFrom_addrAt]
  · simp only [CopyUnit.move, CopyReq.srcAt, CopyReq.dstAt, segPlus_add]

/-- The index element `k e` of element `e` has been read (R216, R217). -/
def CopyReq.Indexed (r : CopyReq) (k : Nat → Nat) (i : Nat) : Prop := ∀ e ∈ r.indexed i, r.index e = some (k e)

/-- Element `e` of a gather or scatter lies beyond the limit (R216, R217). -/
theorem CopyReq.beyond_eq (r : CopyReq) (n : Nat) : r.beyond n =
    if (r.op = 1 ∧ limitOf r.src < n * 2 ^ r.esize + 2 ^ r.esize ∨ r.op = 2 ∧ limitOf r.dst < n * 2 ^ r.esize + 2 ^ r.esize) then
      some (addrAt (if r.op = 1 then r.src else r.dst) (n * 2 ^ r.esize : Nat)) else none := by
  simp only [CopyReq.beyond, CopyReq.es, segLimit_eq_limitOf, segPlus_eq_addrAt]
  by_cases gather : r.op = 1
  · simp [gather]
  · by_cases scatter : r.op = 2 <;> simp [gather, scatter]

theorem CopyReq.unit_eq (r : CopyReq) (k : Nat → Nat) (i : Nat) (op : r.op < 5) (inside : r.op = 2 → r.beyond (k i) = none) :
    r.unit i ((r.indexed i).map k) = some ((unitOf r k i).move r.pattern) := by
  have dst (n : Nat) : r.dstAt + BitVec.ofNat 64 n = addrAt r.dst (r.w2.toInt + n) := segPlus_add _ _ _
  have src (n : Nat) : r.srcAt + BitVec.ofNat 64 n = addrAt r.src (r.w1.toInt + n) := segPlus_add _ _ _
  match h : r.op with
  | 0 => simp [CopyReq.unit, h, r.copyUnit_eq k i h, CopyReq.pattern]
  | 1 =>
    simp [CopyReq.unit, h, unitOf, CopyUnit.move, CopyReq.indexed, CopyReq.elemsOf, CopyReq.pattern, dst, CopyReq.size, CopyReq.per_eq, CopyReq.es,
      CopyReq.beyond_eq, segPlus_eq_addrAt]
  | 2 =>
    simp [CopyReq.unit, h, unitOf, CopyUnit.move, CopyReq.indexed, CopyReq.elemsOf, CopyReq.pattern, src, CopyReq.per_eq, perUnit, CopyReq.es,
      inside h, segPlus_eq_addrAt]
  | 3 => simp [CopyReq.unit, h, unitOf, CopyUnit.move, CopyReq.elemsOf, CopyReq.pattern, src, dst, CopyReq.size, CopyReq.per_eq]
  | 4 => simp [CopyReq.unit, h, unitOf, CopyUnit.move, CopyReq.pattern, dst, CopyReq.size, CopyReq.per_eq, CopyReq.es]
  | n + 5 => omega

/-- An element of a scatter beyond the limit is not written (R217). -/
theorem CopyReq.unit_beyond (r : CopyReq) (k : Nat → Nat) (i : Nat) (op : r.op = 2) (outside : (r.beyond (k i)).isSome = true) :
    r.unit i ((r.indexed i).map k) = none := by
  simp [CopyReq.unit, op, CopyReq.indexed, CopyReq.elemsOf, CopyReq.per_eq, perUnit, outside]

/-- Where a unit writes does not rest on index elements, but for a scatter. -/
theorem CopyReq.unitDest_eq (r : CopyReq) (i : Nat) (op : r.op < 5) (other : r.op ≠ 2) :
    r.unitDest i = ((unitOf r (fun _ => 0) i).into, (unitOf r (fun _ => 0) i).n) := by
  by_cases gather : r.op = 1
  · simp [CopyReq.unitDest, CopyReq.unit, gather, unitOf, CopyReq.dstAt, segPlus_add, CopyReq.size, CopyReq.per_eq, CopyReq.es]
  · have none : r.indexed i = [] := by simp [CopyReq.indexed, gather, other]
    have unit := r.unit_eq (fun _ => 0) i op fun h => absurd h other
    rw [none, List.map_nil] at unit
    rw [CopyReq.unitDest, unit]
    rfl

theorem CopyReq.Indexed.filterMap {r : CopyReq} {k : Nat → Nat} {i : Nat} (read : r.Indexed k i) :
    (r.indexed i).filterMap r.index = (r.indexed i).map k := by
  rw [← List.filterMap_eq_map]
  exact List.filterMap_congr read

/-- The pieces of a unit have one size, and a unit that moves a typed bit is a whole line, read in one piece. -/
def CopyUnit.Shaped (u : CopyUnit) : Prop := (∃ w, ∀ p ∈ u.reads, p.2 = w) ∧ (u.whole = true → u.n = 64 ∧ u.reads.length = 1)

theorem unitOf_shaped (r : CopyReq) (k : Nat → Nat) (i : Nat) : (unitOf r k i).Shaped := by
  unfold unitOf
  dsimp only
  split
  · split
    · exact ⟨⟨64, by simp⟩, by simp⟩
    · split
      · exact ⟨⟨_, fun p hp => by rw [List.mem_singleton.1 hp]⟩, by simp⟩
      · split
        · exact ⟨⟨1, fun p hp => by obtain ⟨j, -, rfl⟩ := List.mem_map.1 hp; rfl⟩, by simp⟩
        · exact ⟨⟨1, by simp⟩, by simp⟩
  next gather =>
    exact ⟨⟨2 ^ r.esize, by simp⟩, by simp +contextual [perUnit, gather]⟩
  · exact ⟨⟨2 ^ r.esize, by simp⟩, by simp +contextual⟩
  · exact ⟨⟨codeBytes r.stype, by simp⟩, by simp⟩
  · exact ⟨⟨0, by simp⟩, by simp⟩

theorem CopyUnit.Shaped.size {u : CopyUnit} (shaped : u.Shaped) {p : Option Word × Nat} (hp : p ∈ u.reads) :
    p.2 = (u.reads.head?.map (·.2)).getD 0 := by
  obtain ⟨⟨w, size⟩, -⟩ := shaped
  cases reads : u.reads with
  | nil => simp [reads] at hp
  | cons q rest => rw [size p hp, List.head?_cons, Option.map_some, Option.getD_some, size q (by simp [reads])]

end Sys2Proof.Machine

/-! THE VALUE OF A UNIT of a copy request (R215, R219, R220). -/
namespace Sys2Proof.Machine

/-! ## The value of a unit (R215, R219, R220) -/

/-- Bytes of the destination that a piece of w bytes makes. -/
def CopyReq.makes (r : CopyReq) (w : Nat) : Nat := if r.op = 3 then codeBytes r.dtype else w

theorem Fl.zero_or (f : Fl) : 0 ||| f = f := BitVec.zero_or

theorem foldl_or_init {α : Type} (f : α → Fl) (a : Fl) (l : List α) : l.foldl (fun m j => m ||| f j) a = a ||| l.foldl (fun m j => m ||| f j) 0 := by
  induction l generalizing a with
  | nil => simp
  | cons j t ih => rw [List.foldl_cons, List.foldl_cons, ih, ih (0 ||| f j), Fl.zero_or, BitVec.or_assoc]

/-- Pieces side by side: the sum of their values at their places, and all their flags. -/
theorem CopyReq.joined_range (r : CopyReq) (w : Nat) (x : Nat → Nat) (b : Nat → Bool) (n : Nat) :
    r.joined ((List.range n).map fun j => (x j, w, b j)) =
      (((List.range n).map fun j => (r.value (x j)).1 * 256 ^ (r.makes w * j)).sum, (List.range n).foldl (fun m j => m ||| (r.value (x j)).2) 0) := by
  induction n generalizing x b with
  | zero => rfl
  | succ n ih =>
    have size : (if r.op = 3 then r.size else w) = r.makes w := by
      by_cases convert : r.op = 3 <;> simp [CopyReq.makes, CopyReq.size, convert]
    have power (j : Nat) : 256 ^ (r.makes w * (j + 1)) = 2 ^ (8 * r.makes w) * 256 ^ (r.makes w * j) := by
      rw [Nat.mul_succ, Nat.pow_add, Nat.mul_comm, Nat.pow_mul 2]
    simp only [List.range_succ_eq_map, List.map_cons, List.map_map, List.sum_cons, List.foldl_cons, List.foldl_map]
    rw [show ((fun j => (x j, w, b j)) ∘ Nat.succ) = fun j => (x (j + 1), w, b (j + 1)) from rfl, CopyReq.joined, ih, size,
      foldl_or_init _ (0 ||| _)]
    simp only [Nat.mul_zero, Nat.pow_zero, Nat.mul_one, Fl.zero_or, Function.comp_def, Nat.succ_eq_add_one, power, ← List.sum_map_mul_left,
      Nat.mul_left_comm]

/-- What the pieces of a unit are read as: their values with their sizes. -/
def CopyUnit.readAs (u : CopyUnit) (x : Nat → Nat) (b : Nat → Bool) : List (Nat × Nat × Bool) :=
  (List.range u.reads.length).map fun j => (x j, (u.reads[j]?.map (·.2)).getD 0, b j)

theorem CopyUnit.Shaped.readAs {u : CopyUnit} (shaped : u.Shaped) (x : Nat → Nat) (b : Nat → Bool) :
    u.readAs x b = (List.range u.reads.length).map fun j => (x j, (u.reads.head?.map (·.2)).getD 0, b j) := by
  refine List.map_congr_left fun j hj => ?_
  have inside : j < u.reads.length := List.mem_range.1 hj
  rw [List.getElem?_eq_getElem inside, Option.map_some, Option.getD_some, shaped.size (List.getElem_mem inside)]

/-- The rounding of a request, 1 to 4 (R39, R214). -/
theorem CopyReq.rmode_eq (r : CopyReq) (low : 1 ≤ r.rm) (high : r.rm ≤ 4) :
    r.rmode = [RMode.rne, .rtz, .rup, .rdn].getD (r.rm - 1) .rne := by
  have cases : r.rm = 1 ∨ r.rm = 2 ∨ r.rm = 3 ∨ r.rm = 4 := by omega
  rcases cases with h | h | h | h <;> rw [CopyReq.rmode, h] <;> rfl

/-- A unit that reads writes what its pieces make, side by side. -/
theorem CopyReq.joined_eq_unitValue (r : CopyReq) {u : CopyUnit} (shaped : u.Shaped) (op : r.op < 4)
    (types : r.op = 3 → (tyOf r.stype).isSome ∧ (tyOf r.dtype).isSome ∧ 1 ≤ r.rm ∧ r.rm ≤ 4) (x : Nat → Nat) (b : Nat → Bool) :
    r.joined (u.readAs x b) = unitValue r u x := by
  rw [shaped.readAs, r.joined_range]
  by_cases convert : r.op = 3
  · obtain ⟨stype, dtype, low, high⟩ := types convert
    obtain ⟨a, ha⟩ := Option.isSome_iff_exists.1 stype
    obtain ⟨d, hd⟩ := Option.isSome_iff_exists.1 dtype
    simp only [unitValue, convert, CopyReq.makes, CopyReq.value, ha, hd, if_true, r.rmode_eq low high]
  · have zero (l : List Nat) : l.foldl (fun m _ => m ||| (0 : Fl)) 0 = 0 := by induction l <;> simp_all
    have value (y : Nat) : r.value y = (y, 0) := by simp [CopyReq.value, convert]
    have cases : r.op = 0 ∨ r.op = 1 ∨ r.op = 2 := by omega
    rcases cases with h | h | h <;> simp only [unitValue, h, value, CopyReq.makes, zero] <;> rfl

theorem foldl_add_eq_sum {α : Type} (f : α → Nat) (a : Nat) (l : List α) : l.foldl (fun x j => x + f j) a = a + (l.map f).sum := by
  induction l generalizing a with
  | nil => rfl
  | cons j t ih => rw [List.foldl_cons, ih, List.map_cons, List.sum_cons, Nat.add_assoc]

/-- A fill writes its pattern as often as it goes into the unit (R220). -/
theorem CopyReq.pattern_eq_unitValue (r : CopyReq) (k : Nat → Nat) (i : Nat) (op : r.op = 4) (x : Nat → Nat) :
    (r.pattern, 0) = unitValue r (unitOf r k i) x := by
  have elements : (unitOf r k i).n / 2 ^ r.esize = perUnit r := by simp [unitOf, op]
  have power (j : Nat) : 2 ^ (8 * r.es * j) = 256 ^ (2 ^ r.esize * j) := by rw [Nat.mul_assoc, Nat.pow_mul]; rfl
  have mask : 2 ^ (8 * r.es) = 256 ^ 2 ^ r.esize := by rw [Nat.pow_mul]; rfl
  simp only [unitValue, op, elements, CopyReq.pattern, if_true, foldl_add_eq_sum, power, mask, CopyReq.per_eq, Nat.zero_add]

end Sys2Proof.Machine

/-! AN ENGINE AT THE CELLS OF A UNIT: the checks of its pieces, and what its write leaves (R76, R101, R221). -/
namespace Sys2Proof.Machine

/-! ## An engine at the pieces of a unit (R101, R215) -/

/-- Memory, line metadata and the free values drawn may differ; nothing else does. -/
def SameButMemory (s u : State) : Prop := u = { s with mem := u.mem, lines := u.lines, draws := u.draws }

theorem SameButMemory.of {s u : State} {mem : SMap (BitVec 8)} {lines : SMap LineMeta} {draws : Nat}
    (h : u = { s with mem, lines, draws }) : SameButMemory s u := by
  rw [h]
  rfl

theorem SameButMemory.refl (s : State) : SameButMemory s s := rfl

theorem SameButMemory.trans {s u v : State} (h : SameButMemory s u) (g : SameButMemory u v) : SameButMemory s v := by
  rw [SameButMemory, g, h]

variable {s : State} {ag : Agent} {from_ : Nat → Nat}

/-- The pieces of a unit, each with the cell that its address leads to. -/
def located (l : List (Option Word × Nat)) (from_ : Nat → Nat) : List (Option (Word × Nat) × Nat) := l.mapIdx fun j p => (p.1.map (·, from_ j), p.2)

/-- What piece `j` is read as: its bytes, or zero where nothing is read. -/
def readFrom (s : State) (l : List (Option Word × Nat)) (from_ : Nat → Nat) (j : Nat) : Nat :=
  if ((l[j]?).bind (·.1)).isSome then s.readN (from_ j) ((l[j]?.map (·.2)).getD 0) else 0

/-- Piece `j` is read from a typed line. -/
def typedFrom (s : State) (l : List (Option Word × Nat)) (from_ : Nat → Nat) (j : Nat) : Bool :=
  ((l[j]?).bind (·.1)).isSome && (s.line (from_ j)).typed

/-- The addresses of the pieces lead to the cells `from_`. -/
def Found (s : State) (ag : Agent) (l : List (Option Word × Nat)) (from_ : Nat → Nat) : Prop :=
  ∀ j a n, l[j]? = some (some a, n) → s.engCell ag a false = (s, .ok (from_ j))

/-- The pieces pass the target checks, in lines without an error. -/
def Passes (s : State) (ag : Agent) (l : List (Option Word × Nat)) (from_ : Nat → Nat) : Prop :=
  ∀ j a n, l[j]? = some (some a, n) → s.targetCheck ag.core ag.job .read (from_ j) n = none ∧ (s.line (from_ j)).sound = true

theorem resolvePieces_found {l : List (Option Word × Nat)} (found : Found s ag l from_) : s.resolvePieces ag l = (s, .ok (located l from_)) := by
  induction l generalizing from_ with
  | nil => rfl
  | cons p t ih =>
    have rest := ih (from_ := fun j => from_ (j + 1)) fun j a n h => found (j + 1) a n h
    obtain ⟨_ | a, n⟩ := p
    · rw [State.resolvePieces, rest]
      simp [located, Except.map, List.mapIdx_cons]
    · rw [State.resolvePieces, found 0 a n rfl]
      simp [rest, located, Except.map, List.mapIdx_cons]

theorem engCheck_sound {a : Word} {cell n : Nat} {kind : AKind} (pass : s.targetCheck ag.core ag.job kind cell n = none)
    (sound : (s.line cell).sound = true) : s.engCheck ag a cell n kind = (s, none) := by
  rw [State.engCheck, pass, s.correctBytes_sound cell n sound]

theorem engCheck_refused {a : Word} {cell n cause detail : Nat} {kind : AKind}
    (refused : s.targetCheck ag.core ag.job kind cell n = some (cause, detail)) (error : ¬(cause = 0x0B ∧ detail = 0x61)) :
    s.engCheck ag a cell n kind = (s, some (.fault cause detail a)) := by
  have other : ¬(decide (cause = cContained) && decide (detail = 0x61)) = true := by
    rw [Bool.and_eq_true, decide_eq_true_eq, decide_eq_true_eq]
    exact error
  rw [State.engCheck, refused]
  simp only [if_neg other]

theorem readPieces_passes {l : List (Option Word × Nat)} (passes : Passes s ag l from_) :
    s.readPieces ag (located l from_) =
      (s, .ok ((List.range l.length).map fun j => (readFrom s l from_ j, (l[j]?.map (·.2)).getD 0, typedFrom s l from_ j))) := by
  induction l generalizing from_ with
  | nil => rfl
  | cons p t ih =>
    have rest := ih (from_ := fun j => from_ (j + 1)) fun j a n h => passes (j + 1) a n h
    rw [List.length_cons, List.range_succ_eq_map, List.map_cons, List.map_map]
    obtain ⟨_ | a, n⟩ := p
    · rw [located, List.mapIdx_cons, Option.map_none, State.readPieces, ← located, rest]
      rfl
    · obtain ⟨pass, sound⟩ := passes 0 a n rfl
      rw [located, List.mapIdx_cons, Option.map_some, State.readPieces, engCheck_sound pass sound, ← located]
      dsimp only
      rw [rest]
      rfl

/-! ## The write of a unit (R76, R221) -/

/-- Memory after a unit of n bytes: written typed or plain, with fe its words marked full. -/
def State.unitWritten (s : State) (fe typed : Bool) (a n x : Nat) : State :=
  let u := if typed then s.writeTyped a x else s.writePlain a n x
  if fe then u.markWritten a n else u

/-- Marking the words `ws` full, where nobody waits. -/
theorem markAll_idle (ws : List Nat) (idle : s.waiters = []) :
    ws.foldl (fun s w => (s.mark w true).serveWord w) s = { s with lines := (ws.foldl (fun s w => s.mark w true) s).lines } := by
  induction ws generalizing s with
  | nil => rfl
  | cons w t ih =>
    have served : (s.mark w true).serveWord w = s.mark w true := by
      rw [State.serveWord, show (s.mark w true).waiters = [] from idle]
      rfl
    rw [List.foldl_cons, List.foldl_cons, served, ih (show (s.mark w true).waiters = [] from idle)]
    rfl

theorem line_markAll (ws : List Nat) (a b : Nat) (same : ∀ w ∈ ws, w / 64 = a / 64) :
    (ws.foldl (fun s w => s.mark w true) s).line b =
      if b / 64 = a / 64 then { s.line b with fe := ws.foldl (fun m w => m ||| BitVec.ofNat 8 (2 ^ (w % 64 / 8))) (s.line b).fe } else s.line b := by
  induction ws generalizing s with
  | nil => simp
  | cons w t ih =>
    have here : w / 64 = a / 64 := same w (by simp)
    rw [List.foldl_cons, ih fun v hv => same v (List.mem_cons_of_mem _ hv), State.mark, State.line_modLine, here, List.foldl_cons]
    by_cases hb : b / 64 = a / 64
    · rw [if_pos hb, if_pos hb, if_pos hb]
      have : s.line w = s.line b := by rw [State.line, State.line, here, hb]
      rw [this]
      rfl
    · rw [if_neg hb, if_neg hb, if_neg hb]

/-- The marks of the words of n bytes from a cell on (R221). -/
def fullMarks (a n : Nat) (fe : BitVec 8) : BitVec 8 := (List.range (n / 8)).foldl (fun m j => m ||| 1 <<< ((a + 8 * j) % 64 / 8)) fe

theorem line_markWritten (a n b : Nat) (idle : s.waiters = []) (fits : a % 64 + n ≤ 64) :
    (s.markWritten a n).line b = if b / 64 = a / 64 then { s.line b with fe := fullMarks a n (s.line b).fe } else s.line b := by
  have same : ∀ w ∈ (List.range (n / 8)).map fun i => a + 8 * i, w / 64 = a / 64 := by
    intro w hw
    obtain ⟨i, hi, rfl⟩ := List.mem_map.1 hw
    have := List.mem_range.1 hi
    omega
  have bit (w : Nat) : BitVec.ofNat 8 (2 ^ w) = ((1 <<< w : Nat) : BitVec 8) := by
    rw [Nat.one_shiftLeft]
    rfl
  rw [State.markWritten, markAll_idle _ idle]
  refine (line_markAll _ a b same).trans ?_
  simp only [List.foldl_map, fullMarks, bit]

theorem markWritten_frame (a n : Nat) (idle : s.waiters = []) : s.markWritten a n = { s with lines := (s.markWritten a n).lines } := by
  rw [State.markWritten, markAll_idle _ idle]

/-- The bytes of a unit are written, typed or plain. -/
theorem written_same (typed : Bool) (a n x : Nat) : SameButMemory s (if typed then s.writeTyped a x else s.writePlain a n x) := by
  cases typed with
  | false => exact .of (s.writePlain_frame a n x)
  | true => exact .of (s.writeTyped_frame a x)

theorem SameButMemory.waiters {s u : State} (h : SameButMemory s u) : u.waiters = s.waiters := by rw [h]

theorem unitWritten_same (fe typed : Bool) (a n x : Nat) (idle : fe = true → s.waiters = []) : SameButMemory s (s.unitWritten fe typed a n x) := by
  have write := written_same (s := s) typed a n x
  cases fe with
  | false => exact write
  | true => exact write.trans (.of (markWritten_frame a n (write.waiters.trans (idle rfl))))

/-- What the written cells must be for a plain write: a sound line, outside space 0x3, that the checks let pass. -/
structure Plain (s : State) (ag : Agent) (into n : Nat) : Prop where
  space : into / 2 ^ 60 ≠ 3
  fits : into % 64 + n ≤ 64
  sound : (s.line into).sound = true
  wiped : (s.line into).wiped = none
  pass : s.targetCheck ag.core ag.job .write into n = none

theorem unitWritten_byte {fe typed : Bool} {a n : Nat} (x b : Nat) (idle : fe = true → s.waiters = []) (whole : typed = true → n = 64) :
    (s.unitWritten fe typed a n x).byte b = if a ≤ b ∧ b < a + n then BitVec.ofNat 8 (x / 256 ^ (b - a)) else s.byte b := by
  have same := written_same (s := s) typed a n x
  have write : (if typed then s.writeTyped a x else s.writePlain a n x).byte b =
      if a ≤ b ∧ b < a + n then BitVec.ofNat 8 (x / 256 ^ (b - a)) else s.byte b := by
    cases typed with
    | false => simp [State.writePlain, State.byte_writeN]
    | true => simp [State.writeTyped, State.byte_writeN, whole rfl]
  cases fe with
  | false => exact write
  | true =>
    refine Eq.trans ?_ write
    rw [State.unitWritten, if_pos rfl, markWritten_frame a n (same.waiters.trans (idle rfl))]
    rfl

theorem written_line (typed : Bool) {a n : Nat} (x b : Nat) (plain : Plain s ag a n) (whole : typed = true → n = 64) :
    (if typed then s.writeTyped a x else s.writePlain a n x).line b = if b / 64 = a / 64 then { s.line b with typed } else s.line b := by
  cases typed with
  | false => exact (s.writePlain_stored a n x plain.sound plain.wiped).line b
  | true =>
    have start : a % 64 = 0 := by have := plain.fits; have := whole rfl; omega
    simp only [if_true, State.writeTyped, State.line_modLine, State.line_writeN, LineMeta.written_sound _ _ _ plain.sound plain.wiped]
    by_cases hb : b / 64 = a / 64
    · rw [if_pos hb, if_pos hb, State.line, State.line, hb]
    · rw [if_neg hb, if_neg hb]

theorem unitWritten_line {fe typed : Bool} {a n : Nat} (x b : Nat) (idle : fe = true → s.waiters = []) (plain : Plain s ag a n)
    (whole : typed = true → n = 64) :
    (s.unitWritten fe typed a n x).line b = if b / 64 = a / 64 then
      { s.line b with typed := typed, fe := if fe then fullMarks a n (s.line b).fe else (s.line b).fe } else s.line b := by
  have same := written_same (s := s) typed a n x
  have write := written_line typed x b plain whole
  cases fe with
  | false => exact write
  | true =>
    rw [State.unitWritten, if_pos rfl, line_markWritten a n b (same.waiters.trans (idle rfl)) plain.fits, write]
    by_cases hb : b / 64 = a / 64 <;> simp [hb]

end Sys2Proof.Machine

/-! ONE UNIT OF A COPY REQUEST made, refused or astray (R215 to R222). -/
namespace Sys2Proof.Machine

/-! ## One unit of a request (R215 to R221) -/

section
variable {s : State} {r : CopyReq} {k : Nat → Nat} {i into : Nat} {from_ : Nat → Nat}

/-- What a unit reads makes the value it writes; a fill has its pattern. -/
theorem value_eq_unitValue (op : r.op < 5) (types : r.op = 3 → (tyOf r.stype).isSome ∧ (tyOf r.dtype).isSome ∧ 1 ≤ r.rm ∧ r.rm ≤ 4)
    (x : Nat → Nat) (b : Nat → Bool) :
    (if ((unitOf r k i).readAs x b).isEmpty then (r.pattern, 0) else r.joined ((unitOf r k i).readAs x b)) = unitValue r (unitOf r k i) x := by
  by_cases fill : r.op = 4
  · have none : (unitOf r k i).reads = [] := by simp [unitOf, fill]
    rw [if_pos (by simp [CopyUnit.readAs, none]), r.pattern_eq_unitValue k i fill]
  · have joined := r.joined_eq_unitValue (unitOf_shaped r k i) (by omega) types x b
    rw [joined]
    refine ite_eq_right_iff.2 fun empty => ?_
    rw [← joined, List.isEmpty_iff.1 empty, CopyReq.pattern, if_neg fill]
    rfl

/-- A unit takes a typed bit along where it reads a typed line (R218). -/
def CopyUnit.typedFrom (u : CopyUnit) (s : State) (from_ : Nat → Nat) : Bool := u.whole && u.reads.any (·.1.isSome) && (s.line (from_ 0)).typed

theorem CopyUnit.Shaped.typed {u : CopyUnit} (shaped : u.Shaped) (s : State) (x : Nat → Nat) (from_ : Nat → Nat) :
    (u.whole && (u.readAs x (Machine.typedFrom s u.reads from_)).any (·.2.2)) = u.typedFrom s from_ := by
  cases whole : u.whole with
  | false => simp [CopyUnit.typedFrom, whole]
  | true =>
    obtain ⟨p, reads⟩ := List.length_eq_one_iff.1 (shaped.2 whole).2
    simp [CopyUnit.typedFrom, CopyUnit.readAs, Machine.typedFrom, whole, reads]

theorem CopyUnit.Shaped.line_of_typed {u : CopyUnit} (shaped : u.Shaped) (typed : u.typedFrom s from_ = true) : u.n = 64 := by
  rw [CopyUnit.typedFrom, Bool.and_eq_true, Bool.and_eq_true] at typed
  exact (shaped.2 typed.1.1).1

theorem accept_elsewhere (a n : Nat) (space : a / 2 ^ 60 ≠ 3) : s.accept a n = s := by
  rw [State.accept, if_pos (by simpa using space)]

theorem resolveMove_found {u : CopyUnit} {ag : Agent} (c : Nat) (found : Found s ag u.reads from_) (target : s.engCell ag u.into true = (s, .ok into)) :
    s.resolveMove ag (u.move c) = (s, .ok ⟨located u.reads from_, into, u.move c⟩) := by
  rw [State.resolveMove, CopyUnit.move, resolvePieces_found found]
  dsimp only
  rw [target]

/-- THE WRITE of a unit whose pieces and destination pass their checks. -/
theorem doMove_written {u : CopyUnit} (hu : unitOf r k i = u) (op : r.op < 5)
    (types : r.op = 3 → (tyOf r.stype).isSome ∧ (tyOf r.dtype).isSome ∧ 1 ≤ r.rm ∧ r.rm ≤ 4)
    (passes : Passes s r.agent u.reads from_) (plain : Plain s r.agent into u.n) :
    s.doMove r ⟨located u.reads from_, into, u.move r.pattern⟩ =
      (s.unitWritten r.fe (u.typedFrom s from_) into u.n (unitValue r u (readFrom s u.reads from_)).1,
        .ok (unitValue r u (readFrom s u.reads from_)).2) := by
  have read : s.readPieces r.agent (located u.reads from_) = (s, .ok (u.readAs (readFrom s u.reads from_) (Machine.typedFrom s u.reads from_))) :=
    readPieces_passes passes
  have typed := (hu ▸ unitOf_shaped r k i : u.Shaped).typed s (readFrom s u.reads from_) from_
  have made := hu ▸ value_eq_unitValue (k := k) (i := i) op types (readFrom s u.reads from_) (Machine.typedFrom s u.reads from_)
  rw [State.doMove]
  simp only [read, CopyUnit.move, engCheck_sound (a := u.into) plain.pass plain.sound, accept_elsewhere _ _ plain.space, made, typed]
  rfl

/-- A destination that a check refuses is not written (R222). -/
theorem doMove_refused {u : CopyUnit} {cause detail : Nat} (c : Nat) (passes : Passes s r.agent u.reads from_)
    (refused : s.targetCheck r.core r.job .write into u.n = some (cause, detail)) (error : ¬(cause = 0x0B ∧ detail = 0x61)) :
    s.doMove r ⟨located u.reads from_, into, u.move c⟩ = (s, .error (.fault cause detail u.into)) := by
  have check : s.engCheck r.agent u.into into u.n .write = (s, some (.fault cause detail u.into)) := engCheck_refused refused error
  rw [State.doMove]
  simp only [readPieces_passes passes, CopyUnit.move, check]

/-- Nor is anything where a check refuses the first piece. -/
theorem doMove_unread {u : CopyUnit} {a : Word} {n cause detail : Nat} {rest : List (Option Word × Nat)} (c : Nat) (reads : u.reads = (some a, n) :: rest)
    (refused : s.targetCheck r.core r.job .read (from_ 0) n = some (cause, detail)) (error : ¬(cause = 0x0B ∧ detail = 0x61)) :
    s.doMove r ⟨located u.reads from_, into, u.move c⟩ = (s, .error (.fault cause detail a)) := by
  have check : s.engCheck r.agent a (from_ 0) n .read = (s, some (.fault cause detail a)) := engCheck_refused refused error
  rw [State.doMove]
  simp only [reads, located, List.mapIdx_cons, Option.map_some, State.readPieces, check]

/-- Index elements that have been read are not read again (R216). -/
theorem readIndex_read (l : List Nat) (read : ∀ e ∈ l, r.index e = some (k e)) : s.readIndex r l = (s, r, none) := by
  induction l with
  | nil => rfl
  | cons e t ih =>
    rw [State.readIndex, if_pos (by simp [read e]), ih fun j hj => read j (List.mem_cons_of_mem _ hj)]

/-- A unit whose index elements are read. -/
theorem copyUnit_indexed (op : r.op < 5) (read : r.Indexed k i) (inside : r.op = 2 → r.beyond (k i) = none) :
    s.copyUnit r i = match s.resolveMove r.agent ((unitOf r k i).move r.pattern) with
      | (s, .error e) => (s, r, .error e)
      | (s, .ok q) => ((s.doMove r q).1, r, (s.doMove r q).2) := by
  rw [State.copyUnit]
  simp only [readIndex_read _ read, read.filterMap, r.unit_eq k i op inside]
  rcases s.resolveMove r.agent ((unitOf r k i).move r.pattern) with ⟨u, e | q⟩
  · rfl
  · dsimp only
    rcases u.doMove r q with ⟨v, e | f⟩ <;> rfl

theorem copyUnit_beyond (op : r.op = 2) (read : r.Indexed k i) (outside : (r.beyond (k i)).isSome = true) : s.copyUnit r i = (s, r, .ok 0) := by
  rw [State.copyUnit]
  simp only [readIndex_read _ read, read.filterMap, r.unit_beyond k i op outside]

/-- A unit whose addresses lead to cells. -/
theorem copyUnit_found (op : r.op < 5) (read : r.Indexed k i) (inside : r.op = 2 → r.beyond (k i) = none)
    (found : Found s r.agent (unitOf r k i).reads from_) (target : s.engCell r.agent (unitOf r k i).into true = (s, .ok into)) :
    s.copyUnit r i = let q := s.doMove r ⟨located (unitOf r k i).reads from_, into, (unitOf r k i).move r.pattern⟩; (q.1, r, q.2) := by
  rw [copyUnit_indexed op read inside, resolveMove_found r.pattern found target]

/-- A unit whose destination address fails. -/
theorem copyUnit_astray {e : EngFail} (op : r.op < 5) (read : r.Indexed k i) (inside : r.op = 2 → r.beyond (k i) = none)
    (found : Found s r.agent (unitOf r k i).reads from_) (target : s.engCell r.agent (unitOf r k i).into true = (s, .error e)) :
    s.copyUnit r i = (s, r, .error e) := by
  rw [copyUnit_indexed op read inside, State.resolveMove, CopyUnit.move, resolvePieces_found found]
  dsimp only
  rw [target]

end
end Sys2Proof.Machine

/-! CHUNK BITS: those whose bytes are all written (R222, R228). -/
namespace Sys2Proof.Machine

/-! ## Chunk bits (R222, R228) -/

theorem testBit_foldl_or {α : Type} (f : α → Nat) (a q : Nat) (l : List α) :
    (l.foldl (fun m i => m ||| f i) a).testBit q = (a.testBit q || l.any fun i => (f i).testBit q) := by
  induction l generalizing a with
  | nil => simp
  | cons j t ih => rw [List.foldl_cons, ih, Nat.testBit_or, List.any_cons, Bool.or_assoc]

theorem foldl_or_lt {α : Type} {f : α → Nat} {a n : Nat} {l : List α} (start : a < 2 ^ n) (small : ∀ i ∈ l, f i < 2 ^ n) :
    l.foldl (fun m i => m ||| f i) a < 2 ^ n := by
  induction l generalizing a with
  | nil => exact start
  | cons j t ih => exact ih (Nat.or_lt_two_pow start (small j (by simp))) fun i hi => small i (List.mem_cons_of_mem _ hi)

theorem chunkBits_lt (a : Word) (n : Nat) : chunkBits a n < 2 ^ 64 := by
  rw [chunkBits]
  split
  · exact Nat.two_pow_pos 64
  · exact foldl_or_lt (Nat.two_pow_pos 64) fun i _ => Nat.pow_lt_pow_right Nat.one_lt_two (Nat.mod_lt _ (by decide))

theorem testBit_chunkBits (a : Word) (n q : Nat) : (chunkBits a n).testBit q = true ↔ mapsTo a n q := by
  rw [chunkBits, mapsTo]
  by_cases empty : n = 0
  · simp [empty]
  · rw [if_neg empty, testBit_foldl_or, Nat.zero_testBit, Bool.false_or, List.any_eq_true]
    simp only [List.mem_range, Nat.testBit_two_pow, decide_eq_true_eq]
    constructor
    · rintro ⟨i, hi, rfl⟩
      refine ⟨(a.toNat / 512 + i) * 512 - a.toNat, by omega, ?_⟩
      rw [show (a.toNat + ((a.toNat / 512 + i) * 512 - a.toNat)) / 512 = a.toNat / 512 + i by omega]
    · rintro ⟨j, hj, rfl⟩
      refine ⟨(a.toNat + j) / 512 - a.toNat / 512, by omega, ?_⟩
      rw [show a.toNat / 512 + ((a.toNat + j) / 512 - a.toNat / 512) = (a.toNat + j) / 512 by omega]

/-- The bits of 64 that are not among the given ones. -/
theorem testBit_others {x q : Nat} (small : x < 2 ^ 64) (hq : q < 64) : (2 ^ 64 - 1 - x).testBit q = !x.testBit q := by
  rw [Nat.sub_sub, Nat.add_comm 1 x, Nat.testBit_two_pow_sub_succ small]
  simp [hq]

section
variable {r : CopyReq}

/-- The bits whose bytes are all written and that no earlier part carried. -/
theorem chunkBits_done (op : r.op < 5) (other : r.op ≠ 2) (small : r.chunks < 2 ^ 64) (left : List Nat) (done : Nat → Prop) :
    ChunkBits r left done (r.chunksDone left &&& (2 ^ 64 - 1 - r.chunks)) := by
  have dest (i : Nat) := r.unitDest_eq i op other
  have open_ : left.foldl (fun m i => m ||| chunkBits (r.unitDest i).1 (r.unitDest i).2) 0 < 2 ^ 64 :=
    foldl_or_lt (Nat.two_pow_pos 64) fun i _ => chunkBits_lt _ _
  refine ⟨lt_of_le_of_lt (Nat.and_le_right.trans (Nat.sub_le _ _)) (by decide), fun q hq => ?_⟩
  rw [if_neg other, Nat.testBit_and, testBit_others small hq, CopyReq.chunksDone, Nat.testBit_and, testBit_others open_ hq, testBit_foldl_or,
    r.total_eq, CopyReq.dstAt, segPlus_eq_addrAt]
  simp only [dest, Nat.zero_testBit, Bool.false_or, Bool.and_eq_true, Bool.not_eq_true', List.any_eq_false, testBit_chunkBits, and_assoc]
  tauto

/-- A scatter sets the bits of its elements once nothing is left. -/
theorem chunkBits_scatter {left : List Nat} {done : Nat → Prop} {bits : Nat} (op : r.op = 2) (small : bits < 2 ^ 64)
    (made : ∀ q < 64, bits.testBit q = true ↔ left = [] ∧ (r.chunks.testBit q = true ∨ done q)) : ChunkBits r left done bits :=
  ⟨small, fun q hq => by rw [if_pos op]; exact made q hq⟩

/-- The last part of a request with units left: of a scatter it carries no bit. -/
theorem chunkBits_last (op : r.op < 5) (small : r.chunks < 2 ^ 64) {left : List Nat} (todo : r.todo = some left) (done : Nat → Prop)
    (none : ∀ q, ¬done q) : ChunkBits r left done r.lastChunks := by
  rw [CopyReq.lastChunks, todo]
  by_cases scatter : r.op = 2
  · refine chunkBits_scatter scatter ?_ fun q _ => ?_
    · dsimp only
      split_ifs
      · exact small
      · exact Nat.two_pow_pos 64
    · cases left <;> simp [scatter, none]
  · simp only [scatter, if_false]
    exact chunkBits_done op scatter small left done

end
end Sys2Proof.Machine

/-! THE REPORTS of a copy request (R211, R222). -/
namespace Sys2Proof.Machine

/-! ## The reports of a request (R211, R222) -/

/-- The thread still runs the clause that pushed the request. -/
def CopyReq.RunsIn (r : CopyReq) (s : State) : Prop :=
  (s.slot r.core r.slot).st ≠ .free ∧ (s.slot r.core r.slot).st ≠ .stopped ∧ (s.slot r.core r.slot).occ.map (·.uid) = some r.uid

/-- A fault as the supervisor software is told of it. -/
def CopyReq.told (r : CopyReq) (f : Nat × Nat × Word) : SupReport :=
  ⟨Config.coreDie r.core, r.core, r.slot, f.1, f.2.1, f.2.2, some (r.job, if r.cc then addrAt r.cseg r.w3.toInt else 0)⟩

/-- A request has reported faults, in this order. -/
structure ReportsSent (s t : State) (r : CopyReq) (faults : List (Nat × Nat × Word)) : Prop extends CoresBut s t r.core r.slot where
  rest : t = { s with cores := t.cores, reports := t.reports, nextAcc := s.nextAcc + faults.length }
  slot : t.slot r.core r.slot = { s.slot r.core r.slot with reports := (t.slot r.core r.slot).reports }
  held : r.RunsIn s → (∀ y ∈ (s.slot r.core r.slot).reports, y.seq < s.nextAcc) → (s.slot r.core r.slot).reports.length + faults.length ≤ 24 →
    t.reports = s.reports ∧
      (t.slot r.core r.slot).reports = (s.slot r.core r.slot).reports ++ faults.mapIdx fun j f => ⟨s.nextAcc + j, f.1, f.2.1, f.2.2⟩
  told : ¬r.RunsIn s → (t.slot r.core r.slot).reports = (s.slot r.core r.slot).reports ∧ t.reports = s.reports ++ faults.map r.told

section
variable {s : State} {r : CopyReq}

theorem addReport_last (t : Slot) (y : Report) (later : ∀ x ∈ t.reports, x.seq < y.seq) : (t.addReport y).reports = t.reports ++ [y] := by
  have before : t.reports.filter (fun x => decide (x.seq ≤ y.seq)) = t.reports := List.filter_eq_self.2 fun x hx => by simpa using (later x hx).le
  have after : t.reports.filter (fun x => decide (y.seq < x.seq)) = [] := List.filter_eq_nil_iff.2 fun x hx => by simpa using (later x hx).le
  rw [Slot.addReport, before, after]

theorem takesReport_iff : ((s.slot r.core r.slot).st != .free && (s.slot r.core r.slot).st != .stopped &&
    ((s.slot r.core r.slot).occ.map (·.uid)) == some r.uid && decide ((s.slot r.core r.slot).reports.length < 24)) = true ↔
      r.RunsIn s ∧ (s.slot r.core r.slot).reports.length < 24 := by
  simp [CopyReq.RunsIn, and_assoc]

theorem copyReport_sent (f : Nat × Nat × Word) (hk : r.slot < 16) : ReportsSent s (s.copyReport r f.1 f.2.1 f.2.2) r [f] := by
  by_cases takes : r.RunsIn s ∧ (s.slot r.core r.slot).reports.length < 24
  · have eq : s.copyReport r f.1 f.2.1 f.2.2 =
        { s.modSlot r.core r.slot (·.addReport ⟨s.nextAcc, f.1, f.2.1, f.2.2⟩) with nextAcc := s.nextAcc + 1 } := by
      rw [State.copyReport, State.engineReport, if_pos (takesReport_iff.2 takes)]
    have only := OnlySlot.modSlot s r.core r.slot (·.addReport ⟨s.nextAcc, f.1, f.2.1, f.2.2⟩) hk
    have new := State.slot_modSlot_same s r.core r.slot (·.addReport ⟨s.nextAcc, f.1, f.2.1, f.2.2⟩) hk
    have slot : (s.copyReport r f.1 f.2.1 f.2.2).slot r.core r.slot = (s.slot r.core r.slot).addReport ⟨s.nextAcc, f.1, f.2.1, f.2.2⟩ := by
      rw [eq]
      exact new
    refine ⟨?_, ?_, by rw [slot]; rfl, fun _ later _ => ⟨?_, ?_⟩, fun idle => absurd takes.1 idle⟩
    · rw [eq]
      exact ⟨only.cores, only.core, only.slots⟩
    · rw [eq, only.rest]
      rfl
    · rw [eq]
      rfl
    · rw [slot, addReport_last _ _ later]
      rfl
  · have eq : s.copyReport r f.1 f.2.1 f.2.2 = { s with reports := s.reports ++ [r.told f], nextAcc := s.nextAcc + 1 } := by
      rw [State.copyReport, State.engineReport, if_neg (mt takesReport_iff.1 takes)]
      simp only [State.report, CopyReq.told, CopyReq.concordAt, segPlus_eq_addrAt]
    rw [eq]
    exact ⟨⟨fun _ _ => rfl, rfl, fun _ _ => rfl⟩, rfl, rfl, fun runs _ room => absurd ⟨runs, Nat.lt_of_succ_le room⟩ takes, fun _ => ⟨rfl, rfl⟩⟩

theorem ReportsSent.runs_iff {t : State} {l : List (Nat × Nat × Word)} (h : ReportsSent s t r l) : r.RunsIn t ↔ r.RunsIn s := by
  rw [CopyReq.RunsIn, CopyReq.RunsIn, h.slot]

/-- Reports follow one another. -/
theorem ReportsSent.append {t u : State} {l m : List (Nat × Nat × Word)} (h : ReportsSent s t r l) (g : ReportsSent t u r m) :
    ReportsSent s u r (l ++ m) where
  cores d hd := (g.cores d hd).trans (h.cores d hd)
  core := by rw [g.core, h.core]
  slots j hj := (g.slots j hj).trans (h.slots j hj)
  rest := by rw [g.rest, h.rest, List.length_append, Nat.add_assoc]
  slot := by rw [g.slot, h.slot]
  held runs later room := by
    rw [List.length_append] at room
    obtain ⟨same, new⟩ := h.held runs later (by omega)
    have next : t.nextAcc = s.nextAcc + l.length := by rw [h.rest]
    obtain ⟨same', new'⟩ := g.held (h.runs_iff.2 runs) (by
      rw [new, next]
      intro y hy
      rcases List.mem_append.1 hy with old | added
      · exact Nat.lt_add_right _ (later y old)
      · obtain ⟨j, hj, rfl⟩ := List.mem_mapIdx.1 added
        exact Nat.add_lt_add_left hj _) (by simp [new]; omega)
    refine ⟨same'.trans same, ?_⟩
    rw [new', new, next, List.append_assoc, List.mapIdx_append]
    have place (j : Nat) : s.nextAcc + l.length + j = s.nextAcc + (j + l.length) := by omega
    simp only [place]
  told idle := by
    obtain ⟨same, new⟩ := h.told idle
    obtain ⟨same', new'⟩ := g.told (mt h.runs_iff.1 idle)
    exact ⟨same'.trans same, by rw [new', new, List.append_assoc, List.map_append]⟩

theorem ReportsSent.none : ReportsSent s s r [] :=
  ⟨⟨fun _ _ => rfl, rfl, fun _ _ => rfl⟩, rfl, rfl, fun _ _ _ => ⟨rfl, by simp⟩, fun _ => ⟨rfl, by simp⟩⟩

/-- With no report pending before, a request's faults stand as CopyReported says. -/
theorem ReportsSent.copyReported {t : State} {l : List (Nat × Nat × Word)} (h : ReportsSent s t r l) (few : l.length ≤ 24) : CopyReported s t r l := by
  refine ⟨h.slots, fun ⟨runs, idle⟩ => ?_, fun idle => ?_⟩
  · obtain ⟨same, new⟩ := h.held runs (by simp [idle]) (by simpa [idle] using few)
    refine ⟨same, ?_⟩
    rw [h.slot, new, idle, List.nil_append]
  · obtain ⟨same, new⟩ := h.told idle
    refine ⟨?_, new⟩
    rw [h.slot, same]

end

/-! ## The end of a request (R222, R229) -/

section
variable {s : State} {r : CopyReq}

/-- What a request reports at its end: the lowest element beyond a limit, then what it was abandoned for. -/
def CopyReq.faults (r : CopyReq) : List (Nat × Nat × Word) := (r.overAt.toList.map fun o => (0x04, 0x11, o.2)) ++ r.fail.toList

/-- A request's reports, one after another. -/
def State.copyReports (s : State) (r : CopyReq) : State :=
  let u := match r.overAt with
    | some o => s.copyReport r cSegment 0x11 o.2
    | none => s
  match r.fail with
  | some (c, d, a) => u.copyReport r c d a
  | none => u

theorem copyReports_sent (hk : r.slot < 16) : ReportsSent s (s.copyReports r) r r.faults := by
  refine ReportsSent.append (t := match r.overAt with
    | some o => s.copyReport r cSegment 0x11 o.2
    | none => s) ?_ ?_
  · cases r.overAt with
    | none => exact .none
    | some o => exact copyReport_sent (cSegment, 0x11, o.2) hk
  · rw [State.copyReports]
    cases r.fail with
    | none => exact .none
    | some f => exact copyReport_sent f hk

theorem faults_length : r.faults.length ≤ 24 := by
  rw [CopyReq.faults]
  cases r.overAt <;> cases r.fail <;> simp

/-- The request leaves its engine. -/
def State.withoutCopy (s : State) (r : CopyReq) : State := s.modCore r.core fun c => { c with copyBusy := c.copyBusy.filter fun q => q.id != r.id }

theorem leaveCopy_eq (concord : Option Nat) : s.leaveCopy r concord none = match concord with
    | some cell => ((s.withoutCopy r).copyReports r).sendArrival r cell (r.total - r.sent) r.lastChunks
        (statusBits (r.overAt.isSome || r.fail.isSome || r.dropped) r.flags)
    | none => (s.withoutCopy r).copyReports r := rfl

end
end Sys2Proof.Machine

/-! THE END of a copy request: its reports, and its last arrival part (R222, R224, R229). -/
namespace Sys2Proof.Machine

/-! ## The arrival parts of a request, and its end (R222, R224, R229) -/

section
variable {s : State} {r : CopyReq}

/-- A state that has sent one message more. -/
theorem sent_message {t : State} {b : MsgBody} {due : Nat} (msgs : t.msgs = s.msgs ++ [⟨s.nextMsg, due, b⟩]) (later : s.clk < due) : Sent s t s.msgs [b] :=
  ⟨_, msgs, rfl, fun m hm => by rw [List.mem_singleton.1 hm]; exact later⟩

theorem CopyReq.concordAt_eq (r : CopyReq) : r.concordAt = addrAt r.cseg r.w3.toInt := segPlus_eq_addrAt _ _

/-- The access of an arrival part. -/
def CopyReq.arrival (r : CopyReq) (home cell n chunks status : Nat) : Access :=
  { core := r.core, slot := r.slot, job := r.job, op := .ccarr n chunks status, done := .none, posted := true, counted := false,
    parts := [(home, [⟨0, addrAt r.cseg r.w3.toInt, cell, 16⟩])], waiting := [home], results := [], refusals := [], engine := some r.uid,
    gather := r.op == 1, addr := addrAt r.cseg r.w3.toInt }

theorem sendArrival_eq (cell n chunks status : Nat) : ∃ due draws, s.clk < due ∧ s.sendArrival r cell n chunks status =
    { s with
      accesses := SMap.set none s.accesses s.nextAcc (some (r.arrival (s.homeOf cell) cell n chunks status)), nextAcc := s.nextAcc + 1
      msgs := s.msgs ++ [⟨s.nextMsg, due, .access s.nextAcc (s.homeOf cell)⟩], nextMsg := s.nextMsg + 1, draws := draws } := by
  rw [State.sendArrival, r.concordAt_eq]
  by_cases near : isLocal r.core (s.homeOf cell) = true
  · refine ⟨s.clk + 1, s.draws, Nat.lt_succ_self _, ?_⟩
    simp only [near, if_true]
    rfl
  · refine ⟨s.clk + 1 + Config.latency s.draws, s.draws + 1, by omega, ?_⟩
    simp only [near]
    rfl

theorem sendArrival_sent (cell n chunks status : Nat) : ArrivalSent s (s.sendArrival r cell n chunks status) r s.nextAcc cell n chunks status := by
  obtain ⟨due, draws, later, eq⟩ := sendArrival_eq (s := s) (r := r) cell n chunks status
  rw [eq]
  exact ⟨by dsimp only; rw [SMap.get_set_same]; rfl, fun j hj => by dsimp only; rw [SMap.get_set_other _ _ hj], rfl, sent_message rfl later⟩

/-- What an arrival part says of the states before and after it rests on little of the first. -/
theorem ArrivalSent.congr {u t : State} {id cell n chunks status : Nat} (h : ArrivalSent u t r id cell n chunks status)
    (home : u.homeOf cell = s.homeOf cell) (accesses : u.accesses = s.accesses) (msgs : u.msgs = s.msgs) (clk : u.clk = s.clk) :
    ArrivalSent s t r id cell n chunks status := by
  rw [ArrivalSent, Sent] at h ⊢
  rw [← home, ← accesses, ← msgs, ← clk]
  exact h

/-- What a request leaves behind: its reports, and no request. -/
structure Reported (s t : State) (r : CopyReq) : Prop where
  reported : CopyReported s t r r.faults
  others : OthersSame s t r.core
  core : t.core r.core = { s.core r.core with
    slots := (t.core r.core).slots, copyBusy := (s.core r.core).copyBusy.filter fun q => q.id != r.id }
  rest : t = { s with cores := t.cores, mem := t.mem, lines := t.lines, draws := t.draws, reports := t.reports, nextAcc := s.nextAcc + r.faults.length }

theorem reported_without {u : State} (same : SameButMemory s u) (hk : r.slot < 16) : Reported s ((u.withoutCopy r).copyReports r) r := by
  have sent := copyReports_sent (s := u.withoutCopy r) hk
  have cores (d : Nat) : u.core d = s.core d := by rw [same]; rfl
  have core : (u.withoutCopy r).core r.core = { s.core r.core with copyBusy := (s.core r.core).copyBusy.filter fun q => q.id != r.id } := by
    rw [State.withoutCopy, State.core_modCore_same, cores]
  have slot (j : Nat) : (u.withoutCopy r).slot r.core j = s.slot r.core j := by
    rw [State.slot, core]
    rfl
  have reported := sent.copyReported faults_length
  have reports : (u.withoutCopy r).reports = s.reports := by rw [same]; rfl
  have next : (u.withoutCopy r).nextAcc = s.nextAcc := by rw [same]; rfl
  refine ⟨?_, fun d hd => ?_, ?_, ?_⟩
  · rw [CopyReported] at reported ⊢
    simp only [slot, reports, next] at reported
    exact reported
  · rw [sent.cores d hd, State.withoutCopy, State.core_modCore_other _ hd, cores]
  · rw [sent.core, core]
  · rw [sent.rest, next, same]
    rfl

/-- THE END of a request (R222, R229), with the page of its concord at hand. -/
theorem endCopy_ends {u : State} {concord : Nat} (same : SameButMemory s u) (hk : r.slot < 16)
    (found : r.cc = true → EngineFinds s r.agent (addrAt r.cseg r.w3.toInt) true concord) :
    CopyEnds s (u.endCopy r) r concord r.faults (· = r.lastChunks) (statusBits (r.overAt.isSome || r.fail.isSome || r.dropped) r.flags) ∧
      (u.endCopy r).mem = u.mem ∧ (u.endCopy r).lines = u.lines := by
  have ends := reported_without same hk
  have sent := (copyReports_sent (s := u.withoutCopy r) hk).rest
  have mem : ((u.withoutCopy r).copyReports r).mem = u.mem := by rw [sent]; rfl
  have lines : ((u.withoutCopy r).copyReports r).lines = u.lines := by rw [sent]; rfl
  have leave := leaveCopy_eq (s := u) (r := r)
  generalize (u.withoutCopy r).copyReports r = w at ends mem lines leave
  obtain ⟨reported, others, core, rest⟩ := ends
  by_cases cc : r.cc = true
  · have end_ : u.endCopy r = w.sendArrival r concord (r.total - r.sent) r.lastChunks
        (statusBits (r.overAt.isSome || r.fail.isSome || r.dropped) r.flags) := by
      rw [State.endCopy, cc, r.concordAt_eq, found cc u same]
      exact leave (some concord)
    have arrival := sendArrival_sent (s := w) (r := r) concord (r.total - r.sent) r.lastChunks
      (statusBits (r.overAt.isSome || r.fail.isSome || r.dropped) r.flags)
    obtain ⟨due, draws, -, eq⟩ := sendArrival_eq (s := w) (r := r) concord (r.total - r.sent) r.lastChunks
      (statusBits (r.overAt.isSome || r.fail.isSome || r.dropped) r.flags)
    have next : w.nextAcc = s.nextAcc + r.faults.length := by rw [rest]
    rw [end_]
    refine ⟨⟨?_, ?_, ?_, ?_, ?_⟩, ?_, ?_⟩
    · rw [eq]; exact reported
    · rw [eq]; exact others
    · rw [eq]; exact core
    · rw [eq, rest]
    · rw [if_pos cc, ← next, ← r.total_eq]
      exact ⟨_, rfl, arrival.congr (by rw [rest]; rfl) (by rw [rest]) (by rw [rest]) (by rw [rest])⟩
    · rw [eq]; exact mem
    · rw [eq]; exact lines
  · have end_ : u.endCopy r = w := by
      rw [State.endCopy, if_pos (by simpa using cc)]
      exact leave none
    rw [end_]
    refine ⟨⟨reported, others, core, by rw [rest], ?_⟩, mem, lines⟩
    rw [if_neg cc, rest]
    exact ⟨rfl, rfl, rfl, rfl⟩

end
end Sys2Proof.Machine

/-! A COPY REQUEST GOES ON: which units it makes (R215 to R222). -/
namespace Sys2Proof.Machine

/-! ## A request in progress goes on (R215 to R222) -/

/-- The state with n free values drawn. -/
def State.drawn (s : State) (n : Nat) : State := { s with draws := s.draws + n }

theorem drawn_same (s : State) (n : Nat) : SameButMemory s (s.drawn n) := rfl

section
variable {s u : State} {r : CopyReq} {k : Nat → Nat} {i : Nat}

/-- A request that nothing has stopped. -/
structure CopyReq.Fresh (r : CopyReq) : Prop where
  fail : r.fail = none
  dropped : r.dropped = false
  ending : r.ending = false
  status : r.status = 0

/-- Units of a request, with what follows. -/
def State.makeUnits (s : State) (r : CopyReq) (order rest : List Nat) : State :=
  match s.copyUnits { r with todo := some (order ++ rest) } order with
  | (s, r, some e) => s.failCopy r e
  | (s, r, none) => s.pauseCopy r

/-- With its index elements read, a request makes units, by free choice how many and from which on. -/
theorem runCopy_indexed {todo : List Nat} (fresh : r.Fresh) (left : r.todo = some todo) (some_ : todo ≠ []) (read : ∀ i ∈ todo, r.Indexed k i)
    (able : r.op = 2 → r.free todo = todo) : ∃ p < todo.length, ∃ n, 0 < n ∧ n ≤ todo.length ∧ s.runCopy r =
      (s.drawn 4).makeUnits r (takeRound todo p n).1
        (if r.op = 2 then todo.filter fun i => !(takeRound todo p n).1.contains i else (takeRound todo p n).2) := by
  obtain ⟨fail, dropped, ending, status⟩ := fresh
  have pos := List.length_pos_iff.2 some_
  have unread : (todo.flatMap r.indexed).filter (fun e => (r.index e).isNone) = [] := by
    refine List.filter_eq_nil_iff.2 fun e he => ?_
    obtain ⟨i, hi, hie⟩ := List.mem_flatMap.1 he
    simp [read i hi e hie]
  refine ⟨Config.choice (s.draws + 3) % todo.length, Nat.mod_lt _ pos, todo.length - Config.choice (s.draws + 2) % todo.length,
    Nat.sub_pos_of_lt (Nat.mod_lt _ pos), Nat.sub_le _ _, ?_⟩
  have nothing (p n : Nat) : (takeRound ([] : List Nat) p n).1 = [] := by simp [takeRound]
  have same : { r with todo := some todo } = r := by rw [← left]
  rw [State.runCopy, if_neg (by simp [fail, dropped, ending]), if_neg (by simp [status])]
  simp only [left, Option.getD_some, same, unread, nothing, State.readIndex, List.isEmpty_iff]
  by_cases scatter : r.op = 2
  · simp only [if_pos scatter, able scatter, if_neg some_]
    rfl
  · simp only [if_neg scatter, if_neg some_]
    rfl

/-- A scatter's last unit may be made once its index element is read. -/
theorem free_last (op : r.op = 2) (read : r.Indexed k i) : r.free [i] = [i] := by
  have index : r.index i = some (k i) := read i (by simp [CopyReq.indexed, op, CopyReq.elemsOf, CopyReq.per_eq, perUnit])
  simp [CopyReq.free, index]

/-- The last unit of a request is made. -/
theorem runCopy_last (fresh : r.Fresh) (left : r.todo = some [i]) (read : r.Indexed k i) : s.runCopy r = (s.drawn 4).makeUnits r [i] [] := by
  obtain ⟨p, hp, n, pos, hn, run⟩ := runCopy_indexed (s := s) fresh left (List.cons_ne_nil _ _)
    (fun j hj => by rw [List.mem_singleton.1 hj]; exact read) fun op => free_last op read
  obtain rfl : p = 0 := Nat.lt_one_iff.1 hp
  obtain rfl : n = 1 := Nat.le_antisymm hn pos
  rw [run]
  simp [takeRound]

theorem makeUnits_last_made {f : Fl} (left : r.todo = some [i]) (made : s.copyUnit r i = (u, r, .ok f)) :
    s.makeUnits r [i] [] = u.endCopy (r.after i f) := by
  have same : { r with todo := some [i] } = r := by rw [← left]
  rw [State.makeUnits, List.append_nil, same, State.copyUnits, made]
  simp [State.copyUnits, State.pauseCopy, CopyReq.after, left]

theorem makeUnits_last_failed {e : EngFail} (left : r.todo = some [i]) (failed : s.copyUnit r i = (u, r, .error e)) :
    s.makeUnits r [i] [] = u.failCopy r e := by
  have same : { r with todo := some [i] } = r := by rw [← left]
  rw [State.makeUnits, List.append_nil, same, State.copyUnits, failed]

end
end Sys2Proof.Machine

/-! WHAT A MADE UNIT LEAVES IN ITS REQUEST: the lowest element beyond a limit, and the chunk bits (R216, R217, R228). -/
namespace Sys2Proof.Machine

/-! ## What a made unit leaves in its request (R216, R217, R219, R228) -/

/-- The lowest element beyond a limit, and its address: the one reported before, or the first of those met now. -/
def lowestBeyond (o : Option (Nat × Word)) (met : List Nat) (at_ : Nat → Word) : Option (Nat × Word) :=
  match o, met with
  | some o, e :: _ => some (if e < o.1 then (e, at_ e) else o)
  | some o, [] => some o
  | none, e :: _ => some (e, at_ e)
  | none, [] => none

theorem foldl_lowerOf (o : Option (Nat × Word)) {met : List Nat} (at_ : Nat → Word) (rising : met.Pairwise (· < ·)) :
    (met.map fun e => (e, at_ e)).foldl (fun o x => lowerOf o (some x)) o = lowestBeyond o met at_ := by
  induction met generalizing o with
  | nil => cases o <;> rfl
  | cons e t ih =>
    obtain ⟨above, rising⟩ := List.pairwise_cons.1 rising
    have kept (m : Nat × Word) (low : m.1 ≤ e) : lowestBeyond (some m) t at_ = some m := by
      cases t with
      | nil => rfl
      | cons d t => rw [lowestBeyond, if_neg (Nat.not_lt.2 (low.trans (above d (by simp)).le))]
    rw [List.map_cons, List.foldl_cons, ih _ rising]
    cases o with
    | none => exact kept (e, at_ e) le_rfl
    | some m =>
      by_cases lower : e < m.1
      · simp only [lowerOf, lowestBeyond, if_pos lower]
        exact kept (e, at_ e) le_rfl
      · simp only [lowerOf, lowestBeyond, if_neg lower]
        exact kept m (Nat.not_lt.1 lower)

section
variable {s t : State} {r : CopyReq} {k : Nat → Nat} {i : Nat}

/-- Element `e` lies beyond the limit of its segment. -/
def CopyReq.outside (r : CopyReq) (k : Nat → Nat) (e : Nat) : Bool :=
  decide (r.op = 1 ∧ limitOf r.src < k e * 2 ^ r.esize + 2 ^ r.esize ∨ r.op = 2 ∧ limitOf r.dst < k e * 2 ^ r.esize + 2 ^ r.esize)

/-- The address that element `e` would have had. -/
def CopyReq.overAddr (r : CopyReq) (k : Nat → Nat) (e : Nat) : Word := addrAt (if r.op = 1 then r.src else r.dst) (k e * 2 ^ r.esize : Nat)

theorem CopyReq.beyond_index (r : CopyReq) (k : Nat → Nat) (e : Nat) : r.beyond (k e) = if r.outside k e then some (r.overAddr k e) else none := by
  rw [r.beyond_eq]
  simp only [CopyReq.outside, decide_eq_true_eq]
  rfl

/-- The elements of unit `i`. -/
def CopyReq.elements (r : CopyReq) (i : Nat) : List Nat := if r.op = 1 then (List.range (perUnit r)).map (perUnit r * i + ·) else [i]

theorem CopyReq.indexed_eq (r : CopyReq) (i : Nat) (indexes : r.op = 1 ∨ r.op = 2) : r.indexed i = r.elements i := by
  rcases indexes with op | op <;> simp [CopyReq.indexed, CopyReq.elemsOf, CopyReq.elements, CopyReq.per_eq, op, perUnit]

theorem CopyReq.indexed_none (r : CopyReq) (i : Nat) (none : ¬(r.op = 1 ∨ r.op = 2)) : r.indexed i = [] := by
  rw [not_or] at none
  simp [CopyReq.indexed, none.1, none.2]

theorem CopyReq.outside_indexed (r : CopyReq) (k : Nat → Nat) (i : Nat) : (r.indexed i).filter (r.outside k) = (r.elements i).filter (r.outside k) := by
  by_cases indexes : r.op = 1 ∨ r.op = 2
  · rw [r.indexed_eq i indexes]
  · have op := not_or.1 indexes
    rw [r.indexed_none i indexes, List.filter_nil, eq_comm, List.filter_eq_nil_iff]
    simp [CopyReq.outside, op.1, op.2]

theorem CopyReq.indexed_rising (r : CopyReq) (i : Nat) : (r.indexed i).Pairwise (· < ·) := by
  rw [CopyReq.indexed]
  split
  · rw [CopyReq.elemsOf, List.pairwise_map]
    exact List.pairwise_lt_range.imp fun h => Nat.add_lt_add_left h _
  · exact List.Pairwise.nil

theorem after_overAt (f : Fl) (read : r.Indexed k i) :
    (r.after i f).overAt = lowestBeyond r.overAt ((r.elements i).filter (r.outside k)) (r.overAddr k) := by
  have met : ((r.indexed i).filterMap fun e => (r.index e).bind fun n => (r.beyond n).map fun a => (e, a)) =
      ((r.indexed i).filter (r.outside k)).map fun e => (e, r.overAddr k e) := by
    rw [← List.filterMap_eq_map, List.filterMap_filter]
    refine List.filterMap_congr fun e he => ?_
    rw [read e he, Option.bind_some, r.beyond_index k e]
    cases r.outside k e <;> rfl
  rw [← r.outside_indexed k i, ← foldl_lowerOf _ _ ((r.indexed_rising i).filter _), ← met]
  rfl

theorem CopyEnds.mono {concord : Nat} {faults : List (Nat × Nat × Word)} {chunks more : Nat → Prop} {status : Nat}
    (h : CopyEnds s t r concord faults chunks status) (wide : ∀ bits, chunks bits → more bits) : CopyEnds s t r concord faults more status := by
  obtain ⟨reported, others, core, rest, sent⟩ := h
  refine ⟨reported, others, core, rest, ?_⟩
  split at sent
  · next cc =>
    obtain ⟨bits, hb, arrival⟩ := sent
    rw [if_pos cc]
    exact ⟨bits, wide bits hb, arrival⟩
  · next cc =>
    rw [if_neg cc]
    exact sent

/-- The bits of the last part once the last unit has been made. -/
theorem chunkBits_made (op : r.op < 5) (small : r.chunks < 2 ^ 64) (f : Fl) (left : r.todo = some [i]) (read : r.Indexed k i)
    (inside : r.op = 2 → r.outside k i = false) :
    ChunkBits r [] (mapsTo (unitOf r k i).into (unitOf r k i).n) (r.after i f).lastChunks := by
  have beyond (h : r.op = 2) : r.beyond (k i) = none := by rw [r.beyond_index, inside h]; rfl
  have todo : (r.after i f).todo = some [] := by simp [CopyReq.after, left]
  by_cases scatter : r.op = 2
  · have chunks : (r.after i f).chunks = r.chunks ||| chunkBits (unitOf r k i).into (unitOf r k i).n := by
      simp only [CopyReq.after, read.filterMap, r.unit_eq k i op beyond, scatter, if_true]
      rfl
    have last : (r.after i f).lastChunks = r.chunks ||| chunkBits (unitOf r k i).into (unitOf r k i).n := by
      rw [CopyReq.lastChunks, todo, ← chunks]
      exact if_pos scatter
    rw [last]
    refine chunkBits_scatter scatter (Nat.or_lt_two_pow small (chunkBits_lt _ _)) fun q _ => ?_
    rw [Nat.testBit_or, Bool.or_eq_true, testBit_chunkBits]
    simp
  · have chunks : (r.after i f).chunks = r.chunks := by simp [CopyReq.after, scatter]
    have last : (r.after i f).lastChunks = (r.after i f).chunksDone [] &&& (2 ^ 64 - 1 - (r.after i f).chunks) := by
      rw [CopyReq.lastChunks, todo]
      exact if_neg scatter
    rw [last, chunks]
    exact chunkBits_done (r := r) op scatter small [] _

/-- The bits of the last part where a scatter's last element lies beyond the limit. -/
theorem chunkBits_beyond (op : r.op = 2) (small : r.chunks < 2 ^ 64) (f : Fl) (left : r.todo = some [i]) (read : r.Indexed k i)
    (outside : r.outside k i = true) : ChunkBits r [] (fun _ => False) (r.after i f).lastChunks := by
  have beyond : (r.beyond (k i)).isSome = true := by rw [r.beyond_index, outside]; rfl
  have chunks : (r.after i f).chunks = r.chunks := by
    simp only [CopyReq.after, read.filterMap, r.unit_beyond k i op beyond, ite_self]
  have last : (r.after i f).lastChunks = r.chunks := by
    rw [CopyReq.lastChunks, show (r.after i f).todo = some [] by simp [CopyReq.after, left], ← chunks]
    exact if_pos op
  rw [last]
  exact chunkBits_scatter op small fun q _ => by simp

/-- The status of a request as its last part carries it. -/
theorem statusBits_eq (err : Bool) (f : Fl) : statusBits err f = statusOf err f := by
  simp only [statusBits, statusOf, bne_iff_ne]

/-- What is said of the end of a request rests on what it was pushed with. -/
theorem CopyEnds.of_fail {concord : Nat} {faults : List (Nat × Nat × Word)} {chunks : Nat → Prop} {status code : Nat} {fail : Option (Nat × Nat × Word)}
    (h : CopyEnds s t { r with fail, status := code } concord faults chunks status) : CopyEnds s t r concord faults chunks status := h

end
end Sys2Proof.Machine

/-! THE LAST UNIT of a copy request: made, beyond the limit, refused, or without its page (R215 to R222). -/
namespace Sys2Proof.Machine

/-! ## The last unit of a request (R215 to R222) -/

/-- A request in its last unit, whose index elements are read and the page of whose concord is at hand. -/
structure LastUnit (s : State) (r : CopyReq) (k : Nat → Nat) (concord i : Nat) : Prop where
  fresh : r.Fresh
  slot : r.slot < 16
  op : r.op < 5
  small : r.chunks < 2 ^ 64
  types : r.op = 3 → (tyOf r.stype).isSome ∧ (tyOf r.dtype).isSome ∧ 1 ≤ r.rm ∧ r.rm ≤ 4
  home : r.cc = true → EngineFinds s r.agent (addrAt r.cseg r.w3.toInt) true concord
  left : r.todo = some [i]
  read : r.Indexed k i

section
variable {s : State} {r : CopyReq} {k : Nat → Nat} {concord i into : Nat} {from_ : Nat → Nat}

theorem found_of_finds {l : List (Option Word × Nat)} {ag : Agent} (finds : ∀ j a n, l[j]? = some (some a, n) → EngineFinds s ag a false (from_ j))
    (u : State) (same : SameButMemory s u) : Found u ag l from_ := fun j a n h => finds j a n h u same

theorem readFrom_drawn (l : List (Option Word × Nat)) (n : Nat) : readFrom (s.drawn n) l from_ = readFrom s l from_ := by
  funext j
  rw [readFrom, readFrom, State.readN_of_mem (x := s.drawn n) (s := s) rfl]

theorem beyond_none (inside : ¬(r.op = 2 ∧ r.outside k i = true)) (op : r.op = 2) : r.beyond (k i) = none := by
  rw [r.beyond_index, Bool.eq_false_iff.2 fun outside => inside ⟨op, outside⟩]
  rfl

theorem faults_after (fresh : r.Fresh) (f : Fl) : (r.after i f).faults = (r.after i f).overAt.toList.map fun o => (0x04, 0x11, o.2) := by
  have fail : (r.after i f).fail = none := fresh.fail
  rw [CopyReq.faults, fail]
  exact List.append_nil _

theorem status_after (fresh : r.Fresh) (f : Fl) :
    statusBits ((r.after i f).overAt.isSome || (r.after i f).fail.isSome || (r.after i f).dropped) (r.after i f).flags =
    statusOf (r.after i f).overAt.isSome (r.flags ||| f) := by
  have fail : (r.after i f).fail = none := fresh.fail
  have dropped : (r.after i f).dropped = false := fresh.dropped
  rw [statusBits_eq, fail, dropped, Option.isSome_none, Bool.or_false, Bool.or_false]
  rfl

/-- The end of a request whose last unit has been made. -/
theorem endCopy_after {u : State} {f : Fl} (h : LastUnit s r k concord i) (same : SameButMemory s u) :
    let first := lowestBeyond r.overAt ((r.elements i).filter (r.outside k)) (r.overAddr k)
    CopyEnds s (u.endCopy (r.after i f)) r concord (first.toList.map fun o => (0x04, 0x11, o.2)) (· = (r.after i f).lastChunks)
      (statusOf first.isSome (r.flags ||| f)) ∧ (u.endCopy (r.after i f)).mem = u.mem ∧ (u.endCopy (r.after i f)).lines = u.lines := by
  have ends := endCopy_ends (r := r.after i f) (concord := concord) same h.slot h.home
  rw [faults_after h.fresh, status_after h.fresh, after_overAt f h.read] at ends
  exact ends

/-- THE LAST UNIT is made, and the request ends. -/
theorem runCopy_made (h : LastUnit s r k concord i) (finds : ∀ j a n, (unitOf r k i).reads[j]? = some (some a, n) → EngineFinds s r.agent a false (from_ j))
    (target : EngineFinds s r.agent (unitOf r k i).into true into) (inside : ¬(r.op = 2 ∧ r.outside k i = true))
    (passes : Passes s r.agent (unitOf r k i).reads from_) (plain : Plain s r.agent into (unitOf r k i).n) (idle : r.fe = true → s.waiters = []) :
    let u := unitOf r k i
    let value := unitValue r u (readFrom s u.reads from_)
    let first := lowestBeyond r.overAt ((r.elements i).filter (r.outside k)) (r.overAddr k)
    CopyEnds s (s.runCopy r) r concord (first.toList.map fun o => (0x04, 0x11, o.2)) (ChunkBits r [] (mapsTo u.into u.n))
        (statusOf first.isSome (r.flags ||| value.2)) ∧
      (∀ a, (s.runCopy r).byte a = if into ≤ a ∧ a < into + u.n then BitVec.ofNat 8 (value.1 / 256 ^ (a - into)) else s.byte a) ∧
      ∀ a, (s.runCopy r).line a = if a / 64 = into / 64 then
        { s.line a with typed := u.typedFrom s from_, fe := if r.fe then fullMarks into u.n (s.line a).fe else (s.line a).fe } else s.line a := by
  intro u value first
  have drawn := drawn_same s 4
  have plain4 : Plain (s.drawn 4) r.agent into u.n := ⟨plain.space, plain.fits, plain.sound, plain.wiped, plain.pass⟩
  have whole : u.typedFrom s from_ = true → u.n = 64 := (unitOf_shaped r k i).line_of_typed
  have made : (s.drawn 4).copyUnit r i = ((s.drawn 4).unitWritten r.fe (u.typedFrom s from_) into u.n value.1, r, .ok value.2) := by
    rw [copyUnit_found h.op h.read (beyond_none inside) (found_of_finds finds _ drawn) (target _ drawn),
      doMove_written (s := s.drawn 4) rfl h.op h.types passes plain4, readFrom_drawn]
    rfl
  have run : s.runCopy r = ((s.drawn 4).unitWritten r.fe (u.typedFrom s from_) into u.n value.1).endCopy (r.after i value.2) := by
    rw [runCopy_last h.fresh h.left h.read, makeUnits_last_made h.left made]
  obtain ⟨ends, mem, lines⟩ := endCopy_after (f := value.2) h (drawn.trans (unitWritten_same r.fe (u.typedFrom s from_) into u.n value.1 idle))
  rw [run]
  refine ⟨ends.mono fun bits hb => ?_, fun a => ?_, fun a => ?_⟩
  · rw [hb]
    exact chunkBits_made h.op h.small _ h.left h.read fun op => Bool.eq_false_iff.2 fun outside => inside ⟨op, outside⟩
  · rw [State.byte, mem]
    exact unitWritten_byte (s := s.drawn 4) value.1 a idle whole
  · rw [State.line, lines]
    exact unitWritten_line (s := s.drawn 4) value.1 a idle plain4 whole

/-- A scatter's last element lies beyond the limit (R217). -/
theorem runCopy_beyond (h : LastUnit s r k concord i) (op : r.op = 2) (outside : r.outside k i = true) :
    let first := lowestBeyond r.overAt ((r.elements i).filter (r.outside k)) (r.overAddr k)
    SameMemory s (s.runCopy r) ∧ CopyEnds s (s.runCopy r) r concord (first.toList.map fun o => (0x04, 0x11, o.2)) (ChunkBits r [] fun _ => False)
      (statusOf true r.flags) := by
  intro first
  have run : s.runCopy r = (s.drawn 4).endCopy (r.after i 0) := by
    rw [runCopy_last h.fresh h.left h.read, makeUnits_last_made h.left (copyUnit_beyond op h.read (by rw [r.beyond_index, outside]; rfl))]
  obtain ⟨ends, mem, lines⟩ := endCopy_after (f := 0) h (drawn_same s 4)
  have some_ : first.isSome = true := by
    have met : (r.elements i).filter (r.outside k) = [i] := by simp [CopyReq.elements, op, outside]
    simp only [first, met]
    cases r.overAt <;> rfl
  rw [run]
  refine ⟨⟨fun a => by rw [State.byte, mem]; rfl, fun a => by rw [State.line, lines]; rfl⟩, ?_⟩
  have flags : r.flags ||| (0 : Fl) = r.flags := BitVec.or_zero
  rw [some_, flags] at ends
  refine ends.mono fun bits hb => ?_
  rw [hb]
  exact chunkBits_beyond op h.small _ h.left h.read outside

/-- A request that fails is abandoned, and reports it (R222). -/
theorem runCopy_failed {cause detail : Nat} {at_ : Word} (h : LastUnit s r k concord i)
    (failed : (s.drawn 4).copyUnit r i = (s.drawn 4, r, .error (.fault cause detail at_))) :
    SameMemory s (s.runCopy r) ∧ CopyEnds s (s.runCopy r) r concord ((r.overAt.toList.map fun o => (0x04, 0x11, o.2)) ++ [(cause, detail, at_)])
      (ChunkBits r [i] fun _ => False) (statusOf true r.flags) := by
  have run : s.runCopy r = (s.drawn 4).endCopy { r with fail := some (cause, detail, at_) } := by
    rw [runCopy_last h.fresh h.left h.read, makeUnits_last_failed h.left failed]
    rfl
  obtain ⟨ends, mem, lines⟩ := endCopy_ends (r := { r with fail := some (cause, detail, at_) }) (concord := concord) (drawn_same s 4) h.slot h.home
  rw [run]
  refine ⟨⟨fun a => by rw [State.byte, mem]; rfl, fun a => by rw [State.line, lines]; rfl⟩, ?_⟩
  rw [statusBits_eq, Option.isSome_some, Bool.or_true, Bool.true_or] at ends
  refine CopyEnds.mono (CopyEnds.of_fail ends) fun bits hb => ?_
  rw [hb]
  exact chunkBits_last (r := { r with fail := some (cause, detail, at_) }) h.op h.small h.left _ fun _ => id

/-- A request whose destination page is missing waits for the answer (R222). -/
theorem runCopy_page {reason : Nat} {at_ : Word} (h : LastUnit s r k concord i)
    (failed : (s.drawn 4).copyUnit r i = (s.drawn 4, r, .error (.page reason at_))) :
    s.runCopy r = ((s.drawn 4).keepCopy { r with blocked := some at_ }).report ⟨Config.coreDie r.core, r.core, r.slot, 0x09, reason, at_, none⟩ := by
  have status : { r with blocked := some at_, status := 0 } = { r with blocked := some at_ } := by rw [← h.fresh.status]
  rw [runCopy_last h.fresh h.left h.read, makeUnits_last_failed h.left failed, State.failCopy, State.blockCopy, status]
  rfl

end
end Sys2Proof.Machine

/-! COPY REQUESTS KEPT AND ABANDONED, and arrival parts before the last one (R222, R229). -/
namespace Sys2Proof.Machine

/-! ## Requests kept, abandoned, and parts of a fill (R222, R229) -/

section
variable {s u : State} {r : CopyReq} {concord : Nat}

/-- A request is kept: its engine's list alone changes. -/
theorem keepCopy_core (q : CopyReq) (same : SameButMemory s u) (at_ : q.core = r.core) (id : q.id = r.id) :
    OthersSame s (u.keepCopy q) r.core ∧ (u.keepCopy q).core r.core =
      { s.core r.core with copyBusy := (s.core r.core).copyBusy.map fun p => if p.id = r.id then q else p } := by
  have cores (d : Nat) : u.core d = s.core d := by rw [same]; rfl
  refine ⟨fun d hd => ?_, ?_⟩
  · rw [State.keepCopy, at_, State.core_modCore_other _ hd, cores]
  · rw [State.keepCopy, at_, id, State.core_modCore_same, cores]

theorem keepCopy_frame (q : CopyReq) : u.keepCopy q = { u with cores := (u.keepCopy q).cores } := rfl

/-- A request for whose page the supervisor software answers another status than 0x00 is abandoned (R222). -/
theorem runCopy_lost {left : List Nat} (fail : r.fail = none) (dropped : r.dropped = false) (ending : r.ending = false) (op : r.op < 5)
    (slot : r.slot < 16) (small : r.chunks < 2 ^ 64) (home : r.cc = true → EngineFinds s r.agent (addrAt r.cseg r.w3.toInt) true concord)
    (lost : r.status ≠ 0) (todo : r.todo = some left) :
    SameMemory s (s.runCopy r) ∧ CopyEnds s (s.runCopy r) r concord ((r.overAt.toList.map fun o => (0x04, 0x11, o.2)) ++ [(0x09, r.status, r.lostAt)])
      (ChunkBits r left fun _ => False) (statusOf true r.flags) := by
  have run : s.runCopy r = s.endCopy { r with fail := some (cPage, r.status, r.lostAt), status := 0 } := by
    rw [State.runCopy, if_neg (by simp [fail, dropped, ending]), if_pos (by simpa using lost)]
  obtain ⟨ends, mem, lines⟩ := endCopy_ends (r := { r with fail := some (cPage, r.status, r.lostAt), status := 0 }) (concord := concord) (.refl s) slot home
  rw [run]
  refine ⟨⟨fun a => by rw [State.byte, mem]; rfl, fun a => by rw [State.line, lines]; rfl⟩, ?_⟩
  rw [statusBits_eq, Option.isSome_some, Bool.or_true, Bool.true_or] at ends
  refine CopyEnds.mono (CopyEnds.of_fail ends) fun bits hb => ?_
  rw [hb]
  exact chunkBits_last (r := { r with fail := some (cPage, r.status, r.lostAt), status := 0 }) op small todo _ fun _ => id

/-- A request with units left goes on later, by free choice after an arrival part. -/
theorem pauseCopy_left {left : List Nat} (todo : r.todo = some left) (some_ : left ≠ []) : ∃ due, u.clk < due ∧
    (u.pauseCopy r = (u.drawn 2).keepCopy { r with due } ∨ u.pauseCopy r = (u.drawn 2).copyPart { r with due } left) := by
  refine ⟨u.clk + 1 + Config.latency u.draws, by omega, ?_⟩
  rw [State.pauseCopy, todo]
  simp only [Option.getD_some, List.isEmpty_iff, some_, if_false]
  split
  · exact .inr rfl
  · exact .inl rfl

/-- An arrival part carries the bytes written, where there are new ones (R229). -/
theorem copyPart_eq (op : r.op < 5) (other : r.op ≠ 2) (cc : r.cc = true) (target : u.engCell r.agent (addrAt r.cseg r.w3.toInt) true = (u, .ok concord))
    (j : Nat) : u.copyPart r [j] =
      let n := totalOf r - (unitOf r (fun _ => 0) j).n - r.sent
      let bits := r.chunksDone [j] &&& (2 ^ 64 - 1 - r.chunks)
      if n = 0 then u.keepCopy r else (u.keepCopy { r with sent := r.sent + n, chunks := r.chunks ||| bits }).sendArrival r concord n bits 0 := by
  rw [State.copyPart]
  simp only [List.foldl_cons, List.foldl_nil, other, if_false, r.unitDest_eq j op other, r.total_eq, cc, r.concordAt_eq, target, Nat.zero_add,
    Bool.not_true, Bool.false_or, decide_eq_true_eq]

/-- What a kept request's part has done: nothing, or it is on its way with the bytes and bits that no earlier one carried. -/
structure PartMade (s t : State) (r q : CopyReq) (concord j : Nat) : Prop where
  others : OthersSame s t r.core
  rest : t = { s with cores := t.cores, mem := t.mem, lines := t.lines, draws := t.draws, accesses := t.accesses, msgs := t.msgs
                      nextMsg := t.nextMsg, nextAcc := t.nextAcc }
  part : ∃ sent chunks, t.core r.core = { s.core r.core with copyBusy := (s.core r.core).copyBusy.map fun p =>
      if p.id = r.id then { q with sent, chunks } else p } ∧
    (sent = r.sent ∧ chunks = r.chunks ∧ t.accesses = s.accesses ∧ t.msgs = s.msgs ∧ t.nextMsg = s.nextMsg ∧ t.nextAcc = s.nextAcc ∨
      ∃ bits, ChunkBits r [j] (fun _ => False) bits ∧ sent = totalOf r - (unitOf r (fun _ => 0) j).n ∧ r.sent < sent ∧
        chunks = r.chunks ||| bits ∧ ArrivalSent s t r s.nextAcc concord (sent - r.sent) bits 0)

theorem partMade_kept (same : SameButMemory s u) (due j : Nat) : PartMade s (u.keepCopy { r with due }) r { r with due } concord j := by
  obtain ⟨others, core⟩ := keepCopy_core (r := r) { r with due } same rfl rfl
  refine ⟨others, by rw [keepCopy_frame, same], r.sent, r.chunks, core, .inl ⟨rfl, rfl, ?_⟩⟩
  rw [keepCopy_frame, same]
  exact ⟨rfl, rfl, rfl, rfl⟩

theorem partMade_sent (same : SameButMemory s u) (due : Nat) {bits n j : Nat} (carried : ChunkBits r [j] (fun _ => False) bits) (new : n ≠ 0)
    (size : n = totalOf r - (unitOf r (fun _ => 0) j).n - r.sent) :
    PartMade s ((u.keepCopy { r with due, sent := r.sent + n, chunks := r.chunks ||| bits }).sendArrival { r with due } concord n bits 0) r { r with due }
      concord j := by
  obtain ⟨others, core⟩ := keepCopy_core (r := r) { r with due, sent := r.sent + n, chunks := r.chunks ||| bits } same rfl rfl
  have frame := keepCopy_frame (u := u) { r with due, sent := r.sent + n, chunks := r.chunks ||| bits }
  generalize u.keepCopy { r with due, sent := r.sent + n, chunks := r.chunks ||| bits } = w at others core frame
  have rest : w = { s with cores := w.cores, mem := w.mem, lines := w.lines, draws := w.draws } := by rw [frame, same]
  have arrival : ArrivalSent w (w.sendArrival { r with due } concord n bits 0) r w.nextAcc concord n bits 0 := sendArrival_sent (r := { r with due }) ..
  obtain ⟨_, _, -, eq⟩ := sendArrival_eq (s := w) (r := { r with due }) concord n bits 0
  have next : w.nextAcc = s.nextAcc := by rw [rest]
  refine ⟨?_, ?_, r.sent + n, r.chunks ||| bits, ?_, .inr ⟨bits, carried, by omega, by omega, rfl, ?_⟩⟩
  · rw [eq]; exact others
  · rw [eq, rest]
  · rw [eq]; exact core
  · rw [Nat.add_sub_cancel_left, ← next]
    exact arrival.congr (by rw [rest]; rfl) (by rw [rest]) (by rw [rest]) (by rw [rest])

/-- A part of a request with one unit left. -/
theorem pauseCopy_part {j : Nat} (op : r.op < 5) (other : r.op ≠ 2) (small : r.chunks < 2 ^ 64) (cc : r.cc = true)
    (home : EngineFinds s r.agent (addrAt r.cseg r.w3.toInt) true concord) (same : SameButMemory s u) (todo : r.todo = some [j]) :
    ∃ due, s.clk < due ∧ PartMade s (u.pauseCopy r) r { r with due } concord j ∧ (u.pauseCopy r).mem = u.mem ∧ (u.pauseCopy r).lines = u.lines := by
  have clk : u.clk = s.clk := by rw [same]
  have drawn : SameButMemory s (u.drawn 2) := same.trans (drawn_same u 2)
  obtain ⟨due, later, kept | part⟩ := pauseCopy_left (u := u) todo (List.cons_ne_nil _ _)
  · refine ⟨due, clk ▸ later, ?_⟩
    rw [kept]
    exact ⟨partMade_kept drawn due j, rfl, rfl⟩
  · refine ⟨due, clk ▸ later, ?_⟩
    rw [part, copyPart_eq (r := { r with due }) op other cc (home _ drawn)]
    dsimp only
    split
    · exact ⟨partMade_kept drawn due j, rfl, rfl⟩
    · next new =>
      obtain ⟨_, _, -, eq⟩ := sendArrival_eq (s := (u.drawn 2).keepCopy _) (r := { r with due }) concord _ _ _
      refine ⟨partMade_sent drawn due (chunkBits_done op other small [j] _) new rfl, ?_⟩
      rw [eq]
      exact ⟨rfl, rfl⟩

end
end Sys2Proof.Machine

/-! A FILL with two units left (R220, R229). -/
namespace Sys2Proof.Machine

/-! ## A fill with two units left (R220, R229) -/

section
variable {s u : State} {r : CopyReq} {concord : Nat}

/-- A stored unit leaves other units plain. -/
theorem Plain.after_store {ag : Agent} {a n b m x : Nat} (plain : Plain s ag a n) (same : SameButMemory s u) (stored : Stored s u b m x) : Plain u ag a n := by
  obtain ⟨typed, line⟩ : ∃ typed, u.line a = { s.line a with typed } := by
    rw [stored.line a]
    split
    · exact ⟨false, rfl⟩
    · exact ⟨(s.line a).typed, rfl⟩
  have check : u.targetCheck ag.core ag.job .write a n = s.targetCheck ag.core ag.job .write a n := by
    have dead (sn : Nat) : u.isDead sn = s.isDead sn := by rw [same]; rfl
    have windows (sn off : Nat) : u.windowsAllow sn off .write = s.windowsAllow sn off .write := by rw [same]; rfl
    have bad : u.badBytes a n .write = s.badBytes a n .write := by rw [State.badBytes, State.badBytes, line]
    unfold State.targetCheck
    rw [line, dead, bad, windows]
  exact ⟨plain.space, plain.fits, by rw [line]; exact plain.sound, by rw [line]; exact plain.wiped, check.trans plain.pass⟩

/-- A fill has no index elements. -/
theorem unitOf_fill (op : r.op = 4) (k : Nat → Nat) (i : Nat) : unitOf r k i = unitOf r (fun _ => 0) i := by
  simp only [unitOf, op]

/-- What unit `i` of a fill writes. -/
def CopyReq.filled (r : CopyReq) (i : Nat) : Nat := (unitValue r (unitOf r (fun _ => 0) i) fun _ => 0).1

/-- Memory after unit `i` of a fill, at the cell that its address leads to. -/
def State.fillUnit (u : State) (r : CopyReq) (into : Nat → Nat) (i : Nat) : State := u.writePlain (into i) (unitOf r (fun _ => 0) i).n (r.filled i)

/-- The bytes of unit `i` of a fill have been stored, and nothing else has. -/
def CopyReq.Fills (r : CopyReq) (into : Nat → Nat) (i : Nat) (s t : State) : Prop := Stored s t (into i) (unitOf r (fun _ => 0) i).n (r.filled i)

/-- Unit `i` of a fill may be written plainly. -/
def CopyReq.Fillable (r : CopyReq) (into : Nat → Nat) (i : Nat) (s : State) : Prop := Plain s r.agent (into i) (unitOf r (fun _ => 0) i).n

theorem fillUnit_same (r : CopyReq) (into : Nat → Nat) (i : Nat) : SameButMemory u (u.fillUnit r into i) := .of (u.writePlain_frame _ _ _)

theorem CopyReq.Fillable.fills {into : Nat → Nat} {i : Nat} (plain : r.Fillable into i u) : r.Fills into i u (u.fillUnit r into i) :=
  u.writePlain_stored _ _ _ plain.sound plain.wiped

/-- One unit of a fill without fe. -/
theorem copyUnit_fill {i : Nat} {into : Nat → Nat} (op : r.op = 4) (fe : r.fe = false)
    (target : u.engCell r.agent (unitOf r (fun _ => 0) i).into true = (u, .ok (into i))) (plain : r.Fillable into i u) :
    u.copyUnit r i = (u.fillUnit r into i, r, .ok 0) := by
  have reads : (unitOf r (fun _ => 0) i).reads = [] := by simp [unitOf, op]
  have untyped (s : State) (from_ : Nat → Nat) : (unitOf r (fun _ => 0) i).typedFrom s from_ = false := by simp [CopyUnit.typedFrom, reads]
  have value (x : Nat → Nat) : unitValue r (unitOf r (fun _ => 0) i) x = (r.filled i, 0) := by simp [CopyReq.filled, unitValue, op]
  have none : r.indexed i = [] := r.indexed_none i (by omega)
  rw [copyUnit_found (from_ := fun _ => 0) (by omega) (by simp [CopyReq.Indexed, none]) (by omega) (by simp [Found, reads]) target,
    doMove_written rfl (by omega) (by omega) (by simp [Passes, reads]) plain, untyped, value, fe]
  rfl

/-- A made unit of a fill is no longer to be made; nothing else of the request has changed. -/
theorem after_fill {i : Nat} {left : List Nat} (op : r.op = 4) (todo : r.todo = some (i :: left)) : r.after i 0 = { r with todo := some left } := by
  have none : r.indexed i = [] := r.indexed_none i (by omega)
  rw [CopyReq.after]
  simp [none, op, todo]

theorem copyUnits_fill {i : Nat} {left rest : List Nat} {into : Nat → Nat} (op : r.op = 4) (fe : r.fe = false)
    (target : u.engCell r.agent (unitOf r (fun _ => 0) i).into true = (u, .ok (into i))) (plain : r.Fillable into i u) :
    u.copyUnits { r with todo := some (i :: left) } (i :: rest) = (u.fillUnit r into i).copyUnits { r with todo := some left } rest := by
  have made : u.copyUnit { r with todo := some (i :: left) } i = (u.fillUnit r into i, { r with todo := some (i :: left) }, .ok 0) :=
    copyUnit_fill (r := { r with todo := some (i :: left) }) op fe target plain
  rw [State.copyUnits, made]
  dsimp only
  rw [after_fill (r := { r with todo := some (i :: left) }) (left := left) op rfl]

/-- One or both of two units are taken, from either on. -/
theorem takeRound_two (i j : Nat) {p n : Nat} (hp : p < 2) (pos : 0 < n) (hn : n ≤ 2) : ∃ one other, [one, other] ∈ [[i, j], [j, i]] ∧
    one ∈ [i, j] ∧ other ∈ [i, j] ∧ (takeRound [i, j] p n = ([one], [other]) ∨ takeRound [i, j] p n = ([one, other], [])) := by
  have places : p = 0 ∨ p = 1 := by omega
  have counts : n = 1 ∨ n = 2 := by omega
  rcases places with rfl | rfl
  · exact ⟨i, j, by simp, by simp, by simp, by rcases counts with rfl | rfl <;> simp [takeRound]⟩
  · exact ⟨j, i, by simp, by simp, by simp, by rcases counts with rfl | rfl <;> simp [takeRound]⟩

/-- TWO UNITS of a fill are left: both are made, or one of them, with or without an arrival part. -/
theorem runCopy_fill_two {i j : Nat} {into : Nat → Nat} (fresh : r.Fresh) (slot : r.slot < 16) (op : r.op = 4) (small : r.chunks < 2 ^ 64) (cc : r.cc = true)
    (fe : r.fe = false) (under : r.overAt = none) (home : EngineFinds s r.agent (addrAt r.cseg r.w3.toInt) true concord) (todo : r.todo = some [i, j])
    (finds : ∀ y ∈ [i, j], EngineFinds s r.agent (unitOf r (fun _ => 0) y).into true (into y)) (plain : ∀ y ∈ [i, j], r.Fillable into y s) :
    (CopyEnds s (s.runCopy r) r concord [] (ChunkBits r [] fun _ => False) (statusOf false r.flags) ∧
      ∃ one other u, [one, other] ∈ [[i, j], [j, i]] ∧ r.Fills into one s u ∧ r.Fills into other u (s.runCopy r)) ∨
    ∃ one other due, [one, other] ∈ [[i, j], [j, i]] ∧ s.clk < due ∧ r.Fills into one s (s.runCopy r) ∧
      PartMade s (s.runCopy r) r { r with todo := some [other], due } concord other := by
  have other2 : r.op ≠ 2 := by omega
  have none (i : Nat) : r.Indexed (fun _ => 0) i := by simp [CopyReq.Indexed, r.indexed_none i (by omega)]
  obtain ⟨p, hp, n, pos, hn, run⟩ := runCopy_indexed (s := s) fresh todo (List.cons_ne_nil _ _) (fun y _ => none y) fun h => absurd h other2
  obtain ⟨one, other, order, mem1, mem2, took⟩ := takeRound_two i j hp pos hn
  have drawn := drawn_same s 4
  have first : r.Fillable into one (s.drawn 4) := have p := plain one mem1; ⟨p.space, p.fits, p.sound, p.wiped, p.pass⟩
  have stored : r.Fills into one s ((s.drawn 4).fillUnit r into one) := ⟨first.fills.byte, first.fills.line⟩
  have wrote : SameButMemory s ((s.drawn 4).fillUnit r into one) := drawn.trans (fillUnit_same r into one)
  rw [if_neg other2, State.makeUnits] at run
  rcases took with took | took <;> rw [took] at run
  · right
    rw [List.singleton_append, copyUnits_fill op fe (finds one mem1 _ drawn) first] at run
    replace run : s.runCopy r = ((s.drawn 4).fillUnit r into one).pauseCopy { r with todo := some [other] } := run
    obtain ⟨due, later, ⟨others, rest, part⟩, mem, lines⟩ := pauseCopy_part (r := { r with todo := some [other] }) (j := other)
      (by exact op.trans_lt (by decide)) other2 small cc home wrote rfl
    rw [run]
    exact ⟨one, other, due, order, later,
      ⟨fun a => by rw [State.byte, mem]; exact stored.byte a, fun a => by rw [State.line, lines]; exact stored.line a⟩, others, rest, part⟩
  · left
    have second : r.Fillable into other ((s.drawn 4).fillUnit r into one) := (plain other mem2).after_store wrote stored
    rw [List.append_nil, copyUnits_fill op fe (finds one mem1 _ drawn) first, copyUnits_fill op fe (finds other mem2 _ wrote) second] at run
    replace run : s.runCopy r = (((s.drawn 4).fillUnit r into one).fillUnit r into other).endCopy { r with todo := some [] } := run
    obtain ⟨ends, mem, lines⟩ := endCopy_ends (r := { r with todo := some [] }) (concord := concord)
      (wrote.trans (fillUnit_same r into other)) slot fun _ => home
    have faults : ({ r with todo := some [] } : CopyReq).faults = [] := by simp [CopyReq.faults, under, fresh.fail]
    have err : (r.overAt.isSome || r.fail.isSome || r.dropped) = false := by simp [under, fresh.fail, fresh.dropped]
    rw [faults, statusBits_eq, err] at ends
    rw [run]
    refine ⟨CopyEnds.mono ends fun bits hb => ?_, one, other, _, order, stored,
      fun a => by rw [State.byte, mem]; exact second.fills.byte a, fun a => by rw [State.line, lines]; exact second.fills.line a⟩
    rw [hb]
    exact chunkBits_last (r := { r with todo := some [] }) (by exact op.trans_lt (by decide)) small rfl _ fun _ => id

end
end Sys2Proof.Machine

/-! COPY OPERATIONS: what the lemmas above say of every request. -/
namespace Sys2Proof.Machine

/-! ## The statement (R215 to R222, R228, R229) -/

/-- The operation of a request that may be carried out now. -/
theorem exec_copy {s : State} {r : CopyReq} {x : Instr × Nat} (hx : x ∈ [(Instr.copy, 0), (.gather, 1), (.scatter, 2), (.convert, 3), (.fill, 4)])
    (found : ((s.core s.ev.core).copyBusy.find? fun q => q.id == s.ev.id) = some r) (ready : (s.core s.ev.core).copyReady s.clk r = true)
    (op : r.op = x.2) : exec x.1 s = .next (s.runCopy r) := by
  have event : exec x.1 s = s.copyEvent x.2 := by
    simp only [List.mem_cons, List.not_mem_nil, or_false] at hx
    rcases hx with rfl | rfl | rfl | rfl | rfl <;> rfl
  rw [event, State.copyEvent]
  simp only [found, op, ready, decide_true, Bool.and_self, if_true]

/-- Settles O32: the last unit made (`runCopy_made`), beyond the limit, refused, astray or without its page; the abandoned request; and the fill with
two units left. -/
theorem copyOperations : Obligations.CopyOperations := by
  rintro ⟨ins, code⟩ hx r k concord s c found ready core slot op fail dropped ending small types home
  have run := exec_copy hx found ready op
  have five : code < 5 := by simp only [List.mem_cons, Prod.mk.injEq, List.not_mem_nil, or_false] at hx; omega
  dsimp only at op
  subst op
  intro es checked told elems indexed beyond overAt finds sound plain
  have readIndexed (i : Nat) (h : indexed i) : r.Indexed k i := by
    intro e he
    by_cases indexes : r.op = 1 ∨ r.op = 2
    · rw [r.indexed_eq i indexes] at he
      rw [CopyReq.index, h indexes e he]
      rfl
    · simp [r.indexed_none i indexes] at he
  refine ⟨fun i into from_ left status read => ?_, fun left lost todo => ?_, fun i j into fill todo ne status cc fe under cells => ?_⟩
  · have last : LastUnit s r k concord i := ⟨⟨fail, dropped, ending, status⟩, slot, five, small, types, home, left, readIndexed i read⟩
    intro u value now_ first outside
    refine ⟨fun cells inside passes free idle => ?_, fun scatter out => ?_, fun cause detail at_ inside error refused => ?_,
      fun reason inside pieces page => ?_⟩
    · obtain ⟨space, fits, clean, wiped, pass⟩ := free
      exact ⟨_, run, runCopy_made last cells.1 cells.2 inside passes ⟨space, fits, clean, wiped, pass⟩ idle⟩
    · exact ⟨_, run, runCopy_beyond last scatter out⟩
    · refine ⟨_, run, runCopy_failed last ?_⟩
      have drawn := drawn_same s 4
      rcases refused with ⟨cells, passes, rfl, check⟩ | ⟨cells, ⟨n, rest, reads, check⟩⟩ | ⟨pieces, rfl, astray⟩
      · rw [copyUnit_found five last.read (beyond_none inside) (found_of_finds cells.1 _ drawn) (cells.2 _ drawn),
          doMove_refused (s := s.drawn 4) _ passes check error]
      · rw [copyUnit_found five last.read (beyond_none inside) (found_of_finds cells.1 _ drawn) (cells.2 _ drawn),
          doMove_unread (s := s.drawn 4) _ reads check error]
      · exact copyUnit_astray five last.read (beyond_none inside) (found_of_finds (from_ := from_) pieces _ drawn) (astray _ drawn)
    · have drawn := drawn_same s 4
      have waits := runCopy_page last (copyUnit_astray five last.read (beyond_none inside) (found_of_finds (from_ := from_) pieces _ drawn) (page _ drawn))
      obtain ⟨others, kept⟩ := keepCopy_core (r := r) { r with blocked := some u.into } drawn rfl rfl
      refine ⟨_, run, ?_, ?_, ?_, ?_⟩
      · rw [waits]
        rfl
      · rw [waits]
        exact others
      · rw [waits]
        refine kept.trans ?_
        rw [core]
      · rw [waits]
        rfl
  · exact ⟨_, run, runCopy_lost fail dropped ending five slot small home lost todo⟩
  · replace fill : r.op = 4 := fill
    replace run : exec .fill s = .next (s.runCopy r) := exec_copy (x := (.fill, 4)) (by simp) found ready fill
    have same := unitOf_fill fill k
    have unit (y : Nat) (hy : y ∈ [i, j]) : EngineFinds s r.agent (unitOf r (fun _ => 0) y).into true (into y) ∧ r.Fillable into y s := by
      obtain ⟨finds, space, fits, clean, wiped, pass⟩ := same y ▸ cells y hy
      exact ⟨finds, space, fits, clean, wiped, pass⟩
    intro value
    refine ⟨_, run, ?_⟩
    simp only [value, same]
    rcases runCopy_fill_two ⟨fail, dropped, ending, status⟩ slot fill small cc fe under (home cc) todo (fun y hy => (unit y hy).1) fun y hy => (unit y hy).2
      with ends | ⟨one, other, due, order, later, stored, others, rest, part⟩
    · exact .inl ends
    · obtain ⟨sent, chunks, kept, part⟩ := part
      exact .inr ⟨one, other, due, order, later, stored, others, rest, sent, chunks, kept.trans (by rw [core]), part⟩

end Sys2Proof.Machine
